-- ==== Sys2Proof/Word.lean ====
section
/-! DEFINITION. The word types of the Qorley Q9 and the sparse map in which files of registers and memories are held. -/

namespace Sys2Proof

/-- A word is 8 bytes (R5). -/
abbrev Word := BitVec 64

/-- The smallest addressable unit (R4). -/
abbrev Byte := BitVec 8

/-- A 2,048-bit vector register (R59). -/
abbrev VWord := BitVec 2048

/-- A 256-bit lane mask (R59). -/
abbrev KWord := BitVec 256

/-- The five sticky flags in the bit order of FLAGS: FNV 0, FOF 1, FUF 2, FNX 3, ISAT 4 (R64). -/
abbrev FlagBits := BitVec 5

/-- A sparse file or memory: the entries that differ from the default of the file, in rising key order. -/
abbrev SMap (α : Type) := List (Nat × α)

end Sys2Proof
end

