-- ==== Sys2Proof/Machine/Bits.lean ====
section
/-! DEFINITION. Bit fields, sign extension and byte order (R4, R8): the helpers of the decoder and of the meanings. -/

namespace Sys2Proof

/-- Bits `[lo + n - 1 : lo]` of a number. -/
def bitsOf (lo n w : Nat) : Nat := w / 2 ^ lo % 2 ^ n

/-- Bit `i` of a number. -/
def bitOf (i w : Nat) : Bool := w.testBit i

/-- A field of `n` bits read as a two's-complement integer. -/
def sextNat (n w : Nat) : Int := if w % 2 ^ n < 2 ^ (n - 1) then (w % 2 ^ n : Nat) else ((w % 2 ^ n : Nat) : Int) - (2 ^ n : Nat)

/-- The field of `n` bits that holds an integer (its value modulo `2 ^ n`). -/
def fieldOf (n : Nat) (i : Int) : Nat := (i % ((2 ^ n : Nat) : Int)).toNat

/-- Fields, least significant first, as one number. Each entry is a width and a value. -/
def pack : List (Nat × Nat) → Nat
  | [] => 0
  | (n, v) :: r => v % 2 ^ n + 2 ^ n * pack r

/-- The fields of the given widths, least significant first. -/
def unpack : List Nat → Nat → List Nat
  | [], _ => []
  | n :: r, w => w % 2 ^ n :: unpack r (w / 2 ^ n)

/-- Little-endian bytes of a number (R4). -/
def leBytes : Nat → Nat → List Byte
  | 0, _ => []
  | n + 1, w => BitVec.ofNat 8 w :: leBytes n (w / 256)

/-- The number whose little-endian bytes are given (R4). -/
def leNat : List Byte → Nat
  | [] => 0
  | b :: r => b.toNat + 256 * leNat r

def boolNat (b : Bool) : Nat := if b then 1 else 0

/-- A word holding a truth value. -/
def wordOf (n : Nat) : Word := BitVec.ofNat 64 n

/-- A 64-bit word of an integer, modulo 2^64 (R8). -/
def wordOfInt (i : Int) : Word := BitVec.ofInt 64 i

/-- Saturating increment of a counter of `n` bits. -/
def satAdd (n a b : Nat) : Nat := Nat.min (a + b) (2 ^ n - 1)

/-- Replace the bits `[lo + n - 1 : lo]` of a word of any width. -/
def insField {w : Nat} (x : BitVec w) (lo n : Nat) (v : Nat) : BitVec w :=
  let m : BitVec w := (BitVec.ofNat w (2 ^ n - 1)) <<< lo
  (x &&& ~~~m) ||| (BitVec.ofNat w (v % 2 ^ n) <<< lo)

/-- Bits `[lo + n - 1 : lo]` of a word of any width, as a number. -/
def getField {w : Nat} (x : BitVec w) (lo n : Nat) : Nat := (x >>> lo).toNat % 2 ^ n

/-- The bits of a mask. -/
def keepBits (w : Word) (l : List (Nat × Nat)) : Word := l.foldl (fun r e => insField r e.1 e.2 (getField w e.1 e.2)) 0

/-- The fields of XROOT: its reserved bits are discarded (R6, R212). -/
def xrootBits (w : Word) : Word := keepBits w [(52, 12), (13, 35), (0, 1)]

/-- Ceiling of a division. -/
def ceilDiv (a b : Nat) : Nat := (a + b - 1) / b

end Sys2Proof
end

