-- ==== Sys2Proof/Machine/Flags.lean ====
section
/-! DEFINITION. The sticky flags in the bit order of FLAGS (R64), and the integer results that raise ISAT (R98, R106, R124, R240). -/

namespace Sys2Proof

def fnv : FlagBits := 1
def fof : FlagBits := 2
def fuf : FlagBits := 4
def fnx : FlagBits := 8
def isat : FlagBits := 16

/-- A flag when a condition holds. -/
def flagIf (b : Bool) (f : FlagBits) : FlagBits := if b then f else 0

/-- Signed quotient (R98). -/
def divS (a b : Word) : Word × FlagBits :=
  if b = 0 then (BitVec.allOnes 64, isat)
  else if a = BitVec.intMin 64 ∧ b = BitVec.allOnes 64 then (a, isat)
  else (BitVec.ofInt 64 (a.toInt.tdiv b.toInt), 0)

/-- Unsigned quotient (R98). -/
def divU (a b : Word) : Word × FlagBits := if b = 0 then (BitVec.allOnes 64, isat) else (a / b, 0)

/-- Signed remainder (R98). -/
def remS (a b : Word) : Word × FlagBits :=
  if b = 0 then (a, isat) else (BitVec.ofInt 64 (a.toInt.tmod b.toInt), 0)

/-- Unsigned remainder (R98). -/
def remU (a b : Word) : Word × FlagBits := if b = 0 then (a, isat) else (a % b, 0)

/-- KvSlot (R106), on a position and the packed descriptor. -/
def kvSlot (pos desc : Word) : Word × FlagBits :=
  let s := desc.toNat % 2 ^ 32
  let w := desc.toNat / 2 ^ 32
  let p := pos.toNat
  if p < s then (BitVec.ofNat 64 (2 ^ 63 + p), 0)
  else if w = 0 then (BitVec.allOnes 64, isat)
  else
    let gen := (p - s) / w
    let slot := (p - s) % w
    if 2 ^ 31 - 1 < gen then (BitVec.ofNat 64 ((2 ^ 31 - 1) * 2 ^ 32 + slot), isat)
    else (BitVec.ofNat 64 (gen * 2 ^ 32 + slot), 0)

end Sys2Proof
end

