-- ==== Sys2Proof/Syntax.lean ====
section
/-! DEFINITION. The whole syntax: coded fields, operand forms, every instruction of the opcode map and every event of the
table of operations and events (`spec/opcode_table.json`), one constructor a row. -/

namespace Sys2Proof

/-- Element types, the codes of `ty` and `ty2` (R57). -/
inductive Ty where
  | f32 | f16 | bf16 | i32 | i16 | i8 | ui8 | i64 | mxi8 | e4m3 | e5m2 | e2m3 | e2m1
  deriving DecidableEq, Repr

/-- Rounding modes, the codes of `md` (R57, R33). -/
inductive Rnd where
  | rne | rz | rup | rdn
  deriving DecidableEq, Repr

/-- Conditions, the codes of `cc` (R57). -/
inductive CC where
  | eq | ne | lt | le | gt | ge | ltu | leu | gtu | geu | ord | uno
  deriving DecidableEq, Repr

/-- Cache-policy hints (R57, R180). -/
inductive Hint where
  | normal | stream | keep | bypass
  deriving DecidableEq, Repr

/-- Order qualifiers (R57, R196). -/
inductive MemOrd where
  | rlx | acq | rel | ar
  deriving DecidableEq, Repr

/-- Scopes of a fence (R57, R194). -/
inductive Scope where
  | ctx | core | die | dev | sys
  deriving DecidableEq, Repr

/-- Patterns of `vshuf` (R130). -/
inductive Shuf where
  | ziplo | ziphi | evens | odds | rev | swap2
  deriving DecidableEq, Repr

/-- The operation of `vred` and `vscan` (R132). -/
inductive RedOp where
  | sum | min | max
  deriving DecidableEq, Repr

/-- Element width codes of `vldb` and `vstb` (R175). -/
inductive BlkW where
  | w8 | w6 | w4
  deriving DecidableEq, Repr

/-- The guard of a slot word: `GN` and `GP` (R52, R53). -/
structure Guard where
  neg : Bool
  pred : Nat
  deriving DecidableEq, Repr

/-- A MEM or AMO address: scratchpad (`sp`) or through handle `h`, base scalar `a`, displacement (R56). -/
structure Addr where
  sp : Bool
  h : Nat
  a : Nat
  disp : Int
  deriving DecidableEq, Repr

/-- The agent of a device-control register access: the host through BAR0, or a context through a tier-11 handle
(R15 point 1, R434). -/
inductive RegAgent where
  | host | device
  deriving DecidableEq, Repr

/-- A device-control block (R21). -/
inductive Block where
  | core (c : Nat)
  | io
  | hbm (stack : Nat)
  deriving DecidableEq, Repr

/-- A flit as the receiver sees it (R416, R418): whether its CRC is right, its sequence number, its virtual channel, the go/stop bits of its
header (one a channel), the number that its sender expects next, which acknowledges every flit before it (how an acknowledgement travels is
the model's choice: log entry 34), and its 240 payload bytes. -/
structure Flit where
  crcOk : Bool
  seqNo : Nat
  vc : Nat
  stop : Nat
  ack : Nat
  payload : List Byte
  deriving DecidableEq, Repr

/-- An executor: of a vault or of an HBM stack (R394). -/
inductive ExecId where
  | vault (v : Nat)
  | hbm (stack : Nat)
  deriving DecidableEq, Repr

/-- The instructions and the events. Register operands are numbers as the slot word names them; immediates and displacements are
the integers their fields stand for. Events carry the unit they happen at, or the datum that arrives from outside the device. -/
inductive Instr where
  -- S slot, integer ALU (R97 to R99)
  | add (d a b : Nat)
  | sub (d a b : Nat)
  | mul (d a b : Nat)
  | mulh (d a b : Nat)
  | mulhu (d a b : Nat)
  | div (d a b : Nat)
  | divu (d a b : Nat)
  | rem (d a b : Nat)
  | remu (d a b : Nat)
  | min (d a b : Nat)
  | max (d a b : Nat)
  | minu (d a b : Nat)
  | maxu (d a b : Nat)
  | and (d a b : Nat)
  | or (d a b : Nat)
  | xor (d a b : Nat)
  | andn (d a b : Nat)
  | shl (d a b : Nat)
  | shr (d a b : Nat)
  | sra (d a b : Nat)
  | rotl (d a b : Nat)
  | clz (d a : Nat)
  | ctz (d a : Nat)
  | popc (d a : Nat)
  | bext (d a pos len : Nat)
  | bins (d a b pos len : Nat)
  | sext (d a w : Nat)
  -- compares, predicates, select (R100 to R102)
  | cmp (cc : CC) (d a b : Nat)
  | pand (d a b : Nat)
  | por (d a b : Nat)
  | pxor (d a b : Nat)
  | pandn (d a b : Nat)
  | sel (d c a b : Nat)
  | hmix (d a b : Nat)
  | kvslot (d a b : Nat)
  -- immediates (R103, R104)
  | addi (d a : Nat) (imm : Int)
  | andi (d a : Nat) (imm : Int)
  | ori (d a : Nat) (imm : Int)
  | xori (d a : Nat) (imm : Int)
  | shli (d a n : Nat)
  | shri (d a n : Nat)
  | srai (d a n : Nat)
  | cmpi (cc : CC) (d a : Nat) (imm : Int)
  | lih (d imm : Nat)
  | lim (d : Nat) (imm : Int)
  -- control registers (R107)
  | ctlr (d num : Nat)
  | ctlw (num a : Nat)
  -- branches (R109)
  | br (off : Int)
  | brr (a : Nat)
  | call (off : Int)
  | callr (a : Nat)
  | loop (off : Int)
  | chk (av : Bool) (a : Nat) (off : Int)
  -- V slots (R118)
  | vadd (ty : Ty) (md : Rnd) (d a b k : Nat)
  | vsub (ty : Ty) (md : Rnd) (d a b k : Nat)
  | vmul (ty : Ty) (md : Rnd) (d a b k : Nat)
  | vfma (ty : Ty) (md : Rnd) (d a b c k : Nat)
  | vfms (ty : Ty) (md : Rnd) (d a b c k : Nat)
  | vfnma (ty : Ty) (md : Rnd) (d a b c k : Nat)
  | vmin (ty : Ty) (d a b k : Nat)
  | vmax (ty : Ty) (d a b k : Nat)
  | vabs (ty : Ty) (d a k : Nat)
  | vneg (ty : Ty) (d a k : Nat)
  | vand (ty : Ty) (d a b k : Nat)
  | vor (ty : Ty) (d a b k : Nat)
  | vxor (ty : Ty) (d a b k : Nat)
  | vshl (ty : Ty) (d a b k : Nat)
  | vshr (ty : Ty) (d a b k : Nat)
  | vsra (ty : Ty) (d a b k : Nat)
  | vaddsat (ty : Ty) (d a b k : Nat)
  | vsubsat (ty : Ty) (d a b k : Nat)
  | vclamp (ty : Ty) (d a b c k : Nat)
  | vexp2 (ty : Ty) (d a k : Nat)
  | vlog2 (ty : Ty) (d a k : Nat)
  | vrcp (ty : Ty) (d a k : Nat)
  | vrsq (ty : Ty) (d a k : Nat)
  | vcmp (cc : CC) (ty : Ty) (d a b k : Nat)
  | kand (d a b : Nat)
  | kor (d a b : Nat)
  | kxor (d a b : Nat)
  | knot (d a : Nat)
  | kpop (ty : Ty) (d a : Nat)
  | vsel (ty : Ty) (d a b k : Nat)
  | vbcast (ty : Ty) (d a k : Nat)
  | vperm (ty : Ty) (d a b k : Nat)
  | vshuf (ty : Ty) (pat : Shuf) (d a b k : Nat)
  | vrot (ty : Ty) (d a n k : Nat)
  | viota (ty : Ty) (d a k : Nat)
  | vins (ty : Ty) (d a lane : Nat)
  | vext (ty : Ty) (d a lane : Nat)
  | vmov (ty : Ty) (d a k : Nat)
  | vred (ty : Ty) (op : RedOp) (d a k : Nat)
  | vscan (ty : Ty) (op : RedOp) (d a k : Nat)
  | vcvt (ty ty2 : Ty) (md : Rnd) (d a part k : Nat)
  | vmxq (ty2 : Ty) (md : Rnd) (d c a part : Nat)
  | vmxdq (ty2 : Ty) (d a c part : Nat)
  -- M slot (R144)
  | talloc (t a : Nat) (pl : Bool)
  | tfree (t : Nat) (pl : Bool)
  | tzero (t : Nat) (anchor : Int)
  | tanchor (t : Nat) (anchor : Int)
  | tload (ty : Ty) (a b : Nat)
  | tmm (ty : Ty) (t : Nat) (va : Bool) (a b n row0 : Nat)
  | tdrain (ty : Ty) (md : Rnd) (t a row : Nat) (zr : Bool)
  | tstat (t a : Nat)
  | tprog (t a w : Nat)
  | tclr (t : Nat)
  -- L slot (R172)
  | ld (sz : Nat) (ord : MemOrd) (hint : Hint) (d : Nat) (ad : Addr)
  | ldS (sz : Nat) (hint : Hint) (d : Nat) (ad : Addr)
  | vld (hint : Hint) (d : Nat) (ad : Addr) (k : Nat)
  | vldS (hint : Hint) (d : Nat) (ad : Addr) (k : Nat)
  | ldro (sz : Nat) (hint : Hint) (d : Nat) (ad : Addr)
  | vldro (hint : Hint) (d : Nat) (ad : Addr) (k : Nat)
  | vldb (w : BlkW) (hint : Hint) (d : Nat) (ad : Addr) (part : Nat)
  | ldx (ord : MemOrd) (hint : Hint) (d : Nat) (ad : Addr)
  | roinvAddr (h a : Nat) (disp : Int)
  -- T slot (R172, R181, R183)
  | st (sz : Nat) (ord : MemOrd) (hint : Hint) (d : Nat) (ad : Addr)
  | vst (hint : Hint) (d : Nat) (ad : Addr) (k : Nat)
  | vstb (w : BlkW) (hint : Hint) (d : Nat) (ad : Addr) (part : Nat)
  | stx (ord : MemOrd) (hint : Hint) (d : Nat) (ad : Addr)
  | send (vec : Bool) (ord : MemOrd) (d a : Nat) (disp : Int) (k : Nat)
  | amoAdd (sz : Nat) (ord : MemOrd) (hint : Hint) (d : Nat) (ad : Addr) (b : Nat)
  | amoMin (sz : Nat) (ord : MemOrd) (hint : Hint) (d : Nat) (ad : Addr) (b : Nat)
  | amoMax (sz : Nat) (ord : MemOrd) (hint : Hint) (d : Nat) (ad : Addr) (b : Nat)
  | amoMinu (sz : Nat) (ord : MemOrd) (hint : Hint) (d : Nat) (ad : Addr) (b : Nat)
  | amoMaxu (sz : Nat) (ord : MemOrd) (hint : Hint) (d : Nat) (ad : Addr) (b : Nat)
  | amoAnd (sz : Nat) (ord : MemOrd) (hint : Hint) (d : Nat) (ad : Addr) (b : Nat)
  | amoOr (sz : Nat) (ord : MemOrd) (hint : Hint) (d : Nat) (ad : Addr) (b : Nat)
  | amoXor (sz : Nat) (ord : MemOrd) (hint : Hint) (d : Nat) (ad : Addr) (b : Nat)
  | amoSwap (sz : Nat) (ord : MemOrd) (hint : Hint) (d : Nat) (ad : Addr) (b : Nat)
  | amoCas (sz : Nat) (ord : MemOrd) (hint : Hint) (d : Nat) (ad : Addr) (b c : Nat)
  | amoFadd (ty : Ty) (ord : MemOrd) (hint : Hint) (d : Nat) (ad : Addr) (b : Nat)
  -- E slot (R232, R217, R396, R273, R294, R351)
  | push (q a pd : Nat)
  | xlat (h a intent : Nat)
  | xlatS (h a intent : Nat)
  | hinfo (b h word : Nat)
  | hrel (h : Nat)
  | tlbinv (pd a b mode : Nat) (dev : Bool)
  | pgmig (a b : Nat)
  | rcall (y h a fn smask : Nat) (rel : Bool) (nx xa xb : Nat)
  | cpwm (pd q a b : Nat)
  | cpwmq (b q : Nat)
  | cpprog (b q sel : Nat)
  | xbswap (pd a : Nat)
  | xbstat (b a sel : Nat)
  | xbretire (pd a : Nat)
  | xbremap (pd a b : Nat)
  | xbcfg (pd a b : Nat)
  | xbcolCoef (b a : Nat)
  | xbcolClip (b a : Nat)
  | xbcolSet (pd a b : Nat)
  | xbcolClipclr (b a : Nat)
  | klaunch (pd a lq : Nat)
  -- Y slot (R240, R193, R194, R358, R382, R410, R411, R321, R331, R327, R351)
  | semwait (n thr : Nat) (ord : MemOrd) (dec : Bool)
  | semsig (n inc : Nat) (ord : MemOrd)
  | semset (n a : Nat) (ord : MemOrd)
  | semget (n a : Nat) (ord : MemOrd)
  | semtry (n thr pd : Nat) (ord : MemOrd) (dec : Bool)
  | qlevel (n min a pd : Nat)
  | fence (sc : Scope)
  | bsync (n : Nat)
  | barrive (n : Nat)
  | bwait (n pd : Nat)
  | bstat (n a : Nat)
  | bpost (a pd : Nat)
  | bread (ord : MemOrd) (a sel : Nat)
  | domset (n a : Nat)
  | domget (n a sel : Nat)
  | gcancel (a : Nat)
  | rwait (ord : MemOrd) (y d pd : Nat) (trap : Bool)
  | rpoll (y a pd : Nat)
  | trap (code : Nat)
  | syscall (code : Nat)
  | brk (code : Nat)
  | step (pd a : Nat)
  | wset (n a kinds dsel : Nat)
  | wclr (n : Nat)
  | ctxfrz (pd a : Nat)
  | ctxrun (pd a : Nat)
  | kfail (retry : Bool)
  | kbudget (a : Nat)
  -- every slot (R70): opcode in 0x3C0 to 0x3FF less 0x3C0, destination, the other operand bits as they stand
  | vendorDiagnostic (opc d rest : Nat)
  -- events of a context and of the issue unit
  | contextUnblock (c x : Nat)
  | resultLand (grp : Nat)
  | trapEntry (c x : Nat)
  | accessPerform (id : Nat)
  | guidonArrive (c x : Nat)
  -- pages
  | walkComplete (id : Nat)
  | walkBusyRestart (id : Nat)
  | revocationComplete (id : Nat)
  | pgmigMove (id : Nat)
  -- matrix unit
  | tileRowEnter (c : Nat)
  | tileRowApply (c : Nat)
  | tloadComplete (c : Nat)
  | tswapTakeEffect (c : Nat)
  -- queues, copies and crossbars
  | semaphoreGrant (c : Nat)
  | copyCommand (c q : Nat)
  | copyItem (c q id : Nat)
  | xbprog (c q : Nat)
  | xbprogRow (c q id : Nat)
  | xbverify (c q : Nat)
  | xbcal (c q : Nat)
  | xbprobe (c q : Nat)
  | xbmvm (c q : Nat)
  | xbmvmVectorDelivery (c q id : Nat)
  | xbswapTakeEffect (c arr : Nat)
  | xbretireTakeEffect (c arr : Nat)
  | vaultExecutorCommand (c : Nat)
  | hostNotifyCommand (c : Nat)
  | commandEnd (c q id : Nat)
  -- calls
  | callMessageArrive (id : Nat)
  | callStart (e : ExecId)
  | remoteCallWord (e : ExecId) (slot : Nat)
  | callWordLimit (e : ExecId) (slot : Nat)
  | callReplyArrive (id : Nat)
  | completionNoticeSend (id : Nat)
  | completionNoticeArrive (id : Nat)
  | callDeadline (c x y : Nat)
  -- barriers and groups
  | barrierArrivalCounted (id : Nat)
  | barrierRelease (id : Nat)
  | barrierReleaseArrive (id : Nat)
  | ballotPostArrive (id : Nat)
  | gcancelRequestArrive (id : Nat)
  | endNoticeArrive (id : Nat)
  | pennantArrive (c x : Nat)
  | cancellationStop (c x : Nat)
  | graceExpiry (c x : Nat)
  | groupReclaim (slot sib : Nat)
  | ballotSlotFree (slot : Nat)
  -- launches
  | launchRecordWrite (off size : Nat) (words : List Word)
  | preload (c lq seq : Nat)
  | taskSave (t : Nat)
  | taskResume (t : Nat)
  | budgetExpiry (t : Nat)
  | taskEnd (t : Nat)
  | registerWrite (agent : RegAgent) (blk : Block) (off : Nat) (val : Word)
  | hostMemoryAccess (write : Bool) (off n : Nat) (data : List Byte)
  -- halyards
  | halyardSteer (c n : Nat)
  | halyardFailure (c n : Nat)
  | quiescePoint (c : Nat)
  -- links
  | linkTrainingDone (l lanes chip : Nat)
  | flitReceive (l : Nat) (f : Flit)
  -- management
  | monitorSample (n x : Nat)
  | thermalTrip (point code : Nat)
  | freezeArrive (c x : Nat)
  -- events that only a register write or a sensor causes: Lean compiles at most 244 constructors with fields to data, so these stand
  -- last of those, and the constructors without operands after them
  | capWindow (avg : Nat)
  | ctxctlResume (c x : Nat)
  | ctxctlKill (c x : Nat)
  | halyardErrorRateHigh (c n : Nat)
  | halyardRateWindow (c n : Nat)
  | halyardRetire (c n : Nat)
  | linkEnable (l : Nat)
  | linkDisable (l : Nat)
  | linkTrainingTimeout (l : Nat)
  | laneFault (l lane : Nat)
  | linkRepair (l : Nat)
  -- instructions and events without operands
  | nop
  | ret
  | tswap
  | roinvAll
  | drain
  | ccp
  | handlerReturn
  | rte
  | kdone
  | upcall
  | launchRecordAccept
  | dispatch
  | completionRecordWrite
  | monctlStart
  | mailboxPower
  | mailboxCap
  | mailboxAttest
  | mailboxVerify
  | mailboxResetDevice
  | mailboxResetCore
  | mailboxFwload
  | mailboxInvalidOp
  | thermalTripRelease
  | powerUp
  | mailboxCommandDone
  deriving DecidableEq, Repr

end Sys2Proof
end

