-- ==== Sys2Proof/WellFormed.lean ====
section
/-! DEFINITION. Which instructions are well-formed: the operand ranges and code combinations that do not depend on the state of
a context (R55 to R58 and the field tables of the chapters). What depends on the state (a tile beyond the declared count, a
privileged opcode) is checked when the bundle is decoded in a context. -/

namespace Sys2Proof

/-- Lane width in bits of the seven lane types, 0 for the others (R114). -/
def Ty.laneBits : Ty → Nat
  | .f32 | .i32 => 32
  | .f16 | .bf16 | .i16 => 16
  | .i8 | .ui8 => 8
  | _ => 0

/-- Number of lanes of a vector register in a lane type (R114). -/
def Ty.lanes : Ty → Nat
  | .f32 | .i32 => 64
  | .f16 | .bf16 | .i16 => 128
  | .i8 | .ui8 => 256
  | _ => 0

/-- The floating lane types, `F` of R114. -/
def Ty.isF : Ty → Bool
  | .f32 | .f16 | .bf16 => true
  | _ => false

/-- The integer lane types, `I` of R114. -/
def Ty.isI : Ty → Bool
  | .i32 | .i16 | .i8 | .ui8 => true
  | _ => false

/-- The MX element formats, codes 0x8 to 0xC. -/
def Ty.isMx : Ty → Bool
  | .mxi8 | .e4m3 | .e5m2 | .e2m3 | .e2m1 => true
  | _ => false

/-- The four floating MX element formats (R41). -/
def Ty.isMxF : Ty → Bool
  | .e4m3 | .e5m2 | .e2m3 | .e2m1 => true
  | _ => false

/-- A lane type (R114). -/
def Ty.isLane (t : Ty) : Bool := t.isF || t.isI

/-- Element width in bits of every format (R30, R36, R134). -/
def Ty.bits : Ty → Nat
  | .f32 | .i32 => 32
  | .f16 | .bf16 | .i16 => 16
  | .i8 | .ui8 | .mxi8 | .e4m3 | .e5m2 => 8
  | .i64 => 64
  | .e2m3 => 6
  | .e2m1 => 4

/-- The conversion pairs of R135. -/
def cvtPair (a b : Ty) : Bool :=
  a != b &&
    ((a.isLane && b.isLane) || (a == .f32 && b.isMxF) || (a.isMxF && b == .f32))

/-- Parts of a register in a `vcvt` of widths `ws` and `wd` (R134). -/
def cvtParts (ws wd : Nat) : Nat := 2048 / (2048 / Nat.max ws wd * Nat.min ws wd)

/-- Parts of a register that holds 64-element blocks of element width `w` (R136, R175). -/
def blockParts (w : Nat) : Nat := 2048 / (64 * w)

def BlkW.bits : BlkW → Nat
  | .w8 => 8
  | .w6 => 6
  | .w4 => 4

/-- A domain selector of R352: a custom domain or one of the four fixed levels. -/
def domSel (n : Nat) : Bool := n < 64 || (0x80 ≤ n && n ≤ 0x83)

/-- A signed field of `n` bits accepts the value (R73). -/
def fitsS (n : Nat) (i : Int) : Bool := -(2 ^ (n - 1) : Int) ≤ i && i < (2 ^ (n - 1) : Int)

def isS (n : Nat) : Bool := n < 64
def isV (n : Nat) : Bool := n < 64
def isP (n : Nat) : Bool := n < 16
def isK (n : Nat) : Bool := n < 8
def isH (n : Nat) : Bool := n < 16

def Guard.wf (g : Guard) : Bool := isP g.pred && !(g.neg && g.pred == 0)

/-- A MEM or AMO address with its hint (R56, R172). -/
def Addr.wf (bits : Nat) (h : Hint) (ad : Addr) : Bool :=
  isH ad.h && isS ad.a && fitsS bits ad.disp && (!ad.sp || (ad.h == 0 && h == .normal))

def isSz (n : Nat) : Bool := n == 1 || n == 2 || n == 4 || n == 8

def MemOrd.isLoad (o : MemOrd) : Bool := o == .rlx || o == .acq
def MemOrd.isStore (o : MemOrd) : Bool := o == .rlx || o == .rel

/-- A control-register number is assigned (R62). -/
def ctlNum (n : Nat) : Bool := n ≤ 0x15

/-- Conditions a compare of a lane type accepts (R127). -/
def ccVec (t : Ty) : CC → Bool
  | .eq | .ne | .lt | .le | .gt | .ge => true
  | .ltu | .leu | .gtu | .geu => t.isI
  | .ord | .uno => t.isF

/-- Conditions of `cmp` and `cmpi` (R100). -/
def ccScalar : CC → Bool
  | .ord | .uno => false
  | _ => true

/-- A selection of `bread` (R380). -/
def breadSel (n : Nat) : Bool := n ≤ 7 || (16 ≤ n && n < 48)

/-- Rounding mode with an integer lane type must be RNE (R118). -/
def mdOk (t : Ty) (m : Rnd) : Bool := t.isF || m == .rne

def dab (d a b : Nat) : Bool := isS d && isS a && isS b
def ppp (d a b : Nat) : Bool := isP d && isP a && isP b
def vabk (d a b k : Nat) : Bool := isV d && isV a && isV b && isK k

/-- The well-formed instructions and events. -/
def Instr.wf : Instr → Bool
  | .nop => true
  | .add d a b | .sub d a b | .mul d a b | .mulh d a b | .mulhu d a b | .div d a b | .divu d a b | .rem d a b
  | .remu d a b | .min d a b | .max d a b | .minu d a b | .maxu d a b | .and d a b | .or d a b | .xor d a b
  | .andn d a b | .shl d a b | .shr d a b | .sra d a b | .rotl d a b | .hmix d a b | .kvslot d a b => dab d a b
  | .clz d a | .ctz d a | .popc d a => isS d && isS a
  | .bext d a pos len => isS d && isS a && pos < 64 && 1 ≤ len && pos + len ≤ 64
  | .bins d a b pos len => dab d a b && pos < 64 && 1 ≤ len && pos + len ≤ 64
  | .sext d a w => isS d && isS a && 1 ≤ w && w ≤ 64
  | .cmp cc d a b => isP d && isS a && isS b && ccScalar cc
  | .pand d a b | .por d a b | .pxor d a b | .pandn d a b => ppp d a b
  | .sel d c a b => dab d a b && isP c
  | .addi d a i | .andi d a i | .ori d a i | .xori d a i => isS d && isS a && fitsS 33 i
  | .shli d a n | .shri d a n | .srai d a n => isS d && isS a && n < 64
  | .cmpi cc d a i => isP d && isS a && ccScalar cc && fitsS 33 i
  | .lih d i => isS d && i < 65536
  | .lim d i => isS d && fitsS 48 i
  | .ctlr d n => isS d && ctlNum n
  | .ctlw n a => isS a && ctlNum n
  | .br o | .call o | .loop o => fitsS 16 o
  | .brr a | .callr a => isS a
  | .ret => true
  | .chk _ a o => isS a && fitsS 16 o
  | .vadd t m d a b k | .vsub t m d a b k | .vmul t m d a b k => t.isLane && mdOk t m && vabk d a b k
  | .vfma t _ d a b c k | .vfms t _ d a b c k | .vfnma t _ d a b c k => t.isF && vabk d a b k && isV c
  | .vmin t d a b k | .vmax t d a b k | .vand t d a b k | .vor t d a b k | .vxor t d a b k
  | .vperm t d a b k | .vsel t d a b k => t.isLane && vabk d a b k
  | .vabs t d a k | .vmov t d a k => t.isLane && isV d && isV a && isK k
  | .vneg t d a k => t.isLane && t != .ui8 && isV d && isV a && isK k
  | .vshl t d a b k | .vshr t d a b k | .vsra t d a b k | .vaddsat t d a b k | .vsubsat t d a b k =>
    t.isI && vabk d a b k
  | .vclamp t d a b c k => t.isLane && vabk d a b k && isV c
  | .vexp2 t d a k | .vlog2 t d a k | .vrcp t d a k | .vrsq t d a k => t.isF && isV d && isV a && isK k
  | .vcmp cc t d a b k => t.isLane && ccVec t cc && isK d && isV a && isV b && isK k
  | .kand d a b | .kor d a b | .kxor d a b => isK d && isK a && isK b
  | .knot d a => isK d && isK a
  | .kpop t d a => t.isLane && isS d && isK a
  | .vbcast t d a k => t.isLane && isV d && isS a && isK k
  | .vshuf t p d a b k => t.isLane && vabk d a b k && ((p != .rev && p != .swap2) || b == 0)
  | .vrot t d a n k => t.isLane && isV d && isV a && isK k && n < t.lanes
  | .viota t d a k => t.isI && isV d && isS a && isK k
  | .vins t d a l => t.isLane && isV d && isS a && l < t.lanes
  | .vext t d a l => t.isLane && isS d && isV a && l < t.lanes
  | .vred t _ d a k | .vscan t _ d a k => t.isLane && isV d && isV a && isK k
  | .vcvt t t2 _ d a p k => cvtPair t t2 && isV d && isV a && isK k && p < 8 && p < cvtParts t.bits t2.bits
  | .vmxq t2 _ d c a p => t2.isMx && isV d && isS c && isV a && p < blockParts t2.bits
  | .vmxdq t2 d a c p => t2.isMx && isV d && isV a && isS c && p < blockParts t2.bits
  | .talloc t a _ => t < 8 && isS a
  | .tfree t _ => t < 8
  | .tzero t an | .tanchor t an => t < 8 && fitsS 16 an
  | .tload ty a b => ty.isMx && isS a && isS b
  | .tswap => true
  | .tmm ty t va a b n r =>
    ty.isMx && t < 8 && isS a && isS b && 1 ≤ n && n ≤ 64 && r + n ≤ 64 && (!va || (b == 0 && a + n ≤ 64))
  | .tdrain ty _ t a row _ =>
    (ty.isF || ty == .i32) && t < 8 && isV a && row < 64 && (ty == .f32 || ty == .i32 || row % 2 == 0)
  | .tstat t a => t < 8 && isS a
  | .tprog t a w => t < 8 && isS a && w < 2
  | .tclr t => t < 8
  | .ld sz o h d ad => isSz sz && o.isLoad && isS d && ad.wf 22 h
  | .ldS sz h d ad | .ldro sz h d ad => isSz sz && isS d && ad.wf 22 h
  | .vld h d ad k | .vldS h d ad k | .vldro h d ad k | .vst h d ad k => isV d && ad.wf 22 h && isK k
  | .vldb w h d ad p | .vstb w h d ad p => isV d && ad.wf 22 h && p < blockParts w.bits
  | .ldx o h d ad => o.isLoad && d ≤ 60 && ad.wf 22 h
  | .roinvAddr h a disp => isH h && isS a && fitsS 22 disp
  | .roinvAll => true
  | .st sz o h d ad => isSz sz && o.isStore && isS d && ad.wf 22 h
  | .stx o h d ad => o.isStore && d ≤ 60 && ad.wf 22 h
  | .send vec o d a disp k => o.isStore && isS d && isS a && fitsS 22 disp && isK k && (vec || k == 0)
  | .amoAdd sz _ h d ad b | .amoMin sz _ h d ad b | .amoMax sz _ h d ad b | .amoMinu sz _ h d ad b
  | .amoMaxu sz _ h d ad b | .amoAnd sz _ h d ad b | .amoOr sz _ h d ad b | .amoXor sz _ h d ad b
  | .amoSwap sz _ h d ad b => (sz == 4 || sz == 8) && isS d && ad.wf 9 h && isS b
  | .amoCas sz _ h d ad b c => (sz == 4 || sz == 8) && isS d && ad.wf 9 h && isS b && isS c
  | .amoFadd t _ h d ad b => t.isF && isS d && ad.wf 9 h && isS b
  | .push q a pd => q < 8 && a ≤ 60 && isP pd
  | .xlat h a i | .xlatS h a i => isH h && isS a && i < 4
  | .hinfo b h w => isS b && isH h && w < 2
  | .hrel h => isH h
  | .tlbinv pd a b m _ => isP pd && isS a && isS b && m < 3
  | .pgmig a b => isS a && isS b
  | .rcall y h a fn sm _ nx xa xb =>
    y < 32 && isH h && isS a && fn < 4096 && sm < 256 && nx ≤ 2 && isH xa && isH xb &&
      (1 ≤ nx || xa == 0) && (2 ≤ nx || xb == 0)
  | .cpwm pd q a b => isP pd && q < 4 && isS a && isS b
  | .cpwmq b q => isS b && q < 4
  | .cpprog b q s => isS b && q < 4 && s < 2
  | .xbswap pd a | .xbretire pd a => isP pd && isS a
  | .xbstat b a s => isS b && isS a && s < 4
  | .xbremap pd a b | .xbcfg pd a b | .xbcolSet pd a b => isP pd && isS a && isS b
  | .xbcolCoef b a | .xbcolClip b a | .xbcolClipclr b a => isS b && isS a
  | .klaunch pd a lq => isP pd && a ≤ 60 && lq < 32
  | .semwait n thr _ _ => n < 256 && thr < 65536
  | .semsig n inc o => n < 256 && inc < 65536 && o != .acq
  | .semset n a o => n < 256 && isS a && o != .acq
  | .semget n a o => n < 256 && isS a && o.isLoad
  | .semtry n thr pd _ _ => n < 256 && thr < 65536 && isP pd
  | .qlevel n mn a pd => n < 8 && mn < 65536 && isS a && isP pd
  | .fence _ => true
  | .drain | .ccp | .handlerReturn | .rte | .kdone | .kfail _ | .upcall => true
  | .bsync n | .barrive n => domSel n
  | .bwait n pd => domSel n && isP pd
  | .bstat n a => domSel n && isS a
  | .bpost a pd => isS a && isP pd
  | .bread o a s => o.isLoad && isS a && breadSel s
  | .domset n a => n < 64 && isS a
  | .domget n a s => domSel n && isS a && s < 4
  | .gcancel a | .kbudget a => isS a
  | .rwait o y d pd _ => o.isLoad && y < 32 && d ≤ 59 && isP pd
  | .rpoll y a pd => y < 32 && isS a && isP pd
  | .trap c | .syscall c | .brk c => c < 65536
  | .step pd a | .ctxfrz pd a | .ctxrun pd a => isP pd && isS a
  | .wset n a kinds dsel => n < 8 && isS a && 1 ≤ kinds && kinds < 8 && domSel dsel
  | .wclr n => n < 8
  | .vendorDiagnostic o d r => o < 64 && isS d && r < 2 ^ 43
  | .contextUnblock c x | .trapEntry c x | .guidonArrive c x | .pennantArrive c x | .cancellationStop c x
  | .graceExpiry c x | .ctxctlResume c x | .ctxctlKill c x | .freezeArrive c x => c < 128 && x < 4
  | .resultLand _ | .accessPerform _ | .walkComplete _ | .walkBusyRestart _ | .revocationComplete _
  | .pgmigMove _ => true
  | .tileRowEnter c | .tileRowApply c | .tloadComplete c | .tswapTakeEffect c | .semaphoreGrant c => c < 128
  | .copyCommand c q => c < 128 && q < 4
  | .copyItem c q _ => c < 128 && q < 4
  | .xbprog c q | .xbverify c q | .xbcal c q | .xbprobe c q | .xbmvm c q => c < 128 && (q == 4 || q == 5)
  | .xbprogRow c q _ | .xbmvmVectorDelivery c q _ => c < 128 && (q == 4 || q == 5)
  | .xbswapTakeEffect c a | .xbretireTakeEffect c a => c < 128 && a < 32
  | .vaultExecutorCommand c | .hostNotifyCommand c => c < 128
  | .commandEnd c q _ => c < 128 && q < 8
  | .callMessageArrive _ | .callReplyArrive _ | .completionNoticeSend _ | .completionNoticeArrive _ => true
  | .callStart e => (match e with | .vault v => v < 128 | .hbm h => h < 8)
  | .remoteCallWord e s | .callWordLimit e s =>
    (match e with | .vault v => v < 128 && s < 8 | .hbm h => h < 8 && s < 64)
  | .callDeadline c x y => c < 128 && x < 4 && y < 32
  | .barrierArrivalCounted _ | .barrierRelease _ | .barrierReleaseArrive _ | .ballotPostArrive _
  | .gcancelRequestArrive _ | .endNoticeArrive _ => true
  | .groupReclaim sl sib => sl < 64 && sib < 64
  | .ballotSlotFree sl => sl < 64
  | .launchRecordWrite _ _ _ | .launchRecordAccept | .dispatch => true
  | .preload c lq _ => c < 128 && lq < 32
  | .taskSave _ | .taskResume _ | .budgetExpiry _ | .taskEnd _ | .completionRecordWrite => true
  | .registerWrite _ b _ _ => (match b with | .core c => c < 128 | .io => true | .hbm h => h < 8)
  | .hostMemoryAccess _ off n data => off + n ≤ 2 ^ 34 && data.length ≤ n
  | .halyardErrorRateHigh c n | .halyardRateWindow c n | .halyardSteer c n | .halyardRetire c n
  | .halyardFailure c n => c < 128 && n < 18
  | .quiescePoint c => c < 128
  | .linkEnable l | .linkDisable l | .linkTrainingTimeout l | .linkRepair l => l < 8
  | .linkTrainingDone l lanes chip => l < 8 && lanes < 2 ^ 18 && chip < 16
  | .laneFault l lane => l < 8 && lane < 18
  | .flitReceive l f => l < 8 && f.seqNo < 4096 && f.vc < 3 && f.stop < 8 && f.payload.length == 240
  | .monitorSample n _ => n < 96
  | .monctlStart | .mailboxPower | .mailboxCap | .mailboxAttest | .mailboxVerify | .mailboxResetDevice
  | .mailboxResetCore | .mailboxFwload | .mailboxInvalidOp | .capWindow _ => true
  | .thermalTrip p _ => 72 ≤ p && p ≤ 79
  | .thermalTripRelease | .powerUp | .mailboxCommandDone => true

end Sys2Proof
end

