-- ==== Sys2Proof/Machine/Numbers.lean ====
section
/-! DEFINITION. Number formats and exact arithmetic (R30 to R45): floating codes as exact values, the one rounding function, narrowing, MX
elements and blocks. Every exact value is a sign with a quotient of two naturals, or an integer times a power of two. -/

namespace Sys2Proof

/-! ### Formats (R30, R36) -/

/-- A floating format: `maxCode` is the code of its largest finite value, without the sign. -/
structure FFmt where
  width : Nat
  p : Nat
  emin : Int
  maxCode : Nat
  hasinf : Bool
  nan : Nat
  /-- FLUSH acts on the format (R32) -/
  flushes : Bool
  deriving DecidableEq, Repr

def fp32 : FFmt := ⟨32, 24, -126, 0x7F7FFFFF, true, 0x7FC00000, true⟩
def fp16 : FFmt := ⟨16, 11, -14, 0x7BFF, true, 0x7E00, true⟩
def fbf16 : FFmt := ⟨16, 8, -126, 0x7F7F, true, 0x7FC0, true⟩
def fe4m3 : FFmt := ⟨8, 4, -6, 0x7E, false, 0x7F, false⟩
def fe5m2 : FFmt := ⟨8, 3, -14, 0x7B, true, 0x7E, false⟩
def fe2m3 : FFmt := ⟨6, 4, 0, 0x1F, false, 0, false⟩
def fe2m1 : FFmt := ⟨4, 2, 0, 7, false, 0, false⟩

/-- The floating format of an element type. -/
def Ty.ffmt : Ty → Option FFmt
  | .f32 => some fp32
  | .f16 => some fp16
  | .bf16 => some fbf16
  | .e4m3 => some fe4m3
  | .e5m2 => some fe5m2
  | .e2m3 => some fe2m3
  | .e2m1 => some fe2m1
  | _ => none

/-- FP32, FP16 and BF16. -/
def Ty.isFloat : Ty → Bool
  | .f32 | .f16 | .bf16 => true
  | _ => false

/-- The integer formats: width in bits, and whether signed. -/
def Ty.int : Ty → Option (Nat × Bool)
  | .i32 => some (32, true)
  | .i16 => some (16, true)
  | .i8 => some (8, true)
  | .ui8 => some (8, false)
  | .i64 => some (64, true)
  | _ => none

/-- Least and largest value of an integer type (R30). -/
def Ty.intMin (t : Ty) : Int := match t.int with | some (n, true) => -(2 ^ (n - 1) : Nat) | _ => 0

def Ty.intMax (t : Ty) : Int :=
  match t.int with
  | some (n, true) => (2 ^ (n - 1) : Nat) - 1
  | some (n, false) => (2 ^ n : Nat) - 1
  | none => 0

/-- An integer lane as its value: signed but for UINT8. -/
def Ty.toInt (t : Ty) (c : Nat) : Int :=
  match t.int with
  | some (n, true) => sextNat n c
  | some (n, false) => (c % 2 ^ n : Nat)
  | none => 0

/-! ### Exact values -/

/-- What a floating code stands for; a finite value is (−1)^neg × num × 2^exp. -/
inductive FVal where
  | nan (signalling neg : Bool)
  | inf (neg : Bool)
  | fin (neg : Bool) (num : Nat) (exp : Int)
  deriving DecidableEq, Repr

/-- The value of a code (R30, R31, R36). With `flush`, a subnormal reads as zero (R32). -/
def FFmt.decode (f : FFmt) (flush : Bool) (c : Nat) : FVal :=
  let neg := (c % 2 ^ f.width).testBit (f.width - 1)
  let m := c % 2 ^ (f.width - 1)
  let h := 2 ^ (f.p - 1)
  if f.maxCode < m then
    if f.hasinf ∧ m = f.maxCode + 1 then .inf neg else .nan (decide (m % h < h / 2)) neg
  else if m < h then .fin neg (if flush && f.flushes then 0 else m) (f.emin - f.p + 1)
  else .fin neg (h + m % h) (f.emin - f.p + (m / h : Nat))

/-- A code with a sign bit. -/
def FFmt.sign (f : FFmt) (neg : Bool) (m : Nat) : Nat := if neg then 2 ^ (f.width - 1) + m else m

def FFmt.inf (f : FFmt) (neg : Bool) : Nat := f.sign neg (f.maxCode + 1)
def FFmt.zero (f : FFmt) (neg : Bool) : Nat := f.sign neg 0
def FFmt.max (f : FFmt) (neg : Bool) : Nat := f.sign neg f.maxCode

/-- Floor of the base-2 logarithm of `n / d`, both positive. -/
def floorLog2 (n d : Nat) : Int :=
  let k : Int := (Nat.log2 n : Int) - (Nat.log2 d : Int)
  let less := if 0 ≤ k then decide (n < d * 2 ^ k.toNat) else decide (n * 2 ^ (-k).toNat < d)
  if less then k - 1 else k

/-- Nearest integer to `n / d`, ties to even. -/
def roundHalfEven (n d : Nat) : Nat :=
  let q := n / d
  let r := n % d
  if 2 * r < d then q else if d < 2 * r then q + 1 else if q % 2 = 0 then q else q + 1

/-- RoundInt (R33) of the magnitude `n / d` with sign `neg`. -/
def roundInt (m : Rnd) (neg : Bool) (n d : Nat) : Nat :=
  match m with
  | .rne => roundHalfEven n d
  | .rz => n / d
  | .rup => if neg then n / d else (n + d - 1) / d
  | .rdn => if neg then (n + d - 1) / d else n / d

/-- Nearest integer to an integer over a positive natural, ties to even. -/
def roundHalfEvenInt (n : Int) (d : Nat) : Int :=
  if n < 0 then -(roundHalfEven n.natAbs d : Int) else (roundHalfEven n.natAbs d : Int)

/-- `n / d × 2^sh` as a quotient of naturals. -/
def scale2 (n d : Nat) (sh : Int) : Nat × Nat := if 0 ≤ sh then (n * 2 ^ sh.toNat, d) else (n, d * 2 ^ (-sh).toNat)

/-- RoundToFormat (R33) of (−1)^neg × n / d, which is not zero: the code and the flags. `sat` makes an overflow give the largest finite
value in a format with infinities too. -/
def FFmt.round (f : FFmt) (m : Rnd) (flush neg : Bool) (n d : Nat) (sat : Bool := false) : Nat × FlagBits :=
  let e0 := floorLog2 n d
  let e := if e0 < f.emin then f.emin else e0
  let (a, b) := scale2 n d (f.p - 1 - e)
  let r := roundInt m neg a b
  let inexact := r * b != a
  let code := (e - f.emin).toNat * 2 ^ (f.p - 1) + r
  let fl := flagIf (decide (e0 < f.emin) && inexact) fuf ||| flagIf inexact fnx
  if f.maxCode < code then
    let toInf := f.hasinf && !sat && (match m with | .rne => true | .rup => !neg | .rdn => neg | .rz => false)
    (if toInf then f.inf neg else f.max neg, fl ||| fof ||| fnx)
  else if flush && f.flushes && code != 0 && decide (code < 2 ^ (f.p - 1)) then (f.zero neg, fl ||| fuf ||| fnx)
  else (f.sign neg code, fl)

/-- RoundToFormat of (−1)^neg × num × 2^exp; an exact zero takes the sign `zneg`. -/
def FFmt.round2 (f : FFmt) (m : Rnd) (flush neg : Bool) (num : Nat) (exp : Int) (zneg : Bool) (sat : Bool := false) : Nat × FlagBits :=
  if num = 0 then (f.zero zneg, 0)
  else
    let (a, b) := scale2 num 1 exp
    f.round m flush neg a b sat

/-- The sign of an exact zero for which an instruction defines none (R33). -/
def zeroSign (m : Rnd) : Bool := match m with | .rdn => true | _ => false

/-! ### Floating arithmetic (R31, R32, R35, R117) -/

def FVal.isNan : FVal → Bool
  | .nan .. => true
  | _ => false

def FVal.signalling : FVal → Bool
  | .nan s _ => s
  | _ => false

/-- FNV when an input is a signalling NaN (R31). -/
def FVal.nv (v : FVal) : FlagBits := flagIf v.signalling fnv

def FVal.negate : FVal → FVal
  | .nan s n => .nan s n
  | .inf n => .inf (!n)
  | .fin n m e => .fin (!n) m e

/-- The integer multiple of 2^e that a finite value is, where its exponent is at least `e`. -/
def signedAt (neg : Bool) (num : Nat) (exp e : Int) : Int :=
  let m : Int := (num * 2 ^ (exp - e).toNat : Nat)
  if neg then -m else m

/-- Sum of two exact values: NaN, an infinity, or the exact sum with the sign of an exact zero. -/
def addVal (f : FFmt) (m : Rnd) (flush : Bool) (x y : FVal) : Nat × FlagBits :=
  match x, y with
  | .nan .., _ | _, .nan .. => (f.nan, x.nv ||| y.nv)
  | .inf a, .inf b => if a = b then (f.inf a, 0) else (f.nan, fnv)
  | .inf a, .fin .. => (f.inf a, 0)
  | .fin .., .inf b => (f.inf b, 0)
  | .fin a n e, .fin b k g =>
    let lo := if e < g then e else g
    let t := signedAt a n e lo + signedAt b k g lo
    let z := if n = 0 ∧ k = 0 ∧ a = b then a else zeroSign m
    f.round2 m flush (decide (t < 0)) t.natAbs lo z

/-- Exact product; NaN and invalid products answer NaN with FNV (R35). -/
def mulVal (x y : FVal) : FVal × FlagBits :=
  match x, y with
  | .nan .., _ | _, .nan .. => (.nan false false, x.nv ||| y.nv)
  | .inf a, .inf b => (.inf (a != b), 0)
  | .inf a, .fin b n _ => if n = 0 then (.nan false false, fnv) else (.inf (a != b), 0)
  | .fin a n _, .inf b => if n = 0 then (.nan false false, fnv) else (.inf (a != b), 0)
  | .fin a n e, .fin b k g => (.fin (a != b) (n * k) (e + g), 0)

/-- A value rounded to a format; its own sign is that of an exact zero. For the conversions of `vcvt` between floating formats that is the
model's choice (log entry 49): R135 does not give the sign, and R34 says that the exact-zero rule of R33 governs results of arithmetic. -/
def FFmt.ofVal (f : FFmt) (m : Rnd) (flush : Bool) (v : FVal) : Nat × FlagBits :=
  match v with
  | .nan .. => (f.nan, v.nv)
  | .inf n => (f.inf n, 0)
  | .fin n k e => f.round2 m flush n k e n

def FFmt.add (f : FFmt) (m : Rnd) (flush : Bool) (a b : Nat) : Nat × FlagBits :=
  addVal f m flush (f.decode flush a) (f.decode flush b)

def FFmt.sub (f : FFmt) (m : Rnd) (flush : Bool) (a b : Nat) : Nat × FlagBits :=
  addVal f m flush (f.decode flush a) (f.decode flush b).negate

def FFmt.mul (f : FFmt) (m : Rnd) (flush : Bool) (a b : Nat) : Nat × FlagBits :=
  let (v, g) := mulVal (f.decode flush a) (f.decode flush b)
  let (c, h) := f.ofVal m flush v
  (c, g ||| h)

/-- ±(a × b) ± c, rounded once (R122). -/
def FFmt.fma (f : FFmt) (m : Rnd) (flush negp negc : Bool) (a b c : Nat) : Nat × FlagBits :=
  let (v, g) := mulVal (f.decode flush a) (f.decode flush b)
  let w := f.decode flush c
  let (r, h) := addVal f m flush (if negp then v.negate else v) (if negc then w.negate else w)
  (r, g ||| h)

/-- An input that is itself a result: a NaN is the canonical one, and a subnormal under FLUSH a zero of its sign (R31, R32). -/
def FFmt.carry (f : FFmt) (flush : Bool) (c : Nat) : Nat × FlagBits :=
  match f.decode flush c with
  | .nan g _ => (f.nan, if g then fnv else 0)
  | .fin n 0 _ => (f.zero n, 0)
  | _ => (c, 0)

/-- The order of two values that are no NaN, −0 below +0 (R123). -/
def FVal.less (x y : FVal) : Bool :=
  match x, y with
  | .inf a, .inf b => a && !b
  | .inf a, _ => a
  | _, .inf b => !b
  | .fin a n e, .fin b k g =>
    let lo := if e < g then e else g
    let s := signedAt a n e lo
    let t := signedAt b k g lo
    decide (s < t) || (decide (s = t) && decide (n = 0) && a && !b)
  | _, _ => false

/-- `vmin` and `vmax` on a floating type (R123). -/
def FFmt.minMax (f : FFmt) (isMax flush : Bool) (a b : Nat) : Nat × FlagBits :=
  let x := f.decode flush a
  let y := f.decode flush b
  if x.isNan || y.isNan then (f.nan, x.nv ||| y.nv)
  else f.ofVal .rne flush (if isMax then (if x.less y then y else x) else (if y.less x then y else x))

/-- Three-way comparison of the numbers: less, equal, unordered (R127). −0 equals +0. -/
def FVal.cmp (x y : FVal) : Option (Bool × Bool) :=
  if x.isNan || y.isNan then none
  else match x, y with
    | .fin a n e, .fin b k g =>
      let lo := if e < g then e else g
      let s := signedAt a n e lo
      let t := signedAt b k g lo
      some (decide (s < t), decide (s = t))
    | _, _ => some (x.less y, !x.less y && !y.less x)

/-- Truth of a condition on two floating values (R57, R127). -/
def condF (cc : CC) (x y : FVal) : Bool :=
  match cc, x.cmp y with
  | .eq, r => r == some (false, true)
  | .ne, r => r != some (false, true)
  | .lt, some (l, _) => l
  | .le, some (l, e) => l || e
  | .gt, some (l, e) => !l && !e
  | .ge, some (l, _) => !l
  | .ord, r => r.isSome
  | .uno, r => r.isNone
  | _, _ => false

/-- Truth of a condition on two integer lanes of type `t` (R127). -/
def condI (cc : CC) (t : Ty) (a b : Nat) : Bool :=
  let x := t.toInt a
  let y := t.toInt b
  match cc with
  | .eq => decide (x = y)
  | .ne => decide (x ≠ y)
  | .lt => decide (x < y)
  | .le => decide (x ≤ y)
  | .gt => decide (y < x)
  | .ge => decide (y ≤ x)
  | .ltu => decide (a < b)
  | .leu => decide (a ≤ b)
  | .gtu => decide (b < a)
  | .geu => decide (b ≤ a)
  | .ord | .uno => false

/-! ### Conversions (R34, R41, R135) -/

/-- An integer clamped to a range; ISAT when it clamps. -/
def clampInt (lo hi x : Int) : Int × FlagBits := if x < lo then (lo, isat) else if hi < x then (hi, isat) else (x, 0)

/-- The code of an integer in a type. -/
def Ty.ofInt (t : Ty) (x : Int) : Nat := fieldOf t.bits x

/-- Floating to integer (R34). -/
def floatToInt (t : Ty) (m : Rnd) (v : FVal) : Int × FlagBits :=
  match v with
  | .nan .. => (0, fnv)
  | .inf n => (if n then t.intMin else t.intMax, isat)
  | .fin n k e =>
    let (a, b) := scale2 k 1 e
    let r := roundInt m n a b
    let (x, g) := clampInt t.intMin t.intMax (if n then -(r : Int) else r)
    (x, g ||| flagIf (r * b != a) fnx)

/-- Integer to floating (R34): 0 gives +0 in every mode. -/
def FFmt.ofInt (f : FFmt) (m : Rnd) (flush : Bool) (x : Int) : Nat × FlagBits := f.round2 m flush (decide (x < 0)) x.natAbs 0 false

/-- FP32 to an MX element format (R41). A zero keeps the sign of the source: the model's choice (log entry 49). -/
def narrowMx (f : FFmt) (m : Rnd) (v : FVal) : Nat × FlagBits :=
  match v with
  | .nan _ n => (if f.nan = 0 then f.zero n else f.nan, fnv)
  | .inf n => if f.hasinf then (f.inf n, 0) else (f.max n, fof ||| fnx)
  | .fin n k e => f.round2 m false n k e n

/-- An MX element to FP32, exactly and without a flag; an element of zero magnitude gives +0 (R135, log entry 7). -/
def widenMx (f : FFmt) (c : Nat) : Nat :=
  match f.decode false c with
  | .nan .. => fp32.nan
  | .inf n => fp32.inf n
  | .fin n k e => (fp32.round2 .rne false n k e false).1

/-- The conversion of `vcvt` for an accepted pair (R135). -/
def convert (flush : Bool) (ty ty2 : Ty) (m : Rnd) (c : Nat) : Nat × FlagBits :=
  match ty.ffmt, ty2.ffmt with
  | some f, some g =>
    if ty.isFloat then
      if ty2.isFloat then g.ofVal m flush (f.decode flush c) else narrowMx g m (f.decode flush c)
    else (widenMx f c, 0)
  | some f, none => let (x, g) := floatToInt ty2 m (f.decode flush c); (ty2.ofInt x, g)
  | none, some g => g.ofInt m flush (ty.toInt c)
  | none, none => let (x, g) := clampInt ty2.intMin ty2.intMax (ty.toInt c); (ty2.ofInt x, g)

/-! ### MX blocks (R36, R37, R42, R43) -/

/-- The exponent unit of an MX format (R36). -/
def Ty.unit : Ty → Int
  | .mxi8 => -6
  | .e4m3 => -9
  | .e5m2 => -16
  | .e2m3 => -3
  | .e2m1 => -1
  | _ => 0

/-- `emax` of an MX format (R36). -/
def Ty.emax : Ty → Int
  | .e4m3 => 8
  | .e5m2 => 15
  | .e2m3 => 2
  | .e2m1 => 2
  | _ => 0

/-- DecodeInt (R36): the integer n of an element; none for a NaN or an infinity. -/
def mxInt (t : Ty) (c : Nat) : Option Int :=
  match t.ffmt with
  | some f =>
    match f.decode false c with
    | .fin n k e => some (signedAt n k e t.unit)
    | _ => none
  | none => some (sextNat 8 c)

/-- The 64 element codes of a block held as a little-endian bit string (R37). -/
def blockElems (t : Ty) (w : Nat) : List Nat := (List.range 64).map fun i => bitsOf (t.bits * i) t.bits w

/-- A block's bytes. -/
def Ty.blockBytes (t : Ty) : Nat := 8 * t.bits

/-- RoundToFormat of n × 2^(unit + X − 127) in FP32 (R43). -/
def dequant (flush : Bool) (t : Ty) (x c : Nat) : Nat × FlagBits :=
  if x = 0xFF then (fp32.nan, 0)
  else match t.ffmt with
    | some f =>
      match f.decode false c with
      | .nan .. => (fp32.nan, 0)
      | .inf n => (fp32.inf n, 0)
      | .fin n k e => fp32.round2 .rne flush n k (e + x - 127) false
    | none =>
      let i := sextNat 8 c
      fp32.round2 .rne flush (decide (i < 0)) i.natAbs ((x : Int) - 133) false

/-- Comparison of magnitudes k × 2^e and l × 2^g. -/
def magLess (k : Nat) (e : Int) (l : Nat) (g : Int) : Bool :=
  let lo := if e < g then e else g
  decide (k * 2 ^ (e - lo).toNat < l * 2 ^ (g - lo).toNat)

/-- The largest magnitude of a list of finite values. -/
def amaxOf : List FVal → Nat × Int
  | [] => (0, 0)
  | .fin _ k e :: r => let (l, g) := amaxOf r; if k = 0 then (l, g) else if l = 0 ∨ magLess l g k e then (k, e) else (l, g)
  | _ :: r => amaxOf r

/-- One element of a quantised block with scale exponent `s` (R42). An overflow gives the largest finite element (log entry 8). -/
def quantElem (t : Ty) (m : Rnd) (s : Int) (v : FVal) : Nat × FlagBits :=
  match v with
  | .fin n k e =>
    match t.ffmt with
    | some f => f.round2 m false n k (e - s) n (sat := true)
    | none =>
      let (a, b) := scale2 k 1 (e - s + 6)
      let r := roundInt m n a b
      let (x, g) := clampInt (-128) 127 (if n then -(r : Int) else r)
      (fieldOf 8 x, g ||| flagIf (r * b != a) fnx)
  | _ => (0, 0)

/-- QuantiseBlock (R42): the scale byte, the element codes and the flags. -/
def quantise (t : Ty) (m : Rnd) (flush : Bool) (xs : List Nat) : Nat × List Nat × FlagBits :=
  let vs := xs.map (fp32.decode flush)
  if vs.any fun v => match v with | .fin .. => false | _ => true then (0xFF, xs.map fun _ => 0, fnv)
  else
    let (k, e) := amaxOf vs
    let s : Int := if k = 0 then -127 else
      let (a, b) := scale2 k 1 e
      (clampInt (-127) 127 (floorLog2 a b - t.emax)).1
    let r := vs.map (quantElem t m s)
    ((s + 127).toNat, r.map (·.1), r.foldl (fun f e => f ||| e.2) 0)

/-! ### Accumulator elements (R38, R40) -/

/-- The sum of products of two blocks of element codes; none where a scale or an element is no number (R38). -/
def blockSum (ta : Ty) (xa : Nat) (as : List Nat) (tw : Ty) (xw : Nat) (ws : List Nat) : Option Int :=
  if xa = 0xFF ∨ xw = 0xFF then none
  else (as.zip ws).foldl (fun s e =>
    match s, mxInt ta e.1, mxInt tw e.2 with
    | some s, some x, some y => some (s + x * y)
    | _, _, _ => none) (some 0)

/-- `sum × 2^sh` rounded to an integer, ties to even, and whether it lost anything (R38). -/
def alignSum (sum sh : Int) : Int × Bool :=
  if 0 ≤ sh then (sum * (2 ^ sh.toNat : Nat), false)
  else
    let d := 2 ^ (-sh).toNat
    let c := roundHalfEvenInt sum d
    (c, c * (d : Int) != sum)

/-- An addition to a 96-bit accumulator: the value and OVF (R38). -/
def acc96 (v c : Int) : Int × Bool :=
  let t := v + c
  let hi : Int := (2 ^ 95 : Nat)
  if hi - 1 < t then (hi - 1, true) else if t < -hi then (-hi, true) else (t, false)

/-- AccToFormat (R40). -/
def accToFormat (t : Ty) (m : Rnd) (flush : Bool) (anchor acc : Int) (nan : Bool) : Nat × FlagBits :=
  match t.ffmt with
  | some f => if nan then (f.nan, 0) else f.round2 m flush (decide (acc < 0)) acc.natAbs anchor false
  | none =>
    if nan then (0, fnv)
    else let (x, g) := floatToInt .i32 m (.fin (decide (acc < 0)) acc.natAbs anchor); (Ty.i32.ofInt x, g)

end Sys2Proof
end

