-- ==== Sys2Proof/Config.lean ====
section
/-! DEFINITION. What the specification leaves open: free values, as constants without a body, which no proof can evaluate. A function
takes the counter `State.frees`, or the data it depends on (log entry 5). -/

namespace Sys2Proof.Config

/-- What a host read brings from a word of a lost quarter, by draw and address: R185 states it for contexts only. -/
opaque lostWord : Nat → Nat → Word

/-- A free natural number for each draw: which entry a replacement takes (R177, R214). -/
opaque freeChoice : Nat → Nat

/-- The scalar result of a vendor diagnostic word, by draw (R70). -/
opaque diagResult : Nat → Word

/-- What a vendor diagnostic word leaves in the core's test access registers: register number and value, by draw (R70). -/
opaque diagWrite : Nat → Nat × Word

/-- The converter code of a slice column, by draw, column and plane; taken modulo 1,024 (R302). -/
opaque converterCode : Nat → Nat → Nat → Nat

/-- The overrange comparator fires, by draw, column and plane (R290). -/
opaque overrange : Nat → Nat → Nat → Bool

/-- The sum of 16 readings of a reference pair through a channel (R287, R288), by draw, channel and reference; taken modulo 16,369. -/
opaque referenceSum : Nat → Nat → Nat → Nat

/-- The level a cell holds after a pulse (R284), by draw, position and iteration; taken modulo 16. -/
opaque pulseLevel : Nat → Nat → Nat → Nat

/-- The crossbar tier of a core has stayed within 25 to 85 °C between two values of TIMEBASE (R302). -/
opaque tierWithin : Nat → Nat → Nat → Bool

/-- Every member of a multi-chip domain on the other chips has arrived, by draw (R364, R424). -/
opaque peersArrived : Nat → Bool

/-- The SHAKE256 digest of 512 bits (R442, R443), which the specification names and does not define. -/
opaque shake256 : List Byte → BitVec 512

/-- ML-DSA-65 verification of a signed image against the fused vendor key (R442). -/
opaque verifyVendor : List Byte → Bool

/-- ML-DSA-65 verification of a kernel image's signature: signed bytes and signature (R336, R442). -/
opaque verifyKernel : List Byte → List Byte → Bool

/-- The 3,309 signature bytes of an attestation report, byte by byte (R443). -/
opaque signByte : List Byte → Nat → Byte

/-- The digest of the device identity public key (R443). -/
opaque identityDigest : BitVec 512

/-- The management firmware and the runtime image of the device as it was delivered (R442); the runtime's bytes fill the runtime region
from 0x3_C000 (R51). -/
opaque factoryFirmware : List Byte
opaque factoryRuntime : List Byte

/-- An image that FWLOAD loads is a runtime image (R442): the specification does not give the format of an image. -/
opaque isRuntime : List Byte → Bool

/-- What a device-control offset that the specification does not assign reads as. -/
opaque unassigned : Nat → Word

/-- PWRSTAT.FORM, fixed by fuses at manufacture (R1, R436): true for QRL9-M. -/
opaque qrl9m : Bool

end Sys2Proof.Config
end

