-- ==== Sys2Proof/Machine/Map.lean ====
section
/-! DEFINITION. Operations on the sparse map of `Word.lean`: every file of registers and every memory of the machine is read and
written through these, and each keeps the canonical form `SMap.wf`. -/

namespace Sys2Proof

/-- The value at key `k`; `d` where nothing is listed. -/
def SMap.get {α : Type} (d : α) : SMap α → Nat → α
  | [], _ => d
  | (k', v) :: r, k => if k' = k then v else SMap.get d r k

/-- The map without the entry at key `k`. -/
def SMap.erase {α : Type} : SMap α → Nat → SMap α
  | [], _ => []
  | (k', v) :: r, k => if k' = k then SMap.erase r k else (k', v) :: SMap.erase r k

/-- The map with value `v`, listed, at key `k`, in rising key order. -/
def SMap.insert {α : Type} : SMap α → Nat → α → SMap α
  | [], k, v => [(k, v)]
  | (k', v') :: r, k, v =>
    if k < k' then (k, v) :: (k', v') :: r
    else if k' = k then (k, v) :: r
    else (k', v') :: SMap.insert r k v

/-- Write: listed unless it is the default, so that equal files are equal data. -/
def SMap.put {α : Type} [DecidableEq α] (d : α) (m : SMap α) (k : Nat) (v : α) : SMap α :=
  if v = d then m.erase k else (m.erase k).insert k v

/-- The map without its entries from `lo` up to, not including, `hi`. -/
def SMap.clear {α : Type} (m : SMap α) (lo hi : Nat) : SMap α :=
  m.filter fun e => !(lo ≤ e.1 && e.1 < hi)

/-- The keys rise strictly and no entry holds the default. -/
def SMap.wf {α : Type} [DecidableEq α] (d : α) : SMap α → Bool
  | [] => true
  | [(_, v)] => decide (v ≠ d)
  | (k, v) :: (k', v') :: r => decide (v ≠ d) && decide (k < k') && SMap.wf d ((k', v') :: r)

/-- Consecutive bytes from address `a`. -/
def readBytes (m : SMap Byte) (a n : Nat) : List Byte := (List.range n).map fun i => m.get 0 (a + i)

/-- Little-endian number of `n` bytes at `a` (R4). -/
def readNat (m : SMap Byte) (a n : Nat) : Nat :=
  match n with
  | 0 => 0
  | n + 1 => (m.get 0 a).toNat + 256 * readNat m (a + 1) n

/-- Write consecutive bytes from address `a`. -/
def writeBytes (m : SMap Byte) (a : Nat) : List Byte → SMap Byte
  | [] => m
  | b :: r => writeBytes (m.put 0 a b) (a + 1) r

end Sys2Proof
end

