-- ==== Sys2Proof/Machine/State.lean ====
section
/-! DEFINITION. The state of the device as plain data: every register, memory, queue, table and pending transfer that the
specification gives it, the three outcomes' reasons, and the state after reset. Files of registers and memories are sparse maps
(`SMap`): what they do not list reads as the default named beside the field. -/

namespace Sys2Proof.Machine

/-- The fault reasons of a step. The specification describes the entry of every trap, double trap and escalation, so the machine
itself never stops: there is no reason, and no step answers with a fault (safe). -/
inductive Fault where
  deriving DecidableEq, Repr

/-- The refusal reasons of a step. -/
inductive Refusal where
  /-- Raised by the dispatcher for an instruction without a meaning in this model (safe: nothing is claimed of it). -/
  | notModelled (mnemonic : String)
  deriving DecidableEq, Repr

/-- A scalar register: value and poison bit (R59). -/
structure SVal where
  val : Word := 0
  poison : Bool := false
  deriving DecidableEq, Repr

/-- A vector register: value and poison bit (R59). -/
structure VVal where
  val : VWord := 0
  poison : Bool := false
  deriving DecidableEq, Repr

/-- A handle register or an engine's snapshot of one (R215, R216). The tier, the unit, the far, peer and spread flags follow from
the frame. -/
structure Handle where
  valid : Bool := false
  /-- virtual base of the page -/
  vpage : Word := 0
  /-- device physical address of the frame -/
  frame : Nat := 0
  /-- page size code of the leaf: 0 8 KiB, 1 8 MiB, 2 8 GiB -/
  size : Nat := 0
  r : Bool := false
  w : Bool := false
  cow : Bool := false
  rop : Bool := false
  mig : Bool := false
  unc : Bool := false
  lost : Bool := false
  space : Nat := 0
  gen : Nat := 0
  /-- why it is invalid (R216 CAUSE) -/
  cause : Nat := 0
  deriving DecidableEq, Repr

/-- A physical register, or a control register, as the destination of a result (R89 FILE and REG). `sR` and `pR` are the runtime
bank of R312. -/
inductive RegId where
  | s (n : Nat) | p (n : Nat) | v (n : Nat) | k (n : Nat) | h (n : Nat) | ctl (n : Nat) | sR (n : Nat) | pR (n : Nat)
  deriving DecidableEq, Repr

/-- The value of a result. -/
inductive RVal where
  | w (x : Word) | b (x : Bool) | v (x : VWord) | k (x : KWord) | h (x : Handle)
  deriving DecidableEq, Repr

/-- A fixed-latency result in flight: it becomes visible at step `due` (R80 to R83). In the snapshot `due` is REM (R89). `seq` is the place
of the issuing bundle among all bundles of the context, `pstep` its step of the program, whose low 7 bits are SEQ. -/
structure Res where
  reg : RegId
  val : RVal
  poison : Bool := false
  flags : FlagBits := 0
  due : Nat
  slot : Nat
  seq : Nat
  pstep : Nat := 0
  deriving DecidableEq, Repr

/-- Context states, in the order of their codes (R63, R310). -/
inductive CState where
  | free | loaded | ready | running | blocked | trapped | frozen | saved | done | cancelled
  deriving DecidableEq, Repr

/-- A reply slot (R399, R400): `st` 0 FREE, 1 WAITING, 2 FULL. -/
structure Reply where
  st : Nat := 0
  pend : Bool := false
  status : Nat := 0
  cause : Nat := 0
  nv : Nat := 0
  vals : List SVal := []
  fn : Nat := 0
  seq : Nat := 0
  deadline : Nat := 0
  deriving DecidableEq, Repr

/-- A trap frame: the handler frame of R317, and the frame a `step` leaves pending (R332). -/
structure Frame where
  cause : Nat := 0
  mask : Nat := 0
  pc : Nat := 0
  bad : Word := 0
  /-- the FQ word's entries: NFQ, FQ1 to FQ3 (R313) -/
  nfq : Nat := 0
  fq1 : Nat := 0
  fq2 : Nat := 0
  fq3 : Nat := 0
  deriving DecidableEq, Repr

/-- A failed walk waiting for delivery (R219, R213). -/
structure XFault where
  hreg : Nat
  cause : Nat
  pois : Bool
  xpc : Nat
  va : Word
  deriving DecidableEq, Repr

/-- The last registered arrival of a context at a domain (R359, R360). -/
structure Arrival where
  bar : Nat
  phase : Nat
  released : Bool := false
  /-- the released phase was completed by arrivals of every member -/
  full : Bool := false
  deriving DecidableEq, Repr

/-- A condition that blocks or holds a bundle at stage 2 (R79, R192), as data, so that it can be tested again (R92). -/
inductive Wait where
  /-- a register named by a nonzero slot word is pending (R82) -/
  | reg (r : RegId)
  /-- a fixed-latency result of the runtime or of the handler is in flight: the hold of R316 and R318, no freeze -/
  | pipe
  /-- accesses of earlier bundles have not performed (R193, R194, R196); far accesses only for `drain` -/
  | earlier (farOnly : Bool)
  /-- an acquire has not performed (R196) -/
  | acquire
  /-- a semaphore lies below the threshold (R240) -/
  | sem (n thr : Nat) (dec : Bool)
  /-- scratchpad bytes from `lo` up to `hi` meet a watermark's range (R272) -/
  | mark (lo hi : Nat)
  /-- scratchpad bytes meet a local store that R154 holds (R186) -/
  | heldStore (lo hi : Nat)
  /-- no send entry is free (R182) -/
  | sends
  /-- the matrix queue is full (R145) -/
  | matrix
  /-- a logical tile has an operation in flight; with `queue`, only a crossbar command holds (R161) -/
  | tile (t : Nat) (queue : Bool)
  /-- the planes have an operation in flight (R147) -/
  | planes
  /-- the last arrival at this selector has not been released (R359, R360) -/
  | release (sel : Nat)
  /-- the reply slot is WAITING, or its callee's writes are pending (R410) -/
  | reply (y : Nat)
  | replyPend (y : Nat)
  /-- the core has 32 calls in WAITING slots (R397) -/
  | calls
  deriving DecidableEq, Repr

/-- A hardware context (R59, R62, R310 to R334). -/
structure Ctx where
  st : CState := .free
  /-- STATUS.MODE: RUNTIME -/
  mode : Bool := false
  diag : Bool := false
  flush : Bool := false
  canreq : Bool := false
  /-- the kernel's declared handler runs (R312) -/
  hdl : Bool := false
  /-- s1 to s63, default 0 without poison -/
  s : SMap SVal := []
  /-- physical p1 to p15, default 0 -/
  p : SMap Bool := []
  /-- physical v0 to v63, default 0 without poison -/
  v : SMap VVal := []
  /-- k1 to k7, default all ones -/
  k : SMap KWord := []
  /-- h0 to h15, default invalid -/
  h : SMap Handle := []
  /-- y0 to y31, default FREE -/
  y : SMap Reply := []
  /-- the runtime bank s56 to s62 and p6, p7 (R312) -/
  sR : SMap SVal := []
  pR : SMap Bool := []
  /-- control registers by number (R62): FLAGS, LC, EC, RRB, CAUSE, SLOTMASK, TRAPPC, BADADDR, SSTEP, SIBID, DOMID, CALLTO, HANDLER,
  SKID; default 0 -/
  ctl : SMap Word := []
  /-- the place of the next bundle to commit among all bundles of the context, those of the runtime and of the handler included; it orders
  accesses, marks and results -/
  step : Nat := 0
  /-- the step that the next bundle of the program takes: bundles that commit in a trap take none (R76, R90) -/
  pstep : Nat := 0
  /-- a `ctlw` to BUDGET has become visible to the next bundle (R107, R108) -/
  newBudget : Option Word := none
  /-- registers pending on a scoreboarded result, with the step that issued it (R82) -/
  pend : List (RegId × Nat) := []
  inflight : List Res := []
  /-- the snapshot (R89), and the frozen results of bundles that ran in a trap while the snapshot holds the trapped program's -/
  snap : List Res := []
  snapT : List Res := []
  /-- the conditions that block its bundle -/
  waits : List Wait := []
  /-- the fetch sequence: the next bundle and the three after it (R311) -/
  f0 : Nat := 0
  f1 : Nat := 0
  f2 : Nat := 0
  f3 : Nat := 0
  /-- FQ of the last trap entry (R313) -/
  nfq : Nat := 0
  fq1 : Nat := 0
  fq2 : Nat := 0
  fq3 : Nat := 0
  /-- the handler frame (R317) -/
  frame : Frame := {}
  /-- a trap raised under `step`: its frame is written, it is taken at `ctxrun` (R332) -/
  stepTrap : Bool := false
  /-- a `step` of this context in progress: the core, context, step and predicate that wait for it (R332) -/
  stepper : Option (Nat × Nat × Nat × RegId) := none
  /-- deferred-loss latch and its address (R185) -/
  dloss : Option Word := none
  /-- handle generation counter (R215) -/
  gen : Nat := 0
  /-- WATCH cause held, with BADADDR (R330) -/
  watch : Option Word := none
  /-- BUDGET cause held (R344) -/
  budgetCause : Bool := false
  /-- failed walks waiting for delivery, in completion order (R219) -/
  xfaults : List XFault := []
  /-- arrivals by domain selector (R359) -/
  arr : SMap Arrival := []
  /-- the selector whose release holds every later bundle (`bsync`, R359) -/
  syncHold : Option Nat := none
  /-- why the context is TRAPPED: a `trap` code, or the cause of a double trap (R320) -/
  esc : Option (Bool × Nat) := none
  /-- grace count since CANREQ (R374) -/
  grace : Nat := 0
  /-- the context stops before its next bundle: a commit-kind cancellation point (R373), or a kill at the next boundary -/
  stopNext : Bool := false
  killNext : Bool := false
  /-- a reserved semaphore decrement: index and amount (R239) -/
  resv : Option (Nat × Nat) := none
  /-- cycle in which it last became READY, and whether another context has issued since its block (R92) -/
  readyAt : Nat := 0
  /-- cycles in which its bundles committed since the last watchpoint hit that has sent a guidon to it (R329) -/
  commits : List Nat := []
  /-- its task is being saved: it issues nothing and receives no grant (R324) -/
  held : Bool := false
  task : Option Nat := none
  deriving DecidableEq, Repr

/-- A tile element: the 96-bit accumulator, held as the integer it stands for, and the NaN mark (R38). -/
structure Elem where
  acc : Int := 0
  nan : Bool := false
  deriving DecidableEq, Repr

/-- Tile states, in the order of their codes (R157, R159). -/
inductive TState where
  | free | allocated | accumulating | drainable | poison | faulted
  deriving DecidableEq, Repr

/-- A physical tile (R139, R157). `elems` is keyed by 64 × row + column, default 0. -/
structure Tile where
  st : TState := .free
  holder : Nat := 0
  anchor : Int := 0
  inexact : Bool := false
  ovf : Bool := false
  elems : SMap Elem := []
  ops : Nat := 0
  src : Nat := 0
  next : Nat := 0
  vr : Bool := false
  loc : Nat := 0
  /-- the crossbar command that holds it in flight (R160) -/
  xcmd : Option Nat := none
  deriving DecidableEq, Repr

/-- Plane states, in the order of their codes (R141, R157). -/
inductive PState where
  | empty | loaded | poisoned
  deriving DecidableEq, Repr

/-- A weight plane (R141, R142): element bytes, scale bytes, format, and the first poisoned line of its `tload` (R164). -/
structure Plane where
  st : PState := .empty
  fmt : Option Ty := none
  elems : SMap Byte := []
  scales : SMap Byte := []
  loc : Nat := 0
  deriving DecidableEq, Repr

/-- What an operation of the matrix queue does (R145). -/
inductive MKind where
  | tload (ty : Ty) (a b : Nat)
  | tswap
  | tmm (ty : Ty) (tile : Nat) (a b n row0 : Nat)
  /-- `tmm` with va = 1: the rows read at stage 3, each with its poison bit and physical register (R153) -/
  | tmmV (ty : Ty) (tile : Nat) (rows : List (VVal × Nat)) (n row0 : Nat)
  | tanchor (tile : Nat) (b : Int)
  deriving DecidableEq, Repr

/-- An operation of the matrix queue: rows entered and applied, and the cycle from which a `tload` completes. -/
structure MOp where
  id : Nat
  ctx : Nat
  kind : MKind
  at_ : Nat
  entered : Nat := 0
  applied : Nat := 0
  due : Nat := 0
  deriving DecidableEq, Repr

/-- A row in the matrix pipeline: applied at cycle `due` (R152). `adds` holds, for each column, the contribution of each block as
(sum, shift before the anchor), none for one that marks NaN (R38), formed against the active plane when the row entered; `anchor` is
the new anchor of a `tanchor` row; `poison` tells a poisoned row with SRC, VR and LOC (R164). -/
structure MRow where
  due : Nat
  op : Nat
  tile : Nat
  row : Nat
  anchor : Option Int := none
  adds : List (List (Option (Int × Int))) := []
  poison : Option (Nat × Bool × Nat) := none
  last : Bool
  deriving DecidableEq, Repr

/-- Who makes an access (R446 agent codes). -/
inductive Agent where
  | context (core ctx : Nat)
  | channel (core ch : Nat)
  | sequencer (core stream : Nat)
  | vaultExec (core unit : Nat)
  | hbmExec (stack : Nat)
  | message (core ctx : Nat)
  | host
  | pgmig (core ctx : Nat)
  | reclaimer (core : Nat)
  | notify (core : Nat)
  deriving DecidableEq, Repr

/-- The operation of an atomic (R183). -/
inductive AmoOp where
  | add | min | max | minu | maxu | and | or | xor | swap | cas
  | fadd (ty : Ty)
  deriving DecidableEq, Repr

/-- What an access piece does at its home. Store data is a byte or nothing for each byte of the piece. -/
inductive AccOp where
  | load
  /-- the read-only path (R177); without `fill` a miss installs no line (R178) -/
  | ro (fill : Bool)
  | store (data : List (Option Byte))
  | amo (op : AmoOp) (b c : Nat)
  deriving DecidableEq, Repr

/-- Where an access performs. -/
inductive Place where
  /-- device physical address -/
  | phys (a : Nat)
  /-- scratchpad offset of a core -/
  | spad (core off : Nat)
  deriving DecidableEq, Repr

/-- A committed access of a context that has not yet performed: one piece of at most 8 bytes, a read-only line, or a whole message
(R171, R177, R182, R191). -/
structure Access where
  id : Nat
  core : Nat
  ctx : Nat
  step : Nat
  op : AccOp
  place : Place
  n : Nat
  near : Bool := false
  /-- a `send` (R182), and the releases it waits for (R355): barrier and phase -/
  send : Bool := false
  tagged : Bool := false
  heldFor : List (Nat × Nat) := []
  /-- the store's request covers its whole 64-byte line (R174) -/
  full : Bool := false
  /-- a local store that has not performed: the matrix operations behind whose operand reads it is held (R154) -/
  behind : List Nat := []
  acq : Bool := false
  /-- result group and the first byte's number in it -/
  grp : Option Nat := none
  off : Nat := 0
  vaddr : Word := 0
  space : Nat := 0
  vpage : Word := 0
  size : Nat := 0
  deriving DecidableEq, Repr

/-- How the bytes of a result group reach their registers (R173, R175). -/
inductive Dest where
  | scalar (d : Nat)
  | quad (d : Nat)
  | vector (d : Nat) (mask : Option KWord)
  | block (d part w : Nat)
  deriving DecidableEq, Repr

/-- A scoreboarded load or atomic: bytes that have come back, and the 8-byte words of it that were poisoned (R82, R173). `regs` are its
physical destination registers. -/
structure Group where
  id : Nat
  core : Nat
  ctx : Nat
  step : Nat
  dest : Dest
  regs : List RegId
  n : Nat
  left : Nat
  got : SMap Byte := []
  poison : List Nat := []
  deriving DecidableEq, Repr

/-- What a scoreboarded register receives when it lands: a value, a word of a ballot slot (R388), or a word of a domain (R387). -/
inductive LandVal where
  | val (v : RVal)
  | bread (slot sel : Nat)
  | domget (n sel : Nat)
  deriving DecidableEq, Repr

/-- A scoreboarded result of a single register that waits to land (R82). -/
structure Land where
  id : Nat
  core : Nat
  ctx : Nat
  step : Nat
  reg : RegId
  val : LandVal
  acq : Bool := false
  deriving DecidableEq, Repr

/-- Where a walk stands (R209): the level and the table that it reads next, none at its start; the address of a BUSY leaf that it waits
for. -/
structure Cursor where
  next : Option (Nat × Nat) := none
  busy : Option Nat := none
  deriving DecidableEq, Repr

/-- A page walk in progress for `xlat` (R209, R218). -/
structure Walk where
  id : Nat
  core : Nat
  ctx : Nat
  step : Nat
  va : Word
  intent : Nat
  spec : Bool
  hreg : Nat
  gen : Nat
  xpc : Nat
  runtime : Bool
  /-- the context's XROOT as the instruction read it -/
  xroot : Word
  cur : Cursor := {}
  deriving DecidableEq, Repr

/-- The header fields of a kernel image (R336), with the image's address. -/
structure Image where
  base : Nat := 0
  len : Nat := 0
  entry : Nat := 0
  textOff : Nat := 0
  textLen : Nat := 0
  roOff : Nat := 0
  roLen : Nat := 0
  ctOff : Nat := 0
  ctN : Nat := 0
  ctx : Nat := 1
  tiles : Nat := 0
  banks : Nat := 0
  handles : Nat := 0
  ckpt : Bool := false
  queues : Nat := 0
  semLo : Nat := 255
  semHi : Nat := 0
  xbarrays : Nat := 0
  handler : Option Nat := none
  deriving DecidableEq, Repr

/-- What a remote-call message carries (R398). -/
structure CallMsg where
  fn : Nat
  off : Word
  args : List SVal
  target : Handle
  extra1 : Option Handle
  extra2 : Option Handle
  seq : Nat
  /-- the number of the call among those of its core, of which SEQ is the low part (R408) -/
  nth : Nat
  chip : Nat
  core : Nat
  ctx : Nat
  slot : Nat
  deadline : Nat
  /-- the caller's task, for its work counters, and the kernel image that holds the callable -/
  task : Nat
  img : Image
  /-- a cq6 command, by queue entry id -/
  cmd : Option Nat := none
  deriving DecidableEq, Repr

/-- A revocation in progress (R221, R223): what it selects, in which scope, and which accesses it waits for. -/
structure Revoke where
  id : Nat
  core : Nat
  ctx : Nat
  step : Nat
  /-- mode of `tlbinv`: 0 page, 1 space, 2 all; 3 a physical quarter (R226) -/
  mode : Nat
  va : Word := 0
  space : Nat := 0
  quarter : Nat := 0
  dev : Bool := true
  /-- the clear has taken effect -/
  cleared : Bool := false
  /-- the predicate of `tlbinv`, or the migration that waits -/
  pd : Option RegId := none
  mig : Option Nat := none
  /-- accesses, commands and calls that were in flight at the clear -/
  accs : List Nat := []
  cmds : List Nat := []
  calls : List (Nat × CallMsg) := []
  deriving DecidableEq, Repr

/-- A migration in progress (R222). `stage` 0 walk, 1 revoking, 2 copying: the next line, and whether one was poisoned. -/
structure Mig where
  id : Nat
  core : Nat
  ctx : Nat
  step : Nat
  va : Word
  dst : Nat
  /-- the register of its status, none where its context has been cancelled (R375) -/
  reg : Option RegId
  xroot : Word
  stage : Nat := 0
  cur : Cursor := {}
  leafAt : Nat := 0
  src : Nat := 0
  size : Nat := 0
  line : Nat := 0
  po : Bool := false
  deriving DecidableEq, Repr

/-- A TLB entry: space, size, virtual page number and the leaf as read (R214). -/
structure TlbEntry where
  space : Nat
  size : Nat
  vpn : Nat
  leaf : Word
  deriving DecidableEq, Repr

/-- A read-only cache line: its device physical line address and bytes (R177). -/
structure RoLine where
  addr : Nat
  bytes : List Byte
  deriving DecidableEq, Repr

/-- What a copy has in hand (R251, R259): the next `n` items, the source bytes that they read and those that have come, each with its poison,
and the pieces of the destination still to be issued. `mask` is an EXPAND block's, once read; `codes` are its elements under SCATTERADD. -/
structure Batch where
  n : Nat
  /-- handle register and offset of the source bytes, and their number -/
  h : Nat := 0
  off : Nat := 0
  len : Nat := 0
  got : List (Byte × Bool) := []
  mask : Option Nat := none
  codes : List Nat := []
  /-- pieces to issue: destination offset and bytes -/
  ready : Bool := false
  out : List (Nat × List (Byte × Bool)) := []
  /-- some of its pieces have been issued and some not -/
  part : Bool := false
  comp : Nat := 0
  flags : FlagBits := 0
  /-- a row of the KV map: present, masked as absent, and written as zeros -/
  ok : Bool := true
  masked : Bool := false
  zero : Bool := false
  deriving DecidableEq, Repr

/-- A beat of a copy that writes and has not performed (R251): its command, its place, and its bytes with their poison. -/
structure Beat where
  id : Nat
  core : Nat
  q : Nat
  cmd : Nat
  dst : Option Nat
  lo : Nat
  data : List (Byte × Bool)
  deriving DecidableEq, Repr

/-- A row or vector of a crossbar command whose input has been read: the bytes, whether one is poisoned, the times from which its row or
conversion runs and at which it ends, in units of 1/36 ns, and the index of its free values (R292). -/
structure Input where
  bytes : List Byte := []
  poison : Bool := false
  at_ : Nat
  due : Nat
  drawn : Nat
  deriving DecidableEq, Repr

/-- A command of a queue (R230 to R236), with the progress of its engine. `st`: 0 queued, 1 started, 2 ended and waiting for its record,
3 record performed and waiting for its signal. -/
structure Cmd where
  id : Nat
  ctx : Nat
  task : Nat
  w0 : Word
  w1 : Word
  w2 : Word
  w3 : Word
  st : Nat := 0
  /-- handle snapshots by register number; a register pending at the push is listed in `waits` with the step that marked it (R255) -/
  snaps : SMap Handle := []
  waits : List (Nat × Nat) := []
  /-- the snapshots that a revocation has cleared -/
  revoked : List Nat := []
  /-- the step and the cycle of the push -/
  step : Nat := 0
  pushed : Nat := 0
  /-- the wait has been granted (R238); the cycle in which every start condition of a crossbar command first held (R292) -/
  granted : Bool := false
  taken : Option Nat := none
  /-- the cycle in which its wait was armed (R238) -/
  armedAt : Nat := 0
  /-- it has started and its start checks are still to be made (R234, R256); it started before a save and starts again (R270, R293) -/
  unchecked : Bool := false
  again : Bool := false
  /-- a tagged copy: the releases it is held for, and whether an arrival covers it (R354, R355) -/
  heldFor : List (Nat × Nat) := []
  covered : Bool := false
  /-- cycle of the start; the time in units of 1/36 ns from which the next row or vector may run (R292) -/
  startAt : Nat := 0
  tAt : Nat := 0
  /-- the next item, row or vector; compressed bytes; flags of roundings (R259) -/
  items : Nat := 0
  comp : Nat := 0
  flags : FlagBits := 0
  /-- terminal status, DETAIL and PROG (R235), and the cycles of the last write and of the record -/
  status : Nat := 0
  detail : Nat := 0
  prog : Nat := 0
  lastAt : Nat := 0
  endAt : Nat := 0
  /-- the context was cancelled or killed after the start (R270, R293) -/
  stopping : Bool := false
  /-- the task is being saved: the command starts and begins no further item, row or vector (R324) -/
  hold : Bool := false
  /-- the command binds its channel's watermark (R271) -/
  wm : Bool := false
  /-- a copy's items in hand; START and the compressed length of the words before a save moved them; a beat was lost on a link (R421) -/
  batch : Option Batch := none
  first : Nat := 0
  compBase : Nat := 0
  lost : Bool := false
  /-- KV map: the descriptor words 0 to 3 as read at the start, rows masked, validity bits of the items from START (R266, R450) -/
  kv : List Word := []
  masked : Nat := 0
  stale : Bool := false
  bits : List Bool := []
  /-- crossbar: the array that it runs on, 32 while it has none, the next row of the reference pass, mismatches or stuck cells or clamps, the largest number of
  iterations, an INT32 result saturated, the counts of a report, and whether the command holds its tile (R160, R284 to R291) -/
  arr : Nat := 32
  refRow : Nat := 1024
  cnt : Nat := 0
  iter : Nat := 0
  sat : Bool := false
  counts : SMap Nat := []
  tileOk : Bool := false
  /-- inputs read and not yet used; spans of the delivered vector still to be written: offset and bytes
  (R292); DTHR and DHARD as the start found them (R298) -/
  buf : List Input := []
  out : List (Nat × List Byte) := []
  lims : Nat × Nat := (8, 64)
  /-- the values that the callee of a cq6 command returned (R414) -/
  values : List SVal := []
  /-- the callee of a cq6 command has ended (R413), or a host-notify command's note has entered the holding buffer (R249) -/
  note : Bool := false
  deriving DecidableEq, Repr

/-- A command queue (R230, R240): entries in push order, LAST, and for a copy channel the cycle of its next beat (R251). -/
structure Queue where
  cmds : List Cmd := []
  last : Nat := 0
  beatAt : Nat := 0
  deriving DecidableEq, Repr

/-- A watermark (R271): `st` 0 FREE, 1 ARMED, 2 BOUND. -/
structure WMark where
  st : Nat := 0
  wb : Nat := 0
  we : Nat := 0
  wk : Nat := 0
  /-- written bytes of the bound command beyond WK, as ranges -/
  done : List (Nat × Nat) := []
  /-- the cycle in which WK last moved, and WK before it (R272) -/
  movedAt : Nat := 0
  old : Nat := 0
  deriving DecidableEq, Repr

/-- An armed wait (R238, R241). -/
structure Armed where
  que : Bool
  who : Nat
  dec : Bool
  idx : Nat
  thr : Nat
  /-- the cycle in which it was armed -/
  at_ : Nat
  deriving DecidableEq, Repr

/-- Crossbar array states, in the order of their codes (R296). -/
inductive XState where
  | empty | programming | verified | active | shadow | drifting | degraded | retired
  deriving DecidableEq, Repr

/-- A crossbar array (R276 to R303). -/
structure XArr where
  st : XState := .empty
  /-- cell levels by row and physical bit line, default 0 -/
  cells : SMap (SMap Nat) := []
  cal : Bool := false
  kcal : Nat := 0
  pgm : BitVec 16 := 0
  /-- PAIR, held on the even array -/
  pair : Bool := false
  dthr : Nat := 8
  dhard : Nat := 64
  /-- remap table: spare number to data position plus one; 0 not mapped -/
  spare : SMap Nat := []
  /-- row program counts -/
  rows : SMap Nat := []
  total : Nat := 0
  /-- COEF of a slice column as (OFF, G), default (0, 0x4000); CLIP as (flag, count) -/
  coef : SMap (Int × Nat) := []
  clip : SMap (Bool × Nat) := []
  /-- D and its channel, and TIMEBASE of the last XBPROBE or passing XBCAL (R296) -/
  d : Nat := 0
  qmax : Nat := 0
  tprobe : Nat := 0
  swdrop : Bool := false
  /-- an accepted swap that names the array, an accepted retirement, waiting to take effect (R295, R300) -/
  swapPend : Bool := false
  retPend : Bool := false
  /-- the cycle of that acceptance, and the first cycle in which the last command that ran on the array has ended (R292, R295) -/
  pendAt : Nat := 0
  freed : Nat := 0
  /-- channels whose registers hold a parity error (R293) -/
  parity : SMap Bool := []
  deriving DecidableEq, Repr

/-- A watchpoint (R326): `st` 0 FREE, 1 ARMED, 2 HIT. `launch` binds a fixed-level selector (R327). -/
structure Watch where
  st : Nat := 0
  owner : Nat := 0
  sp : Bool := false
  kinds : Nat := 0
  dsel : Nat := 0
  addr : Nat := 0
  launch : Nat := 0
  hit : Word := 0
  hitAt : Nat := 0
  deriving DecidableEq, Repr

/-- A preload (R349): the launch record it belongs to, its banks, and whether something has been written into them or into the shadow
since. -/
structure Preload where
  lq : Nat
  seq : Nat
  banks : Nat
  stale : Bool := false
  deriving DecidableEq, Repr

/-- One core (R13). -/
structure Core where
  /-- contexts 0 to 3 -/
  ctx : SMap Ctx := []
  /-- instruction memory and its preload shadow, unlisted bytes 0 (R51, R349) -/
  imem : SMap Byte := []
  shadow : SMap Byte := []
  pre : Option Preload := none
  /-- scratchpad bytes, and the numbers of its poisoned 64-bit words (R168, R174) -/
  spad : SMap Byte := []
  spadPoison : SMap Bool := []
  /-- the bytes written in cycle `wrAt`, each with the priority of its writer and its value before that cycle (R204) -/
  wrAt : Nat := 0
  wr : SMap (Nat × Byte) := []
  /-- the cycle from which the engine port of a bank is free (R168) -/
  port : SMap Nat := []
  tiles : SMap Tile := []
  act : Plane := {}
  shd : Plane := {}
  planeHolder : Option Nat := none
  mq : List MOp := []
  pipe : List MRow := []
  /-- the cycle in which the last row entered the matrix unit, plus one -/
  rowAt : Nat := 0
  roc : List RoLine := []
  tlb1 : List TlbEntry := []
  tlb2 : List TlbEntry := []
  xroot : SMap Word := []
  xfault : SMap Word := []
  ctxsave : SMap Word := []
  wps : SMap Watch := []
  sems : SMap Nat := []
  armed : List Armed := []
  /-- the semaphore unit has granted in this cycle (R238); the `semget` of this cycle: context, step, register and index (R240) -/
  swept : Bool := false
  sget : Option (Nat × Nat × RegId × Nat) := none
  queues : SMap Queue := []
  wms : SMap WMark := []
  xb : SMap XArr := []
  /-- calls made: SEQ is its low 16 bits (R398, R408) -/
  seq : Nat := 0
  /-- halyard states 0 to 17 (R225), default 0 for data halyards; spares hold 5 when idle -/
  hal : SMap Nat := []
  /-- quarter served by spare 16 and by spare 17 -/
  sp16 : Option Nat := none
  sp17 : Option Nat := none
  lostq : BitVec 16 := 0
  retq : BitVec 16 := 0
  /-- halyards with a steer command waiting for a quiesce point (R226, R227) -/
  steer : List Nat := []
  /-- the issue unit: the running context, the cycle in which it left the context before, the cycle of its last issue and the context
  that issued then (R91, R92) -/
  cur : Option Nat := none
  leftAt : Nat := 0
  lastIssue : Nat := 0
  lastCtx : Option Nat := none
  /-- the READY context taken on leaving `cur`, which issues once the switch is over (R91, R92) -/
  nextCtx : Option Nat := none
  /-- what the test access registers hold (R70); the specification does not number them -/
  test : SMap Word := []
  inReset : Bool := true
  deriving DecidableEq, Repr

/-- A launch record as it stands in a launch queue (R243, R245): its SEQ, words, reruns and, for a checkpointed task, where it was
saved. -/
structure Record where
  seq : Nat
  words : List Word
  lq : Nat
  reruns : Nat := 0
  resume : Option Nat := none
  deriving DecidableEq, Repr

/-- A launch queue (R244): records in arrival order and its registers. -/
structure LQueue where
  recs : List Record := []
  en : Bool := false
  policy : Bool := false
  thr : List Nat := [256, 256, 256, 256, 256, 256, 256, 256]
  shedc : Nat := 0
  refused : Nat := 0
  deriving DecidableEq, Repr

/-- What a context keeps over a checkpoint beside its save block: its program's step (R76), the causes that it has not taken (R314, R332), a
`bsync` that holds it (R359), and its grace count (R374). -/
structure Kept where
  pstep : Nat := 0
  watch : Option Word := none
  budget : Bool := false
  stepTrap : Bool := false
  sync : Option Nat := none
  grace : Nat := 0
  deriving DecidableEq, Repr

/-- A placed task (R340 to R351). -/
structure Task where
  launch : Nat
  core : Nat
  ctxs : List Nat
  img : Image
  /-- physical tiles reserved for it, in logical order -/
  tiles : List Nat
  tb : Nat
  sib : Option Nat := none
  budget : Nat := 0
  unlimited : Bool := true
  consumed : Nat := 0
  /-- BUDGET has reached 0 from a nonzero value, and its contexts have not yet received the cause (R344) -/
  expired : Bool := false
  est : Nat := 0
  estAt : Nat := 0
  /-- the number of its placement, later ones greater (R345) -/
  placedAt : Nat := 0
  /-- it is being drained, for the records with these SEQs (R345) -/
  drain : List Nat := []
  saving : Bool := false
  ended : Bool := false
  noted : Bool := false
  /-- its contexts, tiles and other resources have been released (R310) -/
  freed : Bool := false
  /-- checkpointed: its arrivals by context, its commands by queue and the watermarks of its channels (R324) -/
  saved : Bool := false
  /-- the save blocks of its contexts -/
  bases : List Nat := []
  /-- the addresses of its pending translation faults by context, and the index of the context that held the planes -/
  xvas : List (List Word) := []
  planes : Option Nat := none
  arrs : List (SMap Arrival) := []
  cmds : List (Nat × Cmd) := []
  marks : SMap WMark := []
  kept : List Kept := []
  /-- cancelled by the ballot: the work is reclaimed (R377) -/
  cancelledSib : Bool := false
  /-- work counters CW0 to CW4 (R378) -/
  cw0 : Nat := 0
  cw1 : Nat := 0
  cw2 : Nat := 0
  cw3 : Nat := 0
  cw4 : Nat := 0
  deriving DecidableEq, Repr

/-- A launch in progress (R339 to R348, R366). -/
structure Launch where
  seq : Nat
  lq : Nat
  words : List Word
  kid : Nat
  cls : Nat
  img : Image
  tasks : List Nat
  reruns : Nat := 0
  status : Nat := 0
  cause : Nat := 0
  failed : Bool := false
  retry : Bool := false
  killed : Bool := false
  cycles : Nat := 0
  dom : Option Nat := none
  formed : Bool := false
  ballot : Option Nat := none
  ended : Bool := false
  deriving DecidableEq, Repr

/-- A completion record or a host note waiting in the holding buffer (R247, R248). `slot` frees a ballot slot, `cmd` ends a cq7
command when it has performed. -/
structure CRec where
  words : List Word
  slot : Option Nat := none
  cmd : Option (Nat × Nat) := none
  deriving DecidableEq, Repr

/-- A custom domain's registers (R363). Masks are keyed by core. -/
structure Domain where
  valid : Bool := false
  launch : Bool := false
  chips : Nat := 0
  cores : BitVec 128 := 0
  ctxs : SMap Nat := []
  deriving DecidableEq, Repr

/-- Barrier states, in the order of their codes (R361). -/
inductive BState where
  | compute | arriving | delivering
  deriving DecidableEq, Repr

/-- A barrier (R353). Members are context keys (4 × core + context). -/
structure Barrier where
  phase : Nat := 0
  st : BState := .compute
  members : List Nat := []
  /-- counted in this phase, and permanently arrived -/
  arrived : List Nat := []
  perm : List Nat := []
  /-- an arrival of this phase was a permanent one -/
  anyPerm : Bool := false
  /-- copy commands that the phase's arrivals cover (R354) -/
  covered : List Nat := []
  /-- new membership to apply at the release (R357) -/
  newMembers : Option (List Nat) := none
  /-- the release of the domain's home chip has come (R424) -/
  far : Bool := false
  deriving DecidableEq, Repr

/-- A tracked hash of a ballot slot (R368). -/
structure Hash where
  x : Word
  votes : Nat
  first : Nat
  low : Nat
  deriving DecidableEq, Repr

/-- Ballot states, in the order of their codes (R381). -/
inductive GState where
  | open | voting | decided | exhausted | closed
  deriving DecidableEq, Repr

/-- A ballot slot (R368 to R381); `none` in the file of slots is a free slot. -/
structure Ballot where
  launch : Nat
  st : GState := .open
  q : Nat
  n : Nat
  hashes : List Hash := []
  posted : List Nat := []
  cancelled : List Nat := []
  ended : List Nat := []
  other : Nat := 0
  late : Nat := 0
  dup : Nat := 0
  abst : Nat := 0
  winner : Word := 0
  winsib : Nat := 0xFF
  winvotes : Nat := 0
  tie : Bool := false
  nowin : Bool := false
  poolovf : Bool := false
  rcerr : Bool := false
  cw : List Nat := [0, 0, 0, 0, 0]
  reclaimed : List Nat := []
  /-- the cycle of the last event at the unit and its place in the order of R369 -/
  at_ : Nat := 0
  place : Nat := 0
  deriving DecidableEq, Repr

/-- A call slot of an executor (R394, R401). -/
structure CallSlot where
  id : Nat
  msg : CallMsg
  s : SMap SVal := []
  p : SMap Bool := []
  /-- bundle byte offset in `.text`, and the word within the bundle -/
  pc : Nat
  word : Nat := 0
  words : Nat := 0
  /-- the time, in units of 1/36 ns, from which the next word may execute -/
  readyAt : Nat := 0
  /-- an access word under way: its address and the 8-byte words that have performed, each with its poison (R171) -/
  part : Option (Nat × List (List Byte × Bool)) := none
  /-- a read of device control is on its way, and what it has brought -/
  asked : Bool := false
  back : Option (List Byte) := none
  deriving DecidableEq, Repr

/-- A store of a callee to a home other than the executor's that has not performed, or its read of a device-control register (R404);
`target` where it writes the call's target page (R200). -/
structure CallStore where
  id : Nat
  call : Nat
  agent : Agent
  addr : Nat
  data : List Byte
  target : Bool := false
  read : Bool := false
  deriving DecidableEq, Repr

/-- An executor (R394, R408). -/
structure Exec where
  slots : SMap CallSlot := []
  buf : List (Nat × CallMsg) := []
  /-- accepted chip, core and number of the call, newest first (R408) -/
  seen : List (Nat × Nat × Nat) := []
  deriving DecidableEq, Repr

/-- Messages between units that are on their way. -/
inductive Msg where
  | call (e : ExecId) (m : CallMsg)
  | reply (m : CallMsg) (id : Nat) (status cause : Nat) (vals : List SVal) (pend : Bool)
  | notice (m : CallMsg)
  | post (slot sib : Nat) (x : Word) (core ctx step : Nat) (reg : Option RegId)
  | gcancel (slot core : Nat) (mask : Word)
  | endNotice (slot sib : Nat)
  | pennant (core ctx task : Nat)
  | arrival (bar key step : Nat) (cmds : List Nat)
  | release (bar key phase : Nat) (full : Bool)
  | guidon (core ctx hitAt due : Nat) (own : Option Word)
  | freeze (core ctx due : Nat)
  deriving DecidableEq, Repr

/-- A message on its way, with the cycle it was sent in. -/
structure InMsg where
  id : Nat
  at_ : Nat
  msg : Msg
  deriving DecidableEq, Repr

/-- What traffic carries to another chip (R416): copy beats, their read data and the lines of `pgmig` on channel 0; calls, replies and notices on
channel 1; arrivals, releases and changes of multi-chip domains on channel 2. Addresses are those of the chip that it goes to. -/
inductive LinkItem where
  | write (addr : Nat) (data : List Byte)
  | read (chip addr n : Nat)
  | data (bs : List Byte)
  | call (m : CallMsg)
  | reply (m : CallMsg) (id status cause : Nat) (vals : List SVal) (pend : Bool)
  | notice (m : CallMsg)
  | arrival (dom : Nat)
  | release (dom : Nat)
  | domain (dom : Nat) (op : Word)
  deriving DecidableEq, Repr

/-- An item with the chip it goes to and the hops that its path has taken (R423). -/
structure Parcel where
  chip : Nat
  hops : Nat
  item : LinkItem
  deriving DecidableEq, Repr

/-- The payload of a flit that carries a parcel, of which the first 240 bytes count, and the parcel that a payload carries: the specification
gives payloads no layout (R416, log entry 34). -/
opaque Config.payload : Parcel → List Byte
opaque Config.parcel : List Byte → Option Parcel

/-- Link states, in the order of their codes (R422). -/
inductive LState where
  | down | training | up | degraded | repairing | failed
  deriving DecidableEq, Repr

/-- A Gleilo link (R416 to R422). -/
structure Link where
  st : LState := .down
  en : Bool := false
  peer : Nat := 0
  width : Nat := 0
  spused : Nat := 0
  retln : BitVec 18 := 0
  /-- lanes that work -/
  good : Nat := 16
  replay : Nat := 0
  crcerr : Nat := 0
  /-- state to return to after a repair, the failing lane -/
  back : LState := .up
  badLane : Nat := 0
  trainAt : Nat := 0
  /-- expected number of the next flit, replays of it in a row -/
  expect : Nat := 0
  tries : Nat := 0
  discarding : Bool := false
  /-- receive buffers of the three channels, STOP sent, and STOP received -/
  rx : SMap (List (List Byte)) := []
  stopTx : BitVec 3 := 0
  stopRx : BitVec 3 := 0
  /-- parcels of each channel that wait for a flit; flits sent and not acknowledged, at most 512 (R418); the number of the next flit -/
  out : SMap (List Parcel) := []
  retry : List Flit := []
  txSeq : Nat := 0
  deriving DecidableEq, Repr

/-- A monitor point (R440). Edges in force change at START (R441). -/
structure Mon where
  edges : List Nat := List.replicate 15 0xFFFF
  next : List Nat := List.replicate 15 0xFFFF
  cur : Nat := 0
  min : Nat := 0
  max : Nat := 0
  bins : SMap Nat := []
  deriving DecidableEq, Repr

/-- Power states (R25, R436). -/
inductive Power where
  | off | standby | idle | a0 | a1 | a2 | a3
  deriving DecidableEq, Repr

/-- The management controller and the root of trust (R434 to R444). -/
structure Mgmt where
  power : Power := .standby
  target : Power := .standby
  trip : Bool := false
  tripSeen : Bool := false
  capEn : Bool := false
  capHold : Bool := false
  capW : Nat := 0
  refusals : Nat := 0
  overCount : Nat := 0
  overEsc : Bool := false
  belowSince : Option Nat := none
  /-- MBSTAT -/
  mbst : Nat := 0
  reason : Nat := 0
  result : Nat := 0
  arg0 : Word := 0
  arg1 : Word := 0
  op : Nat := 0
  /-- how the running command will end: STATE, REASON and RESULT -/
  outcome : Option (Nat × Nat × Nat) := none
  /-- a POWER command is under way, and the trip fired during it -/
  moving : Bool := false
  tripped : Bool := false
  freeze : Bool := false
  drop : Nat := 0
  mons : SMap Mon := []
  measure : BitVec 512 := 0
  measures : Nat := 0
  /-- the last reading of each logic-die sensor, by monitor point (R439) -/
  temps : SMap Nat := []
  /-- clamps of the current microsecond by monitor point (R290, R440) -/
  clamps : SMap Nat := []
  /-- the firmware and the runtime image that FWLOAD has loaded; none: those of the device as it was delivered -/
  firmware : Option (List Byte) := none
  runtime : Option (List Byte) := none
  runtimeOk : Bool := true
  deriving DecidableEq, Repr

/-- An error-escalation record to the management controller and the host (R15 point 4, R320). -/
structure Escalation where
  what : String
  core : Nat := 0
  ctx : Nat := 0
  runtime : Bool := false
  hdl : Bool := false
  cause : Nat := 0
  mask : Nat := 0
  pc : Nat := 0
  addr : Nat := 0
  deriving DecidableEq, Repr

/-- What happens next: an event of the table, the issue of a core, or the end of the core-clock cycle. The model's own (log entry 3). -/
inductive Turn where
  | event (i : Instr)
  | issue (core : Nat)
  | tick
  deriving DecidableEq, Repr

/-- The verdict of a slot of the bundle in progress. -/
inductive Verdict where
  /-- decode fault with its cause (R68) -/
  | decode (cause : Nat)
  /-- execution fault with its cause and, where it has one, BADADDR (R84) -/
  | fault (cause : Nat) (bad : Option Word)
  /-- block or hold (R79, R192) -/
  | block (ws : List Wait)
  deriving DecidableEq, Repr

/-- What a committed bundle does after its commit. -/
inductive After where
  | trap (cause : Nat) (bad : Option Word)
  | escalate (code : Nat)
  | rte
  | upcall
  | handlerReturn
  | done
  deriving DecidableEq, Repr

/-- The bundle in progress: the core and context that issue, the slot and guard of the word that runs, and what the slots so far
have found. The model's own (log entry 4). -/
structure Issue where
  core : Nat := 0
  ctx : Nat := 0
  slot : Nat := 0
  guard : Guard := ⟨false, 0⟩
  opened : Bool := false
  verdicts : List (Nat × Verdict) := []
  target : Option Nat := none
  after : List After := []
  canpt : Bool := false
  /-- number of slot words of the bundle that are not `nop` -/
  words : Nat := 1
  /-- the bundle commits under `step` (R332) -/
  stepping : Bool := false
  /-- the reply slots as they stood when the bundle was opened (R85, R410) -/
  y0 : SMap Reply := []
  deriving DecidableEq, Repr

/-- The device. -/
structure State where
  /-- the model's own: what happens next, oldest first (log entry 3) -/
  agenda : List Turn := []
  /-- the model's own: the bundle in progress -/
  iss : Issue := {}
  /-- core-clock cycles, and time in units of 1/36 ns: TIMEBASE is `now / 36` (R62, R437) -/
  cycle : Nat := 0
  now : Nat := 0
  /-- the model's own: next identifier, and the count of free values drawn -/
  ids : Nat := 0
  frees : Nat := 0
  /-- the model's own: an event has run in this cycle since the bundles of the cycle could issue (R92, log entry 3) -/
  begun : Bool := false
  cores : SMap Core := []
  /-- device memory by device physical address, peer chips' memory in tier 10 included; poison by 64-byte line number -/
  mem : SMap Byte := []
  poison : SMap Bool := []
  /-- 8-byte words marked EMPTY, by word number (R414) -/
  empty : SMap Bool := []
  /-- host memory by host physical address -/
  host : SMap Byte := []
  accs : List Access := []
  groups : List Group := []
  lands : List Land := []
  walks : List Walk := []
  revokes : List Revoke := []
  migs : List Mig := []
  msgs : List InMsg := []
  tasks : SMap (Option Task) := []
  launches : SMap (Option Launch) := []
  lqs : SMap LQueue := []
  /-- launch records in the aperture waiting for acceptance (R202): queue and words -/
  aperture : List (Nat × List Word) := []
  /-- the aperture's next SEQ (R247) -/
  seq : Nat := 0
  crBase : Word := 0
  crEn : Bool := false
  crLog : Nat := 5
  crHead : Nat := 0
  crTail : Nat := 0
  holding : List CRec := []
  ktBase : Word := 0
  preempt : Bool := true
  preload : Bool := true
  drainThr : Nat := 100000
  grace : Nat := 65536
  hwBase : Word := 0
  chipRoute : Word := 0
  chip : Nat := 0
  doms : SMap Domain := []
  bars : SMap (Option Barrier) := []
  ballots : SMap (Option Ballot) := []
  vaultEx : SMap Exec := []
  hbmEx : SMap Exec := []
  callStores : List CallStore := []
  /-- beats of copies that have been issued and have not performed (R251) -/
  beats : List Beat := []
  /-- calls to peer chips that have neither been answered nor been reported LOST, by identifier (R223, R398) -/
  away : List (Nat × CallMsg) := []
  /-- calls that replied with PEND and wait for their stores (R408) -/
  pendCalls : List (Nat × CallMsg) := []
  links : SMap Link := []
  mg : Mgmt := {}
  escs : List Escalation := []
  /-- MSI-X vectors sent: vector 0, vector 1 (R426) -/
  msix0 : Nat := 0
  msix1 : Nat := 0
  /-- the last value a register or host read returned to the host or through BAR (R425): the model's window on reads -/
  hostRead : List Byte := []
  deriving DecidableEq, Repr

/-- The machine right after reset of the device at power-up: the management plane in STANDBY (R436), every register at its reset
value, nothing placed. -/
def State.reset : State := {}

end Sys2Proof.Machine
end

