-- ==== Sys2Proof/Machine/Ops.lean ====
section
/-! DEFINITION. The named operations over registers and contexts, and the issue of a bundle: reading and writing registers, results in
flight, freeze and reinjection (R80 to R90), the opening and closing of a bundle (R78, R84), and taking a trap and returning from
one (R313 to R320), each written once. -/

namespace Sys2Proof.Machine

/-! ### Cores and contexts -/

def State.core (s : State) (c : Nat) : Core := s.cores.get {} c

def State.setCore (s : State) (c : Nat) (k : Core) : State := { s with cores := s.cores.put {} c k }

def State.updCore (s : State) (c : Nat) (f : Core → Core) : State := s.setCore c (f (s.core c))

def State.cx (s : State) (c x : Nat) : Ctx := (s.core c).ctx.get {} x

def State.setCx (s : State) (c x : Nat) (v : Ctx) : State :=
  s.updCore c fun k => { k with ctx := k.ctx.put {} x v }

def State.updCx (s : State) (c x : Nat) (f : Ctx → Ctx) : State := s.setCx c x (f (s.cx c x))

/-- The context that issues. -/
def State.me (s : State) : Ctx := s.cx s.iss.core s.iss.ctx

def State.updMe (s : State) (f : Ctx → Ctx) : State := s.updCx s.iss.core s.iss.ctx f

/-- The core that issues. -/
def State.myCore (s : State) : Core := s.core s.iss.core

def State.updMyCore (s : State) (f : Core → Core) : State := s.updCore s.iss.core f

/-- The task of a context, if it has one. -/
def State.taskOf (s : State) (c x : Nat) : Option Task := (s.cx c x).task.bind fun t => s.tasks.get none t

def State.myTask (s : State) : Option Task := s.taskOf s.iss.core s.iss.ctx

def State.updTask (s : State) (t : Nat) (f : Task → Task) : State :=
  { s with tasks := s.tasks.put none t ((s.tasks.get none t).map f) }

def State.launchOf (s : State) (c x : Nat) : Option Launch := (s.taskOf c x).bind fun t => s.launches.get none t.launch

def State.updLaunch (s : State) (l : Nat) (f : Launch → Launch) : State :=
  { s with launches := s.launches.put none l ((s.launches.get none l).map f) }

/-- TIMEBASE: ticks of the 1 GHz reference (R62). -/
def State.timebase (s : State) : Nat := s.now / 36

/-- A fresh identifier. -/
def State.newId (s : State) : Nat × State := (s.ids, { s with ids := s.ids + 1 })

/-- A draw of a free value: the number of the draw. -/
def State.draw (s : State) : Nat × State := (s.frees, { s with frees := s.frees + 1 })

/-- A record through error escalation, with MSI-X vector 1 (R15 point 4, R320, R426). -/
def State.escalate (s : State) (e : Escalation) : State := { s with escs := s.escs ++ [e], msix1 := s.msix1 + 1 }

/-- A message leaves for another unit. -/
def State.sendMsg (s : State) (m : Msg) : State :=
  { s with msgs := s.msgs ++ [⟨s.ids, s.cycle, m⟩], ids := s.ids + 1 }

/-- The key of a context in lists of members: 4 × core + context. -/
def ctxKey (c x : Nat) : Nat := 4 * c + x

/-! ### Registers (R59 to R64) -/

def Ctx.inTrap (x : Ctx) : Bool := x.mode || x.hdl

def Ctx.ctlGet (x : Ctx) (n : Nat) : Word := x.ctl.get 0 n

def Ctx.ctlPut (x : Ctx) (n : Nat) (w : Word) : Ctx := { x with ctl := x.ctl.put 0 n w }

/-- RRB as visible (R62). -/
def Ctx.rrb (x : Ctx) : Nat := (x.ctlGet 5).toNat % 32

/-- The physical vector register that a field reaches (R60). -/
def physV (rrb n : Nat) : Nat := if n < 32 then n else 32 + (n + 32 - rrb % 32) % 32

/-- The physical predicate that a field reaches (R60). -/
def physP (rrb n : Nat) : Nat := if n < 8 then n else 8 + (n + 32 - rrb % 32) % 8

/-- The scalar a field reaches, the runtime bank in RUNTIME mode (R312). -/
def Ctx.sReg (x : Ctx) (n : Nat) : RegId := if x.mode && decide (56 ≤ n ∧ n ≤ 62) then .sR n else .s n

/-- The predicate a field reaches (R60, R312). -/
def Ctx.pReg (x : Ctx) (n : Nat) : RegId := if x.mode && decide (n = 6 ∨ n = 7) then .pR n else .p (physP x.rrb n)

def Ctx.vReg (x : Ctx) (n : Nat) : RegId := .v (physV x.rrb n)

/-- s0 reads 0 (R61). -/
def Ctx.readS (x : Ctx) (n : Nat) : SVal :=
  if n = 0 then {} else if x.mode && decide (56 ≤ n ∧ n ≤ 62) then x.sR.get {} n else x.s.get {} n

/-- p0 reads 1 (R59). -/
def Ctx.readP (x : Ctx) (n : Nat) : Bool :=
  if n = 0 then true else if x.mode && decide (n = 6 ∨ n = 7) then x.pR.get false n else x.p.get false (physP x.rrb n)

def Ctx.readV (x : Ctx) (n : Nat) : VVal := x.v.get {} (physV x.rrb n)

/-- k0 reads all ones (R59). -/
def Ctx.readK (x : Ctx) (n : Nat) : KWord := if n = 0 then BitVec.allOnes 256 else x.k.get (BitVec.allOnes 256) n

def Ctx.readH (x : Ctx) (n : Nat) : Handle := x.h.get {} n

/-- The scalar register of the issuing context. -/
def State.rs (s : State) (n : Nat) : SVal := s.me.readS n

/-- A register receives its value and poison bit; s0, p0 and k0 discard it (R61). A write to STATUS reaches FLUSH and DIAG (R63), one
to TRAPPC sets NFQ to 0 (R313), one to BUDGET waits for `State.flushBudget` to reach the task (R344). -/
def Ctx.write (x : Ctx) (r : RegId) (v : RVal) (po : Bool) : Ctx :=
  match r, v with
  | .s n, .w w => if n = 0 then x else { x with s := x.s.put {} n ⟨w, po⟩ }
  | .sR n, .w w => { x with sR := x.sR.put {} n ⟨w, po⟩ }
  | .p n, .b b => if n = 0 then x else { x with p := x.p.put false n b }
  | .pR n, .b b => { x with pR := x.pR.put false n b }
  | .v n, .v w => { x with v := x.v.put {} n ⟨w, po⟩ }
  | .k n, .k w => if n = 0 then x else { x with k := x.k.put (BitVec.allOnes 256) n w }
  | .h n, .h w => { x with h := x.h.put {} n w }
  | .ctl n, .w w =>
    if n = 0 then { x with flush := w.getLsbD 2, diag := w.getLsbD 3 }
    else if n = 8 then { x.ctlPut 8 w with nfq := 0 }
    else if n = 0x13 then { x with newBudget := some w }
    else x.ctlPut n w
  | _, _ => x

/-- FLAGS := FLAGS or the flags raised (R64). -/
def Ctx.orFlags (x : Ctx) (f : FlagBits) : Ctx :=
  if f = 0 then x else x.ctlPut 1 (x.ctlGet 1 ||| BitVec.zeroExtend 64 f)

/-! ### Results in flight (R80 to R83, R89, R90) -/

/-- The order in which results that are due reach a register: earlier due first, then the lower slot, then the earlier issue, so that
the winner of R83 is written last. -/
def Res.before (a b : Res) : Bool :=
  a.due < b.due || (a.due == b.due && (a.slot < b.slot || (a.slot == b.slot && a.seq ≤ b.seq)))

def insertRes (a : Res) : List Res → List Res
  | [] => [a]
  | b :: r => if a.before b then a :: b :: r else b :: insertRes a r

def sortRes (l : List Res) : List Res := l.foldr insertRes []

/-- Results become visible: the registers first, then the flags of all of them (R64, R81, R83, R108). -/
def Ctx.land (x : Ctx) (l : List Res) : Ctx :=
  let x := (sortRes l).foldl (fun x r => x.write r.reg r.val r.poison) x
  x.orFlags (l.foldl (fun f r => f ||| r.flags) 0)

/-- The results that are due at the context's present step become visible. -/
def Ctx.settle (x : Ctx) : Ctx :=
  let y := x.land (x.inflight.filter fun r => decide (r.due ≤ x.step))
  { y with inflight := x.inflight.filter fun r => !decide (r.due ≤ x.step) }

/-- The pipeline freezes: results in flight move to the snapshot, counted from the next bundle to commit (R89). -/
def Ctx.freeze (x : Ctx) : Ctx :=
  let l := x.inflight.map fun r => { r with due := r.due - x.step + 1 }
  if x.inTrap then { x with inflight := [], snapT := x.snapT ++ l } else { x with inflight := [], snap := x.snap ++ l }

/-- An entry of the snapshot is reinjected unless its REM is 0 or above 18 (R90). -/
def Ctx.back (x : Ctx) (l : List Res) : List Res :=
  (l.filter fun r => decide (1 ≤ r.due ∧ r.due ≤ 18)).map fun r => { r with due := x.step + r.due - 1 }

/-- The context issues again: the snapshot is reinjected (R90). -/
def Ctx.reinject (x : Ctx) : Ctx :=
  if x.inTrap then { x with inflight := x.inflight ++ x.back x.snapT, snapT := [] }
  else { x with inflight := x.inflight ++ x.back x.snap, snap := [] }

/-- Every result in flight lands (R319). -/
def Ctx.landAll (x : Ctx) : Ctx := { (x.land x.inflight) with inflight := [] }

/-- A write to BUDGET that has become visible reaches the task (R108, R344). -/
def State.flushBudget (s : State) (c x : Nat) : State :=
  match (s.cx c x).newBudget with
  | none => s
  | some w =>
    let s := s.updCx c x fun y => { y with newBudget := none }
    match (s.cx c x).task with
    | some t => s.updTask t fun k => { k with budget := w.toNat }
    | none => s

/-- A slot of the bundle in progress issues a result of latency `lat` (R80, R81). -/
def State.emit (s : State) (reg : RegId) (val : RVal) (lat : Nat) (poison : Bool := false) (flags : FlagBits := 0) : State :=
  s.updMe fun x =>
    { x with inflight := x.inflight ++ [⟨reg, val, poison, flags, x.step + lat, s.iss.slot, x.step, x.pstep⟩] }

def State.emitS (s : State) (d : Nat) (w : Word) (lat : Nat) (poison : Bool := false) (flags : FlagBits := 0) : State :=
  s.emit (s.me.sReg d) (.w w) lat poison flags

def State.emitP (s : State) (d : Nat) (b : Bool) (lat : Nat := 1) : State := s.emit (s.me.pReg d) (.b b) lat

def State.emitV (s : State) (d : Nat) (w : VWord) (lat : Nat) (poison : Bool) (flags : FlagBits := 0) : State :=
  s.emit (s.me.vReg d) (.v w) lat poison flags

def State.emitK (s : State) (d : Nat) (w : KWord) (lat : Nat) (flags : FlagBits := 0) : State := s.emit (.k d) (.k w) lat false flags

/-- Flags of a slot that writes no register become visible one step after the commit (R81). -/
def State.emitFlags (s : State) (f : FlagBits) : State := if f = 0 then s else s.emit (.s 0) (.w 0) 1 false f

/-- A destination becomes pending at commit (R82). -/
def State.mark (s : State) (rs : List RegId) : State :=
  s.updMe fun x => { x with pend := x.pend ++ (rs.filter fun r => decide (r ≠ .s 0 ∧ r ≠ .p 0)).map fun r => (r, x.step) }

/-- A pending mark clears. Where two scoreboarded results of one bundle name the same register (the specification does not say), the first
to land clears the marks of both, and the later one overwrites it (log entry 47). -/
def Ctx.unmark (x : Ctx) (r : RegId) (step : Nat) : Ctx := { x with pend := x.pend.filter fun e => !decide (e = (r, step)) }

/-- An earlier result to the same register has not become visible, so that a scoreboarded result of `step` must wait (R82). -/
def Ctx.earlierResult (x : Ctx) (r : RegId) (step : Nat) : Bool :=
  (x.inflight ++ x.snap ++ x.snapT).any fun e => decide (e.reg = r ∧ e.seq < step)

/-! ### Semaphores (R237 to R239) -/

def Core.sem (k : Core) (n : Nat) : Nat := k.sems.get 0 n

def Core.setSem (k : Core) (n v : Nat) : Core := { k with sems := k.sems.put 0 n v }

/-- Saturating add of a signal (R236, R240). -/
def Core.semAdd (k : Core) (n v : Nat) : Core := k.setSem n (Nat.min (k.sem n + v) (2 ^ 32 - 1))

/-- The reserved decrement of a context returns to its semaphore (R239). -/
def State.returnResv (s : State) (c x : Nat) : State :=
  match (s.cx c x).resv with
  | none => s
  | some (n, v) => (s.updCore c fun k => k.semAdd n v).updCx c x fun y => { y with resv := none }

/-- The armed wait of a context is removed (R375). -/
def State.disarm (s : State) (c x : Nat) : State :=
  s.updCore c fun k => { k with armed := k.armed.filter fun a => a.que || decide (a.who ≠ x) }

/-! ### Conditions that hold a bundle -/

def rangesMeet (lo hi lo' hi' : Nat) : Bool := decide (lo < hi' ∧ lo' < hi)

/-- The accesses of a context that have not performed. -/
def State.accsOf (s : State) (c x : Nat) : List Access := s.accs.filter fun a => decide (a.core = c ∧ a.ctx = x)

/-- An access is local when its home is the context's own scratchpad and it is no message (R167). -/
def Access.isLocal (a : Access) : Bool :=
  match a.place with
  | .spad .. => !a.send
  | .phys _ => false

def Access.isFar (a : Access) : Bool := !a.isLocal && !a.near

/-- Byte `i` of the access is one that it touches: under a mask, an active byte lane (R173, R174). -/
def Access.touchesByte (a : Access) (i : Nat) : Bool :=
  match a.op with
  | .store data => ((data[i]?).getD none).isSome
  | _ => decide (i < a.n)

/-- A local store that has not performed writes a byte from `lo` up to `hi`. -/
def Access.storesIn (a : Access) (lo hi : Nat) : Bool :=
  match a.place with
  | .spad _ o => !a.send && (List.range a.n).any fun i => a.touchesByte i && decide (lo ≤ o + i ∧ o + i < hi)
  | .phys _ => false

/-- The physical tile that a logical tile names (R139). -/
def State.physTile (s : State) (c x t : Nat) : Option Nat := (s.taskOf c x).bind fun k => k.tiles[t]?

def MKind.tile : MKind → Option Nat
  | .tmm _ t .. => some t
  | .tmmV _ t .. => some t
  | .tanchor t _ => some t
  | _ => none

def MKind.usesPlanes : MKind → Bool
  | .tanchor .. => false
  | _ => true

/-- Calls in WAITING slots of a core (R399). -/
def Core.waitingCalls (k : Core) : Nat :=
  (k.ctx.map fun e => (e.2.y.filter fun r => r.2.st == 1).length).foldl (· + ·) 0

/-- WK as it stood at the start of the cycle (R272). -/
def WMark.mark (m : WMark) (cycle : Nat) : Nat := if m.movedAt = cycle then m.old else m.wk

/-- A range meets [WK, WE) of an armed or bound watermark; one that its last write has freed in this cycle counts still (R272). -/
def WMark.bars (m : WMark) (cycle lo hi : Nat) : Bool :=
  (m.st != 0 || decide (m.movedAt = cycle)) && decide (m.mark cycle < m.we) && rangesMeet lo hi (m.mark cycle) m.we

/-- A reply slot at stage 2: as it stood when the bundle in progress was opened (R85, R410). -/
def Ctx.replies (x : Ctx) (i : Issue) (n : Nat) : Reply := if i.opened then i.y0.get {} n else x.y.get {} n

/-- A result that still has to land orders the later accesses behind it: an acquire, and of `bread` the result of a slot that is DECIDED or
EXHAUSTED (R196, R388). -/
def State.landOrders (s : State) (l : Land) : Bool :=
  l.acq && match l.val with
    | .bread n _ => (s.ballots.get none n).any fun b => decide (b.st = .decided ∨ b.st = .exhausted)
    | _ => true

/-- A condition holds back the bundle of context `x` of core `c`. -/
def State.holds (s : State) (c x : Nat) (w : Wait) : Bool :=
  let k := s.core c
  let y := s.cx c x
  match w with
  | .reg r => y.pend.any fun e => decide (e.1 = r ∧ e.2 < y.step)
  | .pipe => !y.inflight.isEmpty
  | .earlier far => (s.accsOf c x).any fun a => decide (a.step < y.step) && (!far || a.isFar)
  | .acquire =>
    (s.accsOf c x).any (fun a => decide (a.step < y.step) && a.acq) ||
      s.lands.any (fun l => decide (l.core = c ∧ l.ctx = x ∧ l.step < y.step) && s.landOrders l)
  | .sem n thr _ => y.resv.isNone && (k.armed.any (fun a => !a.que && a.who == x) || decide (k.sem n < thr))
  | .mark lo hi => (List.range 4).any fun i => (k.wms.get {} i).bars s.cycle lo hi
  | .heldStore lo hi =>
    (s.accsOf c x).any fun a => decide (a.step < y.step) && a.storesIn lo hi
  | .sends => decide (64 ≤ (s.accs.filter fun a => a.send && decide (a.core = c)).length)
  | .matrix => decide (16 ≤ k.mq.length)
  | .tile t q =>
    match s.physTile c x t with
    | none => false
    | some p => ((k.tiles.get {} p).xcmd).isSome || (!q && k.mq.any fun o => decide (o.kind.tile = some p))
  | .planes => k.mq.any fun o => o.kind.usesPlanes
  | .release sel => match y.arr.get ⟨0, 0, true, false⟩ sel with | a => !a.released
  | .reply n => (y.replies s.iss n).st == 1
  | .replyPend n => let r := y.replies s.iss n; r.st == 2 && r.pend
  | .calls => decide (32 ≤ k.waitingCalls)

/-- The part of a condition that a wait for `n` bytes of an access with acquire adds (R196). -/
def waitsIf (b : Bool) (l : List Wait) : List Wait := if b then l else []

/-! ### A slot of a bundle (R78) -/

/-- What a slot word does in a bundle: the decode check that depends on the context (R68 orders 4 and 5), the registers it names
(R79), the scoreboard conditions that hold whatever its guard (R79, R161), its other conditions (R79, R192), and its effect at
stages 4 and 5: an execution fault, or the state with the effects of the commit. -/
structure SlotOp where
  decode : State → Option Nat := fun _ => none
  names : Ctx → List RegId := fun _ => []
  scores : State → List Wait := fun _ => []
  waits : State → List Wait := fun _ => []
  run : State → Except (Nat × Option Word) State

def State.verdict (s : State) (v : Verdict) : State :=
  { s with iss := { s.iss with verdicts := s.iss.verdicts ++ [(s.iss.slot, v)] } }

/-- The guard of the slot: `p[GP] xor GN` (R53). -/
def State.guardOn (s : State) : Bool := s.me.readP s.iss.guard.pred != s.iss.guard.neg

/-- One slot word goes through the stages of R78: its verdict, or its commit effect. -/
def slotStep (o : SlotOp) (s : State) : State :=
  match o.decode s with
  | some c => s.verdict (.decode c)
  | none =>
    let named := (s.me.pReg s.iss.guard.pred :: o.names s.me).map Wait.reg ++ o.scores s
    match named.filter (s.holds s.iss.core s.iss.ctx) with
    | w :: ws => s.verdict (.block (w :: ws))
    | [] =>
      if s.guardOn then
        match (o.waits s).filter (s.holds s.iss.core s.iss.ctx) with
        | w :: ws => s.verdict (.block (w :: ws))
        | [] =>
          match o.run s with
          | .ok t => t
          | .error (c, b) => s.verdict (.fault c b)
      else s

/-- The bundle in progress asks for something after its commit. -/
def State.afterCommit (s : State) (a : After) : State := { s with iss := { s.iss with after := s.iss.after ++ [a] } }

/-- A commit-kind cancellation point (R373). -/
def State.cancelPoint (s : State) : State := { s with iss := { s.iss with canpt := true } }

/-- A taken branch of the bundle in progress (R86). -/
def State.branchTo (s : State) (t : Nat) : State := { s with iss := { s.iss with target := some t } }

/-! ### Traps (R313 to R320) -/

/-- Address of the runtime vector (R51). -/
def vector : Nat := 0x3C000

/-- The registers of a trap entry (R313): CAUSE, SLOTMASK, BADADDR where given, TRAPPC and FQ. -/
def Ctx.trapRegs (x : Ctx) (cause mask : Nat) (bad : Option Word) (r0 r1 r2 r3 : Nat) : Ctx :=
  let x := (x.ctlPut 6 (wordOf cause)).ctlPut 7 (wordOf mask)
  let x := match bad with | some b => x.ctlPut 9 b | none => x
  { x.ctlPut 8 (wordOf r0) with nfq := 3, fq1 := r1, fq2 := r2, fq3 := r3 }

/-- A context fetches from an address with an empty pipeline. -/
def Ctx.fetchFrom (x : Ctx) (a : Nat) : Ctx := { x with f0 := a, f1 := a + 64, f2 := a + 128, f3 := a + 192 }

/-- TrapEntry (R313). Under `step` the frame is written and the cause stays pending (R332). The latch of R185 is cleared by the trap
that it causes: VAULT_LOST of the Y slot alone, where only `drain` and `fence` raise it. -/
def Ctx.trapEntry (x : Ctx) (stepping : Bool) (cause mask : Nat) (bad : Option Word) : Ctx :=
  let x := x.freeze.trapRegs cause mask bad x.f0 x.f1 x.f2 x.f3
  let x := if cause = 0x0D && mask = 0x80 then { x with dloss := none } else x
  if stepping then { x with stepTrap := true } else ({ x with mode := true } : Ctx).fetchFrom vector

/-- An escalation of a context (R320). -/
def State.escCtx (s : State) (c x : Nat) (what : String) (cause mask pc : Nat) : State :=
  let y := s.cx c x
  s.escalate { what := what, core := c, ctx := x, runtime := y.mode, hdl := y.hdl, cause := cause, mask := mask, pc := pc }

/-- A double trap (R319): results in flight land, the context enters TRAPPED and is escalated with the second cause. -/
def State.doubleTrap (s : State) (c x cause mask : Nat) : State :=
  let s := s.escCtx c x "double trap" cause mask (s.cx c x).f0
  (s.updCx c x fun y => { y.landAll with st := .trapped, esc := some (true, cause) }).flushBudget c x

/-- A fault or an asynchronous cause reaches a context: a trap entry, or a double trap where the context is in a trap (R313, R319). -/
def State.trap (s : State) (c x cause mask : Nat) (bad : Option Word) : State :=
  let s := (s.returnResv c x).disarm c x
  if (s.cx c x).inTrap then s.doubleTrap c x cause mask
  else s.updCx c x fun y => y.trapEntry s.iss.stepping cause mask bad

/-- The context leaves the runtime: it issues next the bundle at TRAPPC, then FQ1 to FQ(NFQ), then goes on under R86 (R316). -/
def Ctx.resume (x : Ctx) : Ctx :=
  let a0 := (x.ctlGet 8).toNat
  let a1 := if 1 ≤ x.nfq then x.fq1 else a0 + 64
  let a2 := if 2 ≤ x.nfq then x.fq2 else a1 + 64
  let a3 := if 3 ≤ x.nfq then x.fq3 else a2 + 64
  { x with f0 := a0, f1 := a1, f2 := a2, f3 := a3 }

/-- `rte` at commit (R316). -/
def Ctx.rte (x : Ctx) : Ctx := ({ x with mode := false } : Ctx).resume

/-- `upcall` at commit (R317). -/
def Ctx.upcall (x : Ctx) : Ctx :=
  let f : Frame := ⟨(x.ctlGet 6).toNat, (x.ctlGet 7).toNat, (x.ctlGet 8).toNat, x.ctlGet 9, x.nfq, x.fq1, x.fq2, x.fq3⟩
  ({ x with frame := f, hdl := true, mode := false } : Ctx).fetchFrom ((x.ctlGet 0x12).toNat % 2 ^ 18)

/-- The handler's return (R318). -/
def Ctx.handlerReturn (x : Ctx) : Ctx :=
  let f := x.frame
  let x := (x.ctlPut 6 (wordOf f.cause)).ctlPut 7 (wordOf f.mask)
  let x := (x.ctlPut 8 (wordOf f.pc)).ctlPut 9 f.bad
  ({ x with hdl := false, nfq := f.nfq, fq1 := f.fq1, fq2 := f.fq2, fq3 := f.fq3 } : Ctx).resume

/-! ### The bundle -/

/-- A bundle issues: it sees the results that are due at its step (R81). -/
def State.visible (s : State) : State := (s.updMe Ctx.settle).flushBudget s.iss.core s.iss.ctx

/-- The issue of a bundle begins. -/
def State.openBundle (s : State) (slot words : Nat) (g : Guard) : State :=
  { s with iss := { s.iss with
      slot := slot, guard := g, opened := true, verdicts := [], target := none, after := [], canpt := false, words := words,
      y0 := s.me.y } }

def State.closed (s : State) : State :=
  { s with iss := { s.iss with
      slot := 0, guard := ⟨false, 0⟩, opened := false, verdicts := [], target := none, after := [], canpt := false, words := 1,
      y0 := [] } }

/-- SLOTMASK and the cause of the lowest-numbered slot of a list of verdicts (R69, R84). -/
def maskOf (l : List (Nat × Nat × Option Word)) : Nat := l.foldl (fun m e => if m.testBit e.1 then m else m + 2 ^ e.1) 0

/-- The entry of the lowest slot, `b` the lowest so far. -/
def lowestFrom (b : Nat × Nat × Option Word) : List (Nat × Nat × Option Word) → Nat × Nat × Option Word
  | [] => b
  | e :: r => lowestFrom (if b.1 ≤ e.1 then b else e) r

def lowestOf : List (Nat × Nat × Option Word) → Nat × Option Word
  | [] => (0, none)
  | e :: r => (lowestFrom e r).2

def decodeFaults (l : List (Nat × Verdict)) : List (Nat × Nat × Option Word) :=
  l.filterMap fun e => match e.2 with | .decode c => some (e.1, c, none) | _ => none

def execFaults (l : List (Nat × Verdict)) : List (Nat × Nat × Option Word) :=
  l.filterMap fun e => match e.2 with | .fault c b => some (e.1, c, b) | _ => none

def blocksOf (l : List (Nat × Verdict)) : List Wait :=
  l.flatMap fun e => match e.2 with | .block ws => ws | _ => []

/-- The place of an armed wait among those of its cycle: contexts 0 to 3, then queues (R238). -/
def Armed.key (a : Armed) : Nat := if a.que then 4 + a.who else a.who

/-- A wait is armed behind those armed earlier (R238). -/
def armIn : List Armed → Armed → List Armed
  | [], a => [a]
  | b :: r, a => if b.at_ = a.at_ ∧ a.key < b.key then a :: b :: r else b :: armIn r a

/-- A blocked context's wait on a semaphore is armed when its bundle first blocks (R238). -/
def Core.arm (k : Core) (x cycle : Nat) (ws : List Wait) : Core :=
  ws.foldl (fun k w => match w with
    | .sem n thr dec =>
      if k.armed.any (fun a => !a.que && a.who == x) then k else { k with armed := armIn k.armed ⟨false, x, dec, n, thr, cycle⟩ }
    | _ => k) k

/-- A cycle of the hold of R316: it counts as one step for the results in flight, and the bundle takes none. -/
def Ctx.holdCycle (x : Ctx) : Ctx := { x with inflight := x.inflight.map fun r => { r with due := r.due - 1 } }

/-- Only the hold of R316 keeps the bundle back. -/
def onlyPipe (ws : List Wait) : Bool := ws.all fun w => decide (w = .pipe)

/-- The bundle blocks or is held: the pipeline freezes and the context becomes BLOCKED. The hold of R316 is no block. -/
def State.block (s : State) (ws : List Wait) : State :=
  if onlyPipe ws then s.updMe Ctx.holdCycle
  else
    let s := s.updMyCore fun k => k.arm s.iss.ctx s.cycle ws
    s.updMe fun x => { x.freeze with st := .blocked, waits := ws }

/-- The step of a committed bundle: the fetch sequence moves on by R86. -/
def Ctx.advance (x : Ctx) (target : Option Nat) (cycle : Nat) : Ctx :=
  let nx := match target with | some t => t | none => (x.f3 + 64) % 2 ^ 64
  { x with
    step := x.step + 1, pstep := if x.inTrap then x.pstep else x.pstep + 1, f0 := x.f1, f1 := x.f2, f2 := x.f3, f3 := nx, resv := none,
    commits := cycle :: x.commits.filter (fun t => decide (cycle < t + 64)) }

/-- SSTEP.EN (R333). -/
def Ctx.sstep (x : Ctx) : Bool := (x.ctlGet 0x0A).getLsbD 0

/-- What follows a commit: a commit-then-trap cause, an escalation, a return, the end of the context. -/
def State.runAfter (s : State) (a : After) : State :=
  let c := s.iss.core
  let x := s.iss.ctx
  match a with
  | .trap cause bad => s.trap c x cause (if cause = 0x19 then 0 else 0x80) bad
  | .escalate code =>
    let s := s.escCtx c x "trap" code 0 (s.cx c x).f0
    s.updMe fun y => { y.freeze with st := .trapped, esc := some (false, code) }
  | .rte => s.updMe Ctx.rte
  | .upcall => s.updMe Ctx.upcall
  | .handlerReturn => s.updMe Ctx.handlerReturn
  | .done => (s.updMe fun y => { y.landAll with st := .done }).flushBudget c x

/-- STEP follows a bundle that commits in KERNEL mode with HDL = 0 and SSTEP.EN = 1, unless SYSCALL or BREAK fell on it, or it ended its
context (R314, R333). -/
def stepFollows (x0 : Ctx) (l : List After) : Bool :=
  x0.sstep && !x0.inTrap && l.all fun a => match a with | .escalate _ => true | _ => false

/-- The cause STEP of a bundle whose `trap` leaves the context TRAPPED stays pending, its frame written (R313, R314, R333). -/
def Ctx.stepBehind (x : Ctx) : Ctx := { x.trapRegs 0x19 0 none x.f0 x.f1 x.f2 x.f3 with stepTrap := true }

/-- What follows a commit, in order: `trap` freezes its context before the cause STEP is noted. -/
def State.runAll (s : State) (x0 : Ctx) (l : List After) : State :=
  let t := l.foldl State.runAfter s
  if stepFollows x0 l then (if l.isEmpty then t.runAfter (.trap 0x19 none) else t.updMe Ctx.stepBehind) else t

/-- Work counter 0 of a sibling counts the bundles that its contexts commit in KERNEL mode (R378). -/
def State.countBundle (s : State) (x0 : Ctx) : State :=
  match x0.task with
  | some t => if x0.mode then s else s.updTask t fun k => { k with cw0 := Nat.min (k.cw0 + 1) (2 ^ 64 - 1) }
  | none => s

/-- A commit-kind cancellation point has passed with CANREQ set (R373). -/
def Ctx.stopSoon (x : Ctx) : Ctx := { x with stopNext := true }

/-- The bundle commits (R76, R86): `x0` is the context as it stood when the bundle was issued. -/
def State.commit (s : State) (x0 : Ctx) : State :=
  let t := (s.closed.updMe fun x => x.advance s.iss.target s.cycle).countBundle x0
  let t := if s.iss.canpt && x0.canreq && !x0.inTrap && !s.iss.stepping then t.updMe Ctx.stopSoon else t
  t.runAll x0 s.iss.after

/-- The issue of a bundle ends: decode faults before blocks, blocks before execution faults, and the commit where there is none (R78,
R69, R79, R84). A bundle that does not commit leaves the state in which it was issued. -/
def closeBundle (s0 s1 : State) : State :=
  let vs := s1.iss.verdicts
  let c := s0.iss.core
  let x := s0.iss.ctx
  match decodeFaults vs with
  | e :: r => s0.closed.trap c x (lowestOf (e :: r)).1 (maskOf (e :: r)) none
  | [] =>
    match waitsIf (s0.me.syncHold.any fun n => s0.holds c x (.release n)) (s0.me.syncHold.toList.map .release) ++ blocksOf vs with
    | w :: ws => s0.closed.block (w :: ws)
    | [] =>
      match execFaults vs with
      | e :: r => s0.closed.trap c x (lowestOf (e :: r)).1 (maskOf (e :: r)) (lowestOf (e :: r)).2
      | [] => s1.commit s0.me

/-- The meaning of a slot word: inside a bundle in progress, its slot's part; otherwise the issue of the bundle that holds this word
alone, in its home slot with guard 1. -/
def runSlot (home : Nat) (o : SlotOp) (s : State) : Host.Outcome State Fault Refusal :=
  .next (if s.iss.opened then slotStep o s else closeBundle s.visible (slotStep o (s.visible.openBundle home 1 ⟨false, 0⟩)))

/-! ### Monitor points (R440, R441) -/

def State.updMg (s : State) (f : Mgmt → Mgmt) : State := { s with mg := f s.mg }

def Mgmt.mon (m : Mgmt) (n : Nat) : Mon := m.mons.get {} n

/-- A sample at a point. -/
def Mon.sample (p : Mon) (x : Nat) : Mon :=
  let x := Nat.min x (2 ^ 32 - 1)
  let b := (p.edges.filter fun e => decide (e ≤ x)).length
  { p with cur := x, min := Nat.min p.min x, max := Nat.max p.max x, bins := p.bins.put 0 b (satAdd 32 (p.bins.get 0 b) 1) }

/-- A sample arrives at a point, or is dropped while the points are frozen. -/
def Mgmt.sample (m : Mgmt) (n x : Nat) : Mgmt :=
  if m.freeze then { m with drop := satAdd 32 m.drop 1 } else { m with mons := m.mons.put {} n ((m.mon n).sample x) }

/-- The end of a microsecond: each point at which converters clamped in it gets their number (R290, R440; log entry 30). -/
def Mgmt.sampleClamps (m : Mgmt) : Mgmt := m.clamps.foldl (fun m e => m.sample e.1 e.2) { m with clamps := [] }

/-- The cores run: an operating point is set (R25). -/
def State.running (s : State) : Bool :=
  match s.mg.power with
  | .a0 | .a1 | .a2 | .a3 => true
  | _ => false

/-- The meaning of an event that its table or chapter enables: its effect; otherwise no effect (R9). -/
def runEvent (enabled : Bool) (f : State → State) (s : State) : Host.Outcome State Fault Refusal :=
  .next (if enabled then f s else s)

end Sys2Proof.Machine
end

