-- ==== Sys2Proof/Machine/Memory.lean ====
section
/-! DEFINITION. Memory at its homes: the address map (R18 to R24, R211), reading and writing device memory and scratchpad with poison and
EMPTY marks (R171, R174, R189, R204, R414), the atomic units (R184) and the watchpoint test of every access (R326 to R330). -/

namespace Sys2Proof.Machine

/-! ### The address map (R18 to R21, R211) -/

def tierOf (a : Nat) : Nat := bitsOf 46 2 a
def vaultOf (a : Nat) : Nat := bitsOf 31 7 a
def quarterOf (a : Nat) : Nat := bitsOf 27 4 a
def chipOf (a : Nat) : Nat := bitsOf 42 4 a
/-- Offset in the HBM window. -/
def hbmOff (a : Nat) : Nat := bitsOf 0 39 a
/-- HBM stack of an HBM offset (R211). -/
def stackOf (o : Nat) : Nat := bitsOf 13 3 o ^^^ bitsOf 16 3 o
/-- Stack-local address and channel (R211). -/
def stackLocal (o : Nat) : Nat := o / 2 ^ 16 * 2 ^ 13 + o % 2 ^ 13
def channelOf (o : Nat) : Nat := bitsOf 8 5 (stackLocal o)
/-- First unpopulated HBM offset (R18). -/
def hbmTop : Nat := 0x6000000000

def dieOf (c : Nat) : Nat := c / 64
/-- Cluster of a core (R11). -/
def clusterOf (c : Nat) : Nat := 4 * (c / 64) + 2 * (c % 64 / 8 / 4) + c % 8 / 4

/-- Quarter `q` of vault `v` is lost (R228). -/
def State.quarterLost (s : State) (v q : Nat) : Bool := (s.core v).lostq.getLsbD q

/-- The byte lies in a lost quarter of this chip. -/
def State.lostAt (s : State) (a : Nat) : Bool := tierOf a == 0 && s.quarterLost (vaultOf a) (quarterOf a)

/-- The first link towards a chip, where the chip is reachable (R422, R423). -/
def State.linkTo (s : State) (chip : Nat) : Option Link :=
  if s.chipRoute.getLsbD (4 * chip + 3) then some (s.links.get {} (getField s.chipRoute (4 * chip) 3)) else none

/-- Traffic for a peer address is lost (R421, R423). -/
def State.routeLost (s : State) (a : Nat) : Bool :=
  tierOf a == 2 && (match s.linkTo (chipOf a) with | some l => decide (l.st = .down ∨ l.st = .failed) | none => true)

/-- Traffic for a peer address waits: the link trains or is repaired, or its channel for copies is stopped (R419, R420). -/
def State.routeStalled (s : State) (a : Nat) : Bool :=
  tierOf a == 2 && (match s.linkTo (chipOf a) with
    | some l => decide (l.st = .training ∨ l.st = .repairing) || l.stopRx.getLsbD 0
    | none => false)

/-! ### What goes to other chips (R416 to R419, R423) -/

/-- The virtual channel of an item. -/
def LinkItem.vc : LinkItem → Nat
  | .write .. | .read .. | .data _ => 0
  | .call _ | .reply .. | .notice _ => 1
  | .arrival _ | .release _ | .domain .. => 2

/-- The flit of a parcel: the next number, the stop bits of this end and the number that it expects. -/
def Link.flit (v : Link) (vc : Nat) (p : Parcel) : Flit :=
  { crcOk := true, seqNo := v.txSeq, vc := vc, stop := v.stopTx.toNat, ack := v.expect
    payload := (Config.payload p ++ List.replicate 240 0).take 240 }

/-- A flit is sent and kept until it is acknowledged. -/
def Link.send (v : Link) (vc : Nat) (p : Parcel) : Link :=
  { v with retry := v.retry ++ [v.flit vc p], txSeq := (v.txSeq + 1) % 2 ^ 12 }

/-- The flits that a channel can start: none where the link carries no traffic or the far end has stopped the channel, and no more than the
retry buffer takes. -/
def Link.space (v : Link) (vc : Nat) : Nat :=
  if (v.st = .up ∨ v.st = .degraded) ∧ !v.stopRx.getLsbD vc then 512 - v.retry.length else 0

/-- A channel starts what it can, in order (R417). -/
def Link.drain (v : Link) (vc : Nat) : Link :=
  let l := v.out.get [] vc
  let n := v.space vc
  (l.take n).foldl (fun v p => v.send vc p) { v with out := v.out.put [] vc (l.drop n) }

def Link.transmit (v : Link) : Link := [0, 1, 2].foldl Link.drain v

def Link.enqueue (v : Link) (p : Parcel) : Link :=
  ({ v with out := v.out.put [] p.item.vc (v.out.get [] p.item.vc ++ [p]) } : Link).transmit

/-- A parcel leaves by the first link of its route; where there is none, or the link is FAILED or DOWN, it is lost (R421, R423). -/
def State.sendParcel (s : State) (p : Parcel) : State :=
  match s.linkTo p.chip with
  | some v =>
    if v.st = .down ∨ v.st = .failed then s
    else { s with links := s.links.put {} (getField s.chipRoute (4 * p.chip) 3) (v.enqueue p) }
  | none => s

/-- An item goes to another chip, the first hop of its path. -/
def State.sendPeer (s : State) (chip : Nat) (i : LinkItem) : State := s.sendParcel ⟨chip, 1, i⟩

/-- The address on its own chip of a peer page's byte (R20). -/
def peerLocal (a : Nat) : Nat := bitsOf 40 2 a * 2 ^ 46 + bitsOf 0 40 a

/-! ### Agents (R446, R204) -/

/-- Priority of a write to scratchpad in a cycle, 0 highest (R204). -/
def Agent.prio : Agent → Nat
  | .context .. => 0
  | .sequencer .. => 1
  | .channel _ ch => 2 + ch
  | .message .. => 6
  | .vaultExec .. => 7
  | .hbmExec _ => 7
  | .notify _ => 8
  | .host => 9
  | .pgmig .. => 9
  | .reclaimer _ => 9

/-- AGENT, CORE and UNIT of WHIT (R326, R446). -/
def Agent.whit : Agent → Nat × Nat × Nat
  | .context c x => (0, c, x)
  | .channel c ch => (1, c, ch)
  | .sequencer c st => (2, c, st)
  | .vaultExec c u => (3, c, u)
  | .hbmExec st => (3, st, 2)
  | .message c x => (4, c, x)
  | .host => (5, 0, 0)
  | .pgmig c x => (6, c, x)
  | .reclaimer c => (7, c, 0)
  | .notify c => (8, c, 0)

/-! ### Domains that a watchpoint selects (R327, R329, R363) -/

/-- A context is a member of a custom domain (R363). -/
def Domain.has (d : Domain) (c x : Nat) : Bool := d.valid && d.cores.getLsbD c && (d.ctxs.get 0 c).testBit x

/-- Core `c` is at the level of a fixed selector seen from core `o`. -/
def sameLevel (sel o c : Nat) : Bool :=
  if sel = 0x80 then o == c
  else if sel = 0x81 then clusterOf o == clusterOf c
  else if sel = 0x82 then dieOf o == dieOf c
  else sel == 0x83

/-- The contexts of a launch at a level of a core: those of its tasks that have not ended, as keys. -/
def State.launchCtxs (s : State) (l sel o : Nat) : List Nat :=
  s.tasks.flatMap fun e =>
    match e.2 with
    | some t => if t.launch = l ∧ !t.ended ∧ sameLevel sel o t.core then t.ctxs.map (ctxKey t.core) else []
    | none => []

/-- Members of a custom domain on this chip, as keys. -/
def Domain.keys (d : Domain) : List Nat := (List.range 512).filter fun k => d.has (k / 4) (k % 4)

/-- The contexts of a launch that now stand on a core at a level: a checkpointed task has none (R327, R329). -/
def State.placedCtxs (s : State) (l sel o : Nat) : List Nat :=
  s.tasks.flatMap fun e =>
    match e.2 with
    | some t => if t.launch = l ∧ !t.ended ∧ !t.saved ∧ sameLevel sel o t.core then t.ctxs.map (ctxKey t.core) else []
    | none => []

/-- The contexts that a watchpoint's guidon selects (R329). -/
def State.selected (s : State) (o : Nat) (w : Watch) : List Nat :=
  if w.dsel < 64 then (s.doms.get {} w.dsel).keys else s.placedCtxs w.launch w.dsel o

/-- Cycles of the guidon from core `o` to core `c` (R329). -/
def guidonDist (o c : Nat) : Nat :=
  if o = c then 2 else if clusterOf o = clusterOf c then 10 else if dieOf o = dieOf c then 24 else 40

/-- The guidon of watchpoint `w` of core `o`: one message to each selected context but the owner, and the WATCH cause to the owner
(R329, R330). -/
def State.guidon (s : State) (o : Nat) (w : Watch) : State :=
  let owner := ctxKey o w.owner
  let s := ((s.selected o w).filter fun k => decide (k ≠ owner)).foldl
    (fun s k => s.sendMsg (.guidon (k / 4) (k % 4) s.cycle (s.cycle + guidonDist o (k / 4)) none)) s
  s.sendMsg (.guidon o w.owner s.cycle (s.cycle + 2) (some (wordOf w.addr)))

/-- Access kinds: read 1, write 2, atomic 4, as in KINDS; WHIT counts them 0, 1, 2. -/
def kindCode (kind : Nat) : Nat := kind / 2

/-- A watchpoint meets an access that performs on bytes `lo` up to `hi` (R328). -/
def Watch.meets (w : Watch) (sp : Bool) (lo hi kind : Nat) : Bool :=
  w.sp == sp && rangesMeet w.addr (w.addr + 8) lo hi && (w.kinds &&& kind) != 0

/-- The watchpoint records a hit (R326, R328). -/
def Watch.record (w : Watch) (cycle tb kind : Nat) (ag : Agent) : Watch :=
  let (a, c, u) := ag.whit
  { w with st := 2, hitAt := cycle,
           hit := wordOf (a * 2 ^ 60 + kindCode kind * 2 ^ 58 + c * 2 ^ 50 + u % 4 * 2 ^ 48 + tb % 2 ^ 48) }

/-- One watchpoint against one access: an ARMED one hits, one that hit in this cycle notes MULTI. -/
def State.watchOne (s : State) (o : Nat) (sp : Bool) (lo hi kind : Nat) (ag : Agent) (n : Nat) : State :=
  let w := (s.core o).wps.get {} n
  if !w.meets sp lo hi kind then s
  else if w.st = 1 then
    (s.updCore o fun k => { k with wps := k.wps.put {} n (w.record s.cycle s.timebase kind ag) }).guidon o w
  else if w.st = 2 ∧ w.hitAt = s.cycle then
    s.updCore o fun k => { k with wps := k.wps.put {} n { w with hit := w.hit ||| (1 <<< 57) } }
  else s

/-- The watchpoint test of core `o` for an access that performs (R170, R328). -/
def State.watch (s : State) (o : Nat) (sp : Bool) (lo n kind : Nat) (ag : Agent) : State :=
  (s.core o).wps.foldl (fun t e => t.watchOne o sp lo (lo + n) kind ag e.1) s

/-- The watchpoint test of an access to device memory: only vault words are watched (R326). -/
def State.watchPhys (s : State) (a n kind : Nat) (ag : Agent) : State :=
  if tierOf a = 0 then s.watch (vaultOf a) false a n kind ag else s

/-! ### Device memory -/

/-- Two places share a byte's 8-byte word (R189). -/
def sharesWord (lo n lo' n' : Nat) : Bool := rangesMeet (lo / 8) ((lo + n + 7) / 8) (lo' / 8) ((lo' + n' + 7) / 8)

/-- Some byte of the range lies in a poisoned line (R173). -/
def State.poisoned (s : State) (a n : Nat) : Bool :=
  (List.range (n / 64 + 2)).any fun i => let l := a / 64 + i; decide (l * 64 < a + n) && s.poison.get false l

/-- The bytes and the poison of a range of device memory. -/
def State.peek (s : State) (a n : Nat) : List Byte × Bool := (readBytes s.mem a n, s.poisoned a n)

/-- Some word of the range is EMPTY (R414). -/
def State.emptyIn (s : State) (a n : Nat) : Bool :=
  (List.range (n / 8 + 2)).any fun i => let w := a / 8 + i; decide (w * 8 < a + n) && s.empty.get false w

/-- Bytes stored under a mask. -/
def writeMasked (m : SMap Byte) (a : Nat) : List (Option Byte) → SMap Byte
  | [] => m
  | some b :: r => writeMasked (m.put 0 a b) (a + 1) r
  | none :: r => writeMasked m (a + 1) r

/-- A write of device memory: the bytes; a line that `clears` names loses its poison (R174); every word written becomes FULL (R414). -/
def State.poke (s : State) (a : Nat) (data : List (Option Byte)) (clears : Bool) : State :=
  let n := data.length
  { s with
    mem := writeMasked s.mem a data
    poison := if clears then s.poison.put false (a / 64) false else s.poison
    empty := s.empty.filter fun e => !rangesMeet (e.1 * 8) (e.1 * 8 + 8) a (a + n) }

/-- A write of whole lines, or part of one, by an engine: a line covered whole loses its poison. -/
def State.pokeBytes (s : State) (a : Nat) (data : List Byte) : State :=
  let n := data.length
  let s := s.poke a (data.map some) false
  (List.range (n / 64 + 2)).foldl
    (fun s i =>
      let l := a / 64 + i
      if a ≤ l * 64 ∧ l * 64 + 64 ≤ a + n then { s with poison := s.poison.put false l false } else s) s

/-! ### Scratchpad (R168, R174, R204) -/

def Core.spadPoisoned (k : Core) (o n : Nat) : Bool :=
  (List.range (n / 8 + 2)).any fun i => let w := o / 8 + i; decide (w * 8 < o + n) && k.spadPoison.get false w

/-- One byte as it reads in a cycle: the value from before every write of the cycle (R204). -/
def Core.spadByte (k : Core) (cycle o : Nat) : Byte :=
  if k.wrAt = cycle then (k.wr.get (0, k.spad.get 0 o) o).2 else k.spad.get 0 o

def Core.spadRead (k : Core) (cycle o n : Nat) : List Byte := (List.range n).map fun i => k.spadByte cycle (o + i)

/-- One byte written in a cycle: the writer of highest priority stands (R204). -/
def Core.spadPut (k : Core) (cycle p o : Nat) (b : Byte) : Core :=
  let wr := if k.wrAt = cycle then k.wr else []
  let e := (wr.find? fun e => decide (e.1 = o)).map (·.2)
  match e with
  | some (q, v) =>
    if q < p then { k with wrAt := cycle, wr := wr }
    else { k with wrAt := cycle, wr := wr.insert o (p, v), spad := k.spad.put 0 o b }
  | none => { k with wrAt := cycle, wr := wr.insert o (p, k.spad.get 0 o), spad := k.spad.put 0 o b }

def Core.spadPuts (k : Core) (cycle p o : Nat) : List (Option Byte) → Core
  | [] => k
  | some b :: r => Core.spadPuts (k.spadPut cycle p o b) cycle p (o + 1) r
  | none :: r => Core.spadPuts k cycle p (o + 1) r

/-- Some listed bytes: the words of which all 8 bytes are written lose their poison (R174). -/
def Core.spadWrite (k : Core) (cycle p o : Nat) (data : List (Option Byte)) : Core :=
  let k := k.spadPuts cycle p o data
  let clean := fun w => decide (o ≤ w * 8 ∧ w * 8 + 8 ≤ o + data.length) && (((data.drop (w * 8 - o)).take 8).all (·.isSome))
  { k with
    spadPoison := k.spadPoison.filter fun e => !clean e.1
    pre := k.pre.map fun p => { p with stale := p.stale || p.banks.testBit (o / 2 ^ 21) } }

/-- The agent writes through the engine port; a context has its own (R168). -/
def Agent.engine : Agent → Bool
  | .context .. => false
  | _ => true

/-- The banks that a range of a scratchpad touches. -/
def banksOf (o n : Nat) : List Nat := (List.range 4).filter fun b => decide (n ≠ 0) && rangesMeet o (o + n) (b * 2 ^ 21) ((b + 1) * 2 ^ 21)

/-- The engine port of every bank of a range is free in this cycle: it grants one engine write a cycle (R168, R204). -/
def Core.portFree (k : Core) (cycle o n : Nat) : Bool := (banksOf o n).all fun b => decide (k.port.get 0 b ≤ cycle)

/-- A write by an agent takes the engine port of its banks, unless the agent is a context. -/
def Core.usePort (k : Core) (cycle o n : Nat) (ag : Agent) : Core :=
  if ag.engine then { k with port := (banksOf o n).foldl (fun p b => p.put 0 b (cycle + 1)) k.port } else k

/-- A write under a mask touches a byte of the watched word (R328). -/
def Watch.touchedBy (w : Watch) (o : Nat) (data : List (Option Byte)) : Bool :=
  (List.range 8).any fun i => decide (o ≤ w.addr + i) && ((data[w.addr + i - o]?).getD none).isSome

/-- A write to the scratchpad of core `c` by an agent, with the watchpoint test of the bytes it touches (R189, R328). -/
def State.spadStore (s : State) (c o : Nat) (data : List (Option Byte)) (ag : Agent) : State :=
  if data.all (·.isNone) then s
  else
    let s := s.updCore c fun k => (k.spadWrite s.cycle ag.prio o data).usePort s.cycle o data.length ag
    (s.core c).wps.foldl (fun t e => if e.2.touchedBy o data then t.watchOne c true o (o + data.length) 2 ag e.1 else t) s

/-- A read of the scratchpad of core `c` with its watchpoint test: bytes and poison. -/
def State.spadLoad (s : State) (c o n : Nat) (ag : Agent) : (List Byte × Bool) × State :=
  (((s.core c).spadRead s.cycle o n, (s.core c).spadPoisoned o n), s.watch c true o n 1 ag)

/-! ### Atomics (R183, R184) -/

/-- The floating add of a home: one rounding in RNE, subnormals kept (R45, R184). -/
def atomicFadd (t : Ty) (a b : Nat) : Nat := match t.ffmt with | some f => (f.add .rne false a b).1 | none => a

/-- The value an atomic of `n` bytes writes, if it writes (R183). -/
def amoNew (op : AmoOp) (n old b c : Nat) : Option Nat :=
  let w := 8 * n
  match op with
  | .add => some ((old + b) % 2 ^ w)
  | .min => some (if sextNat w b < sextNat w old then b else old)
  | .max => some (if sextNat w old < sextNat w b then b else old)
  | .minu => some (Nat.min old b)
  | .maxu => some (Nat.max old b)
  | .and => some (old &&& b)
  | .or => some (old ||| b)
  | .xor => some (old ^^^ b)
  | .swap => some b
  | .cas => if old = c then some b else none
  | .fadd t => some (atomicFadd t old b)

/-- What an atomic does where its word holds `old`: the value it returns, the write, and the kind a watchpoint counts (R184, R328). A
poisoned word is not written and returns a poisoned 0. -/
def amoAt (op : AmoOp) (n old b c : Nat) (po : Bool) : Nat × Option Nat × Nat :=
  if po then (0, none, 4)
  else match amoNew op n old b c with
    | some v => (old, some v, 4)
    | none => (old, none, 1)

/-- An atomic at a home of device memory: the bytes it returns, their poison, and the state. -/
def State.amoPhys (s : State) (op : AmoOp) (a n b c : Nat) (ag : Agent) : (List Byte × Bool) × State :=
  let (bs, po) := s.peek a n
  let (r, w, kind) := amoAt op n (leNat bs) b c po
  let s := match w with | some v => s.poke a ((leBytes n v).map some) false | none => s
  ((leBytes n r, po), s.watchPhys a n kind ag)

/-- An atomic at a scratchpad bank. -/
def State.amoSpad (s : State) (core : Nat) (op : AmoOp) (o n b c : Nat) (ag : Agent) : (List Byte × Bool) × State :=
  let k := s.core core
  let po := k.spadPoisoned o n
  let (r, w, kind) := amoAt op n (leNat (k.spadRead s.cycle o n)) b c po
  let s := match w with
    | some v => s.updCore core fun k => k.spadWrite s.cycle ag.prio o ((leBytes n v).map some)
    | none => s
  ((leBytes n r, po), s.watch core true o n kind ag)

end Sys2Proof.Machine
end

