-- ==== Sys2Proof/Machine/Operands.lean ====
section
/-! DEFINITION. Operand forms: handles and their derived fields (R215, R216), the address checks of loads, stores and atomics (R169), and
the scratchpad range checks (R155, R168). -/

namespace Sys2Proof.Machine

/-! ### Handles (R215, R216) -/

/-- Bytes of a page of a size code (R206). -/
def pageBytes (size : Nat) : Nat := 2 ^ (13 + 10 * size)

def Handle.bytes (h : Handle) : Nat := pageBytes h.size
def Handle.tier (h : Handle) : Nat := tierOf h.frame
def Handle.peer (h : Handle) : Bool := h.tier == 2

/-- A handle of core `c` is far (R215, R24). -/
def Handle.far (h : Handle) (c : Nat) : Bool := !(h.tier == 0 && vaultOf h.frame == c)

/-- UNIT: vault, stack of the first byte, chip, or 0 (R216). -/
def Handle.unit (h : Handle) : Nat :=
  match h.tier with
  | 0 => vaultOf h.frame
  | 1 => stackOf (hbmOff h.frame)
  | 2 => chipOf h.frame
  | _ => 0

/-- `hinfo` word 0 on core `c` (R216). -/
def Handle.word0 (h : Handle) (c : Nat) : Word :=
  if h.valid then
    wordOf (2 ^ 63 + boolNat (h.far c) * 2 ^ 62 + boolNat h.lost * 2 ^ 61 + boolNat h.peer * 2 ^ 60 + h.tier * 2 ^ 58
      + h.size % 4 * 2 ^ 56 + boolNat h.r * 2 ^ 55 + boolNat h.w * 2 ^ 54 + boolNat h.cow * 2 ^ 53 + boolNat h.rop * 2 ^ 52
      + boolNat h.mig * 2 ^ 51 + boolNat h.unc * 2 ^ 50 + h.gen % 2 ^ 16 * 2 ^ 32 + h.unit % 256 * 2 ^ 24 + h.cause % 256 * 2 ^ 16
      + boolNat (h.tier == 1 && h.size != 0) * 2 ^ 15 + h.space % 2 ^ 12)
  else wordOf (h.gen % 2 ^ 16 * 2 ^ 32 + h.cause % 256 * 2 ^ 16)

/-- `hinfo` word 1 (R216). -/
def Handle.word1 (h : Handle) : Word := if h.valid then h.vpage else 0

/-- An invalid handle with a cause. -/
def Handle.dead (gen cause : Nat) : Handle := { gen := gen, cause := cause }

/-- The declared count of handles of the issuing context's task. -/
def State.handleLimit (s : State) : Nat := match s.myTask with | some t => t.img.handles | none => 16

/-- Decode check of handle fields in KERNEL mode (R215). -/
def handleDecode (hs : List Nat) (s : State) : Option Nat :=
  if !s.me.mode && hs.any (fun h => decide (s.handleLimit ≤ h)) then some 3 else none

/-! ### Scratchpad ranges (R155, R168) -/

/-- The byte lies in scratchpad and in a bank that the task declares. -/
def State.spadByteOk (s : State) (o : Nat) : Bool :=
  decide (o < 2 ^ 23) && (match s.myTask with | some t => t.img.banks.testBit (bitsOf 21 2 o) | none => false)

/-- The first byte of a range that is not allowed: the range's first byte, or the first byte of a later bank. -/
def State.spadOffender (s : State) (o n : Nat) : Option Nat :=
  if n = 0 then none
  else if !s.spadByteOk o then some o
  else
    ((List.range 4).map fun i => (bitsOf 21 2 o + 1 + i) * 2 ^ 21).find? fun b => decide (o < b ∧ b < o + n) && !s.spadByteOk b

def State.spadRangeOk (s : State) (o n : Nat) : Bool := (s.spadOffender o n).isNone

/-! ### Addresses (R169) -/

/-- The kinds of R169. -/
inductive AccKind where
  | load | store | rmw
  deriving DecidableEq, Repr

/-- Where an access that passes R169 goes. -/
inductive Target where
  | spad (o : Nat)
  | home (pa : Nat) (hd : Handle) (va : Word)
  deriving DecidableEq, Repr

/-- The offset of an address: base scalar plus displacement (R169). -/
def State.offset (s : State) (a : Nat) (disp : Int) : Word := (s.rs a).val + wordOfInt disp

/-- The checks of R169 on a handle; `perm` false leaves out the permission checks (R178). -/
def handleCheck (hd : Handle) (o : Word) (n al : Nat) (kind : AccKind) (rlx perm : Bool) : Except (Nat × Option Word) Target :=
  let va := hd.vpage + o
  let u := o.toNat
  if !hd.valid then .error (0x0A, some va)
  else if hd.lost then .error (0x0D, some va)
  else if hd.peer then .error (0x0B, some va)
  else if u % al ≠ 0 then .error (5, some va)
  else if hd.bytes < u + n then .error (0x0A, some va)
  else if perm && ((kind != .store && !hd.r) || (kind != .load && !hd.w)) then .error (9, some va)
  else if perm && hd.tier == 3 && !(n == 8 && rlx && kind != .rmw) then .error (9, some va)
  else if kind != .load && hd.cow then .error (0x0C, some va)
  else .ok (.home (hd.frame + u) hd va)

/-- The address of a load, store or atomic (R169). -/
def State.address (s : State) (ad : Addr) (n al : Nat) (kind : AccKind) (rlx : Bool) (perm : Bool := true) :
    Except (Nat × Option Word) Target :=
  if (s.rs ad.a).poison then .error (0x10, none)
  else
    let o := s.offset ad.a ad.disp
    if ad.sp then
      if o.toNat % al ≠ 0 then .error (5, some o)
      else if 2 ^ 23 < o.toNat + n ∨ !s.spadRangeOk o.toNat n then .error (0x30, some o)
      else .ok (.spad o.toNat)
    else handleCheck (s.me.readH ad.h) o n al kind rlx perm

/-- The bytes of scratchpad that a local access would touch, for the conditions of R186; the address is not yet checked. -/
def State.localRange (s : State) (ad : Addr) (n : Nat) : Option (Nat × Nat) :=
  if ad.sp && !(s.rs ad.a).poison then
    let o := (s.offset ad.a ad.disp).toNat
    some (o, o + n)
  else none

/-- The registers that an address names (R79). -/
def addrNames (ad : Addr) (x : Ctx) : List RegId := if ad.sp then [x.sReg ad.a] else [x.sReg ad.a, .h ad.h]

/-- Decode check of an address's handle (R215). -/
def addrDecode (ad : Addr) (s : State) : Option Nat := if ad.sp then none else handleDecode [ad.h] s

end Sys2Proof.Machine
end

