-- ==== Sys2Proof/Machine/Scalar.lean ====
section
/-! DEFINITION. The S slot: integer arithmetic, compares, predicates, constants, control registers and branches (R87, R93 to R113). -/

namespace Sys2Proof.Machine

/-- The outcome of a slot instruction. -/
abbrev Res' := Host.Outcome State Fault Refusal

/-! ### Shared forms -/

/-- A scalar result of two scalar sources (R95): poison is the OR of theirs, and a poisoned source raises no flag. -/
def aluOp (lat d a b : Nat) (f : Word → Word → Word × FlagBits) : SlotOp where
  names x := [x.sReg d, x.sReg a, x.sReg b]
  run s :=
    let u := s.rs a
    let v := s.rs b
    let r := f u.val v.val
    let po := u.poison || v.poison
    .ok (s.emitS d r.1 lat po (if po then 0 else r.2))

/-- A scalar result of one scalar source (R95). -/
def aluOp1 (lat d a : Nat) (f : Word → Word) : SlotOp where
  names x := [x.sReg d, x.sReg a]
  run s := let u := s.rs a; .ok (s.emitS d (f u.val) lat u.poison)

def alu (lat d a b : Nat) (f : Word → Word → Word) (s : State) : Res' := runSlot 0 (aluOp lat d a b fun u v => (f u v, 0)) s

def aluF (lat d a b : Nat) (f : Word → Word → Word × FlagBits) (s : State) : Res' := runSlot 0 (aluOp lat d a b f) s

def alu1 (lat d a : Nat) (f : Word → Word) (s : State) : Res' := runSlot 0 (aluOp1 lat d a f) s

/-- A predicate of two predicates (R101). -/
def predOp (d a b : Nat) (f : Bool → Bool → Bool) : SlotOp where
  names x := [x.pReg d, x.pReg a, x.pReg b]
  run s := .ok (s.emitP d (f (s.me.readP a) (s.me.readP b)))

/-- The execution fault of a poisoned scalar (R96). -/
def poisonFault : Except (Nat × Option Word) State := .error (0x10, none)

/-- Truth of a condition on two scalars (R100). -/
def condS (cc : CC) (a b : Word) : Bool :=
  match cc with
  | .eq => a == b
  | .ne => a != b
  | .lt => a.slt b
  | .le => a.sle b
  | .gt => b.slt a
  | .ge => b.sle a
  | .ltu => a.ult b
  | .leu => a.ule b
  | .gtu => b.ult a
  | .geu => b.ule a
  | .ord | .uno => false

/-! ### Integer arithmetic and logic (R97 to R99) -/

def execNop (s : State) : Res' := runSlot 0 { run := fun s => .ok s } s

def execAdd (d a b : Nat) (s : State) : Res' := alu 1 d a b (fun u v => u + v) s
def execSub (d a b : Nat) (s : State) : Res' := alu 1 d a b (fun u v => u - v) s
def execMul (d a b : Nat) (s : State) : Res' := alu 3 d a b (fun u v => u * v) s
def execMulh (d a b : Nat) (s : State) : Res' := alu 3 d a b (fun u v => BitVec.ofInt 64 (u.toInt * v.toInt / 2 ^ 64)) s
def execMulhu (d a b : Nat) (s : State) : Res' := alu 3 d a b (fun u v => wordOf (u.toNat * v.toNat / 2 ^ 64)) s
def execDiv (d a b : Nat) (s : State) : Res' := aluF 18 d a b divS s
def execDivu (d a b : Nat) (s : State) : Res' := aluF 18 d a b divU s
def execRem (d a b : Nat) (s : State) : Res' := aluF 18 d a b remS s
def execRemu (d a b : Nat) (s : State) : Res' := aluF 18 d a b remU s
def execMin (d a b : Nat) (s : State) : Res' := alu 1 d a b (fun u v => if u.slt v then u else v) s
def execMax (d a b : Nat) (s : State) : Res' := alu 1 d a b (fun u v => if u.slt v then v else u) s
def execMinu (d a b : Nat) (s : State) : Res' := alu 1 d a b (fun u v => if u.ult v then u else v) s
def execMaxu (d a b : Nat) (s : State) : Res' := alu 1 d a b (fun u v => if u.ult v then v else u) s
def execAnd (d a b : Nat) (s : State) : Res' := alu 1 d a b (fun u v => u &&& v) s
def execOr (d a b : Nat) (s : State) : Res' := alu 1 d a b (fun u v => u ||| v) s
def execXor (d a b : Nat) (s : State) : Res' := alu 1 d a b (fun u v => u ^^^ v) s
def execAndn (d a b : Nat) (s : State) : Res' := alu 1 d a b (fun u v => u &&& ~~~v) s
def execShl (d a b : Nat) (s : State) : Res' := alu 1 d a b (fun u v => u <<< (v.toNat % 64)) s
def execShr (d a b : Nat) (s : State) : Res' := alu 1 d a b (fun u v => u >>> (v.toNat % 64)) s
def execSra (d a b : Nat) (s : State) : Res' := alu 1 d a b (fun u v => u.sshiftRight (v.toNat % 64)) s
def execRotl (d a b : Nat) (s : State) : Res' := alu 1 d a b (fun u v => u.rotateLeft (v.toNat % 64)) s

/-- Leading zero bits (R97). -/
def clz64 (w : Word) : Nat := if w = 0 then 64 else 63 - Nat.log2 w.toNat
/-- Trailing zero bits (R97). -/
def ctz64 (w : Word) : Nat := ((List.range 64).find? fun i => w.getLsbD i).getD 64
/-- One bits (R97). -/
def popc64 (w : Word) : Nat := ((List.range 64).filter fun i => w.getLsbD i).length

def execClz (d a : Nat) (s : State) : Res' := alu1 1 d a (fun u => wordOf (clz64 u)) s
def execCtz (d a : Nat) (s : State) : Res' := alu1 1 d a (fun u => wordOf (ctz64 u)) s
def execPopc (d a : Nat) (s : State) : Res' := alu1 1 d a (fun u => wordOf (popc64 u)) s
def execBext (d a pos len : Nat) (s : State) : Res' := alu1 1 d a (fun u => wordOf (getField u pos len)) s
def execBins (d a b pos len : Nat) (s : State) : Res' := alu 1 d a b (fun u v => insField v pos len u.toNat) s
def execSext (d a w : Nat) (s : State) : Res' := alu1 1 d a (fun u => wordOfInt (sextNat w u.toNat)) s

/-! ### Compares, predicates, select (R100 to R102) -/

/-- A compare to a predicate; a poisoned source is consumed (R96). -/
def cmpOp (cc : CC) (d a : Nat) (nm : List Nat) (b : State → SVal) : SlotOp where
  names x := x.pReg d :: x.sReg a :: nm.map x.sReg
  run s := if (s.rs a).poison || (b s).poison then poisonFault else .ok (s.emitP d (condS cc (s.rs a).val (b s).val))

def execCmp (cc : CC) (d a b : Nat) (s : State) : Res' := runSlot 0 (cmpOp cc d a [b] fun s => s.rs b) s
def execCmpi (cc : CC) (d a : Nat) (imm : Int) (s : State) : Res' := runSlot 0 (cmpOp cc d a [] fun _ => ⟨wordOfInt imm, false⟩) s
def execPand (d a b : Nat) (s : State) : Res' := runSlot 0 (predOp d a b fun u v => u && v) s
def execPor (d a b : Nat) (s : State) : Res' := runSlot 0 (predOp d a b fun u v => u || v) s
def execPxor (d a b : Nat) (s : State) : Res' := runSlot 0 (predOp d a b fun u v => u != v) s
def execPandn (d a b : Nat) (s : State) : Res' := runSlot 0 (predOp d a b fun u v => u && !v) s

def execSel (d c a b : Nat) (s : State) : Res' :=
  runSlot 0
    { names := fun x => [x.sReg d, x.pReg c, x.sReg a, x.sReg b]
      run := fun s => let r := if s.me.readP c then s.rs a else s.rs b; .ok (s.emitS d r.val 1 r.poison) } s

/-- HashMix (R105). -/
def hashMix (h x : Word) : Word := ((h ^^^ x) * 0xA24BAED4963EE407).rotateLeft 29 + 0x9FB21C651E98DF25

def execHmix (d a b : Nat) (s : State) : Res' := alu 3 d a b hashMix s
def execKvslot (d a b : Nat) (s : State) : Res' := aluF 18 d a b kvSlot s

/-! ### Immediates and long constants (R103, R104) -/

def execAddi (d a : Nat) (imm : Int) (s : State) : Res' := alu1 1 d a (fun u => u + wordOfInt imm) s
def execAndi (d a : Nat) (imm : Int) (s : State) : Res' := alu1 1 d a (fun u => u &&& wordOfInt imm) s
def execOri (d a : Nat) (imm : Int) (s : State) : Res' := alu1 1 d a (fun u => u ||| wordOfInt imm) s
def execXori (d a : Nat) (imm : Int) (s : State) : Res' := alu1 1 d a (fun u => u ^^^ wordOfInt imm) s
def execShli (d a n : Nat) (s : State) : Res' := alu1 1 d a (fun u => u <<< n) s
def execShri (d a n : Nat) (s : State) : Res' := alu1 1 d a (fun u => u >>> n) s
def execSrai (d a n : Nat) (s : State) : Res' := alu1 1 d a (fun u => u.sshiftRight n) s

/-- `lih` replaces bits 63 to 48 and keeps the poison bit (R104). -/
def execLih (d imm : Nat) (s : State) : Res' := alu1 1 d d (fun u => insField u 48 16 imm) s

def execLim (d : Nat) (imm : Int) (s : State) : Res' :=
  runSlot 0 { names := fun x => [x.sReg d], run := fun s => .ok (s.emitS d (wordOfInt imm) 1) } s

/-! ### Control registers (R62, R63, R107, R108) -/

/-- STATUS as the running context reads it (R63). -/
def Ctx.status (x : Ctx) : Word :=
  wordOf (3 * 256 + boolNat x.canreq * 16 + boolNat x.diag * 8 + boolNat x.flush * 4 + boolNat x.mode)

/-- SIBID: the sibling number, all ones outside a sibling group (R62). -/
def State.sibid (s : State) (c x : Nat) : Word :=
  match (s.taskOf c x).bind (·.sib) with
  | some n => wordOf n
  | none => BitVec.allOnes 64

/-- The value of control register `n` of the issuing context (R62, R107). -/
def State.ctlRead (s : State) (n : Nat) : Word :=
  match n with
  | 0 => s.me.status
  | 2 => wordOf s.me.f0
  | 0x0B => wordOf s.timebase
  | 0x0C => wordOf s.iss.ctx
  | 0x0D => wordOf s.iss.core
  | 0x0E => wordOf (s.iss.core / 64)
  | 0x0F => s.sibid s.iss.core s.iss.ctx
  | 0x13 => match s.myTask with | some t => wordOf t.budget | none => 0
  | 0x15 => wordOf s.chip
  | _ => s.me.ctlGet n

/-- The bits of a control register that a write in a mode reaches (R62); none where it is read only there. -/
def ctlMask (runtime : Bool) : Nat → Word
  | 0x01 => 0x1F
  | 0x03 | 0x04 | 0x11 => BitVec.allOnes 64
  | 0x05 => 0x1F
  | 0x06 | 0x07 => if runtime then 0xFF else 0
  | 0x08 | 0x09 | 0x10 | 0x13 | 0x14 => if runtime then BitVec.allOnes 64 else 0
  | 0x0A => if runtime then 1 else 0
  | 0x12 => if runtime then 0x800000000003FFFF else 0
  | _ => 0

/-- Registers marked PRIV (R62). -/
def ctlPriv (n : Nat) : Bool := (6 ≤ n && n ≤ 0x0A) || n == 0x12

def execCtlr (d num : Nat) (s : State) : Res' :=
  runSlot 0 { names := fun x => [x.sReg d], run := fun s => .ok (s.emitS d (s.ctlRead num) 1) } s

/-- The effect of `ctlw` at commit: the register one step later (R80, R107). -/
def State.ctlWrite (s : State) (num : Nat) (w : Word) : State :=
  if num = 0 then s.emit (.ctl 0) (.w w) 1
  else if ctlMask s.me.mode num = 0 then s
  else s.emit (.ctl num) (.w (w &&& ctlMask s.me.mode num)) 1

def ctlwOp (num a : Nat) : SlotOp where
  decode s := if ctlPriv num && !s.me.mode then some 4 else none
  names x := [x.sReg a]
  run s :=
    let v := s.rs a
    if v.poison then poisonFault
    else if num = 0 ∧ !s.me.mode ∧ v.val.getLsbD 3 != s.me.diag then .error (4, none)
    else .ok (s.ctlWrite num v.val)

def execCtlw (num a : Nat) (s : State) : Res' := runSlot 0 (ctlwOp num a) s

/-! ### Branches (R86, R87, R109 to R112) -/

/-- PCX + off × 64, modulo 2^64 (R109). -/
def relTarget (pc : Nat) (off : Int) : Nat := (wordOfInt ((pc : Int) + off * 64)).toNat

/-- A taken branch; a target not greater than the branch's own address is a cancellation point (R112). -/
def State.take (s : State) (t : Nat) : State :=
  let s' := s.branchTo t
  if t ≤ s.me.f0 then s'.cancelPoint else s'

/-- The link write of `call` and `callr` (R109). -/
def State.link (s : State) : State := s.emitS 62 (wordOf (s.me.f0 + 256)) 1

/-- The target of an indirect branch: poison, then alignment (R96, R110). -/
def indirect (s : State) (a : Nat) (k : Nat → State) : Except (Nat × Option Word) State :=
  let v := s.rs a
  if v.poison then poisonFault
  else if v.val.toNat % 64 ≠ 0 then .error (5, some v.val)
  else .ok (k v.val.toNat)

def execBr (off : Int) (s : State) : Res' := runSlot 0 { run := fun s => .ok (s.take (relTarget s.me.f0 off)) } s

def execBrr (a : Nat) (s : State) : Res' :=
  runSlot 0 { names := fun x => [x.sReg a], run := fun s => indirect s a s.take } s

def execCall (off : Int) (s : State) : Res' :=
  runSlot 0 { names := fun x => [x.sReg 62], run := fun s => .ok (s.link.take (relTarget s.me.f0 off)) } s

def execCallr (a : Nat) (s : State) : Res' :=
  runSlot 0 { names := fun x => [x.sReg a, x.sReg 62], run := fun s => indirect s a s.link.take } s

def execRet (s : State) : Res' := runSlot 0 { names := fun x => [x.sReg 62], run := fun s => indirect s 62 s.take } s

/-- The counts after one pass of a loop: LC, EC, the new p8 and whether the branch is taken (R87). -/
def loopStep (lc ec : Nat) : Nat × Nat × Bool × Bool :=
  if 1 < lc then (lc - 1, ec, true, true) else if 0 < ec then (0, ec - 1, false, true) else (0, 0, false, false)

def State.loop (s : State) (off : Int) : State :=
  let x := s.me
  let r := loopStep (x.ctlGet 3).toNat (x.ctlGet 4).toNat
  let rrb := (x.rrb + 1) % 32
  let t := relTarget x.f0 off
  let s := s.emit (.ctl 3) (.w (wordOf r.1)) 4
  let s := s.emit (.ctl 4) (.w (wordOf r.2.1)) 4
  let s := s.emit (.ctl 5) (.w (wordOf rrb)) 4
  let s := s.emit (.p (physP rrb 8)) (.b r.2.2.1) 4
  if r.2.2.2 then s.take t else s

def execLoop (off : Int) (s : State) : Res' := runSlot 0 { run := fun s => .ok (s.loop off) } s

def execChk (av : Bool) (a : Nat) (off : Int) (s : State) : Res' :=
  runSlot 0
    { names := fun x => [if av then x.vReg a else x.sReg a]
      run := fun s =>
        let po := if av then (s.me.readV a).poison else (s.rs a).poison
        .ok (if po then s.take (relTarget s.me.f0 off) else s) } s

end Sys2Proof.Machine
end

