-- ==== Sys2Proof/Machine/Access.lean ====
section
/-! DEFINITION. The L and T slots: loads, stores, messages and atomics as they issue (R167 to R187, R196). What an access does when it
performs at its home is in `Perform.lean`. -/

namespace Sys2Proof.Machine

/-! ### Pieces and destinations (R171, R173, R175) -/

/-- The pieces of an access of `n` bytes: offset and length, one for each 8-byte word (R171). -/
def piecesOf (n : Nat) : List (Nat × Nat) := if n ≤ 8 then [(0, n)] else (List.range (n / 8)).map fun i => (8 * i, 8)

/-- The pieces of `n` bytes at `o`, one for each 64-byte line (R171, R177). -/
def linePieces (o n : Nat) : List (Nat × Nat) :=
  (List.range (n / 64 + 2)).filterMap fun i =>
    let lo := Nat.max o ((o / 64 + i) * 64)
    let hi := Nat.min (o + n) ((o / 64 + i + 1) * 64)
    if lo < hi then some (lo - o, hi - lo) else none

/-- The byte of a destination is read (R173). -/
def Dest.active (d : Dest) (b : Nat) : Bool :=
  match d with
  | .vector _ (some m) => m.getLsbD b
  | _ => true

/-- Element width of a block form (R175). -/
def blkBits : BlkW → Nat
  | .w8 => 8
  | .w6 => 6
  | .w4 => 4

/-- Bytes of a block form (R175). -/
def blkBytes (w : BlkW) : Nat := 8 * blkBits w

/-- The results of a load whose bytes are `bs`, of which the words `po` are poisoned, on a context (R173, R175, R116). -/
def Dest.results (d : Dest) (regs : List RegId) (x : Ctx) (bs : List Byte) (po : List Nat) : List (RegId × RVal × Bool) :=
  match d, regs with
  | .scalar _, [r] => [(r, .w (wordOf (leNat bs)), !po.isEmpty)]
  | .quad _, rs => (List.range 4).filterMap fun i =>
      (rs[i]?).map fun r => (r, .w (wordOf (leNat ((bs.drop (8 * i)).take 8))), po.contains i)
  | .vector _ m, [.v p] =>
    let old := x.v.get {} p
    let byte := fun b => if d.active b then ((bs[b]?).getD 0).toNat else bitsOf (8 * b) 8 old.val.toNat
    [(.v p, .v (BitVec.ofNat 2048 (pack ((List.range 256).map fun b => (8, byte b)))), !po.isEmpty || (m.isSome && old.poison))]
  | .block _ part w, [.v p] =>
    let old := x.v.get {} p
    [(.v p, .v (insField old.val (w * 64 * part) (w * 64) (leNat bs)), !po.isEmpty || old.poison)]
  | _, _ => []

/-- A load of the L slot: address, size, alignment, latency of the local form, acquire, the read-only path, the speculative form, and its
destination on the issuing context. -/
structure LoadForm where
  ad : Addr
  n : Nat
  al : Nat
  lat : Nat
  acq : Bool := false
  ro : Bool := false
  spec : Bool := false
  dest : Ctx → Dest
  regs : Ctx → List RegId

/-- A local load at its commit (R168, R191 constraint 2). -/
def State.localLoad (s : State) (f : LoadForm) (o : Nat) : State :=
  let x := s.me
  let d := f.dest x
  let c := s.iss.core
  let ps := (piecesOf f.n).filter fun p => (List.range p.2).any fun b => d.active (p.1 + b)
  let po := ps.filterMap fun p => if (s.core c).spadPoisoned (o + p.1) p.2 then some (p.1 / 8) else none
  let bs := (s.core c).spadRead s.cycle o f.n
  let s := ps.foldl (fun s p => s.watch c true (o + p.1) p.2 1 (.context c s.iss.ctx)) s
  (d.results (f.regs x) x bs po).foldl (fun s r => s.emit r.1 r.2.1 f.lat r.2.2) s

/-- The class of a home for a core (R24). -/
def isNear (c pa : Nat) : Bool := tierOf pa == 0 && vaultOf pa == c

/-- An access piece through a handle. -/
def State.piece (s : State) (op : AccOp) (pa n : Nat) (hd : Handle) (va : Word) : Access :=
  { id := s.ids, core := s.iss.core, ctx := s.iss.ctx, step := s.me.step, op := op, place := .phys pa, n := n,
    near := isNear s.iss.core pa, vaddr := va, space := hd.space, vpage := hd.vpage, size := hd.size }

/-- A piece is issued. -/
def State.issue (s : State) (a : Access) : State := { s with accs := s.accs ++ [{ a with id := s.ids }], ids := s.ids + 1 }

/-- A load through a handle at its commit: its group, its pieces, its pending registers (R82, R170). -/
def State.homeLoad (s : State) (f : LoadForm) (pa : Nat) (hd : Handle) (va : Word) (op : AccOp) : State :=
  let x := s.me
  let d := f.dest x
  let regs := f.regs x
  let all : List (Nat × Nat) := match op with | .ro _ => linePieces pa f.n | _ => piecesOf f.n
  let ps := all.filter fun p => (List.range p.2).any fun b => d.active (p.1 + b)
  let (g, s) := s.newId
  let grp : Group := { id := g, core := s.iss.core, ctx := s.iss.ctx, step := x.step, dest := d, regs := regs, n := f.n, left := ps.length }
  let s := ({ s with groups := s.groups ++ [grp] } : State).mark regs
  ps.foldl (fun s p =>
    s.issue { s.piece op (pa + p.1) p.2 hd (va + wordOf p.1) with acq := f.acq, grp := some g, off := p.1 }) s

/-- What a speculative load delivers for a failed check of cause `c` (R176). -/
def Dest.deferred (d : Dest) (regs : List RegId) (x : Ctx) (c : Nat) : List (RegId × RVal × Bool) :=
  let bs := match d with
    | .vector .. => (List.range 256).map fun b => if b % 8 = 0 then BitVec.ofNat 8 c else 0
    | _ => leBytes 8 c
  (d.results regs x bs []).map fun r => (r.1, r.2.1, true)

/-- The runs of bytes below `n` that `act` names, as ranges. -/
def activeRuns (act : Nat → Bool) (n : Nat) : List (Nat × Nat) :=
  (List.range n).foldr (fun i l =>
    if !act i then l
    else match l with
      | (lo, hi) :: r => if lo = i + 1 then (i, hi) :: r else (i, i + 1) :: l
      | [] => [(i, i + 1)]) []

/-- The conditions that hold a load: an acquire, and for a local form a watermark and a held store over the bytes that it reads
(R173, R186, R196). -/
def State.loadWaits (s : State) (ad : Addr) (n : Nat) (act : Nat → Bool) : List Wait :=
  .acquire :: match s.localRange ad n with
    | some (lo, _) => (activeRuns act n).flatMap fun r => [.mark (lo + r.1) (lo + r.2), .heldStore (lo + r.1) (lo + r.2)]
    | none => []

/-- The read-only path serves the page (R177). -/
def Handle.roPath (h : Handle) : Bool := h.rop && !h.unc

def LoadForm.op (f : LoadForm) (mask : List RegId) : SlotOp where
  decode := addrDecode f.ad
  names x := f.regs x ++ addrNames f.ad x ++ mask
  waits s := s.loadWaits f.ad f.n (f.dest s.me).active
  run s :=
    match s.address f.ad f.n f.al .load (!f.acq) with
    | .ok (.spad o) => .ok (s.localLoad f o)
    | .ok (.home pa hd va) => .ok (s.homeLoad f pa hd va (if f.ro && hd.roPath then .ro true else .load))
    | .error (c, b) =>
      if f.spec then
        .ok (((f.dest s.me).deferred (f.regs s.me) s.me c).foldl (fun s r => s.emit r.1 r.2.1 f.lat r.2.2) s)
      else .error (c, b)

def ordAcq : MemOrd → Bool
  | .acq | .ar => true
  | _ => false

def ordRel : MemOrd → Bool
  | .rel | .ar => true
  | _ => false

/-! ### Loads (R172, R173, R175 to R177) -/

def scalarLoad (sz d : Nat) (ad : Addr) : LoadForm :=
  { ad := ad, n := sz, al := sz, lat := 4, dest := fun _ => .scalar d, regs := fun x => [x.sReg d] }

def vectorLoad (d : Nat) (ad : Addr) (k : Nat) : LoadForm :=
  { ad := ad, n := 256, al := 64, lat := 5,
    dest := fun x => .vector d (if k = 0 then none else some (x.readK k)), regs := fun x => [x.vReg d] }

/-- The `hint` of a load or store changes no value (R180): it rides on the access only as data of the memory-side cache, which this
model leaves out (log entry 11). -/
def execLd (sz : Nat) (ord : MemOrd) (_hint : Hint) (d : Nat) (ad : Addr) (s : State) : Res' :=
  runSlot 4 (LoadForm.op { scalarLoad sz d ad with acq := ordAcq ord } []) s

def execLdS (sz : Nat) (_hint : Hint) (d : Nat) (ad : Addr) (s : State) : Res' :=
  runSlot 4 (LoadForm.op { scalarLoad sz d ad with spec := true } []) s

def execVld (_hint : Hint) (d : Nat) (ad : Addr) (k : Nat) (s : State) : Res' := runSlot 4 ((vectorLoad d ad k).op [.k k]) s

def execVldS (_hint : Hint) (d : Nat) (ad : Addr) (k : Nat) (s : State) : Res' :=
  runSlot 4 (LoadForm.op { vectorLoad d ad k with spec := true } [.k k]) s

def execLdro (sz : Nat) (_hint : Hint) (d : Nat) (ad : Addr) (s : State) : Res' :=
  runSlot 4 (LoadForm.op { scalarLoad sz d ad with ro := true } []) s

def execVldro (_hint : Hint) (d : Nat) (ad : Addr) (k : Nat) (s : State) : Res' :=
  runSlot 4 (LoadForm.op { vectorLoad d ad k with ro := true } [.k k]) s

def execVldb (w : BlkW) (_hint : Hint) (d : Nat) (ad : Addr) (part : Nat) (s : State) : Res' :=
  runSlot 4 (LoadForm.op
    { ad := ad, n := blkBytes w, al := 16, lat := 5, dest := fun _ => .block d part (blkBits w), regs := fun x => [x.vReg d] } []) s

def execLdx (ord : MemOrd) (_hint : Hint) (d : Nat) (ad : Addr) (s : State) : Res' :=
  runSlot 4 (LoadForm.op
    { ad := ad, n := 32, al := 32, lat := 4, acq := ordAcq ord, dest := fun _ => .quad d,
      regs := fun x => (List.range 4).map fun i => x.sReg (d + i) } []) s

/-! ### roinv (R178) -/

/-- Lines leave the read-only cache, and fills of earlier accesses to them are barred. -/
def State.roinv (s : State) (c : Nat) (hit : Nat → Bool) : State :=
  let s := s.updCore c fun k => { k with roc := k.roc.filter fun l => !hit l.addr }
  { s with accs := s.accs.map fun a =>
      match a.op, a.place with
      | .ro _, .phys p => if a.core = c ∧ hit (p / 64 * 64) then { a with op := .ro false } else a
      | _, _ => a }

def roinvOp (h a : Nat) (disp : Int) : SlotOp where
  decode := handleDecode [h]
  names x := [x.sReg a, .h h]
  run s :=
    match s.address ⟨false, h, a, disp⟩ 1 1 .load true false with
    | .ok (.home pa _ _) => .ok (s.roinv s.iss.core fun l => decide (l = pa / 64 * 64))
    | .ok (.spad _) => .ok s
    | .error e => .error e

def execRoinvAddr (h a : Nat) (disp : Int) (s : State) : Res' := runSlot 4 (roinvOp h a disp) s

def execRoinvAll (s : State) : Res' := runSlot 4 { run := fun s => .ok (s.roinv s.iss.core fun _ => true) } s

/-! ### Stores (R172, R174, R186, R191) -/

/-- The operand ranges that an operation has still to read (R154). -/
def MOp.unread (o : MOp) : List (Nat × Nat) :=
  match o.kind with
  | .tload ty a b =>
    let kb := match ty with | .e2m3 | .e2m1 => 4 | _ => 2
    [(a, a + 64 * kb * ty.blockBytes), (b, b + 64 * kb)]
  | .tmm ty _ a b n _ =>
    let kb := match ty with | .e2m3 | .e2m1 => 4 | _ => 2
    if o.entered < n then
      [(a + o.entered * kb * ty.blockBytes, a + n * kb * ty.blockBytes), (b + o.entered * kb, b + n * kb)]
    else []
  | _ => []

/-- The operation has still to read a byte of a store at `o` (R154). -/
def MOp.readsBytes (m : MOp) (o : Nat) (data : List (Option Byte)) : Bool :=
  m.unread.any fun r => (List.range data.length).any fun i => ((data[i]?).getD none).isSome && decide (r.1 ≤ o + i ∧ o + i < r.2)

/-- The matrix operations behind whose operand reads a local store of the issuing context to the bytes is held (R154, R191 constraint 2). -/
def State.heldBehind (s : State) (o : Nat) (data : List (Option Byte)) : List Nat :=
  (s.myCore.mq.filter fun m => decide (m.ctx = s.iss.ctx) && m.readsBytes o data).map (·.id)

/-- An earlier local store of the issuing context to a byte of the data has not performed: a later one is held behind it (R191
constraint 2). -/
def State.storeAhead (s : State) (o : Nat) (data : List (Option Byte)) : Bool :=
  (s.accsOf s.iss.core s.iss.ctx).any fun a =>
    (List.range data.length).any fun i => ((data[i]?).getD none).isSome && a.storesIn (o + i) (o + i + 1)

/-- A local store at its commit (R191 constraint 2). -/
def State.localStore (s : State) (o : Nat) (data : List (Option Byte)) : State :=
  let c := s.iss.core
  let x := s.iss.ctx
  let held := s.heldBehind o data
  if !held.isEmpty || s.storeAhead o data then
    s.issue { id := s.ids, core := c, ctx := x, step := s.me.step, op := .store data, place := .spad c o, n := data.length, behind := held }
  else
    ((piecesOf data.length).filter fun p => ((data.drop p.1).take p.2).any (·.isSome)).foldl
      (fun s p => s.spadStore c (o + p.1) ((data.drop p.1).take p.2) (.context c x)) s

/-- The line of a byte offset is covered by the data (R174). -/
def coversLine (pa : Nat) (data : List (Option Byte)) (off : Nat) : Bool :=
  let l := (pa + off) / 64 * 64
  decide (pa ≤ l ∧ l + 64 ≤ pa + data.length) && (((data.drop (l - pa)).take 64).all (·.isSome))

/-- A store through a handle at its commit: one piece for each word with a byte to write. -/
def State.homeStore (s : State) (pa : Nat) (data : List (Option Byte)) (hd : Handle) (va : Word) : State :=
  ((piecesOf data.length).filter fun p => ((data.drop p.1).take p.2).any (·.isSome)).foldl
    (fun s p =>
      s.issue { s.piece (.store ((data.drop p.1).take p.2)) (pa + p.1) p.2 hd (va + wordOf p.1) with
        off := p.1, full := coversLine pa data p.1 }) s

/-- A store of the T slot: `src` names the data registers, `data` their poison and bytes. -/
structure StoreForm where
  ad : Addr
  n : Nat
  al : Nat
  rel : Bool := false
  src : Ctx → List RegId
  data : Ctx → Bool × List (Option Byte)

/-- The conditions that a release and an acquire add (R196). -/
def ordWaits (rel : Bool) : List Wait := .acquire :: waitsIf rel [.earlier false]

def StoreForm.op (f : StoreForm) : SlotOp where
  decode := addrDecode f.ad
  names x := f.src x ++ addrNames f.ad x
  waits _ := ordWaits f.rel
  run s :=
    match s.address f.ad f.n f.al .store (!f.rel) with
    | .error e => .error e
    | .ok t =>
      let (po, data) := f.data s.me
      if po then .error (0x12, none)
      else match t with
        | .spad o => .ok (s.localStore o data)
        | .home pa hd va => .ok (s.homeStore pa data hd va)

def wordBytes (w : Word) (n : Nat) : List (Option Byte) := (leBytes n w.toNat).map some

/-- The bytes of a vector register under a mask. -/
def maskedBytes (v : VWord) (m : KWord) : List (Option Byte) :=
  ((List.range 256).zip (leBytes 256 v.toNat)).map fun e => if m.getLsbD e.1 then some e.2 else none

def execSt (sz : Nat) (ord : MemOrd) (_hint : Hint) (d : Nat) (ad : Addr) (s : State) : Res' :=
  runSlot 5 (StoreForm.op
    { ad := ad, n := sz, al := sz, rel := ordRel ord, src := fun x => [x.sReg d],
      data := fun x => ((x.readS d).poison, wordBytes (x.readS d).val sz) }) s

def execVst (_hint : Hint) (d : Nat) (ad : Addr) (k : Nat) (s : State) : Res' :=
  runSlot 5 (StoreForm.op
    { ad := ad, n := 256, al := 64, src := fun x => [x.vReg d, .k k],
      data := fun x => ((x.readV d).poison, maskedBytes (x.readV d).val (x.readK k)) }) s

def execVstb (w : BlkW) (_hint : Hint) (d : Nat) (ad : Addr) (part : Nat) (s : State) : Res' :=
  runSlot 5 (StoreForm.op
    { ad := ad, n := blkBytes w, al := 16, src := fun x => [x.vReg d],
      data := fun x =>
        ((x.readV d).poison, (leBytes (blkBytes w) (bitsOf (64 * blkBits w * part) (64 * blkBits w) (x.readV d).val.toNat)).map some) }) s

def execStx (ord : MemOrd) (_hint : Hint) (d : Nat) (ad : Addr) (s : State) : Res' :=
  runSlot 5 (StoreForm.op
    { ad := ad, n := 32, al := 32, rel := ordRel ord, src := fun x => (List.range 4).map fun i => x.sReg (d + i),
      data := fun x =>
        ((List.range 4).any (fun i => (x.readS (d + i)).poison),
          (List.range 4).flatMap fun i => wordBytes (x.readS (d + i)).val 8) }) s

/-! ### Messages (R181, R182, R355) -/

/-- The task's launch placed a task on the core (R181). -/
def State.launchOn (s : State) (core : Nat) : Bool :=
  match s.myTask with
  | some t => s.tasks.any fun e => match e.2 with | some u => decide (u.launch = t.launch ∧ u.core = core) | none => false
  | none => false

/-- The releases that hold a tagged write of the issuing context: the arrivals it has registered that no release has reached (R355). -/
def Ctx.holds (x : Ctx) : List (Nat × Nat) := (x.arr.filter fun e => !e.2.released).map fun e => (e.2.bar, e.2.phase)

/-- The target of a message: its core and offset, or SCRATCH_RANGE (R181). -/
def State.sendTarget (s : State) (a : Nat) (disp : Int) (n al : Nat) : Except (Nat × Option Word) (Nat × Nat) :=
  let u := s.rs a
  if u.poison then .error (0x10, none)
  else
    let w := u.val.toNat
    let t : Int := (bitsOf 0 23 w : Nat) + disp
    let bad : Nat × Option Word := (0x30, some (u.val + wordOfInt disp))
    let core := bitsOf 32 7 w
    if bitsOf 23 9 w ≠ 0 ∨ bitsOf 39 24 w ≠ 0 then .error bad
    else if t < 0 then .error bad
    else if t.toNat % al ≠ 0 ∨ 2 ^ 23 < t.toNat + n ∨ !s.spadRangeOk t.toNat n ∨ !s.launchOn core then .error bad
    else .ok (core, t.toNat)

def sendOp (vec rel : Bool) (d a : Nat) (disp : Int) (k : Nat) : SlotOp where
  names x := (if vec then [x.vReg d, .k k] else [x.sReg d]) ++ [x.sReg a]
  waits _ := .sends :: ordWaits rel
  run s :=
    let n := if vec then 256 else 8
    match s.sendTarget a disp n (if vec then 64 else 8) with
    | .error e => .error e
    | .ok (core, t) =>
      let x := s.me
      let po := if vec then (x.readV d).poison else (x.readS d).poison
      if po then .error (0x12, none)
      else
        let data := if vec then maskedBytes (x.readV d).val (x.readK k) else wordBytes (x.readS d).val 8
        let tagged := (s.rs a).val.getLsbD 63
        .ok (s.issue { id := s.ids, core := s.iss.core, ctx := s.iss.ctx, step := x.step, op := .store data, place := .spad core t,
                       n := n, send := true, tagged := tagged, heldFor := if tagged then x.holds else [] })

def execSend (vec : Bool) (ord : MemOrd) (d a : Nat) (disp : Int) (k : Nat) (s : State) : Res' :=
  runSlot 5 (sendOp vec (ordRel ord) d a disp k) s

/-! ### Atomics (R183, R184) -/

def amoOp (op : AmoOp) (n : Nat) (ord : MemOrd) (d : Nat) (ad : Addr) (b c : Nat) : SlotOp where
  decode := addrDecode ad
  names x := [x.sReg d, x.sReg b, x.sReg c] ++ addrNames ad x
  waits s := s.loadWaits ad n (fun _ => true) ++ waitsIf (ordRel ord) [.earlier false]
  run s :=
    match s.address ad n n .rmw (ord == .rlx) with
    | .error e => .error e
    | .ok t =>
      let u := s.rs b
      let v := s.rs c
      if u.poison || v.poison then .error (0x12, none)
      else
        let ub := u.val.toNat % 2 ^ (8 * n)
        let vb := v.val.toNat % 2 ^ (8 * n)
        match t with
        | .spad o =>
          let ((bs, po), s) := s.amoSpad s.iss.core op o n ub vb (.context s.iss.core s.iss.ctx)
          .ok (s.emitS d (wordOf (leNat bs)) 6 po)
        | .home pa hd va =>
          .ok (s.homeLoad { ad := ad, n := n, al := n, lat := 6, acq := ordAcq ord, dest := fun _ => .scalar d, regs := fun x => [x.sReg d] }
            pa hd va (.amo op ub vb))

/-- An atomic without a compare operand. -/
def amo (op : AmoOp) (sz : Nat) (ord : MemOrd) (d : Nat) (ad : Addr) (b : Nat) (s : State) : Res' :=
  runSlot 5 (amoOp op sz ord d ad b 0) s

def execAmoAdd (sz : Nat) (ord : MemOrd) (_hint : Hint) (d : Nat) (ad : Addr) (b : Nat) (s : State) : Res' := amo .add sz ord d ad b s
def execAmoMin (sz : Nat) (ord : MemOrd) (_hint : Hint) (d : Nat) (ad : Addr) (b : Nat) (s : State) : Res' := amo .min sz ord d ad b s
def execAmoMax (sz : Nat) (ord : MemOrd) (_hint : Hint) (d : Nat) (ad : Addr) (b : Nat) (s : State) : Res' := amo .max sz ord d ad b s
def execAmoMinu (sz : Nat) (ord : MemOrd) (_hint : Hint) (d : Nat) (ad : Addr) (b : Nat) (s : State) : Res' := amo .minu sz ord d ad b s
def execAmoMaxu (sz : Nat) (ord : MemOrd) (_hint : Hint) (d : Nat) (ad : Addr) (b : Nat) (s : State) : Res' := amo .maxu sz ord d ad b s
def execAmoAnd (sz : Nat) (ord : MemOrd) (_hint : Hint) (d : Nat) (ad : Addr) (b : Nat) (s : State) : Res' := amo .and sz ord d ad b s
def execAmoOr (sz : Nat) (ord : MemOrd) (_hint : Hint) (d : Nat) (ad : Addr) (b : Nat) (s : State) : Res' := amo .or sz ord d ad b s
def execAmoXor (sz : Nat) (ord : MemOrd) (_hint : Hint) (d : Nat) (ad : Addr) (b : Nat) (s : State) : Res' := amo .xor sz ord d ad b s
def execAmoSwap (sz : Nat) (ord : MemOrd) (_hint : Hint) (d : Nat) (ad : Addr) (b : Nat) (s : State) : Res' := amo .swap sz ord d ad b s
def execAmoCas (sz : Nat) (ord : MemOrd) (_hint : Hint) (d : Nat) (ad : Addr) (b c : Nat) (s : State) : Res' :=
  runSlot 5 (amoOp .cas sz ord d ad b c) s
/-- The size follows the type: 4 bytes for FP32, 2 for FP16 and BF16 (R183). -/
def execAmoFadd (ty : Ty) (ord : MemOrd) (_hint : Hint) (d : Nat) (ad : Addr) (b : Nat) (s : State) : Res' :=
  runSlot 5 (amoOp (.fadd ty) (ty.bits / 8) ord d ad b 0) s

end Sys2Proof.Machine
end

