-- ==== Sys2Proof/Decode.lean ====
section
/-! DEFINITION. The decoder of a slot word (R50 to R58, R65, R68), total on every word and rejecting by name, and after it the
encoder of the same formats. -/

namespace Sys2Proof

/-- Why a slot word is not an instruction, in the order of R68. The checks that depend on the state of the context (a tile,
handle or semaphore beyond the declared ones, PRIVILEGED) follow in the machine. -/
inductive DecodeErr where
  /-- unassigned opcode, or a vendor diagnostic opcode without RUNTIME mode and DIAG = 1 (order 1 and 2) -/
  | illegalOp
  /-- the opcode's home is another slot (order 3) -/
  | illegalSlot
  /-- R53, R54, R57 or R58 (order 4) -/
  | illegalField
  deriving DecidableEq, Repr

/-- The home of an opcode (R65). -/
inductive Home where
  | s | v | m | l | t | e | y | all
  deriving DecidableEq, Repr

/-- The home of every assigned opcode (R65). -/
def homeOf (opc : Nat) : Option Home :=
  if opc = 0 then some .all
  else if opc ≤ 0x2F then some .s
  else if 0x40 ≤ opc ∧ opc ≤ 0x46 then some .s
  else if 0x80 ≤ opc ∧ opc ≤ 0xAA then some .v
  else if 0x100 ≤ opc ∧ opc ≤ 0x10A then some .m
  else if 0x140 ≤ opc ∧ opc ≤ 0x148 then some .l
  else if 0x180 ≤ opc ∧ opc ≤ 0x18F then some .t
  else if 0x1C0 ≤ opc ∧ opc ≤ 0x1D1 then some .e
  else if 0x200 ≤ opc ∧ opc ≤ 0x221 then some .y
  else if 0x3C0 ≤ opc ∧ opc ≤ 0x3FF then some .all
  else none

/-- The slot numbers of R50 that a home accepts. -/
def Home.accepts : Home → Nat → Bool
  | .s, n => n == 0
  | .v, n => n == 1 || n == 2
  | .m, n => n == 3
  | .l, n => n == 4
  | .t, n => n == 5
  | .e, n => n == 6
  | .y, n => n == 7
  | .all, _ => true

/-- The first slot that a home accepts. -/
def Home.slot : Home → Nat
  | .s | .all => 0
  | .v => 1
  | .m => 3
  | .l => 4
  | .t => 5
  | .e => 6
  | .y => 7

/-! The formats of R56: field widths, least significant first, up to the header of R52. -/

def hdrW : List Nat := [4, 1, 10]
def aluW : List Nat := [8, 4, 4, 2, 4, 3, 6, 6, 6, 6] ++ hdrW
def immW : List Nat := [33, 4, 6, 6] ++ hdrW
def limW : List Nat := [48, 6, 10]
def braW : List Nat := [16, 26, 1, 6] ++ hdrW
def memW : List Nat := [22, 3, 2, 2, 3, 6, 4, 1, 6] ++ hdrW
def amoW : List Nat := [9, 4, 6, 6, 2, 2, 3, 6, 4, 1, 6] ++ hdrW
def engW : List Nat := [26, 3, 4, 6, 6, 4] ++ hdrW
def calW : List Nat := [3, 2, 1, 4, 4, 8, 12, 6, 4, 5] ++ hdrW
def synW : List Nat := [9, 1, 2, 3, 4, 6, 16, 8] ++ hdrW
def tilW : List Nat := [11, 16, 1, 2, 4, 6, 6, 3] ++ hdrW

/-! Coded fields (R57). -/

def tyOf : Nat → Option Ty
  | 0 => some .f32 | 1 => some .f16 | 2 => some .bf16 | 3 => some .i32 | 4 => some .i16 | 5 => some .i8
  | 6 => some .ui8 | 7 => some .i64 | 8 => some .mxi8 | 9 => some .e4m3 | 10 => some .e5m2 | 11 => some .e2m3
  | 12 => some .e2m1 | _ => none

def tyCode : Ty → Nat
  | .f32 => 0 | .f16 => 1 | .bf16 => 2 | .i32 => 3 | .i16 => 4 | .i8 => 5 | .ui8 => 6 | .i64 => 7
  | .mxi8 => 8 | .e4m3 => 9 | .e5m2 => 10 | .e2m3 => 11 | .e2m1 => 12

def mdOf : Nat → Option Rnd
  | 0 => some .rne | 1 => some .rz | 2 => some .rup | 3 => some .rdn | _ => none

def mdCode : Rnd → Nat
  | .rne => 0 | .rz => 1 | .rup => 2 | .rdn => 3

def ccOf : Nat → Option CC
  | 0 => some .eq | 1 => some .ne | 2 => some .lt | 3 => some .le | 4 => some .gt | 5 => some .ge
  | 6 => some .ltu | 7 => some .leu | 8 => some .gtu | 9 => some .geu | 10 => some .ord | 11 => some .uno
  | _ => none

def ccCode : CC → Nat
  | .eq => 0 | .ne => 1 | .lt => 2 | .le => 3 | .gt => 4 | .ge => 5 | .ltu => 6 | .leu => 7 | .gtu => 8
  | .geu => 9 | .ord => 10 | .uno => 11

/-- Access sizes of 1 to 8 bytes. -/
def szOf : Nat → Option Nat
  | 0 => some 1 | 1 => some 2 | 2 => some 4 | 3 => some 8 | _ => none

def szCode : Nat → Nat
  | 1 => 0 | 2 => 1 | 4 => 2 | 8 => 3 | _ => 7

def hintOf : Nat → Option Hint
  | 0 => some .normal | 1 => some .stream | 2 => some .keep | 3 => some .bypass | _ => none

def hintCode : Hint → Nat
  | .normal => 0 | .stream => 1 | .keep => 2 | .bypass => 3

def ordOf : Nat → Option MemOrd
  | 0 => some .rlx | 1 => some .acq | 2 => some .rel | 3 => some .ar | _ => none

def ordCode : MemOrd → Nat
  | .rlx => 0 | .acq => 1 | .rel => 2 | .ar => 3

def scOf : Nat → Option Scope
  | 0 => some .ctx | 1 => some .core | 2 => some .die | 3 => some .dev | 4 => some .sys | _ => none

def scCode : Scope → Nat
  | .ctx => 0 | .core => 1 | .die => 2 | .dev => 3 | .sys => 4

def shufOf : Nat → Option Shuf
  | 0 => some .ziplo | 1 => some .ziphi | 2 => some .evens | 3 => some .odds | 4 => some .rev | 5 => some .swap2
  | _ => none

def shufCode : Shuf → Nat
  | .ziplo => 0 | .ziphi => 1 | .evens => 2 | .odds => 3 | .rev => 4 | .swap2 => 5

def redOf : Nat → Option RedOp
  | 0 => some .sum | 1 => some .min | 2 => some .max | _ => none

def redCode : RedOp → Nat
  | .sum => 0 | .min => 1 | .max => 2

def blkOf : Nat → Option BlkW
  | 0 => some .w8 | 1 => some .w6 | 2 => some .w4 | _ => none

def blkCode : BlkW → Nat
  | .w8 => 0 | .w6 => 1 | .w4 => 2

/-- An instruction, provided every reserved field is zero (R56, R58). -/
def only (reserved : List Nat) (i : Option Instr) : Option Instr :=
  if reserved.all (· == 0) then i else none

/-- Fields of format ALU. -/
structure AluF where
  (d a b c k ty md ty2 cc aux : Nat)
  deriving DecidableEq, Repr

def aluF (l : List Nat) : AluF :=
  ⟨l.getD 9 0, l.getD 8 0, l.getD 7 0, l.getD 6 0, l.getD 5 0, l.getD 4 0, l.getD 3 0, l.getD 2 0, l.getD 1 0, l.getD 0 0⟩

/-- S slot, format ALU: `d`, `a`, `b` (R93, R97). -/
def alu3 (f : AluF) (i : Nat → Nat → Nat → Instr) : Option Instr :=
  only [f.c, f.k, f.ty, f.md, f.ty2, f.cc, f.aux] (some (i f.d f.a f.b))

/-- S slot, format ALU: `d`, `a` (R97). -/
def alu2 (f : AluF) (i : Nat → Nat → Instr) : Option Instr :=
  only [f.b, f.c, f.k, f.ty, f.md, f.ty2, f.cc, f.aux] (some (i f.d f.a))

/-- Opcodes 0x001 to 0x023 (R97 to R106). -/
def decodeAlu (opc : Nat) (f : AluF) : Option Instr :=
  match opc with
  | 0x001 => alu3 f .add
  | 0x002 => alu3 f .sub
  | 0x003 => alu3 f .mul
  | 0x004 => alu3 f .mulh
  | 0x005 => alu3 f .mulhu
  | 0x006 => alu3 f .div
  | 0x007 => alu3 f .divu
  | 0x008 => alu3 f .rem
  | 0x009 => alu3 f .remu
  | 0x00A => alu3 f .min
  | 0x00B => alu3 f .max
  | 0x00C => alu3 f .minu
  | 0x00D => alu3 f .maxu
  | 0x00E => alu3 f .and
  | 0x00F => alu3 f .or
  | 0x010 => alu3 f .xor
  | 0x011 => alu3 f .andn
  | 0x012 => alu3 f .shl
  | 0x013 => alu3 f .shr
  | 0x014 => alu3 f .sra
  | 0x015 => alu3 f .rotl
  | 0x016 => alu2 f .clz
  | 0x017 => alu2 f .ctz
  | 0x018 => alu2 f .popc
  | 0x019 => only [f.b, f.k, f.ty, f.md, f.ty2, f.cc] (some (.bext f.d f.a f.aux (f.c + 1)))
  | 0x01A => only [f.k, f.ty, f.md, f.ty2, f.cc] (some (.bins f.d f.a f.b f.aux (f.c + 1)))
  | 0x01B => only [f.b, f.c, f.k, f.ty, f.md, f.ty2, f.cc] (some (.sext f.d f.a (f.aux + 1)))
  | 0x01C => only [f.c, f.k, f.ty, f.md, f.ty2, f.aux] ((ccOf f.cc).map fun cc => .cmp cc f.d f.a f.b)
  | 0x01D => alu3 f .pand
  | 0x01E => alu3 f .por
  | 0x01F => alu3 f .pxor
  | 0x020 => alu3 f .pandn
  | 0x021 => only [f.k, f.ty, f.md, f.ty2, f.cc, f.aux] (some (.sel f.d f.c f.a f.b))
  | 0x022 => alu3 f .hmix
  | 0x023 => alu3 f .kvslot
  | _ => none

/-- Fields of format IMM. -/
structure ImmF where
  (d a cc imm : Nat)
  deriving DecidableEq, Repr

def immF (l : List Nat) : ImmF := ⟨l.getD 3 0, l.getD 2 0, l.getD 1 0, l.getD 0 0⟩

/-- Opcodes 0x024 to 0x02E (R100, R103, R104, R107). -/
def decodeImm (opc : Nat) (f : ImmF) : Option Instr :=
  match opc with
  | 0x024 => only [f.cc] (some (.addi f.d f.a (sextNat 33 f.imm)))
  | 0x025 => only [f.cc] (some (.andi f.d f.a (sextNat 33 f.imm)))
  | 0x026 => only [f.cc] (some (.ori f.d f.a (sextNat 33 f.imm)))
  | 0x027 => only [f.cc] (some (.xori f.d f.a (sextNat 33 f.imm)))
  | 0x028 => only [f.cc] (some (.shli f.d f.a f.imm))
  | 0x029 => only [f.cc] (some (.shri f.d f.a f.imm))
  | 0x02A => only [f.cc] (some (.srai f.d f.a f.imm))
  | 0x02B => (ccOf f.cc).map fun cc => .cmpi cc f.d f.a (sextNat 33 f.imm)
  | 0x02C => only [f.a, f.cc] (some (.lih f.d f.imm))
  | 0x02D => only [f.a, f.cc] (some (.ctlr f.d f.imm))
  | 0x02E => only [f.d, f.cc] (some (.ctlw f.imm f.a))
  | _ => none

/-- Fields of format BRA. -/
structure BraF where
  (a av rsv off : Nat)
  deriving DecidableEq, Repr

def braF (l : List Nat) : BraF := ⟨l.getD 3 0, l.getD 2 0, l.getD 1 0, l.getD 0 0⟩

/-- Opcodes 0x040 to 0x046 (R109). -/
def decodeBra (opc : Nat) (f : BraF) : Option Instr :=
  match opc with
  | 0x040 => only [f.a, f.av, f.rsv] (some (.br (sextNat 16 f.off)))
  | 0x041 => only [f.av, f.rsv, f.off] (some (.brr f.a))
  | 0x042 => only [f.a, f.av, f.rsv] (some (.call (sextNat 16 f.off)))
  | 0x043 => only [f.av, f.rsv, f.off] (some (.callr f.a))
  | 0x044 => only [f.a, f.av, f.rsv, f.off] (some .ret)
  | 0x045 => only [f.a, f.av, f.rsv] (some (.loop (sextNat 16 f.off)))
  | 0x046 => only [f.rsv] (some (.chk (f.av == 1) f.a (sextNat 16 f.off)))
  | _ => none

/-- V class: type, mode, three operands and mask (R118). -/
def vF3 (f : AluF) (i : Ty → Rnd → Nat → Nat → Nat → Nat → Instr) : Option Instr :=
  only [f.c, f.ty2, f.cc, f.aux] ((tyOf f.ty).bind fun t => (mdOf f.md).map fun m => i t m f.d f.a f.b f.k)

def vF4 (f : AluF) (i : Ty → Rnd → Nat → Nat → Nat → Nat → Nat → Instr) : Option Instr :=
  only [f.ty2, f.cc, f.aux] ((tyOf f.ty).bind fun t => (mdOf f.md).map fun m => i t m f.d f.a f.b f.c f.k)

def vI3 (f : AluF) (i : Ty → Nat → Nat → Nat → Nat → Instr) : Option Instr :=
  only [f.c, f.md, f.ty2, f.cc, f.aux] ((tyOf f.ty).map fun t => i t f.d f.a f.b f.k)

def vI2 (f : AluF) (i : Ty → Nat → Nat → Nat → Instr) : Option Instr :=
  only [f.b, f.c, f.md, f.ty2, f.cc, f.aux] ((tyOf f.ty).map fun t => i t f.d f.a f.k)

def vMask (f : AluF) (i : Nat → Nat → Nat → Instr) : Option Instr :=
  only [f.c, f.k, f.ty, f.md, f.ty2, f.cc, f.aux] (some (i f.d f.a f.b))

/-- Opcodes 0x080 to 0x0AA (R118). -/
def decodeVec (opc : Nat) (f : AluF) : Option Instr :=
  match opc with
  | 0x080 => vF3 f .vadd
  | 0x081 => vF3 f .vsub
  | 0x082 => vF3 f .vmul
  | 0x083 => vF4 f .vfma
  | 0x084 => vF4 f .vfms
  | 0x085 => vF4 f .vfnma
  | 0x086 => vI3 f .vmin
  | 0x087 => vI3 f .vmax
  | 0x088 => vI2 f .vabs
  | 0x089 => vI2 f .vneg
  | 0x08A => vI3 f .vand
  | 0x08B => vI3 f .vor
  | 0x08C => vI3 f .vxor
  | 0x08D => vI3 f .vshl
  | 0x08E => vI3 f .vshr
  | 0x08F => vI3 f .vsra
  | 0x090 => vI3 f .vaddsat
  | 0x091 => vI3 f .vsubsat
  | 0x092 => only [f.md, f.ty2, f.cc, f.aux] ((tyOf f.ty).map fun t => .vclamp t f.d f.a f.b f.c f.k)
  | 0x093 => vI2 f .vexp2
  | 0x094 => vI2 f .vlog2
  | 0x095 => vI2 f .vrcp
  | 0x096 => vI2 f .vrsq
  | 0x097 => only [f.c, f.md, f.ty2, f.aux]
      ((tyOf f.ty).bind fun t => (ccOf f.cc).map fun cc => .vcmp cc t f.d f.a f.b f.k)
  | 0x098 => vMask f .kand
  | 0x099 => vMask f .kor
  | 0x09A => vMask f .kxor
  | 0x09B => only [f.b, f.c, f.k, f.ty, f.md, f.ty2, f.cc, f.aux] (some (.knot f.d f.a))
  | 0x09C => only [f.b, f.c, f.k, f.md, f.ty2, f.cc, f.aux] ((tyOf f.ty).map fun t => .kpop t f.d f.a)
  | 0x09D => vI3 f .vsel
  | 0x09E => vI2 f .vbcast
  | 0x09F => vI3 f .vperm
  | 0x0A0 => only [f.c, f.md, f.ty2, f.cc]
      ((tyOf f.ty).bind fun t => (shufOf f.aux).map fun p => .vshuf t p f.d f.a f.b f.k)
  | 0x0A1 => only [f.b, f.c, f.md, f.ty2, f.cc] ((tyOf f.ty).map fun t => .vrot t f.d f.a f.aux f.k)
  | 0x0A2 => vI2 f .viota
  | 0x0A3 => only [f.b, f.c, f.k, f.md, f.ty2, f.cc] ((tyOf f.ty).map fun t => .vins t f.d f.a f.aux)
  | 0x0A4 => only [f.b, f.c, f.k, f.md, f.ty2, f.cc] ((tyOf f.ty).map fun t => .vext t f.d f.a f.aux)
  | 0x0A5 => vI2 f .vmov
  | 0x0A6 => only [f.b, f.c, f.md, f.ty2, f.cc]
      ((tyOf f.ty).bind fun t => (redOf f.aux).map fun o => .vred t o f.d f.a f.k)
  | 0x0A7 => only [f.b, f.c, f.md, f.ty2, f.cc]
      ((tyOf f.ty).bind fun t => (redOf f.aux).map fun o => .vscan t o f.d f.a f.k)
  | 0x0A8 => only [f.b, f.c, f.cc]
      ((tyOf f.ty).bind fun t => (tyOf f.ty2).bind fun t2 => (mdOf f.md).map fun m => .vcvt t t2 m f.d f.a f.aux f.k)
  | 0x0A9 => only [f.b, f.k, f.ty, f.cc]
      ((tyOf f.ty2).bind fun t2 => (mdOf f.md).map fun m => .vmxq t2 m f.d f.c f.a f.aux)
  | 0x0AA => only [f.b, f.k, f.ty, f.md, f.cc] ((tyOf f.ty2).map fun t2 => .vmxdq t2 f.d f.a f.c f.aux)
  | _ => none

/-- Fields of format TIL. -/
structure TilF where
  (t a b ty md va imm rsv : Nat)
  deriving DecidableEq, Repr

def tilF (l : List Nat) : TilF :=
  ⟨l.getD 7 0, l.getD 6 0, l.getD 5 0, l.getD 4 0, l.getD 3 0, l.getD 2 0, l.getD 1 0, l.getD 0 0⟩

/-- Opcodes 0x100 to 0x10A (R144). -/
def decodeTil (opc : Nat) (f : TilF) : Option Instr :=
  match opc with
  | 0x100 => only [f.b, f.ty, f.md, f.va, f.imm / 2, f.rsv] (some (.talloc f.t f.a (f.imm % 2 == 1)))
  | 0x101 => only [f.a, f.b, f.ty, f.md, f.va, f.imm / 2, f.rsv] (some (.tfree f.t (f.imm % 2 == 1)))
  | 0x102 => only [f.a, f.b, f.ty, f.md, f.va, f.rsv] (some (.tzero f.t (sextNat 16 f.imm)))
  | 0x103 => only [f.a, f.b, f.ty, f.md, f.va, f.rsv] (some (.tanchor f.t (sextNat 16 f.imm)))
  | 0x104 => only [f.t, f.md, f.va, f.imm, f.rsv] ((tyOf f.ty).map fun t => .tload t f.a f.b)
  | 0x105 => only [f.t, f.a, f.b, f.ty, f.md, f.va, f.imm, f.rsv] (some .tswap)
  | 0x106 => only [f.md, f.imm / 2 ^ 13, f.rsv]
      ((tyOf f.ty).map fun t => .tmm t f.t (f.va == 1) f.a f.b (f.imm % 128) (f.imm / 128 % 64))
  | 0x107 => only [f.b, 1 - f.va, f.imm / 128, f.rsv]
      ((tyOf f.ty).bind fun t => (mdOf f.md).map fun m => .tdrain t m f.t f.a (f.imm % 64) (f.imm / 64 % 2 == 1))
  | 0x108 => only [f.b, f.ty, f.md, f.va, f.imm, f.rsv] (some (.tstat f.t f.a))
  | 0x109 => only [f.b, f.ty, f.md, f.va, f.imm / 2, f.rsv] (some (.tprog f.t f.a (f.imm % 2)))
  | 0x10A => only [f.a, f.b, f.ty, f.md, f.va, f.imm, f.rsv] (some (.tclr f.t))
  | _ => none

/-- Fields of format MEM. -/
structure MemF where
  (d sp h a sz hint ord k disp : Nat)
  deriving DecidableEq, Repr

def memF (l : List Nat) : MemF :=
  ⟨l.getD 8 0, l.getD 7 0, l.getD 6 0, l.getD 5 0, l.getD 4 0, l.getD 3 0, l.getD 2 0, l.getD 1 0, l.getD 0 0⟩

def MemF.addr (f : MemF) : Addr := ⟨f.sp == 1, f.h, f.a, sextNat 22 f.disp⟩

/-- Scalar loads and stores with an order qualifier. -/
def memSO (f : MemF) (i : Nat → MemOrd → Hint → Nat → Addr → Instr) : Option Instr :=
  only [f.k] ((szOf f.sz).bind fun n => (ordOf f.ord).bind fun o => (hintOf f.hint).map fun h => i n o h f.d f.addr)

/-- Scalar loads of relaxed order only. -/
def memS (f : MemF) (i : Nat → Hint → Nat → Addr → Instr) : Option Instr :=
  only [f.k, f.ord] ((szOf f.sz).bind fun n => (hintOf f.hint).map fun h => i n h f.d f.addr)

/-- Vector forms, size code 5 (b256), relaxed. -/
def memV (f : MemF) (i : Hint → Nat → Addr → Nat → Instr) : Option Instr :=
  if f.sz = 5 then only [f.ord] ((hintOf f.hint).map fun h => i h f.d f.addr f.k) else none

/-- Block forms, size code 6 (blk), width code in `ord`, part in `k` (R175). -/
def memB (f : MemF) (i : BlkW → Hint → Nat → Addr → Nat → Instr) : Option Instr :=
  if f.sz = 6 then (blkOf f.ord).bind fun w => (hintOf f.hint).map fun h => i w h f.d f.addr f.k else none

/-- 32-byte forms, size code 4 (b32). -/
def memX (f : MemF) (i : MemOrd → Hint → Nat → Addr → Instr) : Option Instr :=
  if f.sz = 4 then only [f.k] ((ordOf f.ord).bind fun o => (hintOf f.hint).map fun h => i o h f.d f.addr) else none

/-- `roinv` in its two forms (R178). -/
def decodeRoinv (f : MemF) : Option Instr :=
  if f.d = 1 then only [f.sp, f.h, f.a, f.sz, f.hint, f.ord, f.k, f.disp] (some .roinvAll)
  else only [f.d, f.sp, f.sz, f.hint, f.ord, f.k] (some (.roinvAddr f.h f.a (sextNat 22 f.disp)))

/-- `send` (R181). -/
def decodeSend (f : MemF) : Option Instr :=
  if f.sp = 1 then
    only [f.h, f.hint]
      (if f.sz = 3 then (ordOf f.ord).map fun o => .send false o f.d f.a (sextNat 22 f.disp) f.k
       else if f.sz = 5 then (ordOf f.ord).map fun o => .send true o f.d f.a (sextNat 22 f.disp) f.k
       else none)
  else none

/-- Opcodes 0x140 to 0x148 and 0x180 to 0x184 (R172). -/
def decodeMem (opc : Nat) (f : MemF) : Option Instr :=
  match opc with
  | 0x140 => memSO f .ld
  | 0x141 => memS f .ldS
  | 0x142 => memV f .vld
  | 0x143 => memV f .vldS
  | 0x144 => memS f .ldro
  | 0x145 => memV f .vldro
  | 0x146 => memB f .vldb
  | 0x147 => memX f .ldx
  | 0x148 => decodeRoinv f
  | 0x180 => memSO f .st
  | 0x181 => memV f .vst
  | 0x182 => memB f .vstb
  | 0x183 => memX f .stx
  | 0x184 => decodeSend f
  | _ => none

/-- Fields of format AMO. -/
structure AmoF where
  (d sp h a sz hint ord b c ty disp : Nat)
  deriving DecidableEq, Repr

def amoF (l : List Nat) : AmoF :=
  ⟨l.getD 10 0, l.getD 9 0, l.getD 8 0, l.getD 7 0, l.getD 6 0, l.getD 5 0, l.getD 4 0, l.getD 3 0, l.getD 2 0,
    l.getD 1 0, l.getD 0 0⟩

def AmoF.addr (f : AmoF) : Addr := ⟨f.sp == 1, f.h, f.a, sextNat 9 f.disp⟩

def amo2 (f : AmoF) (i : Nat → MemOrd → Hint → Nat → Addr → Nat → Instr) : Option Instr :=
  only [f.c, f.ty] ((szOf f.sz).bind fun n => (ordOf f.ord).bind fun o => (hintOf f.hint).map fun h => i n o h f.d f.addr f.b)

/-- The size of `amo.fadd` must be that of its type (R183). -/
def decodeFadd (f : AmoF) : Option Instr :=
  only [f.c] ((tyOf f.ty).bind fun t => (szOf f.sz).bind fun n => (ordOf f.ord).bind fun o =>
    (hintOf f.hint).bind fun h => if n * 8 = t.bits then some (.amoFadd t o h f.d f.addr f.b) else none)

/-- Opcodes 0x185 to 0x18F (R183). -/
def decodeAmo (opc : Nat) (f : AmoF) : Option Instr :=
  match opc with
  | 0x185 => amo2 f .amoAdd
  | 0x186 => amo2 f .amoMin
  | 0x187 => amo2 f .amoMax
  | 0x188 => amo2 f .amoMinu
  | 0x189 => amo2 f .amoMaxu
  | 0x18A => amo2 f .amoAnd
  | 0x18B => amo2 f .amoOr
  | 0x18C => amo2 f .amoXor
  | 0x18D => amo2 f .amoSwap
  | 0x18E => only [f.ty] ((szOf f.sz).bind fun n => (ordOf f.ord).bind fun o => (hintOf f.hint).map fun h =>
      .amoCas n o h f.d f.addr f.b f.c)
  | 0x18F => decodeFadd f
  | _ => none

/-- Fields of format ENG. -/
structure EngF where
  (h a b pd q imm : Nat)
  deriving DecidableEq, Repr

def engF (l : List Nat) : EngF := ⟨l.getD 5 0, l.getD 4 0, l.getD 3 0, l.getD 2 0, l.getD 1 0, l.getD 0 0⟩

/-- Opcode 0x1D0, `xbcol` in its four operations (R294, R299). -/
def decodeXbcol (f : EngF) : Option Instr :=
  only [f.h, f.q, f.imm / 4]
    (match f.imm % 4 with
     | 0 => only [f.pd] (some (.xbcolCoef f.b f.a))
     | 1 => only [f.pd] (some (.xbcolClip f.b f.a))
     | 2 => some (.xbcolSet f.pd f.a f.b)
     | _ => only [f.pd] (some (.xbcolClipclr f.b f.a)))

/-- Format ENG opcodes (R217, R232, R273, R294, R351). -/
def decodeEng (opc : Nat) (f : EngF) : Option Instr :=
  match opc with
  | 0x1C0 => only [f.h, f.b, f.imm] (some (.push f.q f.a f.pd))
  | 0x1C1 => only [f.b, f.pd, f.q, f.imm / 4] (some (.xlat f.h f.a (f.imm % 4)))
  | 0x1C2 => only [f.b, f.pd, f.q, f.imm / 4] (some (.xlatS f.h f.a (f.imm % 4)))
  | 0x1C3 => only [f.a, f.pd, f.q, f.imm / 2] (some (.hinfo f.b f.h (f.imm % 2)))
  | 0x1C4 => only [f.a, f.b, f.pd, f.q, f.imm] (some (.hrel f.h))
  | 0x1C5 => only [f.h, f.q, f.imm / 8] (some (.tlbinv f.pd f.a f.b (f.imm % 4) (f.imm / 4 % 2 == 1)))
  | 0x1C6 => only [f.h, f.pd, f.q, f.imm] (some (.pgmig f.a f.b))
  | 0x1C8 => only [f.h, f.imm] (some (.cpwm f.pd f.q f.a f.b))
  | 0x1C9 => only [f.h, f.a, f.pd, f.imm] (some (.cpwmq f.b f.q))
  | 0x1CA => only [f.h, f.a, f.pd, f.imm / 2] (some (.cpprog f.b f.q (f.imm % 2)))
  | 0x1CB => only [f.h, f.b, f.q, f.imm] (some (.xbswap f.pd f.a))
  | 0x1CC => only [f.h, f.pd, f.q, f.imm / 4] (some (.xbstat f.b f.a (f.imm % 4)))
  | 0x1CD => only [f.h, f.b, f.q, f.imm] (some (.xbretire f.pd f.a))
  | 0x1CE => only [f.h, f.q, f.imm] (some (.xbremap f.pd f.a f.b))
  | 0x1CF => only [f.h, f.q, f.imm] (some (.xbcfg f.pd f.a f.b))
  | 0x1D0 => decodeXbcol f
  | 0x1D1 => only [f.h, f.b, f.q, f.imm / 32] (some (.klaunch f.pd f.a (f.imm % 32)))
  | _ => none

/-- Opcode 0x1C7, format CAL (R396). -/
def decodeCal (l : List Nat) : Option Instr :=
  only [l.getD 0 0]
    (some (.rcall (l.getD 9 0) (l.getD 8 0) (l.getD 7 0) (l.getD 6 0) (l.getD 5 0) (l.getD 2 0 == 1) (l.getD 1 0)
      (l.getD 4 0) (l.getD 3 0)))

/-- Fields of format SYN. -/
structure SynF where
  (n imm a pd sc ord dec rsv : Nat)
  deriving DecidableEq, Repr

def synF (l : List Nat) : SynF :=
  ⟨l.getD 7 0, l.getD 6 0, l.getD 5 0, l.getD 4 0, l.getD 3 0, l.getD 2 0, l.getD 1 0, l.getD 0 0⟩

/-- The Y-slot opcodes of synchronisation and of groups (R193, R194, R240, R358, R382). -/
def decodeSynA (opc : Nat) (f : SynF) : Option Instr :=
  match opc with
  | 0x200 => only [f.a, f.pd, f.sc, f.rsv] ((ordOf f.ord).map fun o => .semwait f.n f.imm o (f.dec == 1))
  | 0x201 => only [f.a, f.pd, f.sc, f.dec, f.rsv] ((ordOf f.ord).map fun o => .semsig f.n f.imm o)
  | 0x202 => only [f.imm, f.pd, f.sc, f.dec, f.rsv] ((ordOf f.ord).map fun o => .semset f.n f.a o)
  | 0x203 => only [f.imm, f.pd, f.sc, f.dec, f.rsv] ((ordOf f.ord).map fun o => .semget f.n f.a o)
  | 0x204 => only [f.a, f.sc, f.rsv] ((ordOf f.ord).map fun o => .semtry f.n f.imm f.pd o (f.dec == 1))
  | 0x205 => only [f.sc, f.ord, f.dec, f.rsv] (some (.qlevel f.n f.imm f.a f.pd))
  | 0x206 => only [f.n, f.imm, f.a, f.pd, f.ord, f.dec, f.rsv] ((scOf f.sc).map .fence)
  | 0x207 => only [f.n, f.imm, f.a, f.pd, f.sc, f.ord, f.dec, f.rsv] (some .drain)
  | 0x208 => only [f.imm, f.a, f.pd, f.sc, f.ord, f.dec, f.rsv] (some (.bsync f.n))
  | 0x209 => only [f.imm, f.a, f.pd, f.sc, f.ord, f.dec, f.rsv] (some (.barrive f.n))
  | 0x20A => only [f.imm, f.a, f.sc, f.ord, f.dec, f.rsv] (some (.bwait f.n f.pd))
  | 0x20B => only [f.imm, f.pd, f.sc, f.ord, f.dec, f.rsv] (some (.bstat f.n f.a))
  | 0x20C => only [f.n, f.imm, f.sc, f.ord, f.dec, f.rsv] (some (.bpost f.a f.pd))
  | 0x20D => only [f.n, f.imm / 64, f.pd, f.sc, f.dec, f.rsv] ((ordOf f.ord).map fun o => .bread o f.a (f.imm % 64))
  | 0x20E => only [f.imm, f.pd, f.sc, f.ord, f.dec, f.rsv] (some (.domset f.n f.a))
  | 0x20F => only [f.imm / 4, f.pd, f.sc, f.ord, f.dec, f.rsv] (some (.domget f.n f.a (f.imm % 4)))
  | 0x210 => only [f.n, f.imm, f.pd, f.sc, f.ord, f.dec, f.rsv] (some (.gcancel f.a))
  | 0x211 => only [f.n, f.imm, f.a, f.pd, f.sc, f.ord, f.dec, f.rsv] (some .ccp)
  | _ => none

/-- The Y-slot opcodes of calls, traps, debug and the kernel (R321, R327, R331, R351, R410, R411). -/
def decodeSynB (opc : Nat) (f : SynF) : Option Instr :=
  match opc with
  | 0x212 => only [f.imm / 2, f.sc, f.dec, f.rsv] ((ordOf f.ord).map fun o => .rwait o f.n f.a f.pd (f.imm % 2 == 1))
  | 0x213 => only [f.imm, f.sc, f.ord, f.dec, f.rsv] (some (.rpoll f.n f.a f.pd))
  | 0x215 => only [f.n, f.a, f.pd, f.sc, f.ord, f.dec, f.rsv] (some (.trap f.imm))
  | 0x216 => only [f.n, f.a, f.pd, f.sc, f.ord, f.dec, f.rsv] (some (.syscall f.imm))
  | 0x217 => only [f.n, f.imm, f.a, f.pd, f.sc, f.ord, f.dec, f.rsv] (some .rte)
  | 0x218 => only [f.n, f.a, f.pd, f.sc, f.ord, f.dec, f.rsv] (some (.brk f.imm))
  | 0x219 => only [f.n, f.imm, f.sc, f.ord, f.dec, f.rsv] (some (.step f.pd f.a))
  | 0x21A => only [f.imm / 2 ^ 15, f.imm / 256 % 16, f.pd, f.sc, f.ord, f.dec, f.rsv]
      (some (.wset f.n f.a (f.imm / 2 ^ 12 % 8) (f.imm % 256)))
  | 0x21B => only [f.imm, f.a, f.pd, f.sc, f.ord, f.dec, f.rsv] (some (.wclr f.n))
  | 0x21C => only [f.n, f.imm, f.sc, f.ord, f.dec, f.rsv] (some (.ctxfrz f.pd f.a))
  | 0x21D => only [f.n, f.imm, f.sc, f.ord, f.dec, f.rsv] (some (.ctxrun f.pd f.a))
  | 0x21E => only [f.n, f.imm, f.a, f.pd, f.sc, f.ord, f.dec, f.rsv] (some .kdone)
  | 0x21F => only [f.n, f.imm / 2, f.a, f.pd, f.sc, f.ord, f.dec, f.rsv] (some (.kfail (f.imm % 2 == 1)))
  | 0x220 => only [f.n, f.imm, f.pd, f.sc, f.ord, f.dec, f.rsv] (some (.kbudget f.a))
  | 0x221 => only [f.n, f.imm, f.a, f.pd, f.sc, f.ord, f.dec, f.rsv] (some .upcall)
  | _ => none

/-- The instruction that an assigned opcode and its operand bits stand for, before the range checks. -/
def candidate (opc w : Nat) : Option Instr :=
  if opc ≤ 0x23 then decodeAlu opc (aluF (unpack aluW w))
  else if opc ≤ 0x2E then decodeImm opc (immF (unpack immW w))
  else if opc = 0x2F then
    (fun l => some (.lim (l.getD 1 0) (sextNat 48 (l.getD 0 0)))) (unpack limW w)
  else if opc ≤ 0x46 then decodeBra opc (braF (unpack braW w))
  else if opc ≤ 0xAA then decodeVec opc (aluF (unpack aluW w))
  else if opc ≤ 0x10A then decodeTil opc (tilF (unpack tilW w))
  else if opc ≤ 0x184 then decodeMem opc (memF (unpack memW w))
  else if opc ≤ 0x18F then decodeAmo opc (amoF (unpack amoW w))
  else if opc = 0x1C7 then decodeCal (unpack calW w)
  else if opc ≤ 0x1D1 then decodeEng opc (engF (unpack engW w))
  else if opc ≤ 0x211 then decodeSynA opc (synF (unpack synW w))
  else if opc ≤ 0x221 then decodeSynB opc (synF (unpack synW w))
  else some (.vendorDiagnostic (opc - 0x3C0) (bitsOf 43 6 w) (w % 2 ^ 43))

/-- The guard of a slot word; format LIM has none (R52, R104). -/
def guardOf (opc w : Nat) : Guard :=
  if opc = 0x2F then ⟨false, 0⟩ else ⟨bitOf 53 w, bitsOf 49 4 w⟩

/-- The guard and the instruction of a word with an assigned opcode (R53, R55 to R58). -/
def decodeBody (w : Nat) : Option (Guard × Instr) :=
  let opc := bitsOf 54 10 w
  let g := guardOf opc w
  match candidate opc w with
  | some i => if g.wf && i.wf then some (g, i) else none
  | none => none

/-- Decode the word of slot `slot` (R68, orders 1 to 4). `diag` says that the context is in RUNTIME mode with DIAG = 1 (R70). The
all-zero word is `nop` (R54); `rret` is no instruction of a context (R406). -/
def decodeSlot (diag : Bool) (slot : Nat) (word : Word) : Except DecodeErr (Guard × Instr) :=
  let w := word.toNat
  let opc := bitsOf 54 10 w
  if w = 0 then .ok (⟨false, 0⟩, .nop)
  else
    match homeOf opc with
    | none => .error .illegalOp
    | some h =>
      if (0x3C0 ≤ opc && !diag) || opc == 0x214 then .error .illegalOp
      else if !h.accepts slot then .error .illegalSlot
      else if opc = 0 then .error .illegalField
      else
        match decodeBody w with
        | some r => .ok r
        | none => .error .illegalField

/-! The encoder. -/

def encHdr (g : Guard) (opc : Nat) : List (Nat × Nat) := [(4, g.pred), (1, boolNat g.neg), (10, opc)]

def encAlu (g : Guard) (opc : Nat) (f : AluF) : Nat :=
  pack ([(8, f.aux), (4, f.cc), (4, f.ty2), (2, f.md), (4, f.ty), (3, f.k), (6, f.c), (6, f.b), (6, f.a), (6, f.d)] ++ encHdr g opc)

def encImm (g : Guard) (opc : Nat) (f : ImmF) : Nat :=
  pack ([(33, f.imm), (4, f.cc), (6, f.a), (6, f.d)] ++ encHdr g opc)

def encBra (g : Guard) (opc : Nat) (f : BraF) : Nat :=
  pack ([(16, f.off), (26, f.rsv), (1, f.av), (6, f.a)] ++ encHdr g opc)

def encMem (g : Guard) (opc : Nat) (f : MemF) : Nat :=
  pack ([(22, f.disp), (3, f.k), (2, f.ord), (2, f.hint), (3, f.sz), (6, f.a), (4, f.h), (1, f.sp), (6, f.d)] ++ encHdr g opc)

def encAmo (g : Guard) (opc : Nat) (f : AmoF) : Nat :=
  pack ([(9, f.disp), (4, f.ty), (6, f.c), (6, f.b), (2, f.ord), (2, f.hint), (3, f.sz), (6, f.a), (4, f.h), (1, f.sp),
    (6, f.d)] ++ encHdr g opc)

def encEng (g : Guard) (opc : Nat) (f : EngF) : Nat :=
  pack ([(26, f.imm), (3, f.q), (4, f.pd), (6, f.b), (6, f.a), (4, f.h)] ++ encHdr g opc)

def encSyn (g : Guard) (opc : Nat) (f : SynF) : Nat :=
  pack ([(9, f.rsv), (1, f.dec), (2, f.ord), (3, f.sc), (4, f.pd), (6, f.a), (16, f.imm), (8, f.n)] ++ encHdr g opc)

def encTil (g : Guard) (opc : Nat) (f : TilF) : Nat :=
  pack ([(11, f.rsv), (16, f.imm), (1, f.va), (2, f.md), (4, f.ty), (6, f.b), (6, f.a), (3, f.t)] ++ encHdr g opc)

def a3 (d a b : Nat) : AluF := ⟨d, a, b, 0, 0, 0, 0, 0, 0, 0⟩

def vA (t : Ty) (m : Rnd) (d a b c k : Nat) : AluF := ⟨d, a, b, c, k, tyCode t, mdCode m, 0, 0, 0⟩

def memA (ad : Addr) (d sz hint ord k : Nat) : MemF :=
  ⟨d, boolNat ad.sp, ad.h, ad.a, sz, hint, ord, k, fieldOf 22 ad.disp⟩

def amoA (ad : Addr) (d sz hint ord b c ty : Nat) : AmoF :=
  ⟨d, boolNat ad.sp, ad.h, ad.a, sz, hint, ord, b, c, ty, fieldOf 9 ad.disp⟩

def encS (g : Guard) : Instr → Option Nat
  | .add d a b => some (encAlu g 0x001 (a3 d a b))
  | .sub d a b => some (encAlu g 0x002 (a3 d a b))
  | .mul d a b => some (encAlu g 0x003 (a3 d a b))
  | .mulh d a b => some (encAlu g 0x004 (a3 d a b))
  | .mulhu d a b => some (encAlu g 0x005 (a3 d a b))
  | .div d a b => some (encAlu g 0x006 (a3 d a b))
  | .divu d a b => some (encAlu g 0x007 (a3 d a b))
  | .rem d a b => some (encAlu g 0x008 (a3 d a b))
  | .remu d a b => some (encAlu g 0x009 (a3 d a b))
  | .min d a b => some (encAlu g 0x00A (a3 d a b))
  | .max d a b => some (encAlu g 0x00B (a3 d a b))
  | .minu d a b => some (encAlu g 0x00C (a3 d a b))
  | .maxu d a b => some (encAlu g 0x00D (a3 d a b))
  | .and d a b => some (encAlu g 0x00E (a3 d a b))
  | .or d a b => some (encAlu g 0x00F (a3 d a b))
  | .xor d a b => some (encAlu g 0x010 (a3 d a b))
  | .andn d a b => some (encAlu g 0x011 (a3 d a b))
  | .shl d a b => some (encAlu g 0x012 (a3 d a b))
  | .shr d a b => some (encAlu g 0x013 (a3 d a b))
  | .sra d a b => some (encAlu g 0x014 (a3 d a b))
  | .rotl d a b => some (encAlu g 0x015 (a3 d a b))
  | .clz d a => some (encAlu g 0x016 (a3 d a 0))
  | .ctz d a => some (encAlu g 0x017 (a3 d a 0))
  | .popc d a => some (encAlu g 0x018 (a3 d a 0))
  | .bext d a pos len => some (encAlu g 0x019 { a3 d a 0 with c := len - 1, aux := pos })
  | .bins d a b pos len => some (encAlu g 0x01A { a3 d a b with c := len - 1, aux := pos })
  | .sext d a w => some (encAlu g 0x01B { a3 d a 0 with aux := w - 1 })
  | .cmp cc d a b => some (encAlu g 0x01C { a3 d a b with cc := ccCode cc })
  | .pand d a b => some (encAlu g 0x01D (a3 d a b))
  | .por d a b => some (encAlu g 0x01E (a3 d a b))
  | .pxor d a b => some (encAlu g 0x01F (a3 d a b))
  | .pandn d a b => some (encAlu g 0x020 (a3 d a b))
  | .sel d c a b => some (encAlu g 0x021 { a3 d a b with c := c })
  | .hmix d a b => some (encAlu g 0x022 (a3 d a b))
  | .kvslot d a b => some (encAlu g 0x023 (a3 d a b))
  | .addi d a i => some (encImm g 0x024 ⟨d, a, 0, fieldOf 33 i⟩)
  | .andi d a i => some (encImm g 0x025 ⟨d, a, 0, fieldOf 33 i⟩)
  | .ori d a i => some (encImm g 0x026 ⟨d, a, 0, fieldOf 33 i⟩)
  | .xori d a i => some (encImm g 0x027 ⟨d, a, 0, fieldOf 33 i⟩)
  | .shli d a n => some (encImm g 0x028 ⟨d, a, 0, n⟩)
  | .shri d a n => some (encImm g 0x029 ⟨d, a, 0, n⟩)
  | .srai d a n => some (encImm g 0x02A ⟨d, a, 0, n⟩)
  | .cmpi cc d a i => some (encImm g 0x02B ⟨d, a, ccCode cc, fieldOf 33 i⟩)
  | .lih d i => some (encImm g 0x02C ⟨d, 0, 0, i⟩)
  | .lim d i => some (pack [(48, fieldOf 48 i), (6, d), (10, 0x02F)])
  | .ctlr d n => some (encImm g 0x02D ⟨d, 0, 0, n⟩)
  | .ctlw n a => some (encImm g 0x02E ⟨0, a, 0, n⟩)
  | .br o => some (encBra g 0x040 ⟨0, 0, 0, fieldOf 16 o⟩)
  | .brr a => some (encBra g 0x041 ⟨a, 0, 0, 0⟩)
  | .call o => some (encBra g 0x042 ⟨0, 0, 0, fieldOf 16 o⟩)
  | .callr a => some (encBra g 0x043 ⟨a, 0, 0, 0⟩)
  | .ret => some (encBra g 0x044 ⟨0, 0, 0, 0⟩)
  | .loop o => some (encBra g 0x045 ⟨0, 0, 0, fieldOf 16 o⟩)
  | .chk av a o => some (encBra g 0x046 ⟨a, boolNat av, 0, fieldOf 16 o⟩)
  | _ => none

def encV (g : Guard) : Instr → Option Nat
  | .vadd t m d a b k => some (encAlu g 0x080 (vA t m d a b 0 k))
  | .vsub t m d a b k => some (encAlu g 0x081 (vA t m d a b 0 k))
  | .vmul t m d a b k => some (encAlu g 0x082 (vA t m d a b 0 k))
  | .vfma t m d a b c k => some (encAlu g 0x083 (vA t m d a b c k))
  | .vfms t m d a b c k => some (encAlu g 0x084 (vA t m d a b c k))
  | .vfnma t m d a b c k => some (encAlu g 0x085 (vA t m d a b c k))
  | .vmin t d a b k => some (encAlu g 0x086 (vA t .rne d a b 0 k))
  | .vmax t d a b k => some (encAlu g 0x087 (vA t .rne d a b 0 k))
  | .vabs t d a k => some (encAlu g 0x088 (vA t .rne d a 0 0 k))
  | .vneg t d a k => some (encAlu g 0x089 (vA t .rne d a 0 0 k))
  | .vand t d a b k => some (encAlu g 0x08A (vA t .rne d a b 0 k))
  | .vor t d a b k => some (encAlu g 0x08B (vA t .rne d a b 0 k))
  | .vxor t d a b k => some (encAlu g 0x08C (vA t .rne d a b 0 k))
  | .vshl t d a b k => some (encAlu g 0x08D (vA t .rne d a b 0 k))
  | .vshr t d a b k => some (encAlu g 0x08E (vA t .rne d a b 0 k))
  | .vsra t d a b k => some (encAlu g 0x08F (vA t .rne d a b 0 k))
  | .vaddsat t d a b k => some (encAlu g 0x090 (vA t .rne d a b 0 k))
  | .vsubsat t d a b k => some (encAlu g 0x091 (vA t .rne d a b 0 k))
  | .vclamp t d a b c k => some (encAlu g 0x092 (vA t .rne d a b c k))
  | .vexp2 t d a k => some (encAlu g 0x093 (vA t .rne d a 0 0 k))
  | .vlog2 t d a k => some (encAlu g 0x094 (vA t .rne d a 0 0 k))
  | .vrcp t d a k => some (encAlu g 0x095 (vA t .rne d a 0 0 k))
  | .vrsq t d a k => some (encAlu g 0x096 (vA t .rne d a 0 0 k))
  | .vcmp cc t d a b k => some (encAlu g 0x097 { vA t .rne d a b 0 k with cc := ccCode cc })
  | .kand d a b => some (encAlu g 0x098 (a3 d a b))
  | .kor d a b => some (encAlu g 0x099 (a3 d a b))
  | .kxor d a b => some (encAlu g 0x09A (a3 d a b))
  | .knot d a => some (encAlu g 0x09B (a3 d a 0))
  | .kpop t d a => some (encAlu g 0x09C (vA t .rne d a 0 0 0))
  | .vsel t d a b k => some (encAlu g 0x09D (vA t .rne d a b 0 k))
  | .vbcast t d a k => some (encAlu g 0x09E (vA t .rne d a 0 0 k))
  | .vperm t d a b k => some (encAlu g 0x09F (vA t .rne d a b 0 k))
  | .vshuf t p d a b k => some (encAlu g 0x0A0 { vA t .rne d a b 0 k with aux := shufCode p })
  | .vrot t d a n k => some (encAlu g 0x0A1 { vA t .rne d a 0 0 k with aux := n })
  | .viota t d a k => some (encAlu g 0x0A2 (vA t .rne d a 0 0 k))
  | .vins t d a l => some (encAlu g 0x0A3 { vA t .rne d a 0 0 0 with aux := l })
  | .vext t d a l => some (encAlu g 0x0A4 { vA t .rne d a 0 0 0 with aux := l })
  | .vmov t d a k => some (encAlu g 0x0A5 (vA t .rne d a 0 0 k))
  | .vred t o d a k => some (encAlu g 0x0A6 { vA t .rne d a 0 0 k with aux := redCode o })
  | .vscan t o d a k => some (encAlu g 0x0A7 { vA t .rne d a 0 0 k with aux := redCode o })
  | .vcvt t t2 m d a p k => some (encAlu g 0x0A8 { vA t m d a 0 0 k with ty2 := tyCode t2, aux := p })
  | .vmxq t2 m d c a p => some (encAlu g 0x0A9 { vA .f32 m d a 0 c 0 with ty2 := tyCode t2, aux := p })
  | .vmxdq t2 d a c p => some (encAlu g 0x0AA { vA .f32 .rne d a 0 c 0 with ty2 := tyCode t2, aux := p })
  | _ => none

def encM (g : Guard) : Instr → Option Nat
  | .talloc t a pl => some (encTil g 0x100 ⟨t, a, 0, 0, 0, 0, boolNat pl, 0⟩)
  | .tfree t pl => some (encTil g 0x101 ⟨t, 0, 0, 0, 0, 0, boolNat pl, 0⟩)
  | .tzero t an => some (encTil g 0x102 ⟨t, 0, 0, 0, 0, 0, fieldOf 16 an, 0⟩)
  | .tanchor t an => some (encTil g 0x103 ⟨t, 0, 0, 0, 0, 0, fieldOf 16 an, 0⟩)
  | .tload ty a b => some (encTil g 0x104 ⟨0, a, b, tyCode ty, 0, 0, 0, 0⟩)
  | .tswap => some (encTil g 0x105 ⟨0, 0, 0, 0, 0, 0, 0, 0⟩)
  | .tmm ty t va a b n r => some (encTil g 0x106 ⟨t, a, b, tyCode ty, 0, boolNat va, n + 128 * r, 0⟩)
  | .tdrain ty m t a row zr => some (encTil g 0x107 ⟨t, a, 0, tyCode ty, mdCode m, 1, row + 64 * boolNat zr, 0⟩)
  | .tstat t a => some (encTil g 0x108 ⟨t, a, 0, 0, 0, 0, 0, 0⟩)
  | .tprog t a w => some (encTil g 0x109 ⟨t, a, 0, 0, 0, 0, w, 0⟩)
  | .tclr t => some (encTil g 0x10A ⟨t, 0, 0, 0, 0, 0, 0, 0⟩)
  | _ => none

def encLT (g : Guard) : Instr → Option Nat
  | .ld sz o h d ad => some (encMem g 0x140 (memA ad d (szCode sz) (hintCode h) (ordCode o) 0))
  | .ldS sz h d ad => some (encMem g 0x141 (memA ad d (szCode sz) (hintCode h) 0 0))
  | .vld h d ad k => some (encMem g 0x142 (memA ad d 5 (hintCode h) 0 k))
  | .vldS h d ad k => some (encMem g 0x143 (memA ad d 5 (hintCode h) 0 k))
  | .ldro sz h d ad => some (encMem g 0x144 (memA ad d (szCode sz) (hintCode h) 0 0))
  | .vldro h d ad k => some (encMem g 0x145 (memA ad d 5 (hintCode h) 0 k))
  | .vldb w h d ad p => some (encMem g 0x146 (memA ad d 6 (hintCode h) (blkCode w) p))
  | .ldx o h d ad => some (encMem g 0x147 (memA ad d 4 (hintCode h) (ordCode o) 0))
  | .roinvAddr h a disp => some (encMem g 0x148 ⟨0, 0, h, a, 0, 0, 0, 0, fieldOf 22 disp⟩)
  | .roinvAll => some (encMem g 0x148 ⟨1, 0, 0, 0, 0, 0, 0, 0, 0⟩)
  | .st sz o h d ad => some (encMem g 0x180 (memA ad d (szCode sz) (hintCode h) (ordCode o) 0))
  | .vst h d ad k => some (encMem g 0x181 (memA ad d 5 (hintCode h) 0 k))
  | .vstb w h d ad p => some (encMem g 0x182 (memA ad d 6 (hintCode h) (blkCode w) p))
  | .stx o h d ad => some (encMem g 0x183 (memA ad d 4 (hintCode h) (ordCode o) 0))
  | .send vec o d a disp k => some (encMem g 0x184 ⟨d, 1, 0, a, if vec then 5 else 3, 0, ordCode o, k, fieldOf 22 disp⟩)
  | .amoAdd sz o h d ad b => some (encAmo g 0x185 (amoA ad d (szCode sz) (hintCode h) (ordCode o) b 0 0))
  | .amoMin sz o h d ad b => some (encAmo g 0x186 (amoA ad d (szCode sz) (hintCode h) (ordCode o) b 0 0))
  | .amoMax sz o h d ad b => some (encAmo g 0x187 (amoA ad d (szCode sz) (hintCode h) (ordCode o) b 0 0))
  | .amoMinu sz o h d ad b => some (encAmo g 0x188 (amoA ad d (szCode sz) (hintCode h) (ordCode o) b 0 0))
  | .amoMaxu sz o h d ad b => some (encAmo g 0x189 (amoA ad d (szCode sz) (hintCode h) (ordCode o) b 0 0))
  | .amoAnd sz o h d ad b => some (encAmo g 0x18A (amoA ad d (szCode sz) (hintCode h) (ordCode o) b 0 0))
  | .amoOr sz o h d ad b => some (encAmo g 0x18B (amoA ad d (szCode sz) (hintCode h) (ordCode o) b 0 0))
  | .amoXor sz o h d ad b => some (encAmo g 0x18C (amoA ad d (szCode sz) (hintCode h) (ordCode o) b 0 0))
  | .amoSwap sz o h d ad b => some (encAmo g 0x18D (amoA ad d (szCode sz) (hintCode h) (ordCode o) b 0 0))
  | .amoCas sz o h d ad b c => some (encAmo g 0x18E (amoA ad d (szCode sz) (hintCode h) (ordCode o) b c 0))
  | .amoFadd t o h d ad b =>
    some (encAmo g 0x18F (amoA ad d (szCode (t.bits / 8)) (hintCode h) (ordCode o) b 0 (tyCode t)))
  | _ => none

def encE (g : Guard) : Instr → Option Nat
  | .push q a pd => some (encEng g 0x1C0 ⟨0, a, 0, pd, q, 0⟩)
  | .xlat h a i => some (encEng g 0x1C1 ⟨h, a, 0, 0, 0, i⟩)
  | .xlatS h a i => some (encEng g 0x1C2 ⟨h, a, 0, 0, 0, i⟩)
  | .hinfo b h w => some (encEng g 0x1C3 ⟨h, 0, b, 0, 0, w⟩)
  | .hrel h => some (encEng g 0x1C4 ⟨h, 0, 0, 0, 0, 0⟩)
  | .tlbinv pd a b m dev => some (encEng g 0x1C5 ⟨0, a, b, pd, 0, m + 4 * boolNat dev⟩)
  | .pgmig a b => some (encEng g 0x1C6 ⟨0, a, b, 0, 0, 0⟩)
  | .rcall y h a fn sm rel nx xa xb =>
    some (pack ([(3, 0), (2, nx), (1, boolNat rel), (4, xb), (4, xa), (8, sm), (12, fn), (6, a), (4, h), (5, y)] ++
      encHdr g 0x1C7))
  | .cpwm pd q a b => some (encEng g 0x1C8 ⟨0, a, b, pd, q, 0⟩)
  | .cpwmq b q => some (encEng g 0x1C9 ⟨0, 0, b, 0, q, 0⟩)
  | .cpprog b q s => some (encEng g 0x1CA ⟨0, 0, b, 0, q, s⟩)
  | .xbswap pd a => some (encEng g 0x1CB ⟨0, a, 0, pd, 0, 0⟩)
  | .xbstat b a s => some (encEng g 0x1CC ⟨0, a, b, 0, 0, s⟩)
  | .xbretire pd a => some (encEng g 0x1CD ⟨0, a, 0, pd, 0, 0⟩)
  | .xbremap pd a b => some (encEng g 0x1CE ⟨0, a, b, pd, 0, 0⟩)
  | .xbcfg pd a b => some (encEng g 0x1CF ⟨0, a, b, pd, 0, 0⟩)
  | .xbcolCoef b a => some (encEng g 0x1D0 ⟨0, a, b, 0, 0, 0⟩)
  | .xbcolClip b a => some (encEng g 0x1D0 ⟨0, a, b, 0, 0, 1⟩)
  | .xbcolSet pd a b => some (encEng g 0x1D0 ⟨0, a, b, pd, 0, 2⟩)
  | .xbcolClipclr b a => some (encEng g 0x1D0 ⟨0, a, b, 0, 0, 3⟩)
  | .klaunch pd a lq => some (encEng g 0x1D1 ⟨0, a, 0, pd, 0, lq⟩)
  | _ => none

def encY (g : Guard) : Instr → Option Nat
  | .semwait n thr o dec => some (encSyn g 0x200 ⟨n, thr, 0, 0, 0, ordCode o, boolNat dec, 0⟩)
  | .semsig n inc o => some (encSyn g 0x201 ⟨n, inc, 0, 0, 0, ordCode o, 0, 0⟩)
  | .semset n a o => some (encSyn g 0x202 ⟨n, 0, a, 0, 0, ordCode o, 0, 0⟩)
  | .semget n a o => some (encSyn g 0x203 ⟨n, 0, a, 0, 0, ordCode o, 0, 0⟩)
  | .semtry n thr pd o dec => some (encSyn g 0x204 ⟨n, thr, 0, pd, 0, ordCode o, boolNat dec, 0⟩)
  | .qlevel n mn a pd => some (encSyn g 0x205 ⟨n, mn, a, pd, 0, 0, 0, 0⟩)
  | .fence sc => some (encSyn g 0x206 ⟨0, 0, 0, 0, scCode sc, 0, 0, 0⟩)
  | .drain => some (encSyn g 0x207 ⟨0, 0, 0, 0, 0, 0, 0, 0⟩)
  | .bsync n => some (encSyn g 0x208 ⟨n, 0, 0, 0, 0, 0, 0, 0⟩)
  | .barrive n => some (encSyn g 0x209 ⟨n, 0, 0, 0, 0, 0, 0, 0⟩)
  | .bwait n pd => some (encSyn g 0x20A ⟨n, 0, 0, pd, 0, 0, 0, 0⟩)
  | .bstat n a => some (encSyn g 0x20B ⟨n, 0, a, 0, 0, 0, 0, 0⟩)
  | .bpost a pd => some (encSyn g 0x20C ⟨0, 0, a, pd, 0, 0, 0, 0⟩)
  | .bread o a s => some (encSyn g 0x20D ⟨0, s, a, 0, 0, ordCode o, 0, 0⟩)
  | .domset n a => some (encSyn g 0x20E ⟨n, 0, a, 0, 0, 0, 0, 0⟩)
  | .domget n a s => some (encSyn g 0x20F ⟨n, s, a, 0, 0, 0, 0, 0⟩)
  | .gcancel a => some (encSyn g 0x210 ⟨0, 0, a, 0, 0, 0, 0, 0⟩)
  | .ccp => some (encSyn g 0x211 ⟨0, 0, 0, 0, 0, 0, 0, 0⟩)
  | .rwait o y d pd tr => some (encSyn g 0x212 ⟨y, boolNat tr, d, pd, 0, ordCode o, 0, 0⟩)
  | .rpoll y a pd => some (encSyn g 0x213 ⟨y, 0, a, pd, 0, 0, 0, 0⟩)
  | .trap c => some (encSyn g 0x215 ⟨0, c, 0, 0, 0, 0, 0, 0⟩)
  | .syscall c => some (encSyn g 0x216 ⟨0, c, 0, 0, 0, 0, 0, 0⟩)
  | .handlerReturn => some (encSyn g 0x216 ⟨0, 0xFFFF, 0, 0, 0, 0, 0, 0⟩)
  | .rte => some (encSyn g 0x217 ⟨0, 0, 0, 0, 0, 0, 0, 0⟩)
  | .brk c => some (encSyn g 0x218 ⟨0, c, 0, 0, 0, 0, 0, 0⟩)
  | .step pd a => some (encSyn g 0x219 ⟨0, 0, a, pd, 0, 0, 0, 0⟩)
  | .wset n a kinds dsel => some (encSyn g 0x21A ⟨n, dsel + 4096 * kinds, a, 0, 0, 0, 0, 0⟩)
  | .wclr n => some (encSyn g 0x21B ⟨n, 0, 0, 0, 0, 0, 0, 0⟩)
  | .ctxfrz pd a => some (encSyn g 0x21C ⟨0, 0, a, pd, 0, 0, 0, 0⟩)
  | .ctxrun pd a => some (encSyn g 0x21D ⟨0, 0, a, pd, 0, 0, 0, 0⟩)
  | .kdone => some (encSyn g 0x21E ⟨0, 0, 0, 0, 0, 0, 0, 0⟩)
  | .kfail r => some (encSyn g 0x21F ⟨0, boolNat r, 0, 0, 0, 0, 0, 0⟩)
  | .kbudget a => some (encSyn g 0x220 ⟨0, 0, a, 0, 0, 0, 0, 0⟩)
  | .upcall => some (encSyn g 0x221 ⟨0, 0, 0, 0, 0, 0, 0, 0⟩)
  | .vendorDiagnostic o d r => some (pack ([(43, r), (6, d)] ++ encHdr g (0x3C0 + o)))
  | _ => none

/-- The slot word of an instruction with its guard (R52, R56). Events have no word; `lim` has no guard (R104). -/
def encode (g : Guard) (i : Instr) : Option Word :=
  match i with
  | .nop => some 0
  | _ =>
    match encS g i, encV g i, encM g i, encLT g i, encE g i, encY g i with
    | some w, _, _, _, _, _ | none, some w, _, _, _, _ | none, none, some w, _, _, _ | none, none, none, some w, _, _
    | none, none, none, none, some w, _ | none, none, none, none, none, some w => some (BitVec.ofNat 64 w)
    | _, _, _, _, _, _ => none

/-- The slot in which a word is at home (slot 0 for the words of every slot). -/
def homeSlot (w : Nat) : Nat :=
  match homeOf (bitsOf 54 10 w) with
  | some h => h.slot
  | none => 0

/-- The instruction the decoder reads from a slot word whose bits are `w`, laid out as eight little-endian bytes in the slot that is
the home of its opcode, in RUNTIME mode with DIAG = 1. A slot word is 64 bits; `nbits` gives how many of them the table numbers. -/
def decodeTableWord (_nbits w : Nat) : Option Instr :=
  if w < 2 ^ 64 then
    match decodeSlot true (homeSlot w) (BitVec.ofNat 64 (leNat (leBytes 8 w))) with
    | .ok (_, i) => some i
    | .error _ => none
  else none

end Sys2Proof
end

