-- ==== Sys2Proof/Machine/Page.lean ====
section
/-! DEFINITION. Translation: page tables and the walk, TLBs, handles, the page instructions, revocation and migration (R206 to R224, R447),
and what the loss of a quarter does (R228). -/

namespace Sys2Proof.Machine

/-! ### Leaves and frames (R22, R208) -/

/-- Quarter `q` of vault `v` is retired; lost quarters are retired too (R225). -/
def State.quarterGone (s : State) (v q : Nat) : Bool := (s.core v).retq.getLsbD q || (s.core v).lostq.getLsbD q

/-- A quarter that a range of device memory meets satisfies `f` (vault, quarter). -/
def anyQuarter (a n : Nat) (f : Nat → Nat → Bool) : Bool :=
  tierOf a == 0 && (List.range (n / 2 ^ 27 + 2)).any fun i =>
    let q := a / 2 ^ 27 + i
    decide (q * 2 ^ 27 < a + n) && f (bitsOf 4 7 q) (bitsOf 0 4 q)

/-- The physical range meets a condition of R22: every address of it has the fields that must be zero. A page of 8 GiB covers the two lowest
bits of [37:31]. -/
def State.badRange (s : State) (a n : Nat) (lost : Bool) : Bool :=
  match tierOf a with
  | 0 => bitsOf 38 8 a != 0 || (!lost && anyQuarter a n s.quarterGone)
  | 1 => bitsOf 39 7 a != 0 || decide (hbmTop < hbmOff a + n)
  | 2 =>
    decide (chipOf a = s.chip) ||
      (match bitsOf 40 2 a with
       | 0 => bitsOf 38 2 a != 0
       | 1 => bitsOf 39 1 a != 0 || decide (hbmTop < hbmOff a + n)
       | _ => true)
  | _ =>
    bitsOf 40 6 a != 0 ||
      (match bitsOf 38 2 a with
       | 0 => false
       | 1 => bitsOf 31 7 a != 0 || bitsOf 31 7 (a + n - 1) != 0
       | 2 => bitsOf 34 4 a != 0
       | _ => true)

/-- Fields of a leaf entry (R208). -/
def leafSpace (e : Nat) : Nat := bitsOf 52 12 e
def leafLost (e : Nat) : Bool := bitOf 51 e
def leafPeer (e : Nat) : Bool := bitOf 50 e
def leafMig (e : Nat) : Bool := bitOf 48 e
def leafFrame (e : Nat) : Nat := bitsOf 13 35 e * 2 ^ 13
def leafCa (e : Nat) : Nat := bitsOf 10 2 e
def leafW (e : Nat) : Bool := bitOf 9 e
def leafR (e : Nat) : Bool := bitOf 8 e
def leafBusy (e : Nat) : Bool := bitOf 7 e
def leafSize (e : Nat) : Nat := bitsOf 2 2 e

/-- A leaf that a walk at level `lvl` in space `sp` rejects (R209). -/
def State.badLeaf (s : State) (e lvl sp : Nat) : Bool :=
  let n := pageBytes lvl
  decide (lvl = 3) || decide (leafSize e ≠ lvl) || decide (leafSpace e ≠ sp) || decide (2 ≤ leafCa e) ||
    decide (leafFrame e % n ≠ 0) || (leafPeer e != (tierOf (leafFrame e) == 2)) || s.badRange (leafFrame e) n (leafLost e)

/-- What a walk finds: a failure, with the address of a poisoned entry; a BUSY leaf; a leaf and its address; the next level and its
table. -/
inductive WalkOut where
  | fail (pois : Option Nat)
  | busy (at_ : Nat)
  | leaf (e at_ : Nat)
  | down (lvl t : Nat)
  deriving DecidableEq, Repr

/-- One entry of a walk: the one that `va` selects in table `t` of a level (R209). -/
def State.walkEntry (s : State) (va sp lvl t : Nat) : WalkOut :=
  let a := t + 8 * bitsOf (13 + 10 * lvl) 10 va
  if s.poisoned a 8 then .fail (some a)
  else
    let e := readNat s.mem a 8
    if !bitOf 0 e then .fail none
    else if !bitOf 1 e then
      let f := bitsOf 13 35 e * 2 ^ 13
      if bitsOf 48 16 e ≠ 0 ∨ bitsOf 2 11 e ≠ 0 ∨ lvl = 0 ∨ 2 ≤ tierOf f ∨ s.badRange f 8192 false then .fail none
      else .down (lvl - 1) f
    else if bitsOf 4 3 e ≠ 0 ∨ s.badLeaf e lvl sp then .fail none
    else if leafBusy e then .busy a
    else .leaf e a

/-- A virtual address is canonical (R206). -/
def canonical (va : Word) : Bool := let t := va.toNat / 2 ^ 52; t == 0 || t == 2 ^ 12 - 1

/-- One step of a walk under an XROOT value (R209, R212), from its start or at a level. A root that names no memory fails (log
entry 12). -/
def State.walkStep (s : State) (va xroot : Word) (next : Option (Nat × Nat)) : WalkOut :=
  let root := bitsOf 13 35 xroot.toNat * 2 ^ 13
  let entry := fun l t => s.walkEntry va.toNat (bitsOf 52 12 xroot.toNat) l t
  match next with
  | some (l, t) => entry l t
  | none => if !canonical va || !xroot.getLsbD 0 || decide (2 ≤ tierOf root) || s.badRange root 8192 false then .fail none else entry 3 root

/-- The rest of a walk, of at most `fuel` levels. -/
def State.walkFrom (s : State) (va xroot : Word) : Nat → Option (Nat × Nat) → WalkOut
  | 0, _ => .fail none
  | fuel + 1, next =>
    match s.walkStep va xroot next with
    | .down l t => s.walkFrom va xroot fuel (some (l, t))
    | r => r

/-- A whole walk at one time, as the control plane makes it (log entry 20). -/
def State.walk (s : State) (va xroot : Word) : WalkOut := s.walkFrom va xroot 4 none

/-- A walk that read a poisoned entry reports it through error escalation, which names the entry (R209). -/
def State.reportWalk (s : State) (c x cause : Nat) (pois : Option Nat) : State :=
  match pois with
  | some a => s.escalate { what := "poisoned page table entry", core := c, ctx := x, cause := cause, addr := a }
  | none => s

/-- The poisoned entry that a whole walk reads. -/
def State.walkPoison (s : State) (va xroot : Word) : Option Nat :=
  match s.walk va xroot with
  | .fail p => p
  | _ => none

/-! ### TLBs (R214) -/

/-- A TLB entry of space `sp` contains the address. -/
def TlbEntry.hit (e : TlbEntry) (sp : Nat) (va : Word) : Bool :=
  decide (e.space = sp ∧ e.vpn = va.toNat / pageBytes e.size)

def tlbFind (l : List TlbEntry) (sp : Nat) (va : Word) : Option Nat := (l.find? fun e => e.hit sp va).map fun e => e.leaf.toNat

/-- Remove entry `n` of a list; a number at or beyond its length removes nothing. -/
def dropAt {α : Type} : List α → Nat → List α
  | [], _ => []
  | _ :: r, 0 => r
  | a :: r, n + 1 => a :: dropAt r n

/-- An installation in a store of `cap` entries: the replacement policy is not specified, so a free choice removes an entry, or none where
there is room (R177, R214). -/
def installIn {α : Type} (cap choice : Nat) (l : List α) (a : α) : List α :=
  if l.length < cap then a :: dropAt l (choice % (l.length + 1)) else a :: dropAt l (choice % l.length)

/-- A leaf enters both TLB levels of a core (R209, R214). -/
def State.tlbInstall (s : State) (c sp : Nat) (va : Word) (e : Nat) : State :=
  let n := leafSize e
  let t : TlbEntry := ⟨sp, n, va.toNat / pageBytes n, wordOf e⟩
  let (d1, s) := s.draw
  let (d2, s) := s.draw
  s.updCore c fun k =>
    let keep := fun (l : List TlbEntry) => l.filter fun u => !u.hit sp va
    { k with tlb1 := installIn 512 (Config.freeChoice d1) (keep k.tlb1) t, tlb2 := installIn 4096 (Config.freeChoice d2) (keep k.tlb2) t }

/-! ### Handles (R215, R218) -/

/-- The handle of a leaf (R215). -/
def handleOf (va : Word) (e gen : Nat) : Handle :=
  let n := pageBytes (leafSize e)
  { valid := true, vpage := wordOf (va.toNat / n * n), frame := leafFrame e, size := leafSize e, r := leafR e, w := leafW e,
    cow := bitOf 12 e, rop := bitOf 49 e, mig := leafMig e, unc := leafCa e != 0 || tierOf (leafFrame e) == 3, lost := leafLost e,
    space := leafSpace e, gen := gen }

/-- The cause for which a leaf is refused: a permission that the intent asks for, or tier 11 outside RUNTIME mode (R23, R218). -/
def leafRefused (e intent : Nat) (runtime : Bool) : Bool :=
  (intent.testBit 0 && !leafR e) || (intent.testBit 1 && !leafW e) || (tierOf (leafFrame e) == 3 && !runtime)

/-- XROOT of a context (R212). -/
def Core.xrootOf (k : Core) (x : Nat) : Word := k.xroot.get 0 x

def xspace (w : Word) : Nat := bitsOf 52 12 w.toNat

/-- The result of `xlat` or `xlat.s` that is known at stage 4 (R218). -/
inductive XlatNow where
  | fault (cause : Nat) (bad : Option Word)
  | hit (e : Nat)
  | miss
  deriving DecidableEq, Repr

def State.xlatNow (s : State) (a intent : Nat) : XlatNow :=
  let v := s.rs a
  let k := s.myCore
  let xr := k.xrootOf s.iss.ctx
  if v.poison then .fault 0x10 none
  else if !canonical v.val || !xr.getLsbD 0 then .fault 8 (some v.val)
  else match tlbFind k.tlb1 (xspace xr) v.val with
    | some e => if leafRefused e intent s.me.mode then .fault 9 (some v.val) else .hit e
    | none => .miss

/-- `xlat` and `xlat.s`: the generation advances at commit (R215, R218). -/
def xlatOp (h a intent : Nat) (spec : Bool) : SlotOp where
  decode := handleDecode [h]
  names x := [.h h, x.sReg a]
  run s :=
    let gen := (s.me.gen + 1) % 2 ^ 16
    let u := s.updMe fun x => { x with gen := gen }
    let va := (s.rs a).val
    match s.xlatNow a intent with
    | .fault c b => if spec then .ok (u.emit (.h h) (.h (Handle.dead gen c)) 12) else .error (c, b)
    | .hit e => .ok (u.emit (.h h) (.h (handleOf va e gen)) 12)
    | .miss =>
      let x := s.me
      let w : Walk := { id := u.ids, core := s.iss.core, ctx := s.iss.ctx, step := x.step, va := va, intent := intent, spec := spec,
                        hreg := h, gen := gen, xpc := x.f0, runtime := x.mode, xroot := s.myCore.xrootOf s.iss.ctx }
      .ok (({ u with walks := u.walks ++ [w], ids := u.ids + 1 } : State).mark [.h h])

def execXlat (h a intent : Nat) (s : State) : Res' := runSlot 6 (xlatOp h a intent false) s
def execXlatS (h a intent : Nat) (s : State) : Res' := runSlot 6 (xlatOp h a intent true) s

def execHinfo (b h word : Nat) (s : State) : Res' :=
  runSlot 6
    { decode := handleDecode [h]
      names := fun x => [.h h, x.sReg b]
      run := fun s => let hd := s.me.readH h; .ok (s.emitS b (if word = 0 then hd.word0 s.iss.core else hd.word1) 3) } s

def execHrel (h : Nat) (s : State) : Res' :=
  runSlot 6
    { decode := handleDecode [h]
      names := fun _ => [.h h]
      run := fun s => .ok (s.emit (.h h) (.h (Handle.dead (s.me.readH h).gen 0)) 1) } s

/-! ### Completion of a walk (R209, R219) -/

/-- A pending snapshot of a queued command takes the handle that landed (R255). -/
def Cmd.takeHandle (q : Cmd) (x hreg step : Nat) (hd : Handle) : Cmd :=
  if q.ctx = x ∧ q.waits.contains (hreg, step) then
    { q with snaps := q.snaps.put {} hreg hd, waits := q.waits.filter fun w => decide (w ≠ (hreg, step)) }
  else q

def Core.mapCmds (k : Core) (f : Nat → Cmd → Cmd) : Core :=
  { k with queues := k.queues.map fun e => (e.1, { e.2 with cmds := e.2.cmds.map (f e.1) }) }

/-- A handle is written by the walk of step `step` and stops being pending. -/
def State.landHandle (s : State) (c x hreg step : Nat) (hd : Handle) : State :=
  let s := s.updCx c x fun y => (y.write (.h hreg) (.h hd) false).unmark (.h hreg) step
  s.updCore c fun k => k.mapCmds fun _ q => q.takeHandle x hreg step hd

/-- XFAULT of a failed walk (R213). -/
def XFault.word (f : XFault) : Word :=
  wordOf (2 ^ 63 + f.hreg % 16 * 2 ^ 48 + f.cause % 256 * 2 ^ 40 + boolNat f.pois * 2 ^ 39 + f.xpc % 2 ^ 18)

/-- XFAULT of a context is filled (R219). -/
def State.putXfault (s : State) (c x : Nat) (f : XFault) : State := s.updCore c fun k => { k with xfault := k.xfault.put 0 x f.word }

/-- A walk ends with a leaf, or with the cause of its failure, which fills XFAULT (R219). -/
def State.endWalk (s : State) (w : Walk) (r : Option Nat) (cause : Nat) (pois : Option Nat) : State :=
  let s := { s with walks := s.walks.filter fun v => decide (v.id ≠ w.id) }
  match r with
  | some e => s.landHandle w.core w.ctx w.hreg w.step (handleOf w.va e w.gen)
  | none =>
    let s := s.landHandle w.core w.ctx w.hreg w.step (Handle.dead w.gen cause)
    let s := s.reportWalk w.core w.ctx cause pois
    if w.spec then s
    else
      let f : XFault := ⟨w.hreg, cause, pois.isSome, w.xpc, w.va⟩
      (s.putXfault w.core w.ctx f).updCx w.core w.ctx fun y => { y with xfaults := y.xfaults ++ [f] }

/-- A walk of `xlat` moves. -/
def State.setCursor (s : State) (id : Nat) (c : Cursor) : State := { s with walks := s.walks.map fun v => if v.id = id then { v with cur := c } else v }

/-- A walk that does not wait reads its next entry: it completes with a second-level hit, a leaf or a failure, goes down a level, or starts
to wait on a BUSY leaf. -/
def State.completeWalk (s : State) (w : Walk) : State :=
  let sp := xspace w.xroot
  let leaf := fun (s : State) (e : Nat) =>
    let s := s.tlbInstall w.core sp w.va e
    if leafRefused e w.intent w.runtime then s.endWalk w none 9 none else s.endWalk w (some e) 0 none
  match if w.cur.next.isNone then tlbFind (s.core w.core).tlb2 sp w.va else none with
  | some e => leaf s e
  | none =>
    match s.walkStep w.va w.xroot w.cur.next with
    | .leaf e _ => leaf s e
    | .fail p => s.endWalk w none 8 p
    | .down l t => s.setCursor w.id { next := some (l, t) }
    | .busy a => s.setCursor w.id { busy := some a }

/-! ### Revocation (R221, R223, R228) -/

/-- A revocation selects a translation of a page (R221, R226). -/
def Revoke.selects (r : Revoke) (space : Nat) (vpage : Word) (size frame : Nat) : Bool :=
  match r.mode with
  | 0 => decide (space = r.space) && decide ((r.va - vpage).toNat < pageBytes size)
  | 1 => decide (space = r.space)
  | 2 => true
  | _ => anyQuarter frame (pageBytes size) fun v q => decide (v = r.core ∧ q = r.quarter)

def Revoke.handle (r : Revoke) (h : Handle) : Bool := h.valid && r.selects h.space h.vpage h.size h.frame

/-- A handle as the revocation leaves it (R223). -/
def Handle.revokeBy (h : Handle) (r : Revoke) : Handle := if r.handle h then { h with valid := false, cause := 0x0A } else h

def RVal.revokeBy (v : RVal) (r : Revoke) : RVal := match v with | .h hd => .h (hd.revokeBy r) | o => o

def Res.revokeBy (e : Res) (r : Revoke) : Res := { e with val := e.val.revokeBy r }

/-- The handles of a context, those still in flight included (log entry 13). -/
def Ctx.revokeBy (x : Ctx) (r : Revoke) : Ctx :=
  { x with
    h := x.h.map fun e => (e.1, e.2.revokeBy r)
    inflight := x.inflight.map (·.revokeBy r)
    snap := x.snap.map (·.revokeBy r)
    snapT := x.snapT.map (·.revokeBy r) }

/-- A command whose snapshots the revocation clears notes which (R223, R269). -/
def Cmd.revokeBy (q : Cmd) (r : Revoke) : Cmd :=
  let hit := q.snaps.filterMap fun e => if r.handle e.2 then some e.1 else none
  if hit.isEmpty ∨ 2 ≤ q.st then q
  else { q with snaps := q.snaps.map fun e => (e.1, e.2.revokeBy r), revoked := q.revoked ++ hit }

def CallMsg.hits (m : CallMsg) (r : Revoke) : Bool :=
  r.handle m.target || (m.extra1.any r.handle) || (m.extra2.any r.handle)

def CallMsg.revokeBy (m : CallMsg) (r : Revoke) : CallMsg :=
  { m with target := m.target.revokeBy r, extra1 := m.extra1.map (·.revokeBy r), extra2 := m.extra2.map (·.revokeBy r) }

/-- The caller's slot still waits for the reply to a call. -/
def State.awaits (s : State) (m : CallMsg) : Bool := let r := (s.cx m.core m.ctx).y.get {} m.slot; m.cmd.isNone && m.chip == s.chip && r.st == 1 && r.seq == m.seq

/-- The calls on their way or buffered, those that run, and those at a peer chip that may still be answered, by identifier. -/
def State.openCalls (s : State) : List (Nat × CallMsg) :=
  s.msgs.filterMap (fun m => match m.msg with | .call _ c => some (m.id, c) | _ => none) ++
    (s.vaultEx ++ s.hbmEx).flatMap (fun e => e.2.buf ++ e.2.slots.map fun t => (t.2.id, t.2.msg)) ++
    s.away.filter fun e => decide (s.timebase < e.2.deadline) || s.awaits e.2

/-- Cores in the scope of a revocation. -/
def Revoke.reaches (r : Revoke) (c : Nat) : Bool := r.dev || c == r.core

/-- A call that has not started, of a core in scope (R221, R223). -/
def CallMsg.clearBy (m : CallMsg) (r : Revoke) : CallMsg := if r.reaches m.core then m.revokeBy r else m

def Exec.revokeBy (e : Exec) (r : Revoke) : Exec := { e with buf := e.buf.map fun b => (b.1, b.2.clearBy r) }

def InMsg.revokeBy (m : InMsg) (r : Revoke) : InMsg :=
  match m.msg with
  | .call e c => { m with msg := .call e (c.clearBy r) }
  | _ => m

/-- The TLB entries that a revocation removes (R221). -/
def TlbEntry.goes (e : TlbEntry) (r : Revoke) : Bool :=
  r.selects e.space (wordOf (e.vpn * pageBytes e.size)) e.size (leafFrame e.leaf.toNat)

/-- One core in scope at the clear (R221, R223). The retirement of a quarter leaves the TLBs alone (R214, R226). -/
def Core.revokeBy (k : Core) (r : Revoke) : Core :=
  let keep := fun (l : List TlbEntry) => if r.mode = 3 then l else l.filter fun e => !e.goes r
  ({ k with
      tlb1 := keep k.tlb1
      tlb2 := keep k.tlb2
      ctx := k.ctx.map fun e => (e.1, e.2.revokeBy r) } : Core).mapCmds fun _ q => q.revokeBy r

/-- An invalidation matches a walk in progress: every translation, the space, or an address that one page can hold together with the
walk's (R214). -/
def Revoke.restarts (r : Revoke) (sp : Nat) (va : Word) : Bool :=
  match r.mode with
  | 0 => r.space == sp && r.va.toNat / 2 ^ 33 == va.toNat / 2 ^ 33
  | 1 => r.space == sp
  | 2 => true
  | _ => false

/-- The walks in progress on the cores in scope start again from the root (R214). -/
def State.restartWalks (s : State) (r : Revoke) : State :=
  let hit := fun c va (xr : Word) => r.reaches c && r.restarts (xspace xr) va
  { s with
    walks := s.walks.map fun w => if hit w.core w.va w.xroot then { w with cur := {} } else w
    migs := s.migs.map fun m => if hit m.core m.va m.xroot then { m with cur := {} } else m }

/-- The revocation waits for a command that holds a cleared handle, unless the cleared ones are KV parts under MASKABSENT and the copy has
not started (R223, R269). -/
def Cmd.awaited (m : Cmd) (q : Nat) (r : Revoke) : Bool :=
  let hit := fun n => m.snaps.any fun h => h.1 == n && r.handle h.2
  let spared := decide (q < 4) && (decide (m.st = 0) || m.unchecked) && m.w3.getLsbD 61 && (m.w2.getLsbD 59 || !hit (getField m.w2 60 4))
  decide (m.st ≤ 1) && m.snaps.any (fun h => r.handle h.2) && !spared

/-- The clear takes effect between two cycles; the accesses, commands and calls that it waits for are noted (R223). -/
def State.clearHandles (s : State) (r : Revoke) : State :=
  let accs := s.accs.filterMap fun a =>
    match a.place with
    | .phys p =>
      if r.reaches a.core && r.selects a.space a.vpage a.size (p / pageBytes a.size * pageBytes a.size) then some a.id else none
    | .spad .. => none
  let cmds := s.cores.flatMap fun (e : Nat × Core) =>
    if r.reaches e.1 then
      e.2.queues.flatMap fun (q : Nat × Queue) => q.2.cmds.filterMap fun m =>
        if m.awaited q.1 r then some m.id else none
    else []
  let calls := s.openCalls.filter fun m => r.reaches m.2.core && m.2.hits r
  let s : State := { s.restartWalks r with
    cores := s.cores.map fun e => (e.1, if r.reaches e.1 then e.2.revokeBy r else e.2)
    vaultEx := s.vaultEx.map fun e => (e.1, e.2.revokeBy r)
    hbmEx := s.hbmEx.map fun e => (e.1, e.2.revokeBy r)
    msgs := s.msgs.map (·.revokeBy r) }
  { s with revokes := s.revokes.map fun q => if q.id = r.id then { q with cleared := true, accs := accs, cmds := cmds, calls := calls } else q }

/-- A call that a revocation waits for runs or has stores on their way, or it has neither replied nor been reported LOST (R223). -/
def State.callOpen (s : State) (id : Nat) (m : CallMsg) : Bool :=
  s.openCalls.any (fun c => c.1 == id) || s.callStores.any (fun t => t.call == id) ||
    (s.awaits m && !(s.msgs.any fun n => match n.msg with | .reply _ i .. => i == id | _ => false))

/-- A revocation has nothing left to wait for: the beats issued through what it cleared have performed, and the commands and calls that held
it have ended (R223). -/
def State.revokeDone (s : State) (r : Revoke) : Bool :=
  r.cleared && !(s.accs.any fun a => r.accs.contains a.id) && !(s.beats.any fun b => r.cmds.contains b.cmd) &&
    !(s.cores.any fun e => e.2.queues.any fun q => q.2.cmds.any fun m => decide (m.st ≤ 1) && r.cmds.contains m.id) &&
    !(r.calls.any fun e => s.callOpen e.1 e.2)

/-- A single-register result waits to land (R82). -/
def State.addLand (s : State) (c x step : Nat) (reg : RegId) (v : LandVal) (acq : Bool := false) : State :=
  { s with ids := s.ids + 1, lands := s.lands ++ [⟨s.ids, c, x, step, reg, v, acq⟩] }

/-- A result lands where its register still waits for it (R375). -/
def State.landIf (s : State) (c x step : Nat) (reg : Option RegId) (v : RVal) : State :=
  match reg with | some r => s.addLand c x step r (.val v) | none => s

/-- A revocation starts. -/
def State.startRevoke (s : State) (r : Revoke) : State := { s with revokes := s.revokes ++ [{ r with id := s.ids }], ids := s.ids + 1 }

/-- REVOCATION_COMPLETE: the clear, and, once nothing is left to wait for, the completion: `tlbinv` writes its predicate, a migration goes
on to its copy (R221 to R223). -/
def State.stepRevoke (s : State) (r : Revoke) : State :=
  if !r.cleared then s.clearHandles r
  else
    let s := { s with revokes := s.revokes.filter fun q => decide (q.id ≠ r.id) }
    let s := s.landIf r.core r.ctx r.step r.pd (.b true)
    match r.mig with
    | some m => { s with migs := s.migs.map fun g => if g.id = m then { g with stage := 2 } else g }
    | none => s

def execRevocationComplete (id : Nat) (s : State) : Res' :=
  match s.revokes.find? fun r => decide (r.id = id) with
  | some r => runEvent (!r.cleared || s.revokeDone r) (fun s => s.stepRevoke r) s
  | none => .next s

/-! ### tlbinv and pgmig (R221, R222, R447) -/

def tlbinvOp (pd a b mode : Nat) (dev : Bool) : SlotOp where
  decode s := if !s.me.mode then some 4 else none
  names x := [x.pReg pd, x.sReg a, x.sReg b]
  run s :=
    let u := s.rs a
    let v := s.rs b
    if u.poison || v.poison then poisonFault
    else
      let p := s.me.pReg pd
      .ok ((s.startRevoke { id := 0, core := s.iss.core, ctx := s.iss.ctx, step := s.me.step, mode := mode, va := u.val,
                            space := bitsOf 0 12 v.val.toNat, dev := dev, pd := some p }).mark [p])

def execTlbinv (pd a b mode : Nat) (dev : Bool) (s : State) : Res' := runSlot 6 (tlbinvOp pd a b mode dev) s

def pgmigOp (a b : Nat) : SlotOp where
  decode s := if !s.me.mode then some 4 else none
  names x := [x.sReg a, x.sReg b]
  run s :=
    let u := s.rs a
    let v := s.rs b
    if u.poison || v.poison then poisonFault
    else if bitsOf 48 16 v.val.toNat ≠ 0 then .error (3, none)
    else
      let r := s.me.sReg b
      let m : Mig := { id := s.ids, core := s.iss.core, ctx := s.iss.ctx, step := s.me.step, va := u.val, dst := v.val.toNat, reg := some r,
                       xroot := s.myCore.xrootOf s.iss.ctx }
      .ok (({ s with migs := s.migs ++ [m], ids := s.ids + 1 } : State).mark [r])

def execPgmig (a b : Nat) (s : State) : Res' := runSlot 6 (pgmigOp a b) s

/-- A migration ends with a status (R222). -/
def State.endMig (s : State) (m : Mig) (status : Nat) : State :=
  ({ s with migs := s.migs.filter fun g => decide (g.id ≠ m.id) } : State).landIf m.core m.ctx m.step m.reg (.w (wordOf status))

/-- A write of a page-table entry by `pgmig` at its home (R222, R328). -/
def State.putEntry (s : State) (m : Mig) (a e : Nat) : State :=
  (s.pokeBytes a (leBytes 8 e)).watchPhys a 8 2 (.pgmig m.core m.ctx)

/-- The destination of a move is refused (R222). -/
def State.badDest (s : State) (dst n : Nat) : Bool :=
  decide (2 ≤ tierOf dst) || decide (dst % n ≠ 0) || s.badRange dst n false ||
    anyQuarter dst n fun v q => let h := (s.core v).hal.get 0 q; h == 2 || s.quarterGone v q

def State.updMig (s : State) (id : Nat) (f : Mig → Mig) : State := { s with migs := s.migs.map fun g => if g.id = id then f g else g }

/-- The walk of a migration reads its next entry; at its end a status, or BUSY is set and the page's revocation starts (R222). -/
def State.walkMig (s : State) (m : Mig) : State :=
  match s.walkStep m.va m.xroot m.cur.next with
  | .fail p => (s.reportWalk m.core m.ctx 8 p).endMig m 1
  | .busy a => s.updMig m.id fun g => { g with cur := { busy := some a } }
  | .down l t => s.updMig m.id fun g => { g with cur := { next := some (l, t) } }
  | .leaf e at_ =>
    let n := pageBytes (leafSize e)
    if !leafMig e then s.endMig m 2
    else if s.badDest m.dst n then s.endMig m 3
    else if leafLost e || anyQuarter (leafFrame e) n s.quarterLost then s.endMig m 4
    else
      let s := s.putEntry m at_ (e + 2 ^ 7)
      let s := s.updMig m.id fun g => { g with stage := 1, leafAt := at_, src := leafFrame e, size := leafSize e }
      s.startRevoke { id := 0, core := m.core, ctx := m.ctx, step := m.step, mode := 0, va := m.va, space := leafSpace e, dev := true,
                      mig := some m.id }

/-- One line of a move: bytes and poison of the source line, a clean line clearing the destination's poison (R447), with the watchpoint
tests of both (R328). -/
def State.moveLine (s : State) (m : Mig) : State :=
  let a := m.src + 64 * m.line
  let b := m.dst + 64 * m.line
  let (bs, po) := s.peek a 64
  let s := if tierOf a = 2 then s.sendPeer (chipOf a) (.read s.chip (peerLocal a) 64) else s
  let s := s.watchPhys a 64 1 (.pgmig m.core m.ctx)
  let s := s.poke b (bs.map some) false
  let s := ({ s with poison := s.poison.put false (b / 64) po } : State).watchPhys b 64 2 (.pgmig m.core m.ctx)
  s.updMig m.id fun g => { g with line := g.line + 1, po := g.po || po }

/-- The source of a move is gone: a quarter is lost, or the link to the peer chip that holds it is down (R222, R423, log entry 50). -/
def State.sourceLost (s : State) (m : Mig) : Bool := anyQuarter m.src (pageBytes m.size) s.quarterLost || s.routeLost m.src

/-- PGMIG_MOVE: the next line; after the last one the new leaf and the status (R222). -/
def State.moveMig (s : State) (m : Mig) : State :=
  let e := readNat s.mem m.leafAt 8
  let clear := if leafBusy e then e - 2 ^ 7 else e
  if s.sourceLost m then (s.putEntry m m.leafAt clear).endMig m 4
  else if 64 * m.line < pageBytes m.size then s.moveLine m
  else
    let leaf := clear - bitsOf 13 35 clear * 2 ^ 13 - bitsOf 50 1 clear * 2 ^ 50 + bitsOf 13 35 m.dst * 2 ^ 13
    (s.putEntry m m.leafAt leaf).endMig m (if m.po then 5 else 0)

def execPgmigMove (id : Nat) (s : State) : Res' :=
  match s.migs.find? fun m => decide (m.id = id) with
  | some m => runEvent (s.running && decide (m.stage = 2) && !s.routeStalled m.src) (fun s => s.moveMig m) s
  | none => .next s

/-! ### The events of walks -/

/-- A walk's handle may be written only after every earlier result to the register has become visible (R82). -/
def State.walkFree (s : State) (w : Walk) : Bool := w.cur.busy.isNone && !((s.cx w.core w.ctx).earlierResult (.h w.hreg) w.step)

/-- WALK_COMPLETE: a walk reads its next entry, at the last one with its result. -/
def execWalkComplete (id : Nat) (s : State) : Res' :=
  match s.walks.find? fun w => decide (w.id = id), s.migs.find? fun m => decide (m.id = id) with
  | some w, _ => runEvent (s.running && s.walkFree w) (fun s => s.completeWalk w) s
  | none, some m => runEvent (s.running && decide (m.stage = 0) && m.cur.busy.isNone) (fun s => s.walkMig m) s
  | none, none => .next s

/-- The leaf that a walk waits for is no longer BUSY. -/
def State.busyOver (s : State) (c : Cursor) : Bool :=
  match c.busy with
  | some a => s.poisoned a 8 || !leafBusy (readNat s.mem a 8)
  | none => false

/-- WALK_BUSY_RESTART: a walk that waited starts again from the root (R209). -/
def execWalkBusyRestart (id : Nat) (s : State) : Res' :=
  match s.walks.find? fun w => decide (w.id = id), s.migs.find? fun m => decide (m.id = id) with
  | some w, _ => runEvent (s.running && s.busyOver w.cur) (fun s => s.setCursor id {}) s
  | none, some m => runEvent (s.running && decide (m.stage = 0) && s.busyOver m.cur) (fun s => s.updMig id fun g => { g with cur := {} }) s
  | none, none => .next s

/-! ### The loss of a quarter (R228) -/

def Handle.lose (h : Handle) (v q : Nat) : Handle :=
  if h.valid && anyQuarter h.frame h.bytes (fun a b => decide (a = v ∧ b = q)) then { h with lost := true } else h

def RVal.lose (r : RVal) (a b : Nat) : RVal := match r with | .h hd => .h (hd.lose a b) | o => o

def Ctx.lose (x : Ctx) (v q : Nat) : Ctx :=
  let f := fun (r : Res) => { r with val := r.val.lose v q }
  { x with h := x.h.map fun e => (e.1, e.2.lose v q), inflight := x.inflight.map f, snap := x.snap.map f, snapT := x.snapT.map f }

/-- LOST is set in every handle of the device whose frame meets the quarter, the engines' copies included. -/
def State.loseHandles (s : State) (v q : Nat) : State :=
  let core := fun (k : Core) =>
    ({ k with ctx := k.ctx.map fun e => (e.1, e.2.lose v q) } : Core).mapCmds fun _ m => { m with snaps := m.snaps.map fun e => (e.1, e.2.lose v q) }
  let msg := fun (m : CallMsg) =>
    { m with target := m.target.lose v q, extra1 := m.extra1.map (·.lose v q), extra2 := m.extra2.map (·.lose v q) }
  let ex := fun (e : Exec) =>
    { e with buf := e.buf.map fun b => (b.1, msg b.2), slots := e.slots.map fun t => (t.1, { t.2 with msg := msg t.2.msg }) }
  { s with
    cores := s.cores.map fun e => (e.1, core e.2)
    vaultEx := s.vaultEx.map fun e => (e.1, ex e.2)
    hbmEx := s.hbmEx.map fun e => (e.1, ex e.2)
    msgs := s.msgs.map fun m => match m.msg with | .call e c => { m with msg := .call e (msg c) } | _ => m }

end Sys2Proof.Machine
end

