-- ==== Sys2Proof/Machine/Transcend.lean ====
section
/-! DEFINITION. The correctly rounded functions 2^x, log2 x, 1/x and 1/√x (R126). The quotient and the root are exact; 2^x and log2 x are
enclosed between two quotients that round alike, and where these do not, decided by comparing whole powers (log entry 6). -/

namespace Sys2Proof

/-- Largest natural whose square is at most `n`, below 2^`k`. -/
def isqrt : Nat → Nat → Nat
  | 0, _ => 0
  | k + 1, n => let r := isqrt k (n / 4); if (2 * r + 1) * (2 * r + 1) ≤ n then 2 * r + 1 else 2 * r

/-! ### Enclosures in units of 2^−P -/

/-- Terms of atanh z at odd powers from below: `z` and its square `q` in units of 1 / `s`. -/
def atanhLo (s q : Nat) : Nat → Nat → Nat → Nat
  | 0, _, _ => 0
  | n + 1, k, z => z / (2 * k + 1) + atanhLo s q n (k + 1) (z * q / s)

/-- The same from above, with the tail of the series. -/
def atanhHi (s q : Nat) : Nat → Nat → Nat → Nat
  | 0, _, _ => 2
  | n + 1, k, z => z / (2 * k + 1) + 1 + atanhHi s q n (k + 1) (z * q / s + 1)

/-- atanh of `a / b`, at most 1/3, in units of 2^−p: a value not above it and one not below it. -/
def atanhIv (p a b : Nat) : Nat × Nat :=
  let s := 2 ^ p
  let lo := s * a / b
  let hi := lo + 1
  let n := p / 3 + 4
  (atanhLo s (lo * lo / s) n 0 lo, atanhHi s (hi * hi / s + 1) n 0 hi)

/-- ln 2 = 2 atanh (1/3). -/
def ln2Iv (p : Nat) : Nat × Nat := let (l, h) := atanhIv p 1 3; (2 * l, 2 * h)

/-- Terms of e^y from below. -/
def expLo (s y : Nat) : Nat → Nat → Nat → Nat
  | 0, _, _ => 0
  | n + 1, k, t => t + expLo s y n (k + 1) (t * y / (s * (k + 1)))

/-- The same from above. -/
def expHi (s y : Nat) : Nat → Nat → Nat → Nat
  | 0, _, _ => 2
  | n + 1, k, t => t + expHi s y n (k + 1) (t * y / (s * (k + 1)) + 1)

/-- 2^(a / b) for 0 ≤ a / b < 1 in units of 2^−p. -/
def exp2Iv (p a b : Nat) : Nat × Nat :=
  let s := 2 ^ p
  let (l, h) := ln2Iv p
  (expLo s (l * a / b) (p / 2) 0 s, expHi s (h * a / b + 1) (p / 2) 0 s)

/-- log2 of `a / b`, in [1, 2), in units of 2^−p. -/
def log2Iv (p a b : Nat) : Nat × Nat :=
  let s := 2 ^ p
  let (l, h) := ln2Iv p
  let (x, y) := atanhIv p (a - b) (a + b)
  (s * (2 * x) / h, s * (2 * y) / l + 1)

/-- The one code and flags that both ends of an enclosure round to. -/
def agree (x y : Nat × FlagBits) : Option (Nat × FlagBits) :=
  let a := (x.1, x.2 ||| fnx)
  if a = (y.1, y.2 ||| fnx) then some a else none

/-- Precisions at which an enclosure is tried. -/
def precisions : List Nat := [128, 256]

/-! ### The exact decision -/

/-- The largest number that passes a test which holds up to it, from `c` on, `n` bits. -/
def topBits (ok : Nat → Bool) : Nat → Nat → Nat
  | 0, c => c
  | n + 1, c => if ok (c + 2 ^ n) then topBits ok n (c + 2 ^ n) else topBits ok n c

/-- 2^(r / b) for 0 < r < b, in units of 2^−64, from below: `c` does not exceed it exactly where c^b ≤ 2^(r + 64b). -/
def exp2Floor (r b : Nat) : Nat := topBits (fun c => decide (c ^ b ≤ 2 ^ (r + 64 * b))) 64 (2 ^ 64)

/-- log2 of num / 2^k, in (1, 2), in units of 2^−64, from below: `c` does not exceed it exactly where 2^(c + k × 2^64) ≤ num^(2^64). -/
def log2Floor (num k : Nat) : Nat := topBits (fun c => decide (2 ^ (c + k * 2 ^ 64) ≤ num ^ 2 ^ 64)) 64 0

/-! ### The four functions on a finite, nonzero argument -/

/-- 2^x for x = (−1)^neg × num × 2^exp, num not 0. Beyond ±1,024 every format overflows or rounds to zero. A value that is not exact is
irrational: it lies strictly between neighbours of the grid of 2^−64, which holds every rounding boundary, so their middle rounds as it does. -/
def exp2Fin (f : FFmt) (flush neg : Bool) (num : Nat) (exp : Int) : Nat × FlagBits :=
  let (a, b) := scale2 num 1 exp
  if 1024 * b ≤ a then
    if neg then f.round .rne flush false 1 (2 ^ 1024) else f.round .rne flush false (2 ^ 1024) 1
  else
    let q := a / b
    let i : Int := if neg then (if a % b = 0 then -(q : Int) else -(q : Int) - 1) else q
    let r := if neg then (if a % b = 0 then 0 else b - a % b) else a % b
    if r = 0 then
      let (n, d) := scale2 1 1 i
      f.round .rne flush false n d
    else
      match precisions.findSome? (fun p =>
        let (l, h) := exp2Iv p r b
        let (n, d) := scale2 l (2 ^ p) i
        let (m, c) := scale2 h (2 ^ p) i
        agree (f.round .rne flush false n d) (f.round .rne flush false m c)) with
      | some v => v
      | none =>
        let (n, d) := scale2 (2 * exp2Floor r b + 1) (2 ^ 65) i
        f.round .rne flush false n d

/-- log2 x for x = num × 2^exp, num not 0. -/
def log2Fin (f : FFmt) (flush : Bool) (num : Nat) (exp : Int) : Nat × FlagBits :=
  let k := Nat.log2 num
  let e : Int := exp + k
  if num = 2 ^ k then f.round2 .rne flush (decide (e < 0)) e.natAbs 0 false
  else
    match precisions.findSome? (fun p =>
      let (l, h) := log2Iv p num (2 ^ k)
      let s := 2 ^ p
      let lo : Int := e * (s : Nat) + l
      let hi : Int := e * (s : Nat) + h
      if (0 < lo ∧ 0 < hi) ∨ (lo < 0 ∧ hi < 0) then
        agree (f.round .rne flush (decide (lo < 0)) lo.natAbs s) (f.round .rne flush (decide (hi < 0)) hi.natAbs s)
      else none) with
    | some v => v
    | none =>
      let m : Int := 2 * (e * (2 ^ 64 : Nat) + log2Floor num k) + 1
      f.round .rne flush (decide (m < 0)) m.natAbs (2 ^ 65)

/-- 1 / x. -/
def rcpFin (f : FFmt) (flush neg : Bool) (num : Nat) (exp : Int) : Nat × FlagBits :=
  let (a, b) := scale2 num 1 exp
  f.round .rne flush neg b a

/-- 1 / √x for x = num × 2^exp: the root with 96 fraction bits, and half a unit more where it is no square, so that it lies strictly
between the same rounding boundaries as the exact value. -/
def rsqFin (f : FFmt) (flush : Bool) (num : Nat) (exp : Int) : Nat × FlagBits :=
  let (a, b) := scale2 num 1 exp
  let v := b * 4 ^ 96 / a
  let r := isqrt 200 v
  if r * r * a = b * 4 ^ 96 then f.round .rne flush false r (2 ^ 96)
  else f.round .rne flush false (2 * r + 1) (2 ^ 97)

/-- `vexp2` of a code (R126). -/
def FFmt.exp2 (f : FFmt) (flush : Bool) (c : Nat) : Nat × FlagBits :=
  match f.decode flush c with
  | .nan s n => (f.nan, (FVal.nan s n).nv)
  | .inf n => (if n then f.zero false else f.inf false, 0)
  | .fin n k e =>
    if k = 0 then f.round .rne flush false 1 1
    else exp2Fin f flush n k e

/-- `vlog2` of a code. -/
def FFmt.log2 (f : FFmt) (flush : Bool) (c : Nat) : Nat × FlagBits :=
  match f.decode flush c with
  | .nan s n => (f.nan, (FVal.nan s n).nv)
  | .inf n => if n then (f.nan, fnv) else (f.inf false, 0)
  | .fin n k e =>
    if k = 0 then (f.inf true, 0)
    else if n then (f.nan, fnv)
    else log2Fin f flush k e

/-- `vrcp` of a code. -/
def FFmt.rcp (f : FFmt) (flush : Bool) (c : Nat) : Nat × FlagBits :=
  match f.decode flush c with
  | .nan s n => (f.nan, (FVal.nan s n).nv)
  | .inf n => (f.zero n, 0)
  | .fin n k e => if k = 0 then (f.inf n, 0) else rcpFin f flush n k e

/-- `vrsq` of a code. -/
def FFmt.rsq (f : FFmt) (flush : Bool) (c : Nat) : Nat × FlagBits :=
  match f.decode flush c with
  | .nan s n => (f.nan, (FVal.nan s n).nv)
  | .inf n => if n then (f.nan, fnv) else (f.zero false, 0)
  | .fin n k e =>
    if k = 0 then (f.inf n, 0)
    else if n then (f.nan, fnv)
    else rsqFin f flush k e

end Sys2Proof
end

