-- ==== Sys2Proof/Machine/Vector.lean ====
section
/-! DEFINITION. The V slots: lane arithmetic, compares, masks, movement, reductions and conversions (R114 to R137). -/

namespace Sys2Proof.Machine

/-! ### Lanes, masks and poison (R114 to R116) -/

/-- Lane `j` of width `w` (R60). -/
def laneOf (w : Nat) (x : VWord) (j : Nat) : Nat := bitsOf (w * j) w x.toNat

/-- All lanes of width `w`. -/
def lanesOf (w : Nat) (x : VWord) : List Nat := (List.range (2048 / w)).map (laneOf w x)

/-- A register of lanes of width `w`, lane 0 first. -/
def ofLanes (w : Nat) (l : List Nat) : VWord := BitVec.ofNat 2048 (pack (l.map fun v => (w, v)))

/-- Lane `j` is active (R115). -/
def laneActive (m : KWord) (w j : Nat) : Bool := m.getLsbD (j * w / 8)

/-- The OR of the flags of a list of results. -/
def flagsOf (l : List (Nat × FlagBits)) : FlagBits := l.foldl (fun f e => f ||| e.2) 0

/-- The merging write of R115: active lanes take `f`, the others keep what `old` holds. -/
def mapLanes (w : Nat) (m : KWord) (old : VWord) (f : Nat → Nat × FlagBits) : VWord × FlagBits :=
  let r := (List.range (2048 / w)).map fun j => if laneActive m w j then f j else (laneOf w old j, 0)
  (ofLanes w (r.map (·.1)), flagsOf r)

/-- A V-slot operation with a merging mask: sources `vs` and `ss`, the function of a lane, the poison of R116. -/
def laneOp (lat : Nat) (ty : Ty) (d k : Nat) (vs ss : List Nat) (f : Ctx → Nat → Nat × FlagBits) : SlotOp where
  names x := x.vReg d :: .k k :: (vs.map x.vReg ++ ss.map x.sReg)
  run s :=
    let x := s.me
    let po := vs.any (fun n => (x.readV n).poison) || ss.any (fun n => (x.readS n).poison)
    let old := x.readV d
    let (r, fl) := mapLanes ty.bits (x.readK k) old.val (f x)
    .ok (s.emitV d r lat (po || (k != 0 && old.poison)) (if po then 0 else fl))

/-- A lane operation of one vector source. -/
def lane1 (lat : Nat) (ty : Ty) (d a k : Nat) (f : Bool → Nat → Nat × FlagBits) (s : State) : Res' :=
  runSlot 1 (laneOp lat ty d k [a] [] fun x j => f x.flush (laneOf ty.bits (x.readV a).val j)) s

/-- A lane operation of two vector sources. -/
def lane2 (lat : Nat) (ty : Ty) (d a b k : Nat) (f : Bool → Nat → Nat → Nat × FlagBits) (s : State) : Res' :=
  runSlot 1 (laneOp lat ty d k [a, b] [] fun x j =>
    f x.flush (laneOf ty.bits (x.readV a).val j) (laneOf ty.bits (x.readV b).val j)) s

/-- A lane operation of three vector sources. -/
def lane3 (lat : Nat) (ty : Ty) (d a b c k : Nat) (f : Bool → Nat → Nat → Nat → Nat × FlagBits) (s : State) : Res' :=
  runSlot 1 (laneOp lat ty d k [a, b, c] [] fun x j =>
    f x.flush (laneOf ty.bits (x.readV a).val j) (laneOf ty.bits (x.readV b).val j) (laneOf ty.bits (x.readV c).val j)) s

/-- A lane filled from the source register as a whole (R130): the lane number picks. -/
def lanePick (ty : Ty) (d k : Nat) (vs : List Nat) (f : Ctx → Nat → Nat) (s : State) : Res' :=
  runSlot 1 (laneOp 3 ty d k vs [] fun x j => (f x j, 0)) s

/-! ### Lane functions -/

/-- An arithmetic function of two lanes: floating by R117, integer modulo 2^w. -/
def arith2 (ty : Ty) (m : Rnd) (ff : FFmt → Rnd → Bool → Nat → Nat → Nat × FlagBits) (fi : Int → Int → Int) (flush : Bool) (a b : Nat) :
    Nat × FlagBits :=
  match ty.ffmt with
  | some f => ff f m flush a b
  | none => (ty.ofInt (fi (ty.toInt a) (ty.toInt b)), 0)

/-- `vmin`, `vmax` (R123). -/
def minMax2 (ty : Ty) (isMax : Bool) (flush : Bool) (a b : Nat) : Nat × FlagBits :=
  match ty.ffmt with
  | some f => f.minMax isMax flush a b
  | none => (if (decide (ty.toInt a < ty.toInt b)) != isMax then a else b, 0)

/-- `vclamp` (R123). -/
def clamp3 (ty : Ty) (flush : Bool) (a b c : Nat) : Nat × FlagBits :=
  let (x, f) := minMax2 ty true flush a b
  let (y, g) := minMax2 ty false flush x c
  (y, f ||| g)

/-- An integer result saturated to the lane type (R123, R124). -/
def satLane (ty : Ty) (x : Int) : Nat × FlagBits :=
  let (v, f) := clampInt ty.intMin ty.intMax x
  (ty.ofInt v, f)

/-- `vabs`, `vneg` (R123). -/
def absNeg (ty : Ty) (neg : Bool) (flush : Bool) (a : Nat) : Nat × FlagBits :=
  match ty.ffmt with
  | some f =>
    match f.decode flush a with
    | .nan s n => (f.nan, (FVal.nan s n).nv)
    | .inf n => (f.inf (neg && !n), 0)
    | .fin n k e => f.round2 .rne flush (neg && !n) k e (neg && !n)
  | none => satLane ty (if neg then -ty.toInt a else (ty.toInt a).natAbs)

/-- Shift amounts: the low log2(w) bits (R125). -/
def shiftLane (ty : Ty) (f : Nat → Nat → Nat) (_ : Bool) (a b : Nat) : Nat × FlagBits := (f a (b % ty.bits), 0)

/-- A transcendental in the lane format (R126). -/
def trans1 (ty : Ty) (g : FFmt → Bool → Nat → Nat × FlagBits) (flush : Bool) (a : Nat) : Nat × FlagBits :=
  match ty.ffmt with
  | some f => g f flush a
  | none => (a, 0)

/-! ### Lane arithmetic (R121 to R125) -/

def addLat (ty : Ty) : Nat := if ty.isFloat then 5 else 3

def execVadd (ty : Ty) (md : Rnd) (d a b k : Nat) (s : State) : Res' :=
  lane2 (addLat ty) ty d a b k (arith2 ty md FFmt.add (· + ·)) s
def execVsub (ty : Ty) (md : Rnd) (d a b k : Nat) (s : State) : Res' :=
  lane2 (addLat ty) ty d a b k (arith2 ty md FFmt.sub (· - ·)) s
def execVmul (ty : Ty) (md : Rnd) (d a b k : Nat) (s : State) : Res' :=
  lane2 5 ty d a b k (arith2 ty md FFmt.mul (· * ·)) s

/-- The fused forms (R122); only floating types are accepted. -/
def fused (ty : Ty) (md : Rnd) (negp negc flush : Bool) (a b c : Nat) : Nat × FlagBits :=
  match ty.ffmt with
  | some f => f.fma md flush negp negc a b c
  | none => (a, 0)

def execVfma (ty : Ty) (md : Rnd) (d a b c k : Nat) (s : State) : Res' := lane3 5 ty d a b c k (fused ty md false false) s
def execVfms (ty : Ty) (md : Rnd) (d a b c k : Nat) (s : State) : Res' := lane3 5 ty d a b c k (fused ty md false true) s
def execVfnma (ty : Ty) (md : Rnd) (d a b c k : Nat) (s : State) : Res' := lane3 5 ty d a b c k (fused ty md true false) s
def execVmin (ty : Ty) (d a b k : Nat) (s : State) : Res' := lane2 3 ty d a b k (minMax2 ty false) s
def execVmax (ty : Ty) (d a b k : Nat) (s : State) : Res' := lane2 3 ty d a b k (minMax2 ty true) s
def execVabs (ty : Ty) (d a k : Nat) (s : State) : Res' := lane1 3 ty d a k (absNeg ty false) s
def execVneg (ty : Ty) (d a k : Nat) (s : State) : Res' := lane1 3 ty d a k (absNeg ty true) s
def execVand (ty : Ty) (d a b k : Nat) (s : State) : Res' := lane2 3 ty d a b k (fun _ u v => (u &&& v, 0)) s
def execVor (ty : Ty) (d a b k : Nat) (s : State) : Res' := lane2 3 ty d a b k (fun _ u v => (u ||| v, 0)) s
def execVxor (ty : Ty) (d a b k : Nat) (s : State) : Res' := lane2 3 ty d a b k (fun _ u v => (u ^^^ v, 0)) s
def execVshl (ty : Ty) (d a b k : Nat) (s : State) : Res' := lane2 3 ty d a b k (shiftLane ty fun u n => u * 2 ^ n % 2 ^ ty.bits) s
def execVshr (ty : Ty) (d a b k : Nat) (s : State) : Res' := lane2 3 ty d a b k (shiftLane ty fun u n => u / 2 ^ n) s
def execVsra (ty : Ty) (d a b k : Nat) (s : State) : Res' :=
  lane2 3 ty d a b k (shiftLane ty fun u n => fieldOf ty.bits (sextNat ty.bits u / (2 ^ n : Nat))) s
def execVaddsat (ty : Ty) (d a b k : Nat) (s : State) : Res' :=
  lane2 3 ty d a b k (fun _ u v => satLane ty (ty.toInt u + ty.toInt v)) s
def execVsubsat (ty : Ty) (d a b k : Nat) (s : State) : Res' :=
  lane2 3 ty d a b k (fun _ u v => satLane ty (ty.toInt u - ty.toInt v)) s
def execVclamp (ty : Ty) (d a b c k : Nat) (s : State) : Res' := lane3 3 ty d a b c k (clamp3 ty) s
def execVexp2 (ty : Ty) (d a k : Nat) (s : State) : Res' := lane1 9 ty d a k (trans1 ty FFmt.exp2) s
def execVlog2 (ty : Ty) (d a k : Nat) (s : State) : Res' := lane1 9 ty d a k (trans1 ty FFmt.log2) s
def execVrcp (ty : Ty) (d a k : Nat) (s : State) : Res' := lane1 9 ty d a k (trans1 ty FFmt.rcp) s
def execVrsq (ty : Ty) (d a k : Nat) (s : State) : Res' := lane1 9 ty d a k (trans1 ty FFmt.rsq) s

/-! ### Compares and masks (R127, R128) -/

/-- One lane of `vcmp`: its truth and FNV. -/
def cmpLane (cc : CC) (ty : Ty) (flush : Bool) (a b : Nat) : Bool × FlagBits :=
  match ty.ffmt with
  | some f => let x := f.decode flush a; let y := f.decode flush b; (condF cc x y, x.nv ||| y.nv)
  | none => (condI cc ty a b, 0)

/-- A mask whose lanes of width `w` are all ones or all zeros. -/
def maskOfLanes (w : Nat) (l : List Bool) : KWord :=
  BitVec.ofNat 256 (pack (l.map fun b => (w / 8, if b then 2 ^ (w / 8) - 1 else 0)))

def vcmpOp (cc : CC) (ty : Ty) (d a b k : Nat) : SlotOp where
  names x := [.k d, x.vReg a, x.vReg b, .k k]
  run s :=
    let x := s.me
    let u := x.readV a
    let v := x.readV b
    let m := x.readK k
    let r := (List.range (2048 / ty.bits)).map fun j =>
      if laneActive m ty.bits j then cmpLane cc ty x.flush (laneOf ty.bits u.val j) (laneOf ty.bits v.val j) else (false, 0)
    let fl := r.foldl (fun f e => f ||| e.2) 0
    .ok (s.emitK d (maskOfLanes ty.bits (r.map (·.1))) 3 (if u.poison || v.poison then 0 else fl))

def execVcmp (cc : CC) (ty : Ty) (d a b k : Nat) (s : State) : Res' := runSlot 1 (vcmpOp cc ty d a b k) s

/-- A mask of masks (R128). -/
def maskOp (d : Nat) (src : List Nat) (f : Ctx → KWord) (s : State) : Res' :=
  runSlot 1 { names := fun _ => .k d :: src.map .k, run := fun s => .ok (s.emitK d (f s.me) 3) } s

def execKand (d a b : Nat) (s : State) : Res' := maskOp d [a, b] (fun x => x.readK a &&& x.readK b) s
def execKor (d a b : Nat) (s : State) : Res' := maskOp d [a, b] (fun x => x.readK a ||| x.readK b) s
def execKxor (d a b : Nat) (s : State) : Res' := maskOp d [a, b] (fun x => x.readK a ^^^ x.readK b) s
def execKnot (d a : Nat) (s : State) : Res' := maskOp d [a] (fun x => ~~~x.readK a) s

/-- Active lanes of width `w` in a mask (R128). -/
def kpopOf (w : Nat) (m : KWord) : Nat := ((List.range (2048 / w)).filter fun j => laneActive m w j).length

def execKpop (ty : Ty) (d a : Nat) (s : State) : Res' :=
  runSlot 1
    { names := fun x => [x.sReg d, .k a]
      run := fun s => .ok (s.emitS d (wordOf (kpopOf ty.bits (s.me.readK a))) 3) } s

/-! ### Movement (R129 to R131) -/

/-- `vsel` writes every lane; its poison follows R116 by the mask field (log entry 9). -/
def vselOp (ty : Ty) (d a b k : Nat) : SlotOp where
  names x := [x.vReg d, x.vReg a, x.vReg b, .k k]
  run s :=
    let x := s.me
    let u := x.readV a
    let v := x.readV b
    let (r, _) := mapLanes ty.bits (x.readK k) v.val fun j => (laneOf ty.bits u.val j, 0)
    .ok (s.emitV d r 3 (u.poison || v.poison || (k != 0 && (x.readV d).poison)))

def execVsel (ty : Ty) (d a b k : Nat) (s : State) : Res' := runSlot 1 (vselOp ty d a b k) s

def execVbcast (ty : Ty) (d a k : Nat) (s : State) : Res' :=
  runSlot 1 (laneOp 3 ty d k [] [a] fun x _ => ((x.readS a).val.toNat % 2 ^ ty.bits, 0)) s

def execViota (ty : Ty) (d a k : Nat) (s : State) : Res' :=
  runSlot 1 (laneOp 3 ty d k [] [a] fun x j => (((x.readS a).val.toNat + j) % 2 ^ ty.bits, 0)) s

def execVmov (ty : Ty) (d a k : Nat) (s : State) : Res' :=
  lanePick ty d k [a] (fun x j => laneOf ty.bits (x.readV a).val j) s

def execVperm (ty : Ty) (d a b k : Nat) (s : State) : Res' :=
  lanePick ty d k [a, b] (fun x j => laneOf ty.bits (x.readV a).val (laneOf ty.bits (x.readV b).val j % (2048 / ty.bits))) s

def execVrot (ty : Ty) (d a n k : Nat) (s : State) : Res' :=
  lanePick ty d k [a] (fun x j => laneOf ty.bits (x.readV a).val ((j + n) % (2048 / ty.bits))) s

/-- The source of lane `j` under a `vshuf` pattern: from `b` or from `a`, and the lane number (R130). -/
def shufSource (pat : Shuf) (l j : Nat) : Bool × Nat :=
  let h := l / 2
  match pat with
  | .ziplo => (j % 2 = 1, j / 2)
  | .ziphi => (j % 2 = 1, h + j / 2)
  | .evens => (h ≤ j, 2 * (j % h))
  | .odds => (h ≤ j, 2 * (j % h) + 1)
  | .rev => (false, l - 1 - j)
  | .swap2 => (false, j ^^^ 1)

/-- `rev` and `swap2` have no source `b` (R130). -/
def shufUsesB : Shuf → Bool
  | .rev | .swap2 => false
  | _ => true

def execVshuf (ty : Ty) (pat : Shuf) (d a b k : Nat) (s : State) : Res' :=
  lanePick ty d k (if shufUsesB pat then [a, b] else [a])
    (fun x j =>
      let (ob, i) := shufSource pat (2048 / ty.bits) j
      laneOf ty.bits (x.readV (if ob then b else a)).val i) s

def vinsOp (ty : Ty) (d a lane : Nat) : SlotOp where
  names x := [x.vReg d, x.sReg a]
  run s :=
    let x := s.me
    let old := x.readV d
    let v := x.readS a
    .ok (s.emitV d (insField old.val (ty.bits * lane) ty.bits v.val.toNat) 3 (old.poison || v.poison))

def execVins (ty : Ty) (d a lane : Nat) (s : State) : Res' := runSlot 1 (vinsOp ty d a lane) s

/-- The scalar of a lane (R131): sign-extended for the signed integer types. -/
def laneScalar (ty : Ty) (c : Nat) : Word := if ty.isFloat then wordOf c else wordOfInt (ty.toInt c)

def execVext (ty : Ty) (d a lane : Nat) (s : State) : Res' :=
  runSlot 1
    { names := fun x => [x.sReg d, x.vReg a]
      run := fun s =>
        let v := s.me.readV a
        .ok (s.emitS d (laneScalar ty (laneOf ty.bits v.val lane)) 3 v.poison) } s

/-! ### Reductions and scans (R44, R132, R133) -/

/-- The identity of an inactive lane (R132). -/
def redIdentity (ty : Ty) (op : RedOp) : Nat :=
  match ty.ffmt, op with
  | _, .sum => 0
  | some f, .min => f.inf false
  | some f, .max => f.inf true
  | none, .min => ty.ofInt ty.intMax
  | none, .max => ty.ofInt ty.intMin

/-- One node of a reduction. -/
def redNode (ty : Ty) (op : RedOp) (flush : Bool) (a b : Nat) : Nat × FlagBits :=
  match op with
  | .sum => arith2 ty .rne FFmt.add (· + ·) flush a b
  | .min => minMax2 ty false flush a b
  | .max => minMax2 ty true flush a b

/-- One level of the pairwise tree of R44. -/
def pairLevel (f : Nat → Nat → Nat × FlagBits) : List Nat → List Nat × FlagBits
  | a :: b :: r => let (x, g) := f a b; let (l, h) := pairLevel f r; (x :: l, g ||| h)
  | l => (l, 0)

/-- The pairwise tree: `n` levels. -/
def pairTree (f : Nat → Nat → Nat × FlagBits) : Nat → List Nat → Nat × FlagBits
  | 0, l => (l.headD 0, 0)
  | n + 1, l => let (l', g) := pairLevel f l; let (x, h) := pairTree f n l'; (x, g ||| h)

/-- The lanes that enter a reduction (R132). -/
def redLanes (ty : Ty) (op : RedOp) (m : KWord) (v : VWord) : List Nat :=
  (List.range (2048 / ty.bits)).map fun j => if laneActive m ty.bits j then laneOf ty.bits v j else redIdentity ty op

/-- `vred`: the register and the flags (R132). -/
def reduce (ty : Ty) (op : RedOp) (flush : Bool) (m : KWord) (v : VWord) : VWord × FlagBits :=
  let xs := redLanes ty op m v
  match ty.ffmt, op with
  | none, .sum =>
    let (t, f) := satLane .i32 (xs.foldl (fun a x => a + ty.toInt x) 0)
    (ofLanes 32 (List.replicate 64 t), f)
  | _, _ =>
    let (t, f) := pairTree (redNode ty op flush) 8 xs
    (ofLanes ty.bits (List.replicate (2048 / ty.bits) t), f)

/-- One step of `vscan`; an integer sum saturates to the lane type (R133). -/
def scanNode (ty : Ty) (op : RedOp) (flush : Bool) (a b : Nat) : Nat × FlagBits :=
  match ty.ffmt, op with
  | none, .sum => satLane ty (ty.toInt a + ty.toInt b)
  | _, _ => redNode ty op flush a b

def scanFrom (f : Nat → Nat → Nat × FlagBits) : Nat → List Nat → List Nat × FlagBits
  | _, [] => ([], 0)
  | t, x :: r => let (y, g) := f t x; let (l, h) := scanFrom f y r; (y :: l, g ||| h)

/-- Lane 0 of a scan: a floating one is read as an input and canonical as a result (R31, R32, R133; DEDUCED, log entry 19). -/
def scanFirst (ty : Ty) (flush : Bool) (x : Nat) : Nat × FlagBits := match ty.ffmt with | some f => f.carry flush x | none => (x, 0)

/-- `vscan`: the register and the flags (R133). -/
def scan (ty : Ty) (op : RedOp) (flush : Bool) (m : KWord) (v : VWord) : VWord × FlagBits :=
  match redLanes ty op m v with
  | [] => (0, 0)
  | x :: r =>
    let (t, g) := scanFirst ty flush x
    let (l, f) := scanFrom (scanNode ty op flush) t r
    (ofLanes ty.bits (t :: l), g ||| f)

/-- `vred` and `vscan` write every lane and keep no part of the destination (R116). -/
def wholeOp (lat : Nat) (d a k : Nat) (f : Bool → KWord → VWord → VWord × FlagBits) : SlotOp where
  names x := [x.vReg d, x.vReg a, .k k]
  run s :=
    let x := s.me
    let v := x.readV a
    let (r, fl) := f x.flush (x.readK k) v.val
    .ok (s.emitV d r lat v.poison (if v.poison then 0 else fl))

def execVred (ty : Ty) (op : RedOp) (d a k : Nat) (s : State) : Res' := runSlot 1 (wholeOp 8 d a k (reduce ty op)) s
def execVscan (ty : Ty) (op : RedOp) (d a k : Nat) (s : State) : Res' := runSlot 1 (wholeOp 8 d a k (scan ty op)) s

/-! ### Conversions and MX blocks (R134 to R137) -/

/-- Elements that a conversion handles (R134). -/
def cvtCount (ty ty2 : Ty) : Nat := 2048 / Nat.max ty.bits ty2.bits

/-- `vcvt`: the register and the flags (R134). -/
def vcvtVal (ty ty2 : Ty) (md : Rnd) (part : Nat) (flush : Bool) (m : KWord) (v old : VWord) : VWord × FlagBits :=
  let ws := ty.bits
  let wd := ty2.bits
  let n := cvtCount ty ty2
  let w := Nat.max ws wd
  let so := if wd ≤ ws then 0 else part * n * ws
  let d0 := if wd ≤ ws then part * n * wd else 0
  let r := (List.range n).map fun i =>
    if laneActive m w i then convert flush ty ty2 md (bitsOf (so + i * ws) ws v.toNat)
    else (bitsOf (d0 + i * wd) wd old.toNat, 0)
  (insField old d0 (n * wd) (pack (r.map fun e => (wd, e.1))), flagsOf r)

def vcvtOp (ty ty2 : Ty) (md : Rnd) (d a part k : Nat) : SlotOp where
  names x := [x.vReg d, x.vReg a, .k k]
  run s :=
    let x := s.me
    let v := x.readV a
    let old := x.readV d
    let (r, fl) := vcvtVal ty ty2 md part x.flush (x.readK k) v.val old.val
    let keeps := k != 0 || decide (cvtCount ty ty2 * ty2.bits < 2048)
    .ok (s.emitV d r 5 (v.poison || (keeps && old.poison)) (if v.poison then 0 else fl))

def execVcvt (ty ty2 : Ty) (md : Rnd) (d a part k : Nat) (s : State) : Res' := runSlot 1 (vcvtOp ty ty2 md d a part k) s

/-- `vmxq` (R136). It reads no scalar: s[c] is only written, and the poison bit that it held does not enter v[d]. That is the model's choice (log
entry 49), since R120 lists `vmxq` among the instructions that read scalars. -/
def vmxqOp (ty2 : Ty) (md : Rnd) (d c a part : Nat) : SlotOp where
  names x := [x.vReg d, x.sReg c, x.vReg a]
  run s :=
    let x := s.me
    let v := x.readV a
    let old := x.readV d
    let (sc, es, fl) := quantise ty2 md x.flush (lanesOf 32 v.val)
    let n := 64 * ty2.bits
    let r := insField old.val (n * part) n (pack (es.map fun e => (ty2.bits, e)))
    let s := s.emitV d r 8 (v.poison || old.poison) (if v.poison then 0 else fl)
    .ok (s.emitS c (wordOf sc) 8 v.poison)

def execVmxq (ty2 : Ty) (md : Rnd) (d c a part : Nat) (s : State) : Res' := runSlot 1 (vmxqOp ty2 md d c a part) s

def vmxdqOp (ty2 : Ty) (d a c part : Nat) : SlotOp where
  names x := [x.vReg d, x.vReg a, x.sReg c]
  run s :=
    let x := s.me
    let v := x.readV a
    let sc := x.readS c
    let n := 64 * ty2.bits
    let r := (blockElems ty2 (bitsOf (n * part) n v.val.toNat)).map (dequant x.flush ty2 (sc.val.toNat % 256))
    let po := v.poison || sc.poison
    .ok (s.emitV d (ofLanes 32 (r.map (·.1))) 5 po (if po then 0 else flagsOf r))

def execVmxdq (ty2 : Ty) (d a c part : Nat) (s : State) : Res' := runSlot 1 (vmxdqOp ty2 d a c part) s

end Sys2Proof.Machine
end

