-- ==== Sys2Proof/Machine/Tile.lean ====
section
/-! DEFINITION. The M slot and the matrix unit: allocation, planes, the queue of operations, rows entering and being applied, readout and
poison (R139 to R166). -/

namespace Sys2Proof.Machine

/-! ### Tiles and planes (R139 to R143) -/

/-- Blocks of a row or column (R142). -/
def kbOf : Ty → Nat
  | .e2m3 | .e2m1 => 4
  | _ => 2

/-- Bytes of the elements of a row or column (R142). -/
def cbOf (t : Ty) : Nat := kbOf t * t.blockBytes

/-- Decode check: a tile beyond the task's declared count (R139). -/
def tileDecode (t : Nat) (s : State) : Option Nat :=
  match s.myTask with
  | some k => if t < k.tiles.length then none else some 3
  | none => some 3

/-- The physical tile of a logical tile of the issuing context's task. -/
def State.ptile (s : State) (t : Nat) : Nat := (s.physTile s.iss.core s.iss.ctx t).getD 0

def State.tileAt (s : State) (t : Nat) : Tile := s.myCore.tiles.get {} (s.ptile t)

def State.putTile (s : State) (t : Nat) (v : Tile) : State :=
  s.updMyCore fun k => { k with tiles := k.tiles.put {} (s.ptile t) v }

def Core.tile (k : Core) (p : Nat) : Tile := k.tiles.get {} p

/-- The issuing context holds the tile (R140). -/
def State.holdsTile (s : State) (t : Nat) : Bool := let v := s.tileAt t; decide (v.st ≠ .free ∧ v.holder = s.iss.ctx)

def State.holdsPlanes (s : State) : Bool := s.myCore.planeHolder == some s.iss.ctx

def Tile.bad (v : Tile) : Bool := decide (v.st = .poison ∨ v.st = .faulted)

/-- The checks of R166 orders 1 and 2: tile and planes held, the tile not in POISON or FAULTED. -/
def State.tileCheck (s : State) (t : Nat) (planes bad : Bool) (k : Except (Nat × Option Word) State) : Except (Nat × Option Word) State :=
  if !s.holdsTile t || (planes && !s.holdsPlanes) then .error (3, none)
  else if bad && (s.tileAt t).bad then .error (0x11, none)
  else k

/-! ### Allocation, zeroing, reading out (R146 to R148, R156 to R158) -/

/-- The result code of `talloc` (R146). With PL = 1 on a FREE tile and the planes already held by the issuing context, where the table names
no code, the answer is 0 (log entry 48). -/
def State.tallocCode (s : State) (t : Nat) (pl : Bool) : Nat :=
  let v := s.tileAt t
  if decide (v.st ≠ .free) && v.holder != s.iss.ctx then 1
  else if pl && s.myCore.planeHolder.isSome && !s.holdsPlanes then 2
  else if v.st = .free then 0 else 3

def tallocOp (t a : Nat) (pl : Bool) : SlotOp where
  decode := tileDecode t
  names x := [x.sReg a]
  run s :=
    let c := s.tallocCode t pl
    let u := if c = 0 then s.putTile t { st := .allocated, holder := s.iss.ctx } else s
    let u := if (c = 0 ∨ c = 3) ∧ pl then u.updMyCore fun k => { k with planeHolder := some s.iss.ctx } else u
    .ok (u.emitS a (wordOf c) 3)

def execTalloc (t a : Nat) (pl : Bool) (s : State) : Res' := runSlot 3 (tallocOp t a pl) s

/-- `tfree` (R147). With PL = 1 and planes that the context does not hold, on which the specification is silent, the tile becomes FREE and
the planes stay as they are, without a block or a fault (log entry 48). -/
def tfreeOp (t : Nat) (pl : Bool) : SlotOp where
  decode := tileDecode t
  scores _ := [.tile t false]
  waits s := waitsIf (pl && s.holdsPlanes) [.planes]
  run s :=
    s.tileCheck t false false
      (let u := s.putTile t {}
       .ok (if pl && s.holdsPlanes then u.updMyCore fun k => { k with planeHolder := none } else u))

def execTfree (t : Nat) (pl : Bool) (s : State) : Res' := runSlot 3 (tfreeOp t pl) s

def tzeroOp (t : Nat) (anchor : Int) : SlotOp where
  decode := tileDecode t
  scores _ := [.tile t false]
  run s := s.tileCheck t false true (.ok (s.putTile t { st := .allocated, holder := s.iss.ctx, anchor := anchor }))

def execTzero (t : Nat) (anchor : Int) (s : State) : Res' := runSlot 3 (tzeroOp t anchor) s

/-- The code of one element of a tile row (R156). -/
def Tile.conv (v : Tile) (ty : Ty) (md : Rnd) (flush : Bool) (row col : Nat) : Nat × FlagBits :=
  let e := v.elems.get {} (64 * row + col)
  accToFormat ty md flush v.anchor e.acc e.nan

/-- Rows that one `tdrain` reads: one, or two for the 16-bit formats (R156). -/
def drainRows (ty : Ty) : Nat := if ty.bits = 16 then 2 else 1

def Tile.drain (v : Tile) (ty : Ty) (md : Rnd) (flush : Bool) (row : Nat) : VWord × FlagBits :=
  let r := (List.range (64 * drainRows ty)).map fun j => v.conv ty md flush (row + j / 64) (j % 64)
  (ofLanes ty.bits (r.map (·.1)), flagsOf r)

def tdrainOp (ty : Ty) (md : Rnd) (t a row : Nat) (zr : Bool) : SlotOp where
  decode := tileDecode t
  names x := [x.vReg a]
  scores _ := [.tile t false]
  run s :=
    s.tileCheck t false true
      (let v := s.tileAt t
       let (w, f) := v.drain ty md s.me.flush row
       let u := if zr then s.putTile t { v with elems := v.elems.clear (64 * row) (64 * (row + drainRows ty)) } else s
       .ok (u.emitV a w 8 false f))

def execTdrain (ty : Ty) (md : Rnd) (t a row : Nat) (zr : Bool) (s : State) : Res' := runSlot 3 (tdrainOp ty md t a row zr) s

def tstateCode : TState → Nat
  | .free => 0
  | .allocated => 1
  | .accumulating => 2
  | .drainable => 3
  | .poison => 4
  | .faulted => 5

def pstateCode : PState → Nat
  | .empty => 0
  | .loaded => 1
  | .poisoned => 2

def planeFmt (p : Plane) : Nat := match p.fmt with | some t => tyCode t | none => 15

/-- The status word of a tile for context `x` (R157). -/
def Core.tstat (k : Core) (x : Nat) (v : Tile) : Word :=
  wordOf (fieldOf 16 v.anchor * 2 ^ 48 + planeFmt k.act * 2 ^ 36 + planeFmt k.shd * 2 ^ 32 + pstateCode k.act.st * 2 ^ 14
    + v.holder % 4 * 2 ^ 12 + boolNat (k.planeHolder == some x) * 2 ^ 11 + boolNat (v.elems.any fun e => e.2.nan) * 2 ^ 10
    + boolNat v.ovf * 2 ^ 9 + boolNat v.inexact * 2 ^ 8 + tstateCode v.st)

/-- PROG word `w` (R157). -/
def Tile.prog (v : Tile) (w : Nat) : Word :=
  if w = 0 then wordOf (v.ops % 2 ^ 32 * 2 ^ 32 + v.src % 4 * 2 ^ 14 + v.next % 128)
  else wordOf (boolNat v.vr * 2 ^ 63 + v.loc % 2 ^ 23)

def execTstat (t a : Nat) (s : State) : Res' :=
  runSlot 3
    { decode := tileDecode t
      names := fun x => [x.sReg a]
      run := fun s => .ok (s.emitS a (s.myCore.tstat s.iss.ctx (s.tileAt t)) 3) } s

def execTprog (t a w : Nat) (s : State) : Res' :=
  runSlot 3
    { decode := tileDecode t
      names := fun x => [x.sReg a]
      run := fun s => .ok (s.emitS a ((s.tileAt t).prog w) 3) } s

/-- The tile after `tclr` (R158). -/
def Tile.clr (v : Tile) : Tile := if v.bad then { v with st := .drainable, src := 0, next := 0, vr := false, loc := 0 } else v

def tclrOp (t : Nat) : SlotOp where
  decode s := match tileDecode t s with
    | some c => some c
    | none => if !s.me.inTrap then some 4 else none
  scores _ := [.tile t false]
  run s := s.tileCheck t false false (.ok (s.putTile t (s.tileAt t).clr))

def execTclr (t : Nat) (s : State) : Res' := runSlot 3 (tclrOp t) s

/-! ### The queue of the matrix unit (R145, R149 to R155) -/

/-- An operation enters the queue; its tile becomes ACCUMULATING (R159). -/
def State.enqueue (s : State) (kind : MKind) (due : Nat) : State :=
  { s.updMyCore fun k =>
      let k := { k with mq := k.mq ++ [{ id := s.ids, ctx := s.iss.ctx, kind := kind, at_ := s.cycle, due := due }] }
      match kind.tile with
      | some p => { k with tiles := k.tiles.put {} p { k.tiles.get {} p with st := .accumulating } }
      | none => k
    with ids := s.ids + 1 }

/-- Cycles that a `tload` takes (R150). -/
def tloadCycles (t : Ty) : Nat := ceilDiv (64 * cbOf t + 64 * kbOf t) 256

/-- The checks of R155 on the operands of `n` records. Where both ranges offend, the byte reported is that of the range of s[a], which the
specification leaves open (log entry 48). -/
def State.operandCheck (s : State) (ty : Ty) (a b n : Nat) (k : Except (Nat × Option Word) State) : Except (Nat × Option Word) State :=
  let u := s.rs a
  let v := s.rs b
  if u.poison || v.poison then poisonFault
  else if u.val.toNat % 64 ≠ 0 then .error (5, some u.val)
  else if v.val.toNat % kbOf ty ≠ 0 then .error (5, some v.val)
  else match s.spadOffender u.val.toNat (n * cbOf ty) with
    | some o => .error (0x30, some (wordOf o))
    | none => match s.spadOffender v.val.toNat (n * kbOf ty) with
      | some o => .error (0x30, some (wordOf o))
      | none => k

/-- The conditions that hold a bundle with scratchpad operands: watermarks (R154) and acquires (R196). -/
def State.operandWaits (s : State) (ty : Ty) (a b n : Nat) : List Wait :=
  let u := (s.rs a).val.toNat
  let v := (s.rs b).val.toNat
  [.matrix, .acquire, .mark u (u + n * cbOf ty), .mark v (v + n * kbOf ty)]

/-- The first cycle in which the matrix unit can begin a `tload` that commits in this cycle: those of the queue run before it. -/
def Core.tloadFree (k : Core) (cycle : Nat) : Nat :=
  k.mq.foldl (fun d o => match o.kind with | .tload .. => Nat.max d o.due | _ => d) (cycle + 1)

def tloadOp (ty : Ty) (a b : Nat) : SlotOp where
  names x := [x.sReg a, x.sReg b]
  waits s := s.operandWaits ty a b 64
  run s :=
    if !s.holdsPlanes then .error (3, none)
    else s.operandCheck ty a b 64
      (.ok (s.enqueue (.tload ty (s.rs a).val.toNat (s.rs b).val.toNat) (s.myCore.tloadFree s.cycle + tloadCycles ty)))

def execTload (ty : Ty) (a b : Nat) (s : State) : Res' := runSlot 3 (tloadOp ty a b) s

def tswapOp : SlotOp where
  waits _ := [.matrix]
  run s := if !s.holdsPlanes then .error (3, none) else .ok (s.enqueue .tswap 0)

def execTswap (s : State) : Res' := runSlot 3 tswapOp s

def tanchorOp (t : Nat) (anchor : Int) : SlotOp where
  decode := tileDecode t
  scores _ := [.tile t true]
  waits _ := [.matrix]
  run s := s.tileCheck t false true (.ok (s.enqueue (.tanchor (s.ptile t) anchor) 0))

def execTanchor (t : Nat) (anchor : Int) (s : State) : Res' := runSlot 3 (tanchorOp t anchor) s

/-- The formats of the active and the shadow plane once the queued operations have run (R143). -/
def Core.planesAfter (k : Core) : Option Ty × Option Ty :=
  k.mq.foldl (fun p o => match o.kind with | .tload ty .. => (p.1, some ty) | .tswap => (p.2, p.1) | _ => p) (k.act.fmt, k.shd.fmt)

/-- The A format fits the plane that will be active (R143). -/
def Core.fits (k : Core) (ty : Ty) : Bool := match k.planesAfter.1 with | some w => kbOf w == kbOf ty | none => false

def tmmOp (ty : Ty) (t : Nat) (va : Bool) (a b n row0 : Nat) : SlotOp where
  decode := tileDecode t
  names x := if va then (List.range n).map fun i => x.vReg (a + i) else [x.sReg a, x.sReg b]
  scores _ := [.tile t true]
  waits s := if va then [.matrix] else s.operandWaits ty a b n
  run s :=
    s.tileCheck t true true
      (let x := s.me
       let p := s.ptile t
       let go := fun kind => if s.myCore.fits ty then .ok (s.enqueue kind 0) else .error (3, none)
       if va then go (.tmmV ty p ((List.range n).map fun i => (x.readV (a + i), physV x.rrb (a + i))) n row0)
       else s.operandCheck ty a b n (go (.tmm ty p (s.rs a).val.toNat (s.rs b).val.toNat n row0)))

def execTmm (ty : Ty) (t : Nat) (va : Bool) (a b n row0 : Nat) (s : State) : Res' := runSlot 3 (tmmOp ty t va a b n row0) s

/-! ### Rows (R38, R149, R152, R161, R164) -/

/-- Rows of an operation. -/
def MKind.rows : MKind → Nat
  | .tmm _ _ _ _ n _ => n
  | .tmmV _ _ _ n _ => n
  | .tanchor .. => 64
  | _ => 0

/-- The operation whose next row enters next: the first in commit order with a row left; one that uses the planes waits for an earlier
`tswap` (R151, R161). -/
def nextEntry : List MOp → Option MOp
  | [] => none
  | o :: r =>
    match o.kind with
    | .tswap => (nextEntry r).bind fun q => if q.kind.usesPlanes then none else some q
    | k => if o.entered < k.rows then some o else nextEntry r

/-- First 64-byte line with a poisoned word in a range of scratchpad. -/
def Core.poisonLine (k : Core) (o n : Nat) : Option Nat :=
  ((List.range (n / 64 + 2)).map fun i => (o / 64 + i) * 64).find? fun l => decide (l < o + n) && k.spadPoisoned (Nat.max l o) (Nat.min (l + 64) (o + n) - Nat.max l o)

/-- The block elements of a row's bytes (R142). -/
def rowBlock (ty : Ty) (bs : List Byte) (m : Nat) : List Nat := blockElems ty (leNat ((bs.drop (m * ty.blockBytes)).take ty.blockBytes))

/-- The elements and the scale byte of block `m` of column `j` of a plane (R142). -/
def Plane.block (p : Plane) (ty : Ty) (j m : Nat) : List Nat × Nat :=
  (blockElems ty (readNat p.elems (j * cbOf ty + m * ty.blockBytes) ty.blockBytes), (p.scales.get 0 (j * kbOf ty + m)).toNat)

/-- The contributions of an A row against the active plane, column by column and block by block (R38). -/
def Plane.contributions (p : Plane) (ty : Ty) (bs scales : List Byte) : List (List (Option (Int × Int))) :=
  match p.fmt with
  | none => []
  | some w =>
    (List.range 64).map fun j => (List.range (kbOf ty)).map fun m =>
      let xa := ((scales[m]?).getD 0).toNat
      let (we, xw) := p.block w j m
      (blockSum ty xa (rowBlock ty bs m) w xw we).map fun sum => (sum, ty.unit + w.unit + ((xa : Int) - 127) + ((xw : Int) - 127))

/-- The poison of a row that enters: SRC, VR and LOC (R164); a POISONED plane comes first (log entry 10). -/
def rowPoison (p : Plane) (row : Option (Bool × Nat)) : Option (Nat × Bool × Nat) :=
  if p.st = .poisoned then some (2, false, p.loc) else row.map fun e => (1, e.1, e.2)

/-- The row of an operation that enters in this cycle. -/
def Core.rowOf (k : Core) (cycle : Nat) (o : MOp) : MRow :=
  let i := o.entered
  let r : MRow := { due := cycle + 9, op := o.id, tile := (o.kind.tile).getD 0, row := i, last := decide (i + 1 = o.kind.rows) }
  match o.kind with
  | .tanchor _ b => { r with anchor := some b }
  | .tmm ty _ a b _ row0 =>
    let ea := a + i * cbOf ty
    let sa := b + i * kbOf ty
    let po := match k.poisonLine ea (cbOf ty) with | some l => some l | none => k.poisonLine sa (kbOf ty)
    { r with
      row := row0 + i
      adds := k.act.contributions ty (k.spadRead cycle ea (cbOf ty)) (k.spadRead cycle sa (kbOf ty))
      poison := rowPoison k.act (po.map fun l => (false, l)) }
  | .tmmV ty _ rows _ row0 =>
    let (v, reg) := (rows[i]?).getD ({}, 0)
    let bs := leBytes 256 v.val.toNat
    { r with
      row := row0 + i
      adds := k.act.contributions ty (bs.take (cbOf ty)) (bs.drop 252)
      poison := rowPoison k.act (if v.poison then some (true, reg) else none) }
  | _ => r

def Core.updOp (k : Core) (id : Nat) (f : MOp → MOp) : Core := { k with mq := k.mq.map fun o => if o.id = id then f o else o }

def Core.dropOp (k : Core) (id : Nat) : Core := { k with mq := k.mq.filter fun o => decide (o.id ≠ id) }

/-- One row enters the matrix unit (R161). -/
def Core.enterRow (k : Core) (cycle : Nat) : Core :=
  match nextEntry k.mq with
  | some o =>
    { (k.updOp o.id fun o => { o with entered := o.entered + 1 }) with pipe := k.pipe ++ [k.rowOf cycle o], rowAt := cycle + 1 }
  | none => k

/-- A row can enter in this cycle. -/
def Core.canEnter (k : Core) (cycle : Nat) : Bool :=
  decide (k.rowAt ≤ cycle) && (match nextEntry k.mq with | some o => decide (o.at_ < cycle) | none => false)

def execTileRowEnter (c : Nat) (s : State) : Res' :=
  runEvent ((s.core c).canEnter s.cycle) (fun s => s.updCore c fun k => k.enterRow s.cycle) s

/-- An element after its contributions (R38): the element, INEXACT and OVF. -/
def Elem.contribute (anchor : Int) (e : Elem × Bool × Bool) (a : Option (Int × Int)) : Elem × Bool × Bool :=
  match a with
  | none => ({ e.1 with nan := true }, e.2)
  | some (sum, sh) =>
    let (c, ix) := alignSum sum (sh - anchor)
    let (v, ov) := acc96 e.1.acc c
    ({ e.1 with acc := v }, e.2.1 || ix, e.2.2 || ov)

/-- An element re-anchored by `d` (R149). -/
def Elem.shift (d : Int) (e : Elem) : Elem × Bool × Bool :=
  if 0 ≤ d then let (v, ov) := acc96 0 (e.acc * (2 ^ d.toNat : Nat)); ({ e with acc := v }, false, ov)
  else let (v, ix) := alignSum e.acc d; ({ e with acc := v }, ix, false)

/-- A tile row rewritten element by element. -/
def Tile.mapRow (v : Tile) (row : Nat) (f : Nat → Elem → Elem × Bool × Bool) : Tile :=
  (List.range 64).foldl (fun v j =>
    let (e, ix, ov) := f j (v.elems.get {} (64 * row + j))
    { v with elems := v.elems.put {} (64 * row + j) e, inexact := v.inexact || ix, ovf := v.ovf || ov }) v

/-- A row is applied to its tile. -/
def Tile.applyRow (v : Tile) (r : MRow) : Tile :=
  match r.anchor with
  | some b => v.mapRow r.row fun _ e => e.shift (v.anchor - b)
  | none => v.mapRow r.row fun j e => ((r.adds[j]?).getD []).foldl (Elem.contribute v.anchor) (e, false, false)

/-- An operation of the queue still uses the tile. -/
def Core.inFlight (k : Core) (p : Nat) : Bool := k.mq.any (fun o => decide (o.kind.tile = some p)) || ((k.tiles.get {} p).xcmd).isSome

/-- A tile whose last operation has ended becomes DRAINABLE (R159). -/
def Core.quieten (k : Core) (p : Nat) : Core :=
  let v := k.tiles.get {} p
  if decide (v.st = .accumulating) && !k.inFlight p then { k with tiles := k.tiles.put {} p { v with st := .drainable } } else k

/-- A context whose tiles the core frees (R147). -/
def Core.gone (k : Core) (x : Nat) : Bool :=
  let st := (k.ctx.get {} x).st
  decide (st = .done ∨ st = .cancelled ∨ st = .free)

/-- The tiles and planes of ended contexts become free once their operations have stopped (R147, R163). -/
def Core.freeEnded (k : Core) : Core :=
  let k : Core := { k with tiles := k.tiles.filter fun e => !(decide (e.2.st ≠ TState.free) && k.gone e.2.holder && !k.inFlight e.1) }
  match k.planeHolder with
  | some x => if k.gone x && !(k.mq.any fun o => o.kind.usesPlanes) then { k with planeHolder := none } else k
  | none => k

/-- The tile enters POISON at a row; every later operation on it applies nothing (R159, R164). -/
def Core.enterPoison (k : Core) (r : MRow) (src : Nat) (vr : Bool) (loc : Nat) : Core :=
  let v : Tile := { k.tiles.get {} r.tile with st := .poison, src := src, next := r.row, vr := vr, loc := loc }
  { k with
    tiles := k.tiles.put {} r.tile v
    mq := k.mq.filter fun o => !decide (o.kind.tile = some r.tile)
    pipe := k.pipe.filter fun q => !decide (q.tile = r.tile) }

/-- The last row of an operation completes it: OPS counts, and a `tanchor` sets the anchor (R149, R152). -/
def Core.finishOp (k : Core) (r : MRow) : Core :=
  if r.last then
    let v := k.tiles.get {} r.tile
    let v := { v with ops := (v.ops + 1) % 2 ^ 32, anchor := r.anchor.getD v.anchor }
    (({ k with tiles := k.tiles.put {} r.tile v } : Core).dropOp r.op).quieten r.tile
  else k.updOp r.op fun o => { o with applied := o.applied + 1 }

/-- The oldest row of the pipeline is applied (R152). -/
def Core.applyRow (k : Core) : Core :=
  match k.pipe with
  | [] => k
  | r :: rest =>
    let k := { k with pipe := rest }
    let k := match r.poison with
      | some (src, vr, loc) => k.enterPoison r src vr loc
      | none => ({ k with tiles := k.tiles.put {} r.tile ((k.tile r.tile).applyRow r) } : Core).finishOp r
    k.freeEnded

def Core.canApply (k : Core) (cycle : Nat) : Bool := match k.pipe with | r :: _ => decide (r.due ≤ cycle) | [] => false

/-- The multiplications of a row: 64 columns by 64 elements for each block of a column (R152). -/
def MRow.macs (r : MRow) : Nat := 4096 * (r.adds.headD []).length

/-- The oldest row counts in the matrix work of the task that holds its tile (R378); a poisoned row is not applied. -/
def State.countRow (s : State) (c : Nat) : State :=
  match (s.core c).pipe with
  | [] => s
  | r :: _ =>
    match s.tasks.find? fun e => e.2.any fun t => decide (t.core = c ∧ !t.saved ∧ !t.freed) && t.tiles.contains r.tile with
    | some e => if r.poison.isSome then s else s.updTask e.1 fun t => { t with cw1 := satAdd 64 t.cw1 r.macs }
    | none => s

def execTileRowApply (c : Nat) (s : State) : Res' :=
  runEvent ((s.core c).canApply s.cycle) (fun s => (s.countRow c).updCore c Core.applyRow) s

/-! ### Planes (R150, R151) -/

/-- The `tload` that can complete: the first, with no `tswap` before it. -/
def readyLoad : List MOp → Option MOp
  | [] => none
  | o :: r => match o.kind with | .tload .. => some o | .tswap => none | _ => readyLoad r

/-- Bytes as a sparse map from key 0. -/
def mapOfBytes (l : List Byte) : SMap Byte := ((List.range l.length).zip l).filter fun e => e.2 != 0

/-- The plane that a `tload` reads (R142, R164). -/
def Core.planeRead (k : Core) (cycle : Nat) (ty : Ty) (a b : Nat) : Plane :=
  let ne := 64 * cbOf ty
  let ns := 64 * kbOf ty
  let po := match k.poisonLine a ne with | some l => some l | none => k.poisonLine b ns
  { st := if po.isSome then .poisoned else .loaded
    fmt := some ty
    elems := mapOfBytes (k.spadRead cycle a ne)
    scales := mapOfBytes (k.spadRead cycle b ns)
    loc := po.getD 0 }

def Core.completeLoad (k : Core) (cycle : Nat) : Core :=
  match readyLoad k.mq with
  | some o =>
    match o.kind with
    | .tload ty a b => (({ k with shd := k.planeRead cycle ty a b } : Core).dropOp o.id).freeEnded
    | _ => k
  | none => k

def Core.canLoad (k : Core) (cycle : Nat) : Bool := match readyLoad k.mq with | some o => decide (o.due ≤ cycle) | none => false

def execTloadComplete (c : Nat) (s : State) : Res' :=
  runEvent ((s.core c).canLoad s.cycle) (fun s => s.updCore c fun k => k.completeLoad s.cycle) s

/-- The `tswap` that can take effect: no earlier `tload`, and every earlier `tmm` has read its last row (R151). -/
def readySwap : List MOp → Option MOp
  | [] => none
  | o :: r =>
    match o.kind with
    | .tswap => some o
    | .tload .. => none
    | .tanchor .. => readySwap r
    | k => if o.entered < k.rows then none else readySwap r

/-- The `tload`s up to the next `tswap`, which waited for the swap, take their cycles one after the other from cycle `t` on (R150, R151). -/
def restartLoads (t : Nat) : List MOp → List MOp
  | [] => []
  | o :: r =>
    match o.kind with
    | .tload ty .. => let d := Nat.max o.due (t + tloadCycles ty); { o with due := d } :: restartLoads d r
    | .tswap => o :: r
    | _ => o :: restartLoads t r

def Core.swapPlanes (k : Core) (cycle : Nat) : Core :=
  match readySwap k.mq with
  | some o =>
    let k := k.dropOp o.id
    ({ k with act := k.shd, shd := k.act, mq := restartLoads cycle k.mq } : Core).freeEnded
  | none => k

def execTswapTakeEffect (c : Nat) (s : State) : Res' :=
  runEvent (readySwap (s.core c).mq).isSome (fun s => s.updCore c fun k => k.swapPlanes s.cycle) s

/-! ### Stopping a holder's operations (R163) -/

/-- Operations of a context that have not started are dropped; those that have started go on. R163 names only `tmm` and `tanchor`: a `tload`
that has begun also completes (log entry 48). -/
def Core.stopOps (k : Core) (x : Nat) : Core :=
  let started := fun (o : MOp) => match o.kind with
    | .tload .. => decide ((readyLoad k.mq).map (·.id) = some o.id)
    | .tswap => false
    | _ => decide (0 < o.entered)
  let k' := { k with mq := k.mq.filter fun o => decide (o.ctx ≠ x) || started o }
  (List.range 8).foldl (fun k p => k.quieten p) k'

end Sys2Proof.Machine
end

