-- ==== Sys2Proof/Machine/Queue.lean ====
section
/-! DEFINITION. Command queues and semaphores (R230 to R242, R250): the push, the semaphore instructions, the sweep of the semaphore unit,
the start conditions of a command, its status record and its signal. -/

namespace Sys2Proof.Machine

/-! ### Commands and queues (R230, R233) -/

def Cmd.kind (m : Cmd) : Nat := getField m.w0 61 3
def Cmd.sta (m : Cmd) : Nat := getField m.w0 41 20
def Cmd.sig (m : Cmd) : Nat := getField m.w0 33 8
def Cmd.inc (m : Cmd) : Nat := getField m.w0 25 8
def Cmd.wait (m : Cmd) : Nat := getField m.w0 17 8
def Cmd.thr (m : Cmd) : Nat := getField m.w0 1 16
def Cmd.dec (m : Cmd) : Bool := m.w0.getLsbD 0

/-- Entries of a queue (R230). -/
def queueDepth (q : Nat) : Nat := if q < 4 then 32 else 16

/-- The kind of command a queue accepts (R230). -/
def queueKind (q : Nat) : Nat := if q < 4 then 0 else if q < 6 then 1 else q - 4

def Core.queue (k : Core) (q : Nat) : Queue := k.queues.get {} q

def Core.updQueue (k : Core) (q : Nat) (f : Queue → Queue) : Core := { k with queues := k.queues.put {} q (f (k.queue q)) }

/-- Change one command of a queue. -/
def Core.updCmd (k : Core) (q id : Nat) (f : Cmd → Cmd) : Core :=
  k.updQueue q fun u => { u with cmds := u.cmds.map fun m => if m.id = id then f m else m }

def Core.cmd (k : Core) (q id : Nat) : Option Cmd := (k.queue q).cmds.find? fun m => decide (m.id = id)

def State.updCmd (s : State) (c q id : Nat) (f : Cmd → Cmd) : State := s.updCore c fun k => k.updCmd q id f

/-- The first unstarted command of a queue (R231). -/
def Core.head (k : Core) (q : Nat) : Option Cmd := (k.queue q).cmds.find? fun m => decide (m.st = 0)

/-- The command of a queue whose wait is armed or may be: the first that has not started; one that a save has interrupted has started
(R238, R242). -/
def Core.waiter (k : Core) (q : Nat) : Option Cmd := (k.queue q).cmds.find? fun m => decide (m.st = 0) && !m.again

/-- Commands of a queue that have started and not ended. -/
def Core.running (k : Core) (q : Nat) : List Cmd := (k.queue q).cmds.filter fun m => decide (m.st = 1)

/-- The agent that a queue's engine is (R204, R446). -/
def queueAgent (c q : Nat) : Agent :=
  if q < 4 then .channel c q else if q < 6 then .sequencer c (q - 4) else if q = 6 then .vaultExec c 1 else .notify c

/-- The wait of a queue's first unstarted command is armed (R238). -/
def Core.armQueue (k : Core) (q cycle : Nat) : Core :=
  match k.waiter q with
  | some m =>
    if m.thr = 0 ∨ m.granted ∨ k.armed.any (fun a => a.que && a.who == q) then k
    else { k with armed := armIn k.armed ⟨true, q, m.dec, m.wait, m.thr, cycle⟩ }
  | none => k

/-! ### The start of a command (R231, R234, R238, R251, R281) -/

/-- The arrays that a crossbar command takes: its own and, for XBMVM, its partner's while they are paired (R281). -/
def Cmd.xop (m : Cmd) : Nat := getField m.w1 61 3
def Cmd.xarr (m : Cmd) : Nat := getField m.w1 56 5

/-- Array `a` is a member of a pair (R279, R298). -/
def Core.paired (k : Core) (a : Nat) : Bool := (k.xb.get {} (a / 2 * 2)).pair

/-- The other array of a pair. -/
def partner (a : Nat) : Nat := if a % 2 = 0 then a + 1 else a - 1

def Core.arraysOf (k : Core) (m : Cmd) : List Nat :=
  if m.xop = 4 ∧ k.paired m.xarr then [m.xarr, partner m.xarr] else [m.xarr]

/-- A crossbar command that started on array `a` and still holds it: it ends with its signal (R236, R281). An XBMVM is on the array that
serves it (R290). -/
def Cmd.onArray (m : Cmd) (a : Nat) : Bool := decide (m.st ≠ 0 ∧ m.arr = a)

/-- A command has started and not ended on array `a` (R281, R295 to R300). -/
def Core.arrayBusy (k : Core) (a : Nat) : Bool := [4, 5].any fun q => (k.queue q).cmds.any fun m => m.onArray a

/-- No command has started and not ended on array `a`, from the start of the cycle (R292, R295). -/
def Core.arrayFree (k : Core) (a cycle : Nat) : Bool := !k.arrayBusy a && decide ((k.xb.get {} a).freed ≤ cycle)

/-- A swap or a retirement that concerns array `a` waits to take effect (R281, R295). -/
def Core.arrayPending (k : Core) (a : Nat) : Bool :=
  let x := k.xb.get {} a
  x.retPend || x.swapPend || (k.paired a && (k.xb.get {} (partner a)).swapPend)

/-- What a command needs beside its semaphore: its handles, the releases it is held for, and room in its engine (R231, R251, R255, R281,
R355). -/
def Core.canStart (k : Core) (q cycle : Nat) (m : Cmd) : Bool :=
  !m.hold && m.waits.isEmpty && m.heldFor.isEmpty &&
    (if q < 4 then decide ((k.running q).length < 8)
     else if q < 6 then (k.arraysOf m).all (fun a => k.arrayFree a cycle && !k.arrayPending a)
     else true)

/-- The effect of a granted wait on its command: it starts, its checks still to be made (R234), a crossbar command so many cycles later
(R292). -/
def Cmd.granting (m : Cmd) (q cycle : Nat) : Cmd :=
  if 4 ≤ q ∧ q < 6 then { m with granted := true, taken := some cycle }
  else { m with granted := true, st := 1, unchecked := true, startAt := cycle }

/-- One armed wait against its semaphore (R238, R239): granted, it leaves the list and takes its decrement. The start of a command puts the
next one of its queue first among the unstarted ones. -/
def Core.grantOne (k : Core) (cycle : Nat) (a : Armed) : Core :=
  let less := if a.dec then a.thr else 0
  if k.sem a.idx < a.thr then k
  else if a.que then
    match (k.head a.who).filter fun m => !m.again && k.canStart a.who cycle m with
    | some m =>
      let k := (k.setSem a.idx (k.sem a.idx - less)).updCmd a.who m.id fun m => { m.granting a.who cycle with armedAt := a.at_ }
      ({ k with armed := k.armed.filter fun b => decide (b ≠ a) } : Core).armQueue a.who cycle
    | none => k
  else
    let k := k.setSem a.idx (k.sem a.idx - less)
    { k with
      armed := k.armed.filter fun b => decide (b ≠ a)
      ctx := k.ctx.put {} a.who { k.ctx.get {} a.who with resv := some (a.idx, less) } }

/-- The head of a crossbar stream whose wait, if it has one, is granted: the sequencer notes the cycle in which the last of its other
conditions comes to hold, and forgets it when one ceases to (R281, R292). -/
def Core.takeFree (k : Core) (cycle q : Nat) : Core :=
  match k.head q with
  | some m =>
    if m.thr ≠ 0 ∧ !m.granted then k
    else k.updCmd q m.id fun n => { n with taken := if k.canStart q cycle m then some (m.taken.getD cycle) else none }
  | none => k

/-- The sweep of the semaphore unit: the armed waits, oldest first (R238). A frozen context's wait is not granted (R334). -/
def Core.sweep (k : Core) (cycle : Nat) : Core :=
  let l := k.armed.filter fun a => a.que || (decide ((k.ctx.get {} a.who).st ≠ .frozen) && !(k.ctx.get {} a.who).held)
  let k := l.foldl (fun k a => k.grantOne cycle a) k
  let k := [4, 5].foldl (fun k q => k.takeFree cycle q) k
  { k with swept := true }

def execSemaphoreGrant (c : Nat) (s : State) : Res' := runEvent (!(s.core c).swept) (fun s => s.updCore c fun k => k.sweep s.cycle) s

/-- The command whose start checks fall due: one that its granted wait has started, else the first unstarted one, which has no wait. None
starts in the cycle of its push, whose local writes it sees (R198, R231, R234). A crossbar command starts at its time, if its conditions
still hold (R281, R292). -/
def Core.starts (k : Core) (q cycle : Nat) : Option Cmd :=
  if 4 ≤ q ∧ q < 6 then
    (k.head q).filter fun m => k.canStart q cycle m && m.taken.any fun t => decide ((if t = m.pushed then t + 4 else t + 2) ≤ cycle)
  else
    match (k.running q).find? (·.unchecked) with
    | some m => if m.pushed < cycle then some m else none
    | none => (k.head q).filter fun m => decide (m.thr = 0 ∧ m.pushed < cycle) && k.canStart q cycle m

/-- A command starts: it is under way, and the next one of its queue may be armed. -/
def State.startCmd (s : State) (c q : Nat) (m : Cmd) (f : Cmd → Cmd) : State :=
  s.updCore c fun k =>
    (k.updCmd q m.id fun m =>
      f { m with st := 1, unchecked := false, startAt := if m.unchecked then m.startAt else s.cycle, tAt := s.now, items := 0 }).armQueue q s.cycle

/-- A command reaches its terminal status (R236). -/
def Core.endCmd (k : Core) (q id status detail prog : Nat) : Core :=
  let k := k.updCmd q id fun m => { m with st := 2, unchecked := false, batch := none, status := status, detail := detail, prog := prog }
  k.updQueue q fun u => { u with last := status }

/-- A command fails its start checks with a cause (R256, R283, R413). -/
def State.failStart (s : State) (c q : Nat) (m : Cmd) (cause prog : Nat) : State :=
  s.updCore c fun k => (k.endCmd q m.id 1 cause prog).armQueue q s.cycle

/-! ### The status record and the signal (R235, R236) -/

/-- The status record (R235); SSAT is decided at the end of the cycle. -/
def Cmd.record (m : Cmd) (ssat : Bool) : Word :=
  wordOf (m.status % 256 * 2 ^ 56 + boolNat ssat * 2 ^ 55 + m.detail % 128 * 2 ^ 48 + m.prog % 2 ^ 48)

/-- The engine port takes the record in this cycle (R168, R235). A crossbar command's comes in the cycle after its last write (R292). -/
def Core.recordDue (k : Core) (q cycle : Nat) (m : Cmd) : Bool :=
  (m.sta == 0 || k.portFree cycle (m.sta * 8) 8) && (!(4 ≤ q && q < 6) || m.lastAt == 0 || decide (m.lastAt < cycle))

/-- The record performs (R235). -/
def State.putRecord (s : State) (c q : Nat) (m : Cmd) : State :=
  let s := if m.sta = 0 then s else s.spadStore c (m.sta * 8) ((leBytes 8 (m.record false).toNat).map some) (queueAgent c q)
  s.updCmd c q m.id fun m => { m with st := 3, endAt := s.cycle }

/-- The array of a started crossbar command is free from the cycle after its signal (R292, R295). -/
def Core.freeArray (k : Core) (m : Cmd) (cycle : Nat) : Core :=
  if m.onArray m.arr then { k with xb := k.xb.put {} m.arr { k.xb.get {} m.arr with freed := cycle + 1 } } else k

/-- The signal is applied and the entry is freed (R236). -/
def State.signal (s : State) (c q : Nat) (m : Cmd) : State :=
  s.updCore c fun k =>
    let k := if m.inc = 0 then k else k.semAdd m.sig m.inc
    (k.freeArray m s.cycle).updQueue q fun u => { u with cmds := u.cmds.filter fun n => decide (n.id ≠ m.id) }

/-- SSAT of the records of this cycle: bit 55 at the value the semaphore holds after every action of the cycle (R236). -/
def Core.decideSsat (k : Core) (cycle : Nat) : Core :=
  (List.range 8).foldl (fun k q =>
    ((k.queue q).cmds.filter fun m => decide (m.st = 3 ∧ m.endAt = cycle ∧ m.sta ≠ 0 ∧ m.inc ≠ 0)).foldl
      (fun k m =>
        if 2 ^ 32 - 1 < k.sem m.sig + m.inc then
          k.spadWrite cycle (queueAgent 0 q).prio (m.sta * 8) ((leBytes 8 (m.record true).toNat).map some)
        else k) k) k

/-- The `semget` of the cycle reads its semaphore after every action of the cycle (R240). -/
def Core.decideSget (k : Core) : Core :=
  match k.sget with
  | none => k
  | some (x, step, r, n) =>
    let v := wordOf (k.sem n)
    let f := fun (e : Res) => if e.reg = r ∧ e.seq = step ∧ e.slot = 7 then { e with val := .w v } else e
    let y := k.ctx.get {} x
    { k with sget := none
             ctx := k.ctx.put {} x { y with inflight := y.inflight.map f, snap := y.snap.map f, snapT := y.snapT.map f } }

/-- The end of a cycle at the semaphore unit: the sweep, if it has not been made, and the values that the cycle fixes (R238, R236, R240). -/
def Core.semTick (k : Core) (cycle : Nat) : Core :=
  let k := if k.swept then k else k.sweep cycle
  { (k.decideSsat cycle).decideSget with swept := false }

/-! ### Discarded and cancelled commands (R236, R270, R293) -/

/-- The decrement of a granted command that has not started returns (R236). -/
def Core.ungrant (k : Core) (m : Cmd) : Core :=
  if m.granted ∧ !m.again ∧ m.dec ∧ m.thr ≠ 0 then k.semAdd m.wait m.thr else k

/-- A wait armed anew at the place that its cycle gives it. -/
def armBack : List Armed → Armed → List Armed
  | [], a => [a]
  | b :: r, a => if a.at_ < b.at_ ∨ (a.at_ = b.at_ ∧ a.key < b.key) then a :: b :: r else b :: armBack r a

/-- A command that has not started is saved with its wait: the decrement of a granted one returns, and its wait stands armed again where it
stood (R241). -/
def Core.rearm (k : Core) (q : Nat) (m : Cmd) : Core :=
  if m.st = 0 ∧ m.granted ∧ !m.again then
    let k := k.ungrant m
    { k with armed := armBack k.armed ⟨true, q, m.dec, m.wait, m.thr, m.armedAt⟩ }
  else k

/-- A discarded command gives up the tile that it holds in flight: nothing has been delivered to it (R160, R163). -/
def Core.untile (k : Core) (id : Nat) : Core :=
  match k.tiles.find? fun e => decide (e.2.xcmd = some id) with
  | some (p, v) => Core.quieten { k with tiles := k.tiles.put {} p { v with xcmd := none } } p
  | none => k

/-- The queued commands of a context are discarded with CANCELLED (R236). -/
def Core.discardQueued (k : Core) (x cycle : Nat) : Core :=
  (List.range 8).foldl (fun k q =>
    let l := (k.queue q).cmds.filter fun m => decide (m.ctx = x ∧ m.st = 0)
    let k := { k with armed := k.armed.filter fun a => !(a.que && a.who == q && (k.head q).any fun (m : Cmd) => m.ctx == x) }
    (l.foldl (fun k m => ((k.ungrant m).untile m.id).endCmd q m.id 2 0 0) k).armQueue q cycle) k

/-- The commands of a cancelled context: the queued ones are discarded, started copies and crossbar commands stop (R236, R270, R293). -/
def Core.discard (k : Core) (x cycle : Nat) : Core :=
  (List.range 6).foldl (fun k q =>
    k.updQueue q fun u => { u with cmds := u.cmds.map fun (m : Cmd) => if m.ctx = x ∧ m.st = 1 then { m with stopping := true } else m })
    (k.discardQueued x cycle)

/-! ### push (R232 to R234, R255) -/

/-- The handle registers that a command uses (R255, R282, R413). -/
def cmdHandles (q : Nat) (w1 w2 w3 : Word) : List Nat :=
  match queueKind q with
  | 0 =>
    let sh := getField w1 60 4
    let nh := if w3.getLsbD 62 then getField w1 38 4 else 0
    let src := if w1.getLsbD 59 then [] else ((List.range (nh + 1)).map (sh + ·)).filter (· < 16)
    src ++ (if w2.getLsbD 59 then [] else [getField w2 60 4])
  | 1 => if w1.getLsbD 51 || getField w1 61 3 == 2 || getField w1 61 3 == 3 then [] else [getField w1 52 4]
  | 2 =>
    let nx := getField w1 58 2
    [getField w1 60 4, getField w2 60 4] ++ (if 1 ≤ nx then [getField w1 54 4] else []) ++
      (if 2 ≤ nx then [getField w1 50 4] else [])
  | _ => []

/-- An index lies in the `sems` range of the issuing context's task (R237). -/
def State.semOk (s : State) (n : Nat) : Bool :=
  match s.myTask with | some t => decide (t.img.semLo ≤ n ∧ n ≤ t.img.semHi) | none => false

/-- The queue is in the task's mask (R230). -/
def State.queueOk (s : State) (q : Nat) : Bool := match s.myTask with | some t => t.img.queues.testBit q | none => false

/-- The header is accepted (R233, R234). -/
def State.headerOk (s : State) (q : Nat) (m : Cmd) : Bool :=
  decide (m.kind = queueKind q) && (m.sta == 0 || s.spadRangeOk (m.sta * 8) 8) && (m.inc == 0 || s.semOk m.sig) &&
    (m.thr == 0 || s.semOk m.wait)

/-- The command as `push` takes it, with its snapshots (R255). -/
def State.newCmd (s : State) (q a : Nat) : Cmd :=
  let x := s.me
  let w := fun i => (s.rs (a + i)).val
  let hs := cmdHandles q (w 1) (w 2) (w 3)
  let pend := hs.flatMap fun h => x.pend.filterMap fun e => if e.1 = .h h ∧ e.2 < x.step then some (h, e.2) else none
  { id := s.ids, ctx := s.iss.ctx, task := x.task.getD 0, w0 := w 0, w1 := w 1, w2 := w 2, w3 := w 3
    snaps := hs.foldl (fun m h => m.insert h (x.readH h)) []
    waits := pend
    step := x.step
    pushed := s.cycle
    heldFor := if queueKind q = 0 ∧ (w 2).getLsbD 51 then x.holds else [] }

/-- Logical tile that a crossbar command names (R289). -/
def Cmd.tile (m : Cmd) : Option Nat := if m.kind = 1 ∧ m.xop = 4 ∧ m.w2.getLsbD 63 then some (getField m.w2 60 3) else none

/-- The tests of R160 at the push of a crossbar command that names a tile: one that passes holds the tile in flight, ACCUMULATING. So does
one whose tile is in POISON or FAULTED, for which R159 has no row; and a command that failed the tests and has not ended does not count as
another command in flight on the tile (log entry 48). -/
def State.holdTile (s : State) (q : Nat) (m : Cmd) : State :=
  match m.tile with
  | none => s
  | some t =>
    match s.physTile s.iss.core s.iss.ctx t with
    | none => s
    | some _ =>
      let v := s.tileAt t
      if s.holdsTile t && v.xcmd.isNone then
        let v := { v with xcmd := some m.id, st := .accumulating }
        (s.putTile t v).updCmd s.iss.core q m.id fun m => { m with tileOk := true }
      else s

/-- The queue takes the command. -/
def State.enqueueCmd (s : State) (q : Nat) (m : Cmd) : State :=
  let s := ({ s with ids := s.ids + 1 } : State).updMyCore fun k =>
    (k.updQueue q fun u => { u with cmds := u.cmds ++ [m] }).armQueue q s.cycle
  s.holdTile q m

def pushOp (q a pd : Nat) : SlotOp where
  names x := [x.sReg a, x.sReg (a + 1), x.sReg (a + 2), x.sReg (a + 3), x.pReg pd]
  waits _ := [.acquire]
  run s :=
    if !s.queueOk q then .error (0x31, none)
    else if (List.range 4).any fun i => (s.rs (a + i)).poison then poisonFault
    else
      let m := s.newCmd q a
      if !s.headerOk q m then .error (3, some m.w0)
      else
        let free := decide ((s.myCore.queue q).cmds.length < queueDepth q)
        .ok ((if free then s.enqueueCmd q m else s).emitP pd free).cancelPoint

def execPush (q a pd : Nat) (s : State) : Res' := runSlot 6 (pushOp q a pd) s

/-! ### Semaphore instructions (R238 to R240) -/

/-- Decode check of a semaphore index (R237). -/
def semDecode (n : Nat) (s : State) : Option Nat := if s.semOk n then none else some 3

/-- The holds of an order qualifier on a semaphore operation (R196, R198): only a release waits. -/
def semWaits (ord : MemOrd) : List Wait := waitsIf (ordRel ord) [.earlier false]

def semwaitOp (n thr : Nat) (ord : MemOrd) (dec : Bool) : SlotOp where
  decode := semDecode n
  waits _ := .sem n thr dec :: semWaits ord
  run s :=
    if s.me.resv.isSome ∨ !dec then .ok s else .ok (s.updMyCore fun k => k.setSem n (k.sem n - thr))

def execSemwait (n thr : Nat) (ord : MemOrd) (dec : Bool) (s : State) : Res' := runSlot 7 (semwaitOp n thr ord dec) s

def execSemsig (n inc : Nat) (ord : MemOrd) (s : State) : Res' :=
  runSlot 7
    { decode := semDecode n
      waits := fun _ => semWaits ord
      run := fun s =>
        let sat := decide (2 ^ 32 - 1 < s.myCore.sem n + inc)
        .ok ((s.updMyCore fun k => k.semAdd n inc).emitFlags (flagIf sat isat)) } s

def execSemset (n a : Nat) (ord : MemOrd) (s : State) : Res' :=
  runSlot 7
    { decode := semDecode n
      names := fun x => [x.sReg a]
      waits := fun _ => semWaits ord
      run := fun s =>
        let v := s.rs a
        if v.poison then poisonFault else .ok (s.updMyCore fun k => k.setSem n (getField v.val 0 32)) } s

/-- `semget` notes the register and the index; its value is fixed at the end of the cycle (R240). -/
def execSemget (n a : Nat) (_ord : MemOrd) (s : State) : Res' :=
  runSlot 7
    { decode := semDecode n
      names := fun x => [x.sReg a]
      run := fun s =>
        let r := s.me.sReg a
        .ok ((s.emitS a (wordOf (s.myCore.sem n)) 3).updMyCore fun k => { k with sget := some (s.iss.ctx, s.me.step, r, n) }) } s

def execSemtry (n thr pd : Nat) (ord : MemOrd) (dec : Bool) (s : State) : Res' :=
  runSlot 7
    { decode := semDecode n
      names := fun x => [x.pReg pd]
      waits := fun _ => semWaits ord
      run := fun s =>
        let ok := decide (thr ≤ s.myCore.sem n)
        let t := if ok && dec then s.updMyCore fun k => k.setSem n (k.sem n - thr) else s
        .ok (t.emitP pd ok) } s

/-- The word of `qlevel` (R240). -/
def Core.qlevel (k : Core) (q : Nat) : Word :=
  let u := k.queue q
  let n := fun st => (u.cmds.filter fun m => decide (m.st = st)).length
  wordOf (u.last % 256 * 2 ^ 32 + queueDepth q * 2 ^ 24 + n 1 * 2 ^ 16 + n 0 * 2 ^ 8 + (queueDepth q - u.cmds.length))

def execQlevel (n min a pd : Nat) (s : State) : Res' :=
  runSlot 7
    { names := fun x => [x.sReg a, x.pReg pd]
      run := fun s =>
        if !s.queueOk n then .error (0x31, none)
        else
          let free := queueDepth n - (s.myCore.queue n).cmds.length
          .ok ((s.emitS a (s.myCore.qlevel n) 3).emitP pd (decide (min ≤ free))) } s

end Sys2Proof.Machine
end

