-- ==== Sys2Proof/Machine/Copy.lean ====
section
/-! DEFINITION. Copy channels (R251 to R273, R448 to R450): the command, its start checks, one item, its end, watermarks and the
instructions that declare and read them. -/

namespace Sys2Proof.Machine

/-! ### The command (R252 to R254) -/

/-- The rounding mode of a code (R57). -/
def rndOf (n : Nat) : Rnd := (mdOf n).getD .rne

/-- The fields of a copy command. -/
structure Copy where
  sh : Nat
  ssp : Bool
  aux : Nat
  nh : Nat
  soff : Nat
  dh : Nat
  dsp : Bool
  dcore : Nat
  st : Bool
  shape : Nat
  doff : Nat
  gather : Bool
  kvmap : Bool
  absent : Bool
  expand : Bool
  compress : Bool
  convert : Bool
  transpose : Bool
  scatter : Bool
  wm : Bool
  sty : Nat
  dty : Nat
  md : Nat
  start : Nat
  count : Nat
  /-- every bit that must be zero is zero -/
  mbz : Bool
  deriving DecidableEq, Repr

def Cmd.copy (m : Cmd) : Copy :=
  let f := fun (w : Word) lo n => getField w lo n
  let b := fun (w : Word) i => w.getLsbD i
  { sh := f m.w1 60 4, ssp := b m.w1 59, aux := f m.w1 42 17 * 64, nh := f m.w1 38 4, soff := f m.w1 0 33
    dh := f m.w2 60 4, dsp := b m.w2 59, dcore := f m.w2 52 7, st := b m.w2 51, shape := f m.w2 35 16, doff := f m.w2 0 33
    gather := b m.w3 63, kvmap := b m.w3 62, absent := b m.w3 61, expand := b m.w3 60, compress := b m.w3 59, convert := b m.w3 58
    transpose := b m.w3 57, scatter := b m.w3 56, wm := b m.w3 55, sty := f m.w3 51 4, dty := f m.w3 47 4, md := f m.w3 45 2
    start := f m.w3 22 22, count := f m.w3 0 22
    mbz := f m.w1 33 5 == 0 && f m.w2 33 2 == 0 && !b m.w3 44 }

/-- Width of an element in bits (R254, R448). -/
def tyBits (n : Nat) : Nat := match tyOf n with | some t => t.bits | none => 8

def Copy.sbits (p : Copy) : Nat := tyBits p.sty
def Copy.dbits (p : Copy) : Nat := tyBits p.dty

/-- Elements a row (R265). -/
def Copy.g (p : Copy) : Nat := if p.shape = 0 then 1 else p.shape

/-- Some stage is set (R260). -/
def Copy.staged (p : Copy) : Bool :=
  p.gather || p.kvmap || p.absent || p.expand || p.compress || p.convert || p.transpose || p.scatter

def Copy.subByte (p : Copy) : Bool := p.sbits % 8 != 0 || p.dbits % 8 != 0

/-- The stage combinations of R257. -/
def Copy.stagesOk (p : Copy) : Bool :=
  (!p.kvmap || p.gather) && (!p.absent || p.kvmap) && !(p.expand && p.compress) &&
    !(p.gather && (p.scatter || p.expand || p.compress || p.transpose)) &&
    (!p.transpose || (!p.expand && !p.compress && !p.scatter && p.shape != 0 && p.count % p.shape == 0)) &&
    (!p.scatter || (!p.compress && decide (p.shape ≤ 1) &&
      (p.dty == 0 || p.dty == 1 || p.dty == 2 || p.dty == 3 || p.dty == 7))) &&
    !(p.kvmap && p.ssp) &&
    (!p.subByte || (p.convert && !p.gather && !p.expand && !p.compress && !p.transpose && !p.scatter))

/-- The types and the rounding mode (R254, R257, R448). -/
def Copy.typesOk (p : Copy) : Bool :=
  match tyOf p.sty, tyOf p.dty with
  | some a, some b =>
    (if p.convert then Sys2Proof.cvtPair a b else decide (p.sty ≤ 7 ∧ p.dty = p.sty)) && (p.convert || p.scatter || p.md == 0) &&
      (!p.subByte || (p.count * p.sbits % 8 == 0 && p.count * p.dbits % 8 == 0 && p.start * p.sbits % 8 == 0 && p.start * p.dbits % 8 == 0))
  | _, _ => false

/-- Fields that must be zero where their use is absent (R252, R253). -/
def Copy.fieldsOk (p : Copy) : Bool :=
  p.mbz && (!p.ssp || p.sh == 0) && (p.gather || p.scatter || p.aux == 0) &&
    (if p.kvmap then decide (p.sh + p.nh ≤ 15) else p.nh == 0) && (if p.dsp then p.dh == 0 else p.dcore == 0) &&
    (p.gather || p.scatter || p.transpose || p.shape == 0)

/-- The KV descriptor words are accepted (R266, R450). -/
def kvOk (w : List Nat) : Bool :=
  match w with
  | [w0, w1, w2, w3, w4, w5, w6, w7] =>
    bitsOf 32 32 w0 != 0 && bitsOf 0 32 w1 != 0 && bitsOf 32 32 w1 == 0 && bitsOf 0 23 w2 % 4 == 0 && bitsOf 23 41 w2 == 0 &&
      bitsOf 1 31 w3 == 0 && w4 == 0 && w5 == 0 && w6 == 0 && w7 == 0
  | _ => false

/-- The task of a command. -/
def State.cmdTask (s : State) (m : Cmd) : Option Task := s.tasks.get none m.task

/-- A scratchpad byte is below 8 MiB and in a bank that the command's task declares (R168). -/
def State.cmdByteOk (s : State) (m : Cmd) (o : Nat) : Bool :=
  decide (o < 2 ^ 23) && (match s.cmdTask m with | some t => t.img.banks.testBit (bitsOf 21 2 o) | none => false)

/-- A scratchpad range of a command is allowed. -/
def State.cmdRangeOk (s : State) (m : Cmd) (o n : Nat) : Bool :=
  n == 0 || (s.cmdByteOk m o && s.cmdByteOk m (o + n - 1) &&
    (List.range 4).all fun b => !decide (o / 2 ^ 21 < b ∧ b < (o + n - 1) / 2 ^ 21) || s.cmdByteOk m (b * 2 ^ 21))

/-- The words of the KV descriptor as the channel reads them (R450). -/
def State.kvWords (s : State) (c : Nat) (p : Copy) : List Nat :=
  (List.range 8).map fun i => leNat ((s.core c).spadRead s.cycle (p.aux + 8 * i) 8)

/-- Registers of the source snapshots. -/
def Copy.sources (p : Copy) : List Nat := if p.ssp then [] else (List.range (if p.kvmap then p.nh + 1 else 1)).map (p.sh + ·)

def Cmd.snap (m : Cmd) (h : Nat) : Handle := m.snaps.get {} h

/-- A part of a KV source that is absent or lost (R267). -/
def Handle.absent (h : Handle) : Bool := !h.valid || h.lost

/-! ### Extents (R259) -/

def Copy.srcBytes (p : Copy) : Nat := p.count * p.sbits / 8

def Copy.dstBytes (p : Copy) : Nat :=
  if p.gather then p.count * p.g * p.dbits / 8
  else if p.compress then ceilDiv p.count 64 * (8 + 64 * p.dbits / 8)
  else p.count * p.dbits / 8

/-- The source extent is known at the start. -/
def Copy.srcKnown (p : Copy) : Bool := !p.expand && !p.gather

/-- A place of bytes: a scratchpad by core, or device memory. -/
structure Span where
  core : Option Nat
  lo : Nat
  n : Nat
  deriving DecidableEq, Repr

def Span.meets (a b : Span) : Bool := decide (a.core = b.core) && rangesMeet a.lo (a.lo + a.n) b.lo (b.lo + b.n)

/-- Bytes at an offset of the source, by location; `h` is the handle register. -/
def Cmd.srcSpan (m : Cmd) (c h off n : Nat) : Span :=
  if m.copy.ssp then ⟨some c, off, n⟩ else ⟨none, (m.snap h).frame + off, n⟩

def Cmd.dstSpan (m : Cmd) (off n : Nat) : Span :=
  if m.copy.dsp then ⟨some m.copy.dcore, off, n⟩ else ⟨none, (m.snap m.copy.dh).frame + off, n⟩

/-! ### Start checks (R256) -/

def orElse (a b : Option Nat) : Option Nat := match a with | some x => some x | none => b
def failIf (c : Bool) (n : Nat) : Option Nat := if c then some n else none

/-- A core has a task of the command's launch (R256 order 7). -/
def State.launchHas (s : State) (m : Cmd) (core : Nat) : Bool :=
  match s.cmdTask m with
  | some t => s.tasks.any fun e => match e.2 with | some u => decide (u.launch = t.launch ∧ u.core = core) | none => false
  | none => false

/-- The scratchpad ranges that a command declares at its start (R256 order 7). -/
def State.copyRangesOk (s : State) (c : Nat) (m : Cmd) : Bool :=
  let p := m.copy
  let kv := s.kvWords c p
  let tables :=
    if p.gather || p.scatter then
      if p.kvmap then
        s.cmdRangeOk m p.aux (64 + 4 * p.count + ceilDiv p.count 8) &&
          s.cmdRangeOk m (bitsOf 0 23 ((kv[2]?).getD 0)) (4 * bitsOf 32 32 ((kv[0]?).getD 0))
      else s.cmdRangeOk m p.aux (4 * p.count)
    else true
  (!(p.ssp && p.srcKnown) || s.cmdRangeOk m p.soff p.srcBytes) && (!(p.dsp && !p.scatter) || s.cmdRangeOk m p.doff p.dstBytes) &&
    (!p.dsp || s.launchHas m p.dcore) && tables

/-- The first failing start check, if any (R256). -/
def State.copyCheck (s : State) (c q : Nat) (m : Cmd) : Option Nat :=
  let p := m.copy
  let srcs := p.sources.map m.snap
  let used := srcs.filter fun h => !(p.absent && h.absent)
  let dst := if p.dsp then [] else [m.snap p.dh]
  let armed := decide (((s.core c).wms.get {} q).st = 1)
  orElse (failIf (!p.fieldsOk || !p.stagesOk || !p.typesOk || (p.wm && (!(armed || m.wm) || !p.dsp || p.dcore != c)) ||
      (p.kvmap && !kvOk (s.kvWords c p))) 3) <|
  orElse (failIf ((used ++ dst).any fun h => !h.valid) 0x0A) <|
  orElse (failIf ((used ++ dst).any fun h => h.lost) 0x0D) <|
  orElse (failIf (used.any (fun h => !h.r || h.tier == 3) || dst.any (fun h => !h.w || h.tier == 3)) 9) <|
  orElse (failIf (dst.any fun h => h.cow) 0x0C) <|
  orElse (failIf ((p.srcKnown && p.srcBytes != 0 && used.any fun h => decide (h.bytes < p.soff + p.srcBytes)) ||
      (!p.scatter && p.dstBytes != 0 && dst.any fun h => decide (h.bytes < p.doff + p.dstBytes))) 0x0A) <|
  orElse (failIf (!s.copyRangesOk c m) 0x30) <|
  failIf (p.srcKnown && !p.scatter && (m.srcSpan c p.sh p.soff p.srcBytes).meets (m.dstSpan p.doff p.dstBytes)) 3

/-- Items of a command (R259): under SCATTERADD an index, with EXPAND too (log entry 45). -/
def Copy.total (p : Copy) : Nat := if (p.expand && !p.scatter) || p.compress then ceilDiv p.count 64 else p.count

/-- PROG of a copy (R259). -/
def Cmd.copyProg (m : Cmd) : Nat := m.items % 2 ^ 24 * 2 ^ 24 + (m.compBase + m.comp) % 2 ^ 24

/-- The DETAIL that names a revoked snapshot: 0 source, 1 destination, 2 + p a KV part (R269). -/
def Cmd.revokedDetail (m : Cmd) : Option Nat :=
  let p := m.copy
  match m.revoked.find? fun h => p.sources.contains h || (!p.dsp && h == p.dh) with
  | none => none
  | some h => some (if p.sources.contains h then (if p.kvmap then 2 + (h - p.sh) else 0) else 1)

/-- The DETAIL before the start: a cleared KV part under MASKABSENT is an absent part (R269); the destination stays one, whatever register
it shares. -/
def Cmd.revokedEarly (m : Cmd) : Option Nat :=
  let p := m.copy
  if p.absent then (if !p.dsp && m.revoked.contains p.dh then some 1 else none) else m.revokedDetail

/-- COPY_COMMAND: the start of the first unstarted command of a channel (R231, R256, R269, R271). -/
def State.startCopy (s : State) (c q : Nat) (m : Cmd) : State :=
  let p := m.copy
  let prog := ({ m with items := p.start } : Cmd).copyProg
  let begin := fun (n : Cmd) =>
    if n.again then { n with items := p.start, wm := p.wm, again := false }
    else { n with items := p.start, first := p.start, kv := ((s.kvWords c p).take 4).map wordOf, wm := p.wm, revoked := [] }
  match m.revokedEarly with
  | some d => s.updCore c fun k => (k.endCmd q m.id 5 d prog).armQueue q s.cycle
  | none =>
    match s.copyCheck c q m with
    | some d => s.failStart c q m d prog
    | none =>
      let s := s.startCmd c q m begin
      if p.wm then s.updCore c fun k => { k with wms := k.wms.put {} q { k.wms.get {} q with st := 2 } } else s

def execCopyCommand (c q : Nat) (s : State) : Res' :=
  match if q < 4 then (s.core c).starts q s.cycle else none with
  | some m => .next (s.startCopy c q m)
  | none => .next s

/-! ### Reading and writing (R251, R260) -/

/-- Bytes of a quarter, a vault or another home as an engine reads them. A byte of a lost quarter is a poisoned 0 (R185). -/
def State.engineRead (s : State) (sp : Span) (ag : Agent) : (List Byte × Bool) × State :=
  match sp.core with
  | some c => s.spadLoad c sp.lo sp.n ag
  | none =>
    let s' := s.watchPhys sp.lo sp.n 1 ag
    if sp.n ≠ 0 ∧ (s.lostAt sp.lo ∨ s.lostAt (sp.lo + sp.n - 1)) then ((List.replicate sp.n 0, true), s') else (s.peek sp.lo sp.n, s')

/-- Units of poison: a line of device memory, a word of scratchpad. -/
def Span.unit (sp : Span) : Nat := if sp.core.isSome then 8 else 64

/-- A beat reads: each byte with its poison, which a byte has with its line or word (R251, R260). -/
def State.readBeat (s : State) (sp : Span) (ag : Agent) : List (Byte × Bool) × State :=
  let ((bs, po), t) := s.engineRead sp ag
  let bad := fun i => po && match sp.core with
    | some c => (s.core c).spadPoisoned (sp.lo + i) 1
    | none => s.lostAt sp.lo || s.poisoned (sp.lo + i) 1
  (((List.range bs.length).zip bs).map fun e => (e.2, bad e.1), t)

def State.setPoison (s : State) (core : Option Nat) (u : Nat) (b : Bool) : State :=
  match core with
  | some c => s.updCore c fun k => { k with spadPoison := k.spadPoison.put false u b }
  | none => { s with poison := s.poison.put false u b }

/-- The units of a span. -/
def Span.units (sp : Span) : List Nat :=
  (List.range (sp.n / sp.unit + 2)).filterMap fun i => let v := sp.lo / sp.unit + i; if v * sp.unit < sp.lo + sp.n then some v else none

/-- A beat writes: a unit that receives a poisoned byte is poisoned, and one that a beat without poison covers whole loses its poison (R174,
R260). A write to a lost quarter is not performed (R185). -/
def State.writeBeat (s : State) (sp : Span) (data : List (Byte × Bool)) (ag : Agent) : State :=
  if sp.n = 0 ∨ (sp.core.isNone ∧ s.lostAt sp.lo) then s
  else
    let bytes := data.map fun e => some e.1
    let s := match sp.core with
      | some c => s.spadStore c sp.lo bytes ag
      | none => (s.poke sp.lo bytes false).watchPhys sp.lo sp.n 2 ag
    let bad := fun v => ((List.range data.length).zip data).any fun e => e.2.2 && decide ((sp.lo + e.1) / sp.unit = v)
    sp.units.foldl (fun s v =>
      if bad v then s.setPoison sp.core v true
      else if sp.lo ≤ v * sp.unit ∧ (v + 1) * sp.unit ≤ sp.lo + sp.n then s.setPoison sp.core v false
      else s) s

/-- Work counters of the command's task (R378): destination bytes, and bytes at vault homes. -/
def State.countCopy (s : State) (m : Cmd) (dst vault : Nat) : State :=
  s.updTask m.task fun t => { t with cw3 := satAdd 64 t.cw3 dst, cw4 := satAdd 64 t.cw4 vault }

def Span.vaultBytes (sp : Span) : Nat := if sp.core.isNone ∧ tierOf sp.lo = 0 then sp.n else 0

/-! ### Watermarks (R271) -/

/-- WK moves past the bytes that the bound command has written. -/
def advanceMark (done : List (Nat × Nat)) : Nat → Nat → Nat
  | 0, wk => wk
  | fuel + 1, wk => match done.find? fun r => decide (r.1 ≤ wk ∧ wk < r.2) with | some r => advanceMark done fuel r.2 | none => wk

def WMark.note (m : WMark) (lo hi cycle : Nat) : WMark :=
  let done := m.done ++ [(lo, hi)]
  let wk := Nat.min m.we (advanceMark done (done.length + 1) m.wk)
  { m with done := done.filter (fun r => decide (wk < r.2)), wk := wk, movedAt := cycle, old := m.mark cycle }

/-- A write of a command in the channel's own scratchpad moves the watermark that it binds. -/
def State.noteMark (s : State) (c q : Nat) (m : Cmd) (sp : Span) : State :=
  if m.wm && sp.core == some c then
    s.updCore c fun k => { k with wms := k.wms.put {} q ((k.wms.get {} q).note sp.lo (sp.lo + sp.n) s.cycle) }
  else s

/-! ### The next items (R259 to R268): what they read -/

/-- What the channel decides before the beats of its next items: the command ends with a FAULT, or a batch is in hand. -/
inductive Plan where
  | fault (cause : Nat)
  | batch (b : Batch)

/-- The end of a span's 64-byte line. -/
def lineEnd (a : Nat) : Nat := (a / 64 + 1) * 64

/-- Elements of a dense stream that end together with a byte and lie in one line of the destination from element `i` on: at least one, or four
where elements are shorter than a byte (R251, R448). -/
def Copy.run (p : Copy) (base i : Nat) : Nat :=
  let unit := if p.subByte then 4 else 1
  let left := p.count - i
  let room := (lineEnd (base + i * p.dbits / 8) - (base + i * p.dbits / 8)) * 8 / p.dbits
  Nat.min left (Nat.max unit (room / unit * unit))

/-- A range of the source fails the test of order 6 or 7 of R256. -/
def State.srcBad (s : State) (m : Cmd) (h off n : Nat) : Option Nat :=
  if m.copy.ssp then failIf (!s.cmdRangeOk m off n) 0x30 else failIf (decide ((m.snap h).bytes < off + n)) 0x0A

/-- A range of the destination fails the tests of R268. -/
def State.dstBad (s : State) (m : Cmd) (off n : Nat) : Option Nat :=
  if m.copy.dsp then failIf (!s.cmdRangeOk m off n) 0x30 else failIf (decide ((m.snap m.copy.dh).bytes < off + n)) 0x0A

/-- The destination extent of a command, by location (R449). -/
def Cmd.dstExtent (m : Cmd) : Span := m.dstSpan m.copy.doff m.copy.dstBytes

/-- A range that an item reads is outside its page, or meets the destination (R256, R449). -/
def State.readBad (s : State) (c : Nat) (m : Cmd) (h off n : Nat) : Option Nat :=
  orElse (s.srcBad m h off n) <| failIf (!m.copy.scatter && (m.srcSpan c h off n).meets m.dstExtent) 3

/-- A number of the tables in scratchpad (R450). -/
def State.table (s : State) (c off n : Nat) (ag : Agent) : (Nat × Bool) × State :=
  let ((bs, po), s) := s.spadLoad c off n ag
  ((leNat bs, po), s)

/-- Source elements `i` to `i + n - 1` of a dense stream. -/
def Copy.dense (p : Copy) (i n : Nat) : Batch :=
  let lo := i * p.sbits / 8
  { n := n, h := p.sh, off := p.soff + lo, len := ceilDiv ((i + n) * p.sbits) 8 - lo }

/-- A row of a gather, from offset `off` of the source through handle `h` (R265). -/
def State.planRow (s : State) (c : Nat) (m : Cmd) (h off : Nat) : Plan :=
  let n := m.copy.g * m.copy.sbits / 8
  match s.readBad c m h off n with
  | some d => .fault d
  | none => .batch { n := 1, h := h, off := off, len := n }

/-- The row that a position names, and whether it is present (R267). -/
def State.kvRow (s : State) (c : Nat) (m : Cmd) (pos : Nat) (ag : Agent) : ((Nat × Bool) × Bool) × State :=
  let w0 := ((m.kv[0]?).getD 0)
  let gtab := getField ((m.kv[2]?).getD 0) 0 23
  let t := (Sys2Proof.kvSlot (wordOf pos) w0).1
  if t.getLsbD 63 then (((pos, true), false), s)
  else
    let ((g, po), s) := s.table c (gtab + 4 * getField t 0 32) 4 ag
    (((getField w0 0 32 + getField t 0 32, decide (g % 2 ^ 31 = getField t 32 31)), po), s)

/-- A KV row (R267): copied, or written as zeros. -/
def State.planKv (s : State) (c : Nat) (m : Cmd) (ag : Agent) : Plan × State :=
  let p := m.copy
  let rpp := getField ((m.kv[1]?).getD 0) 0 32
  let ((pos, po), s) := s.table c (p.aux + 64 + 4 * m.items) 4 ag
  if po then (.fault 0x10, s)
  else
    let (((r, ok), po), s) := s.kvRow c m pos ag
    let hp := r / rpp
    let hd := m.snap (p.sh + hp)
    let zero := fun (masked : Bool) => Plan.batch { n := 1, ok := false, masked := masked, zero := true }
    (if po then .fault 0x10
     else if p.nh < hp then .fault 3
     else if ok && hd.absent then (if p.absent then zero true else .fault (if hd.valid then 0x0D else 0x0A))
     else if ok then s.planRow c m (p.sh + hp) (p.soff + r % rpp * p.g * p.sbits / 8)
     else zero false, s)

/-- The mask of the next mask-pack block (R263, R264). -/
def State.planBlock (s : State) (c : Nat) (m : Cmd) : Plan :=
  let off := m.copy.soff + 8 * m.comp
  match s.readBad c m m.copy.sh off 8 with
  | some d => .fault d
  | none => .batch { n := 1, h := m.copy.sh, off := off, len := 8 }

/-- The next items of a command that has none in hand. -/
def State.planItems (s : State) (c : Nat) (m : Cmd) (ag : Agent) : Plan × State :=
  let p := m.copy
  if p.kvmap then s.planKv c m ag
  else if p.gather then
    let ((idx, po), s) := s.table c (p.aux + 4 * m.items) 4 ag
    (if po then .fault 0x10 else s.planRow c m p.sh (p.soff + idx * p.g * p.sbits / 8), s)
  else if p.expand then (s.planBlock c m, s)
  else if p.compress then (.batch { p.dense (64 * m.items) (Nat.min 64 (p.count - 64 * m.items)) with n := 1 }, s)
  else if p.transpose then (.batch (p.dense (m.items % p.shape * (p.count / p.shape) + m.items / p.shape) 1), s)
  else if p.scatter then (.batch (p.dense m.items 1), s)
  else (.batch (p.dense m.items (p.run (m.dstSpan p.doff 0).lo m.items)), s)

/-! ### The next items: what they write -/

/-- The CONVERT stage (R261). -/
def Copy.conv (p : Copy) (x : Nat) : Nat × FlagBits :=
  match p.convert, tyOf p.sty, tyOf p.dty with
  | true, some a, some b => Sys2Proof.convert false a b (rndOf p.md) x
  | _, _, _ => (x, 0)

def Copy.convAll (p : Copy) (l : List Nat) : List Nat × FlagBits :=
  (l.map fun x => (p.conv x).1, l.foldl (fun f x => f ||| (p.conv x).2) 0)

/-- Codes of `w` bits from source element `i` of the bytes that a batch has read. -/
def codesOf (w i n : Nat) (got : List (Byte × Bool)) : List Nat :=
  let v := leNat (got.map (·.1)) / 2 ^ (i * w % 8)
  (List.range n).map fun k => bitsOf (k * w) w v

/-- The bits of a mask-pack block and the codes that it holds, in ascending bit (R263). -/
def spread (mask : Nat) : Nat → List Nat → List Nat
  | 0, _ => []
  | n + 1, l =>
    if mask % 2 = 1 then
      match l with
      | x :: r => x :: spread (mask / 2) n r
      | [] => 0 :: spread (mask / 2) n []
    else 0 :: spread (mask / 2) n l

def popcount (n w : Nat) : Nat := ((List.range n).filter fun i => w.testBit i).length

/-- Bytes at an offset of the destination, in pieces of one line each. -/
def Cmd.pieces (m : Cmd) (off : Nat) (bs : List (Byte × Bool)) : List (Nat × List (Byte × Bool)) :=
  let base := (m.dstSpan off 0).lo
  (linePieces base bs.length).map fun e => (off + e.1, (bs.drop e.1).take e.2)

/-- A batch whose bytes to write are settled. -/
def Batch.writes (b : Batch) (m : Cmd) (off : Nat) (bs : List (Byte × Bool)) (f : FlagBits) (comp : Nat) : Batch :=
  { b with ready := true, out := m.pieces off bs, flags := f, comp := comp }

/-- Bytes without poison. -/
def cleanBytes (l : List Byte) : List (Byte × Bool) := l.map fun b => (b, false)

/-- A block of EXPAND has come: its mask, then its elements (R263, R264). -/
def State.expandBatch (s : State) (c : Nat) (m : Cmd) (b : Batch) : Plan :=
  let p := m.copy
  let blk := if p.scatter then m.items / 64 else m.items
  let len := Nat.min 64 (p.count - 64 * blk)
  match b.mask with
  | none =>
    let mask := leNat (b.got.map (·.1))
    let n := popcount 64 mask * (p.sbits / 8)
    if 2 ^ len ≤ mask then .fault 3
    else match s.readBad c m p.sh (b.off + 8) n with
      | some d => .fault d
      | none => .batch { b with off := b.off + 8, len := n, got := [], mask := some mask }
  | some mask =>
    let (l, f) := p.convAll (spread mask len (codesOf p.sbits 0 (popcount 64 mask) b.got))
    let comp := 1 + ceilDiv b.len 8
    if p.scatter then .batch { b with ready := true, codes := l, flags := f, comp := comp }
    else .batch (b.writes m (p.doff + 64 * blk * p.dbits / 8) (cleanBytes (leBytes (len * p.dbits / 8) (pack (l.map fun x => (p.dbits, x))))) f comp)

/-- A block of COMPRESS (R263, R264). -/
def Batch.compressed (b : Batch) (m : Cmd) : Batch :=
  let p := m.copy
  let (l, f) := p.convAll (codesOf p.sbits 0 (b.len / (p.sbits / 8)) b.got)
  let kept := l.filter (· != 0)
  let n := 8 * ceilDiv (kept.length * (p.dbits / 8)) 8
  let bytes := leBytes 8 (pack (l.map fun x => (1, boolNat (x != 0)))) ++ leBytes n (pack (kept.map fun x => (p.dbits, x)))
  b.writes m (p.doff + 8 * m.comp) (cleanBytes bytes) f (1 + n / 8)

/-- Dense elements, or the row of a gather: the bytes as they are without a stage, poison with them, else converted (R260 to R262, R265). -/
def Batch.moved (b : Batch) (m : Cmd) : Batch :=
  let p := m.copy
  let first := if p.gather then m.items * p.g else m.items
  let n := if p.gather then p.g else b.n
  let off := p.doff + first * p.dbits / 8
  if !p.staged then b.writes m off b.got 0 0
  else if b.zero then b.writes m off (cleanBytes (List.replicate (n * p.dbits / 8) 0)) 0 0
  else
    let i := if p.gather || p.transpose then 0 else m.items
    let (l, f) := p.convAll (codesOf p.sbits i n b.got)
    b.writes m off (cleanBytes (leBytes (n * p.dbits / 8) (pack (l.map fun x => (p.dbits, x))))) f 0

/-- Elements of a staged batch that come before its first poisoned byte. -/
def Copy.before (p : Copy) (b : Batch) : Nat :=
  let clean := (b.got.takeWhile fun e => !e.2).length
  Nat.min b.n (clean * 8 / p.sbits / (if p.subByte then 4 else 1) * (if p.subByte then 4 else 1))

/-- What follows once the bytes of a batch have come. A poisoned source byte under a stage ends the command at its item; the items before it go
out first (R260). -/
def State.batchRead (s : State) (c : Nat) (m : Cmd) (b : Batch) : Plan :=
  let p := m.copy
  if p.staged && b.got.any (·.2) then
    let n := p.before b
    if n = 0 || p.gather || p.expand || p.compress then .fault 0x10
    else .batch ({ b with n := n, got := b.got.take (n * p.sbits / 8) }.moved m)
  else if p.expand then s.expandBatch c m b
  else if p.compress then .batch (b.compressed m)
  else if p.scatter then
    let (l, f) := p.convAll (codesOf p.sbits 0 1 b.got)
    .batch { b with ready := true, codes := l, flags := f }
  else .batch (b.moved m)

/-! ### Scatter-add (R268) -/

/-- The add of SCATTERADD (R268). -/
def Copy.add (p : Copy) (old x : Nat) : Nat × FlagBits :=
  match (tyOf p.dty).bind Ty.ffmt with
  | some f => f.add (rndOf p.md) false old x
  | none => ((old + x) % 2 ^ p.dbits, 0)

/-- The add of one item: the cause that ends the command, or its flags (R268, R449). -/
def State.scatterAdd (s : State) (c q : Nat) (m : Cmd) (b : Batch) (ag : Agent) : Except Nat FlagBits × State :=
  let p := m.copy
  let e := p.dbits / 8
  let ((idx, po), s) := s.table c (p.aux + 4 * m.items) 4 ag
  let off := p.doff + idx * e
  let sp := m.dstSpan off e
  let src := if p.expand then m.srcSpan c p.sh (b.off - 8) (b.len + 8) else m.srcSpan c p.sh p.soff p.srcBytes
  let x := (b.codes[if p.expand then m.items % 64 else 0]?).getD 0
  match if po then some 0x10 else orElse (s.dstBad m off e) (failIf (sp.meets src) 3) with
  | some d => (.error d, s)
  | none =>
    let (old, dpo) := match sp.core with
      | some k => ((s.core k).spadRead s.cycle sp.lo e, (s.core k).spadPoisoned sp.lo e)
      | none => s.peek sp.lo e
    if dpo then (.error 0x10, s)
    else
      let (v, g) := p.add (leNat old) x
      let s := match sp.core with
        | some k => (s.updCore k fun k => (k.spadWrite s.cycle ag.prio sp.lo ((leBytes e v).map some)).usePort s.cycle sp.lo e ag).watch k true sp.lo e 4 ag
        | none => if s.lostAt sp.lo then s else (s.poke sp.lo ((leBytes e v).map some) false).watchPhys sp.lo e 4 ag
      (.ok g, (s.noteMark c q m sp).countCopy m e (2 * sp.vaultBytes))

/-- The add of an item waits at an EMPTY word (R268, R414). -/
def State.addWaits (s : State) (c : Nat) (m : Cmd) : Bool :=
  let p := m.copy
  let e := p.dbits / 8
  let sp := m.dstSpan (p.doff + (s.table c (p.aux + 4 * m.items) 4 (.channel c 0)).1.1 * e) e
  sp.core.isNone && s.emptyIn sp.lo e

/-! ### The end of a copy (R258, R259, R269, R270, R450) -/

/-- Bits of bytes, least significant first. -/
def setBits (s : State) (c base i : Nat) (ag : Agent) : List Bool → State
  | [] => s
  | b :: r =>
    let a := base + i / 8
    let old := ((s.core c).spad.get 0 a).toNat
    let bit := 2 ^ (i % 8)
    let new := if b then (if old.testBit (i % 8) then old else old + bit) else (if old.testBit (i % 8) then old - bit else old)
    setBits (s.spadStore c a [some (BitVec.ofNat 8 new)] ag) c base (i + 1) ag r

/-- Descriptor word 3 and the validity bitmap, once, at the end (R266, R267, R450). -/
def State.putKv (s : State) (c q : Nat) (m : Cmd) : State :=
  let p := m.copy
  if p.kvmap then
    let w3 := (m.kv[3]?).getD 0
    let acnt := Nat.min (getField w3 32 32 + m.masked) (2 ^ 32 - 1)
    let w := wordOf (acnt * 2 ^ 32 + boolNat (w3.getLsbD 0 || decide (m.masked ≠ 0)))
    let s := s.spadStore c (p.aux + 24) ((leBytes 8 w.toNat).map some) (.channel c q)
    setBits s c (p.aux + 64 + 4 * p.count) m.first (.channel c q) m.bits
  else s

/-- A copy ends: its tables, its watermark and its status (R236, R271). -/
def State.finishCopy (s : State) (c q : Nat) (m : Cmd) (status detail : Nat) : State :=
  let s := s.putKv c q m
  s.updCore c fun k =>
    let k := if m.wm then { k with wms := k.wms.put {} q { k.wms.get {} q with st := 0, done := [] } } else k
    k.endCmd q m.id status detail m.copyProg

/-- A command has beats that have not performed. -/
def State.beatsOf (s : State) (id : Nat) : Bool := s.beats.any fun b => decide (b.cmd = id)

/-- The page that the next beat of a command may reach through `f`: its destination's, or that of the bytes it reads. -/
def Cmd.peerMeets (m : Cmd) (f : Nat → Bool) : Bool :=
  let p := m.copy
  match m.batch with
  | some b => (!p.dsp && f (m.snap p.dh).frame) || (!p.ssp && decide (b.got.length < b.len) && f (m.snap b.h).frame)
  | none => (!p.dsp && f (m.snap p.dh).frame) || (!p.ssp && !p.kvmap && f (m.snap p.sh).frame)

/-- The channel may issue a beat in this cycle (R251). -/
def Core.beatFree (k : Core) (q cycle : Nat) : Bool := decide ((k.queue q).beatAt ≤ cycle)

/-- The channel has issued a beat in this cycle (R251). -/
def State.useBeat (s : State) (c q : Nat) : State := s.updCore c fun k => k.updQueue q fun u => { u with beatAt := s.cycle + 1 }

/-- A command takes what was planned: it will end with a FAULT at its item, or holds the batch. -/
def State.takePlan (s : State) (c q : Nat) (m : Cmd) : Plan → State
  | .fault d => s.updCmd c q m.id fun n => { n with batch := none, status := 1, detail := d }
  | .batch b => s.updCmd c q m.id fun n => { n with batch := some b }

/-- The items of a batch have issued every beat (R259). The block of an EXPAND with SCATTERADD stays in hand for its other elements. -/
def Cmd.issued (m : Cmd) (b : Batch) (f : FlagBits) : Cmd :=
  let p := m.copy
  let more := p.scatter && p.expand && decide ((m.items + 1) % 64 ≠ 0 ∧ m.items + 1 < p.count)
  { m with
    items := m.items + b.n, comp := if more then m.comp else m.comp + b.comp, flags := m.flags ||| b.flags ||| f
    batch := if more then some b else none
    bits := if p.kvmap then m.bits ++ [b.ok] else m.bits
    masked := m.masked + boolNat b.masked, stale := m.stale || !b.ok }

/-- A beat that writes is issued: it performs later (R251). -/
def State.issueBeat (s : State) (c q : Nat) (m : Cmd) (off : Nat) (data : List (Byte × Bool)) : State :=
  let sp := m.dstSpan off data.length
  let s := (s.useBeat c q).countCopy m data.length sp.vaultBytes
  { s with ids := s.ids + 1, beats := s.beats ++ [{ id := s.ids, core := c, q := q, cmd := m.id, dst := sp.core, lo := sp.lo, data := data }] }

/-- A beat to or from a peer page crosses a link on channel 0 (R416). -/
def State.crossBeat (s : State) (lo : Nat) (i : LinkItem) : State := if tierOf lo = 2 then s.sendPeer (chipOf lo) i else s

/-- A beat that reads the next line of what a batch reads; with the last byte it is known what follows. -/
def State.readMore (s : State) (c q : Nat) (m : Cmd) (b : Batch) (ag : Agent) : State :=
  let at_ := m.srcSpan c b.h (b.off + b.got.length) 0
  let n := Nat.min (b.len - b.got.length) (lineEnd at_.lo - at_.lo)
  let sp : Span := { at_ with n := n }
  let (l, s) := s.readBeat sp ag
  let s := if sp.core.isNone then s.crossBeat sp.lo (.read s.chip (peerLocal sp.lo) n) else s
  let s := if n = 0 then s else (s.useBeat c q).countCopy m 0 sp.vaultBytes
  let b := { b with got := b.got ++ l }
  if b.got.length < b.len then s.takePlan c q m (.batch b) else s.takePlan c q { m with batch := some b } (s.batchRead c m b)

/-- COPY_ITEM: the next beat of a started command, with what the channel reads and tests before it. A beat that is lost on a link ends the
command (R421). -/
def State.stepCopy (s : State) (c q : Nat) (m : Cmd) : State :=
  let ag := Agent.channel c q
  if m.peerMeets s.routeLost then s.updCmd c q m.id fun n => { n with lost := true, batch := none }
  else match m.batch with
    | none => let (p, s) := s.planItems c m ag; s.takePlan c q m p
    | some b =>
      if !b.ready then s.readMore c q m b ag
      else if m.copy.scatter then
        if s.addWaits c m then s
        else match s.scatterAdd c q m b ag with
        | (.error d, s) => s.takePlan c q m (.fault d)
        | (.ok f, s) => (s.useBeat c q).updCmd c q m.id fun n => { n.issued b f with lastAt := s.cycle }
      else match b.out with
        | [] => s.updCmd c q m.id fun n => n.issued b 0
        | (off, data) :: r =>
          (s.issueBeat c q m off data).updCmd c q m.id fun n => if r.isEmpty then n.issued b 0 else { n with batch := some { b with out := r, part := true } }

/-- A started command that has items to process and is not stopped. A save stops it at its next item boundary, anything else at once
(R269, R270); one that has met a fault only waits for its beats. -/
def Cmd.copying (m : Cmd) : Bool :=
  decide (m.st = 1 ∧ m.items < m.copy.total ∧ m.status = 0) && !m.unchecked && !m.stopping && !m.lost && (!m.hold || m.batch.any (·.part)) && m.revokedDetail.isNone

/-- The add of a SCATTERADD in scratchpad takes the engine port (R168). -/
def State.addPort (s : State) (m : Cmd) : Bool :=
  !m.copy.scatter || !(m.batch.any (·.ready)) || !m.copy.dsp ||
    (s.core m.copy.dcore).portFree s.cycle m.copy.doff (2 ^ 23 - m.copy.doff)

def execCopyItem (c q id : Nat) (s : State) : Res' :=
  match if q < 4 then (s.core c).cmd q id else none with
  | some m => runEvent (m.copying && s.running && (s.core c).beatFree q s.cycle && !m.peerMeets s.routeStalled && s.addPort m) (fun s => s.stepCopy c q m) s
  | none => .next s

/-- A beat may perform: the engine port grants it, or the way to its peer chip is open (R168, R420). -/
def State.beatReady (s : State) (b : Beat) : Bool :=
  match b.dst with
  | some c => (s.core c).portFree s.cycle b.lo b.data.length
  | none => !s.routeStalled b.lo

/-- A beat performs at its home, or is lost on its way (R189, R260, R421). -/
def State.performBeat (s : State) (b : Beat) : State :=
  let s : State := { s with beats := s.beats.filter fun e => decide (e.id ≠ b.id) }
  let sp : Span := ⟨b.dst, b.lo, b.data.length⟩
  let s := if b.dst.isNone then s.crossBeat b.lo (.write (peerLocal b.lo) (b.data.map (·.1))) else s
  match (s.core b.core).cmd b.q b.cmd with
  | none => s
  | some m =>
    if b.dst.isNone && s.routeLost b.lo then s.updCmd b.core b.q b.cmd fun n => { n with lost := true }
    else ((s.writeBeat sp b.data (.channel b.core b.q)).noteMark b.core b.q m sp).updCmd b.core b.q b.cmd fun n => { n with lastAt := s.cycle }

/-- Cycles that the stages add (R258). -/
def Copy.cycles (p : Copy) : Nat :=
  boolNat p.gather * 24 + boolNat p.kvmap * 18 + boolNat p.absent * 2 + boolNat p.expand * 4 + boolNat p.compress * 6 +
    boolNat p.convert * 5 + boolNat p.transpose * 64 + boolNat p.scatter * 12

/-- How a started copy whose issued beats have performed ends in this cycle, if it does: status and DETAIL (R258, R259, R267, R269, R270,
R421). -/
def Cmd.copyEnd (m : Cmd) (cycle : Nat) : Option (Nat × Nat) :=
  if m.unchecked then none
  else if m.lost then some (4, 4)
  else if m.status ≠ 0 then some (m.status, m.detail)
  else match m.revokedDetail with
    | some d => some (5, d)
    | none =>
      if m.stopping then some (2, 0)
      else if m.copy.total ≤ m.items ∧ Nat.max m.startAt m.lastAt + m.copy.cycles ≤ cycle then
        some (if m.stale then 8 else 0, if m.stale then 0 else m.flags.toNat)
      else none

/-- The engine port takes the tables that a copy writes at its end (R168, R450). -/
def Core.kvPort (k : Core) (cycle : Nat) (p : Copy) : Bool := !p.kvmap || k.portFree cycle p.aux (64 + 4 * p.count + ceilDiv p.count 8)

/-! ### cpwm, cpwmq, cpprog (R273) -/

def cpwmOp (pd q a b : Nat) : SlotOp where
  names x := [x.pReg pd, x.sReg a, x.sReg b]
  run s :=
    let u := s.rs a
    let v := s.rs b
    let wb := getField u.val 0 23
    let len := v.val.toNat
    let m := s.myCore.wms.get {} q
    let put := fun (s : State) (w : WMark) => s.updMyCore fun k => { k with wms := k.wms.put {} q w }
    if !s.queueOk q then .error (0x31, none)
    else if len = 0 then
      .ok (if m.st = 2 then s.emitP pd false else (put s { m with st := 0, done := [] }).emitP pd true)
    else if u.poison || v.poison then poisonFault
    else if u.val.toNat % 64 ≠ 0 then .error (5, some u.val)
    else if len % 64 ≠ 0 then .error (5, some v.val)
    else if 2 ^ 23 < len ∨ !s.spadRangeOk wb len then .error (0x30, some (wordOf ((s.spadOffender wb len).getD wb)))
    else if m.st = 0 then .ok ((put s { st := 1, wb := wb, we := wb + len, wk := wb, old := wb }).emitP pd true)
    else .ok (s.emitP pd false)

def execCpwm (pd q a b : Nat) (s : State) : Res' := runSlot 6 (cpwmOp pd q a b) s

def wmWord (m : WMark) : Word := wordOf (m.st * 2 ^ 62 + m.we * 2 ^ 24 + m.wk)

def execCpwmq (b q : Nat) (s : State) : Res' :=
  runSlot 6
    { names := fun x => [x.sReg b]
      run := fun s => if !s.queueOk q then .error (0x31, none) else .ok (s.emitS b (wmWord (s.myCore.wms.get {} q)) 3) } s

/-- The words of `cpprog`, of the oldest started command. -/
def Core.cpprog (k : Core) (q sel : Nat) : Word :=
  match (k.running q)[0]? with
  | none => 0
  | some m =>
    let p := m.copy
    if sel = 0 then wordOf (2 ^ 63 + m.copyProg)
    else
      let src : Handle := if p.ssp then {} else m.snap p.sh
      let dst : Handle := if p.dsp then {} else m.snap p.dh
      wordOf (boolNat src.valid * 2 ^ 63 + boolNat dst.valid * 2 ^ 62 + src.gen % 2 ^ 16 * 2 ^ 32 + dst.gen % 2 ^ 16 * 2 ^ 16)

def execCpprog (b q sel : Nat) (s : State) : Res' :=
  runSlot 6
    { names := fun x => [x.sReg b]
      run := fun s => if !s.queueOk q then .error (0x31, none) else .ok (s.emitS b (s.myCore.cpprog q sel) 3) } s

end Sys2Proof.Machine
end

