-- ==== Sys2Proof/Machine/Crossbar.lean ====
section
/-! DEFINITION. The crossbar bank (R46 to R49, R276 to R303): arrays, commands of the sequencer, their rows and vectors, and the crossbar
instructions. -/

namespace Sys2Proof.Machine

/-! ### Arrays (R276 to R280, R297) -/

def Core.arr (k : Core) (a : Nat) : XArr := k.xb.get {} a

def Core.updArr (k : Core) (a : Nat) (f : XArr → XArr) : Core := { k with xb := k.xb.put {} a (f (k.arr a)) }

def State.updArr (s : State) (c a : Nat) (f : XArr → XArr) : State := s.updCore c fun k => k.updArr a f

/-- The bit line that serves a data position (R297): of the 1,064 of an array, 1,024 are data positions, 32 spares and 8 references (R276). -/
def XArr.line (x : XArr) (c : Nat) : Nat := match x.spare.find? fun e => decide (e.2 = c + 1) with | some e => 1024 + e.1 | none => c

def XArr.cell (x : XArr) (r line : Nat) : Nat := SMap.get 0 (x.cells.get [] r) line

/-- The level difference of slice column `q` in a row: HIGH (even) or LOW (odd) of logical column `q / 2` (R276, R277). -/
def XArr.slice (x : XArr) (r q : Nat) : Int :=
  let c := 4 * (q / 2) + 2 * (q % 2)
  (x.cell r (x.line c) : Int) - (x.cell r (x.line (c + 1)) : Int)

/-- The slices of a weight: HIGH and LOW (R46). -/
def weightSlice (w : Int) (q : Nat) : Int := if q % 2 = 0 then (w - w % 16) / 16 else w % 16

/-- Target level of a data position for weight `w` (R277). -/
def targetLevel (w : Int) (c : Nat) : Nat :=
  let h := (w - w % 16) / 16
  match c % 4 with
  | 0 => h.toNat
  | 1 => (-h).toNat
  | 2 => (w % 16).toNat
  | _ => 0

/-- Target level of a reference cell (R277). -/
def refLevel (n : Nat) : Nat := match n with | 0 => 6 | 3 => 6 | 6 => 15 | 7 => 15 | _ => 0

def XArr.coefOf (x : XArr) (q : Nat) : Int × Nat := x.coef.get (0, 0x4000) q

def XArr.clipOf (x : XArr) (q : Nat) : Bool × Nat := x.clip.get (false, 0) q

def XArr.rowCount (x : XArr) (r : Nat) : Nat := x.rows.get 0 r

/-- A row has passed the endurance budget (R303). -/
def XArr.eol (x : XArr) : Bool := x.rows.any fun e => decide (10000 < e.2)

/-- An array that serves (R290). -/
def XArr.serves (x : XArr) : Bool := decide (x.st = .active ∨ x.st = .drifting)

/-- An array that a swap can make ACTIVE (R295). -/
def XArr.ready (x : XArr) : Bool := decide (x.st = .verified ∨ x.st = .shadow) && x.cal

/-! ### The code path (R46 to R48, R302) -/

/-- The ideal code of a sum at a range (R46). -/
def idealCode (sum : Int) (k : Nat) : Nat := (min (max (roundHalfEvenInt sum (2 ^ k) + 512) 0) 1023).toNat

/-- Steps 1 to 3 of R47: the corrected value of a code in units of 2^-4. -/
def corrected (off : Int) (g code : Nat) : Int := roundHalfEvenInt ((((code : Int) - 512) * 16 - off) * g) (2 ^ 14)

/-- Two's-complement value of a byte. -/
def byteInt (b : Byte) : Int := b.toInt

/-- The conditions of R302 that concern the array and the command: rows `rows` driven at range `k`. -/
def State.guaranteed (s : State) (c a k : Nat) (rows : List Nat) : Bool :=
  let x := (s.core c).arr a
  decide (x.st = .active) && x.cal && decide (k = x.kcal ∧ x.d ≤ x.dthr ∧ x.dthr ≤ 8) &&
    decide (s.timebase ≤ x.tprobe + 86400000000000) && Config.tierWithin c x.tprobe s.timebase &&
    rows.all fun r => decide (x.rowCount r ≤ 10000)

/-- The code of a conversion: free, and inside the guarantee of R302 one whose corrected value lies within 1.5 LSB of the ideal. -/
def pickCode (ok : Bool) (off : Int) (g ideal free : Nat) : Nat :=
  let fits := fun x => decide ((corrected off g x - 16 * ((ideal : Int) - 512)).natAbs ≤ 24)
  if ok && decide (2 ≤ ideal ∧ ideal ≤ 1021) && !fits free then ((List.range 1024).find? fits).getD free else free

/-- Sum of a slice column over the driven rows in a plane (R46): `acts` pairs a row with its activation. -/
def XArr.planeSum (x : XArr) (acts : List (Nat × Nat)) (q p : Nat) : Int :=
  acts.foldl (fun t e => if e.2.testBit p then t + x.slice e.1 q else t) 0

/-- The term of a plane and a slice in XbColumn (R47 steps 1 to 6). -/
def xbTerm (off : Int) (g code k p : Nat) (high : Bool) : Int :=
  let d := corrected off g code * (2 ^ k : Nat) * (2 ^ p : Nat)
  let d := if p = 7 then -d else d
  if high then d * 16 else d

/-- XbColumn (R47): `code p q` for planes 7 down to 8 − n. -/
def xbColumn (n k : Nat) (coef : Nat → Int × Nat) (code : Nat → Nat → Nat) : Int :=
  let acc := (List.range n).foldl (fun t i =>
    let p := 7 - i
    [0, 1].foldl (fun t h => t + xbTerm (coef h).1 (coef h).2 (code p h) k p (h == 0)) t) (0 : Int)
  roundHalfEvenInt acc 16

/-! ### The command (R282 to R289) -/

structure Xb where
  op : Nat
  arr : Nat
  ih : Nat
  isp : Bool
  ioff : Nat
  row0 : Nat
  nr : Nat
  iter : Nat
  seq : Nat
  tolv : Nat
  roff : Nat
  kcal : Nat
  dt : Bool
  tile : Nat
  trow : Nat
  nv : Nat
  gmask : Nat
  k : Nat
  np : Nat
  rg : Nat
  ng : Nat
  deriving DecidableEq, Repr

def Cmd.xb (m : Cmd) : Xb :=
  let f := fun lo n => getField m.w2 lo n
  { op := m.xop, arr := m.xarr, ih := getField m.w1 52 4, isp := m.w1.getLsbD 51, ioff := getField m.w1 0 33
    row0 := f 54 10, nr := f 43 11, iter := f 37 6, seq := f 35 2, tolv := f 35 8, roff := f 0 23, kcal := f 61 3
    dt := m.w2.getLsbD 63, tile := f 60 3, trow := f 54 6, nv := f 47 7, gmask := f 43 4, k := f 40 3, np := f 36 4, rg := f 32 4
    ng := f 27 5 }

/-- The operation reads an input (R282). -/
def Xb.input (x : Xb) : Bool := x.op != 2 && x.op != 3

/-- Depth of XBMVM, and bytes of the input (R284, R286, R289). -/
def Xb.depth (x : Xb) : Nat := 64 * x.ng
def Xb.inBytes (x : Xb) : Nat := if x.op = 4 then x.nv * x.depth else 256 * x.nr

/-- The row groups that a vector feeds, and the column groups it delivers. -/
def Xb.groups (x : Xb) : List Nat := (List.range 4).filter fun g => x.gmask.testBit g
def Xb.outRow (x : Xb) : Nat := 256 * x.groups.length

/-- Bytes of the report at ROFF (R285 to R288). -/
def Xb.reportBytes (x : Xb) : Nat :=
  if x.roff = 0 then 0
  else match x.op with | 0 => 136 * x.nr | 1 => 1024 | 2 => 2048 | 3 => 1024 | _ => 0

/-- Fields outside their range (R283 order 1). -/
def Cmd.xbFieldsOk (m : Cmd) : Bool :=
  let x := m.xb
  let z := fun lo n => getField m.w2 lo n == 0
  let rows := decide (1 ≤ x.nr ∧ x.nr ≤ 1024 ∧ x.row0 + x.nr ≤ 1024)
  getField m.w1 33 18 % 2 ^ 18 == 0 && m.w3 == 0 && (if x.input then !x.isp || x.ih == 0 else x.ih == 0 && x.ioff == 0) &&
    (match x.op with
     | 0 => rows && decide (1 ≤ x.iter) && x.seq != 3 && z 23 12
     | 1 => rows && decide (1 ≤ x.tolv) && z 23 12
     | 2 => decide (x.kcal ≤ 5) && z 23 38
     | 3 => z 23 41
     | 4 =>
       (if x.dt then decide (x.trow + x.nv ≤ 64) && decide (x.groups.length = 1) && x.roff == 0 else x.tile == 0 && x.trow == 0) &&
         decide (1 ≤ x.nv ∧ x.nv ≤ 64) && x.gmask != 0 && decide (x.k ≤ 5 ∧ 2 ≤ x.np ∧ x.np ≤ 8 ∧ 1 ≤ x.ng ∧ x.ng ≤ 16 ∧ x.rg + x.ng ≤ 16) &&
         z 23 4
     | _ => false)

/-- States that an operation accepts (R283). -/
def xbAccepts (op : Nat) (st : XState) : Bool :=
  match op with
  | 0 => decide (st = .empty ∨ st = .programming ∨ st = .verified ∨ st = .shadow ∨ st = .degraded)
  | 4 => true
  | _ => decide (st = .programming ∨ st = .verified ∨ st = .shadow ∨ st = .active ∨ st = .drifting ∨ st = .degraded)

/-- The array is in the task's mask. -/
def State.cmdArrOk (s : State) (m : Cmd) (a : Nat) : Bool :=
  match s.cmdTask m with | some t => t.img.xbarrays.testBit a | none => false

/-- The first failing start check, if any (R283). -/
def State.xbCheck (s : State) (c : Nat) (m : Cmd) : Option Nat :=
  let x := m.xb
  let k := s.core c
  let h := m.snap x.ih
  let byHandle := x.input && !x.isp
  orElse (failIf (!m.xbFieldsOk) 3) <|
  orElse (failIf (!(k.arraysOf m).all (s.cmdArrOk m)) 0x38) <|
  orElse (failIf (!xbAccepts x.op (k.arr x.arr).st) 0x38) <|
  orElse (failIf (byHandle && (!h.valid || decide (h.bytes < x.ioff + x.inBytes))) 0x0A) <|
  orElse (failIf (byHandle && h.lost) 0x0D) <|
  orElse (failIf (byHandle && (!h.r || h.tier == 3)) 9) <|
  orElse (failIf ((x.input && x.ioff % 64 != 0) || x.roff % (if x.op = 4 then 64 else 8) != 0) 5) <|
  orElse (failIf ((x.input && x.isp && !s.cmdRangeOk m x.ioff x.inBytes) || !s.cmdRangeOk m x.roff x.reportBytes ||
      (x.op == 4 && !x.dt && !s.cmdRangeOk m x.roff (x.nv * x.outRow))) 0x30) <|
  failIf (x.op == 4 && x.dt && !m.tileOk) 3

/-- Input bytes of a command (R284, R286, R289). -/
def State.xbRead (s : State) (c q : Nat) (m : Cmd) (off n : Nat) : (List Byte × Bool) × State :=
  let x := m.xb
  let sp : Span := if x.isp then ⟨some c, x.ioff + off, n⟩ else ⟨none, (m.snap x.ih).frame + x.ioff + off, n⟩
  s.engineRead sp (queueAgent c q)

/-! ### Ends (R159, R160, R280, R290, R291, R293) -/

/-- The tile of a command that ends: FAULTED after a part of the result, else DRAINABLE, counted when done (R159, R160, R290, R293). -/
def Core.releaseTile (k : Core) (m : Cmd) (p : Nat) (ok counted : Bool) : Core :=
  let v := k.tile p
  let v := { v with xcmd := none }
  let v := if v.st ≠ .accumulating then v
    else if ok then (if counted then { v with ops := (v.ops + 1) % 2 ^ 32 } else v)
    else if m.compBase + m.items = 0 then v
    else { v with st := .faulted, src := 3, next := m.xb.trow + m.items }
  (({ k with tiles := k.tiles.put {} p v } : Core).quieten p).freeEnded

/-- The physical tile of a command that holds one. -/
def Core.tileOf (k : Core) (m : Cmd) : Option Nat := (k.tiles.find? fun e => decide (e.2.xcmd = some m.id)).map (·.1)

/-- A crossbar command reaches a terminal status. -/
def State.endXb (s : State) (c q : Nat) (m : Cmd) (status detail prog : Nat) : State :=
  s.updCore c fun k =>
    let k := match k.tileOf m with
      | some p => k.releaseTile m p (decide (status = 0 ∨ status = 6 ∨ status = 7)) (decide (status ≠ 6))
      | none => k
    k.endCmd q m.id status detail prog

/-- PROG of a command: a count in [47:32], saturating, and what is complete in [31:16]. -/
def xbProgWord (cnt done low : Nat) : Nat := Nat.min cnt 0xFFFF * 2 ^ 32 + done % 2 ^ 16 * 2 ^ 16 + low % 2 ^ 6

/-- Rows or vectors completed, those before a save with them (R293). -/
def Cmd.completed (m : Cmd) : Nat := m.compBase + m.items

def Cmd.xbPart (m : Cmd) : Nat := xbProgWord m.cnt m.completed (if m.xop = 0 then m.iter else 0)

/-! ### The start of a command -/

/-- The next row of the reference pass at or after row `r` (R284). -/
def nextRef (x : Xb) (r : Nat) : Nat := if x.row0 ≤ r ∧ r < x.row0 + x.nr then x.row0 + x.nr else Nat.min r 1024

/-- The array that serves an XBMVM (R290). -/
def Core.serving (k : Core) (m : Cmd) : Option Nat := (k.arraysOf m).find? fun a => (k.arr a).serves

/-- Groups of rows from `lo` up to `hi`. -/
def touchGroups (pgm : BitVec 16) (lo hi : Nat) : BitVec 16 :=
  (List.range 16).foldl (fun b g => if rangesMeet lo hi (64 * g) (64 * g + 64) then b ||| (1 <<< g) else b) pgm

/-- The effects of a start that its checks pass (R280, R284, R290). -/
def State.beginXb (s : State) (c q : Nat) (m : Cmd) : State :=
  let x := m.xb
  let k := s.core c
  match x.op with
  | 0 =>
    let empty := decide ((k.arr x.arr).st = .empty)
    let s := s.updArr c x.arr fun a => { a with st := .programming, cal := false, pgm := touchGroups a.pgm x.row0 (x.row0 + x.nr) }
    s.startCmd c q m fun m => { m with again := false, arr := x.arr, refRow := if empty then nextRef x 0 else 1024 }
  | 4 =>
    match k.serving m with
    | some a => s.startCmd c q m fun m => { m with again := false, arr := a, tAt := m.tAt + 36 * 32 }
    | none => (s.startCmd c q m id).endXb c q m 6 0 0
  | op =>
    let a := k.arr x.arr
    let ns := match op with | 1 => 32 | 2 => 32 + 4096 | _ => 32 + 8192
    s.startCmd c q m fun m => { m with arr := x.arr, tAt := m.tAt + 36 * ns, lims := (a.dthr, a.dhard) }

/-- The start of the first unstarted command of a stream, when it has operation `op` (R281, R283, R292). A command whose input snapshot a
revocation has cleared ends REVOKED (R223). -/
def State.startXb (s : State) (c q : Nat) (m : Cmd) : State :=
  if !m.revoked.isEmpty then (s.endXb c q m 5 0 0).updCore c fun k => k.armQueue q s.cycle
  else
    match s.xbCheck c m with
    | some d => (s.endXb c q m 1 d 0).updCore c fun k => k.armQueue q s.cycle
    | none => s.beginXb c q m

/-- The command that may start in a stream with this operation; an undefined operation starts and fails as XBPROG does. -/
def Core.xbStarts (k : Core) (q op cycle : Nat) : Option Cmd :=
  if q = 4 ∨ q = 5 then (k.starts q cycle).filter fun m => decide (m.xop = op) || (op == 0 && decide (5 ≤ m.xop)) else none

def startOp (op c q : Nat) (s : State) : Res' :=
  match if s.running then (s.core c).xbStarts q op s.cycle else none with
  | some m => .next (s.startXb c q m)
  | none => .next s

/-- A started command of a stream with an operation for which `f` holds. -/
def Core.xbRunning (k : Core) (q op : Nat) (f : Cmd → Bool) : Option Cmd := (k.running q).find? fun m => decide (m.xop = op) && f m

/-! ### XBPROG (R284, R285) -/

/-- One cell through the program loop: its level, the iterations it takes part in, and whether it is stuck. -/
def progCell (limit d c tgt : Nat) : Nat → Nat → Nat → Nat × Nat × Bool
  | 0, it, lvl => (lvl, it, lvl != tgt)
  | fuel + 1, it, lvl =>
    if lvl = tgt then (lvl, it + 1, false) else progCell limit d c tgt fuel (it + 1) (Config.pulseLevel d c it % 16)

/-- A row's positions with their bit lines and targets: data positions, if the row has weights, and references. -/
def XArr.targets (x : XArr) (ws : Option (List Byte)) : List (Nat × Nat × Nat) :=
  (match ws with
   | some l => (List.range 1024).map fun c => (c, x.line c, targetLevel (byteInt ((l[c / 4]?).getD 0)) c)
   | none => []) ++
    (List.range 8).map fun n => (1024 + n, 1056 + n, refLevel n)

/-- The program pass of a row: the array, the iterations of the row, and its stuck positions. -/
def XArr.progRow (x : XArr) (r limit d : Nat) (ws : Option (List Byte)) : XArr × Nat × List Nat :=
  let (row, it, stuck) := (x.targets ws).foldl (fun (t : SMap Nat × Nat × List Nat) e =>
    let (lvl, n, bad) := progCell limit d e.1 e.2.2 limit 0 (SMap.get 0 t.1 e.2.1)
    (SMap.put 0 t.1 e.2.1 lvl, Nat.max t.2.1 n, if bad then t.2.2 ++ [e.1] else t.2.2)) (x.cells.get [] r, 0, [])
  ({ x with cells := x.cells.put [] r row, rows := x.rows.put 0 r (x.rowCount r + 1), total := satAdd 32 x.total 1 }, it, stuck)

/-- The stuck-cell record of a row (R285). -/
def stuckRecord (stuck : List Nat) : List Byte := leBytes 136 (stuck.foldl (fun n c => n + 2 ^ c) 0)

/-! ### Rows and vectors (R292, R293) -/

/-- Time of a row or of a conversion, in units of 1/36 ns; a row of XBPROG that used `it` iterations. -/
def Xb.rowTime (x : Xb) (it : Nat) : Nat := 36 * (match x.op with | 0 => 200 + 400 * it | 1 => 20 | _ => 16 * x.np)

/-- A row of the reference pass comes next, or is in hand (R284). -/
def Cmd.inRef (m : Cmd) : Bool := m.xop == 0 && decide (m.refRow < 1024)

/-- A started command has a row or vector to read: none is read after a stop, nor behind a poisoned one; only XBPROG and XBMVM stop for a
save (R293). -/
def Cmd.moreInput (m : Cmd) : Bool :=
  decide (m.items + m.buf.length < (if m.xop = 4 then m.xb.nv else m.xb.nr)) && !m.stopping && (!m.hold || m.xop == 1) && m.revoked.isEmpty &&
    !(m.buf.any (·.poison))

/-- The next row or vector may be read: from the scratchpad as its row or conversion begins, through a handle while none is read ahead; the
reference pass reads nothing and goes to its end (R284, R292). -/
def Cmd.readDue (m : Cmd) (now : Nat) : Bool :=
  if m.inRef then m.buf.isEmpty && decide (m.tAt ≤ now)
  else m.moreInput && (if m.xb.isp then decide (m.tAt ≤ now) else m.buf.all fun b => decide (b.at_ ≤ now))

/-- The time of that read is fixed. -/
def Cmd.readFixed (m : Cmd) (now : Nat) : Bool := (m.inRef || m.xb.isp) && m.readDue now

/-- The first row in hand ends, or its poisoned input ends the command as it begins. -/
def Cmd.rowDue (m : Cmd) (now : Nat) : Bool :=
  match m.buf with
  | b :: _ => decide ((if b.poison then b.at_ else b.due) ≤ now)
  | [] => false

/-- The program pass of the next row of XBPROG: the array, its iterations and its stuck positions. -/
def State.progPass (s : State) (c : Nat) (m : Cmd) (i d : Nat) (ws : List Byte) : XArr × Nat × List Nat :=
  ((s.core c).arr m.xb.arr).progRow (if m.inRef then m.refRow else m.xb.row0 + i) m.xb.iter d (if m.inRef then none else some ws)

/-- The next row or vector is read; it begins when the one before it has ended and its last input byte has come (R292). -/
def State.takeInput (s : State) (c q : Nat) (m : Cmd) : State :=
  let x := m.xb
  let (d, s) := s.draw
  let i := m.items + m.buf.length
  let n := if x.op = 4 then x.depth else 256
  let ((bs, po), s) := if m.inRef then (([], false), s) else s.xbRead c q m (i * n) n
  let start := if m.inRef || x.isp then m.tAt else Nat.max m.tAt s.now
  let it := if x.op = 0 && !po then (s.progPass c m i d bs).2.1 else 0
  let due := start + x.rowTime it
  s.updCmd c q m.id fun n => { n with tAt := due, buf := n.buf ++ [{ bytes := bs, poison := po, at_ := start, due := due, drawn := d }] }

/-- One row of XBPROG ends, of the reference pass or of the segment (R284, R285). -/
def State.progEnd (s : State) (c q : Nat) (m : Cmd) (b : Input) : State :=
  let x := m.xb
  if b.poison then s.endXb c q m 1 0x10 m.xbPart
  else
    let (a, it, stuck) := s.progPass c m m.items b.drawn b.bytes
    let s := s.updArr c x.arr fun _ => a
    let write := !m.inRef && x.roff != 0
    let s := if write then s.spadStore c (x.roff + 136 * m.items) ((stuckRecord stuck).map some) (queueAgent c q) else s
    s.updCmd c q m.id fun n =>
      { n with cnt := n.cnt + stuck.length, iter := Nat.max n.iter it, lastAt := if write then s.cycle else n.lastAt, buf := n.buf.drop 1
               refRow := if m.inRef then nextRef x (m.refRow + 1) else n.refRow
               items := if m.inRef then n.items else n.items + 1 }

/-- The row in hand of XBPROG ends where its time has come, else the next one is read and begins. -/
def State.progStep (s : State) (c q : Nat) (m : Cmd) : State :=
  match m.buf with
  | b :: _ => if m.rowDue s.now then s.progEnd c q m b else s.takeInput c q m
  | [] => s.takeInput c q m

/-- The engine port takes the record of the row in hand (R168, R285). -/
def Core.rowPort (k : Core) (m : Cmd) (cycle : Nat) : Bool := m.inRef || m.xb.roff == 0 || k.portFree cycle (m.xb.roff + 136 * m.items) 136

def execXbprog (c q : Nat) (s : State) : Res' := startOp 0 c q s

def execXbprogRow (c q id : Nat) (s : State) : Res' :=
  match if q = 4 ∨ q = 5 then (s.core c).cmd q id else none with
  | some m => runEvent (s.running && decide (m.st = 1 ∧ m.xop = 0) && (m.rowDue s.now || m.readDue s.now) && (s.core c).rowPort m s.cycle)
      (fun s => s.progStep c q m) s
  | none => .next s

/-! ### XBVERIFY (R286) -/

/-- A row of XBVERIFY ends: the mismatches of its 512 slice columns. -/
def State.verifyRow (s : State) (c q : Nat) (m : Cmd) (b : Input) : State :=
  let x := m.xb
  if b.poison then s.endXb c q m 1 0x10 (xbProgWord 0 m.items 0)
  else
    let a := (s.core c).arr x.arr
    let row := x.row0 + m.items
    let ok := s.guaranteed c x.arr 0 [row]
    let bad := (List.range 512).filter fun col =>
      let (off, g) := a.coefOf col
      let code := pickCode ok off g (idealCode (a.slice row col) 0) (Config.converterCode b.drawn col 0 % 1024)
      let w := byteInt ((b.bytes[col / 2]?).getD 0)
      decide (x.tolv < (corrected off g code - 16 * weightSlice w col).natAbs)
    s.updCmd c q m.id fun n =>
      { n with items := n.items + 1, cnt := n.cnt + bad.length, buf := n.buf.drop 1
               counts := bad.foldl (fun t col => t.put 0 col (Nat.min (t.get 0 col + 1) 0xFFFF)) n.counts }

/-- A row of a started XBVERIFY ends, or the next one is read; a stop ends the command at once (R293). -/
def Cmd.verifyDue (m : Cmd) (now : Nat) : Bool := !m.stopping && m.revoked.isEmpty && (m.rowDue now || m.readDue now)

def State.verifyStep (s : State) (c q : Nat) (m : Cmd) : State :=
  match m.buf with
  | b :: _ => if m.rowDue s.now then s.verifyRow c q m b else s.takeInput c q m
  | [] => s.takeInput c q m

/-- A started command of a stream for which `f` holds, one for which `g` holds too before the others. -/
def Core.xbFirst (k : Core) (q op : Nat) (f g : Cmd → Bool) : Option Cmd :=
  match k.xbRunning q op fun m => f m && g m with
  | some m => some m
  | none => k.xbRunning q op f

/-- XBVERIFY: a step of a started command that is due, else the start of a command. -/
def execXbverify (c q : Nat) (s : State) : Res' :=
  if !s.running then .next s
  else
    match (s.core c).xbFirst q 1 (fun m => m.verifyDue s.now) (fun m => m.rowDue s.now || m.readFixed s.now) with
    | some m => .next (s.verifyStep c q m)
    | none => startOp 1 c q s

/-- The 16-bit words of a report. -/
def report16 (m : SMap Nat) : List Byte := (List.range 512).flatMap fun q => leBytes 2 (m.get 0 q)

/-- The report of a command, and the cycle of its write. -/
def State.putReport (s : State) (c q : Nat) (m : Cmd) (bs : List Byte) : State :=
  if m.xb.roff = 0 then s
  else (s.spadStore c m.xb.roff (bs.map some) (queueAgent c q)).updCmd c q m.id fun n => { n with lastAt := s.cycle }

/-- XBVERIFY ends (R280, R286). -/
def State.endVerify (s : State) (c q : Nat) (m : Cmd) : State :=
  let x := m.xb
  let s := s.putReport c q m (report16 m.counts)
  let covers := fun (a : XArr) => (List.range 16).all fun g => !a.pgm.getLsbD g || decide (x.row0 ≤ 64 * g ∧ 64 * g + 64 ≤ x.row0 + x.nr)
  let s := s.updArr c x.arr fun a =>
    if m.cnt = 0 then (if a.st = .programming ∧ covers a then { a with st := .verified } else a)
    else match a.st with
      | .verified | .shadow | .active | .drifting => { a with st := .degraded, cal := false }
      | _ => a
  s.endXb c q m 0 0 (xbProgWord m.cnt m.items 0)

/-! ### XBCAL and XBPROBE (R287, R288) -/

/-- The fit of a channel: offset and gain, or failure (R287). -/
def fitChannel (p n : Nat) : Option (Int × Nat) :=
  let off := roundHalfEvenInt ((p : Int) + n) 2 - 8192
  if p ≤ n then none
  else
    let g := roundHalfEven 100663296 (p - n)
    if g < 0x2000 ∨ 0x8000 < g ∨ 1024 < off.natAbs then none else some (off, g)

/-- A reading of a reference through a channel: the sum of 16. -/
def refSum (d q n : Nat) : Nat := Config.referenceSum d q n % 16369

def execXbcal (c q : Nat) (s : State) : Res' := startOp 2 c q s
def execXbprobe (c q : Nat) (s : State) : Res' := startOp 3 c q s

def State.endCal (s : State) (c q : Nat) (m : Cmd) : State :=
  let x := m.xb
  let (d, s) := s.draw
  let fits := (List.range 512).map fun i => (i, fitChannel (refSum d i 0) (refSum d i 1))
  let failed := fits.filter fun e => e.2.isNone
  let word := fun (f : Option (Int × Nat)) => match f with | some (o, g) => fieldOf 16 o * 2 ^ 16 + g | none => 0xFFFFFFFF
  let s := s.putReport c q m (fits.flatMap fun e => leBytes 4 (word e.2))
  let tb := s.timebase
  let s := s.updArr c x.arr fun a =>
    let a := { a with coef := fits.foldl (fun (t : SMap (Int × Nat)) (e : Nat × Option (Int × Nat)) => match e.2 with | some v => t.put (0, 0x4000) e.1 v | none => t) a.coef }
    if failed.isEmpty then
      { a with cal := true, kcal := x.kcal, d := 0, tprobe := tb, st := if a.st = XState.drifting then XState.active else a.st }
    else { a with cal := false, st := .degraded }
  s.endXb c q m 0 (boolNat !failed.isEmpty) (xbProgWord failed.length ((failed.map (·.1)).head?.getD 0xFFFF) 0)

/-- The deviation of a channel (R288). -/
def deviation (off : Int) (g p n z2 z3 : Nat) : Nat :=
  let cor := fun (x : Nat) => roundHalfEvenInt (((x : Int) - 8192 - off) * g) (2 ^ 14)
  Nat.max (Nat.max (cor p - 3072).natAbs (cor n + 3072).natAbs) (Nat.max (cor z2).natAbs (cor z3).natAbs)

/-- The largest entry of a list of (channel, value), the lowest channel among equals. -/
def largest (l : List (Nat × Nat)) : Nat × Nat := l.foldl (fun b e => if b.2 < e.2 then e else b) (0, 0)

/-- The state of an array after a probe that started under these limits finds `d` (R280, R298). -/
def XArr.probed (a : XArr) (dthr dhard d : Nat) : XArr :=
  if d ≤ dthr then a
  else if d ≤ dhard then
    match a.st with
    | .active => { a with st := .drifting }
    | .verified | .shadow => { a with cal := false }
    | _ => a
  else
    match a.st with
    | .verified | .shadow | .active | .drifting => { a with st := .degraded, cal := false }
    | _ => a

/-- XBPROBE ends: every dev_q goes to the array's drift monitor point, which is how a DRIFT event feeds it (R280, R288, R440). -/
def State.endProbe (s : State) (c q : Nat) (m : Cmd) : State :=
  let x := m.xb
  let (d, s) := s.draw
  let a := (s.core c).arr x.arr
  let devs := (List.range 512).map fun i =>
    let (off, g) := a.coefOf i
    (i, deviation off g (refSum d i 0) (refSum d i 1) (refSum d i 2) (refSum d i 3))
  let top := largest devs
  let s := s.putReport c q m (devs.flatMap fun e => leBytes 2 (Nat.min e.2 0xFFFF))
  let tb := s.timebase
  let s := s.updArr c x.arr fun a => { a.probed m.lims.1 m.lims.2 top.2 with d := Nat.min top.2 0xFFFF, qmax := top.1, tprobe := tb }
  let s := s.updMg fun g => devs.foldl (fun g e => g.sample (48 + c / 16) e.2) g
  s.endXb c q m 0 (boolNat (decide (m.lims.1 < top.2)) + 2 * boolNat (decide (m.lims.2 < top.2))) (xbProgWord top.2 top.1 0)

/-! ### XBMVM (R289 to R292) -/

/-- XBMVM: the read of a vector whose conversion may begin, else the start of a command. -/
def execXbmvm (c q : Nat) (s : State) : Res' :=
  if !s.running then .next s
  else
    match (s.core c).xbFirst q 4 (fun m => m.readDue s.now) (fun m => m.readFixed s.now) with
    | some m => .next (s.takeInput c q m)
    | none => startOp 4 c q s

/-- The results of a vector: for each selected logical column its value, and the slice columns that clamped, once for each plane. -/
def State.convertVector (s : State) (c : Nat) (m : Cmd) (v : List Byte) (d : Nat) : List (Nat × Int) × List Nat :=
  let x := m.xb
  let a := (s.core c).arr m.arr
  let acts := (List.range x.depth).map fun r => (64 * x.rg + r, ((v[r]?).getD 0).toNat)
  let ok := s.guaranteed c m.arr x.k (acts.map (·.1))
  let code := fun (j p h : Nat) =>
    let q := 2 * j + h
    let (off, g) := a.coefOf q
    pickCode ok off g (idealCode (a.planeSum acts q p) x.k) (Config.converterCode d q p % 1024)
  let cols := x.groups.flatMap fun g => (List.range 64).map fun j => 64 * g + j
  let clamps := cols.flatMap fun j => [0, 1].flatMap fun h => (List.range x.np).filterMap fun i =>
    let n := code j (7 - i) h
    if (n == 0 || n == 1023) && Config.overrange d (2 * j + h) (7 - i) then some (2 * j + h) else none
  (cols.map fun j => (j, xbColumn x.np x.k (fun h => a.coefOf (2 * j + h)) (fun p h => code j p h)), clamps)

/-- A clamp of a channel (R290). -/
def XArr.clamp (a : XArr) (q : Nat) : XArr := { a with clip := a.clip.put (false, 0) q (true, satAdd 32 (a.clipOf q).2 1) }

/-- The operations of the matrix queue on the command's tile, all of them earlier in commit order, have ended: only then does a vector enter
the tile (R162). -/
def Core.tileClear (k : Core) (m : Cmd) : Bool :=
  match k.tileOf m with
  | some p => !(k.mq.any fun o => decide (o.kind.tile = some p))
  | none => true

/-- A vector enters its tile row (R48). -/
def Core.deliverTile (k : Core) (m : Cmd) (row : Nat) (vals : List (Nat × Int)) : Core :=
  match k.tileOf m with
  | none => k
  | some p =>
    let v := k.tile p
    if v.st ≠ .accumulating then k
    else
      let get := fun j => ((vals.find? fun e => decide (e.1 % 64 = j)).map (·.2)).getD 0
      { k with tiles := k.tiles.put {} p (v.mapRow row fun j e => Elem.contribute v.anchor (e, false, false) (some (get j, 0))) }

/-- The clamps of a vector at the array's clip-rate monitor point (R290, R440). -/
def State.feedClamps (s : State) (c n : Nat) : State :=
  if n = 0 then s else s.updMg fun g => { g with clamps := g.clamps.put 0 (56 + c / 16) (g.clamps.get 0 (56 + c / 16) + n) }

/-- The results of a vector in spans of 64 bytes from offset `off` on. -/
def spansOf (off : Nat) (l : List Byte) : List (Nat × List Byte) :=
  (List.range (l.length / 64)).map fun i => (off + 64 * i, (l.drop (64 * i)).take 64)

/-- The next span of the vector that is being delivered: one in a cycle (R292). -/
def State.deliverSpan (s : State) (c q : Nat) (m : Cmd) (o : Nat × List Byte) (r : List (Nat × List Byte)) : State :=
  (s.spadStore c o.1 (o.2.map some) (queueAgent c q)).updCmd c q m.id fun n =>
    { n with out := r, lastAt := s.cycle, items := n.items + boolNat r.isEmpty }

/-- XBMVM_VECTOR_DELIVERY (R290 to R293): the conversions of a vector, and its tile row or its first span. -/
def State.deliver (s : State) (c q : Nat) (m : Cmd) (b : Input) : State :=
  let x := m.xb
  let (vals, clamps) := s.convertVector c m b.bytes b.drawn
  let s := (s.updArr c m.arr fun a => clamps.foldl XArr.clamp a).feedClamps c clamps.length
  let i32 := vals.map fun e => clampInt (-(2 ^ 31 : Nat)) (2 ^ 31 - 1 : Nat) e.2
  let sat := !x.dt && i32.any fun e => e.2 != 0
  let s := s.updTask m.task fun t => { t with cw2 := satAdd 64 t.cw2 1 }
  let s := s.updCmd c q m.id fun n => { n with buf := n.buf.drop 1, cnt := n.cnt + clamps.length, sat := n.sat || sat }
  if x.dt then
    (s.updCore c fun k => k.deliverTile m (x.trow + m.items) vals).updCmd c q m.id fun n => { n with items := n.items + 1, lastAt := s.cycle }
  else
    match spansOf (x.roff + m.items * x.outRow) (i32.flatMap fun e => leBytes 4 (fieldOf 32 e.1)) with
    | [] => s
    | o :: r => s.deliverSpan c q m o r

/-- An array whose channel registers hold a parity error (R293). -/
def State.parityEnd (s : State) (c q : Nat) (m : Cmd) : State :=
  let s := s.updArr c m.arr fun a => { a with st := .degraded, cal := false }
  (s.escalate { what := "crossbar register parity", core := c, ctx := m.ctx }).endXb c q m 1 0x10 m.xbPart

def State.stepVector (s : State) (c q : Nat) (m : Cmd) : State :=
  match m.out, m.buf with
  | o :: r, _ => s.deliverSpan c q m o r
  | [], [] => s
  | [], b :: _ =>
    if b.poison then s.endXb c q m 1 0x10 m.xbPart
    else if !((s.core c).arr m.arr).parity.isEmpty then s.parityEnd c q m
    else s.deliver c q m b

/-- The delivery of the next vector, or of the next span of one, is due (R292). -/
def Cmd.deliveryDue (m : Cmd) (now cycle : Nat) : Bool :=
  (m.lastAt == 0 || decide (m.lastAt < cycle)) &&
    (!m.out.isEmpty || (match m.buf with
      | b :: _ => decide ((if b.poison then b.at_ else b.due + 36 * 24) ≤ now)
      | [] => false))

/-- The place of the next span or tile row takes it in this cycle (R162, R168). -/
def Core.deliveryOpen (k : Core) (m : Cmd) (cycle : Nat) : Bool :=
  if m.xb.dt then k.tileClear m
  else match m.out with
    | o :: _ => k.portFree cycle o.1 64
    | [] => k.portFree cycle (m.xb.roff + m.items * m.xb.outRow) 64

def execXbmvmVectorDelivery (c q id : Nat) (s : State) : Res' :=
  match if q = 4 ∨ q = 5 then (s.core c).cmd q id else none with
  | some m =>
    runEvent (s.running && decide (m.st = 1 ∧ m.xop = 4) && m.deliveryDue s.now s.cycle && (s.core c).deliveryOpen m s.cycle)
      (fun s => s.stepVector c q m) s
  | none => .next s

/-- An XBMVM ends, its vectors all delivered or stopped between them (R291, R293). -/
def State.endMvm (s : State) (c q : Nat) (m : Cmd) (stop : Option Nat) : State :=
  let a := (s.core c).arr m.arr
  let detail := boolNat m.sat + 2 * boolNat (decide (a.st = .drifting)) + 4 * boolNat (!a.cal || m.xb.k != a.kcal)
  s.endXb c q m (stop.getD (if m.cnt = 0 then 0 else 7)) detail (xbProgWord m.cnt m.completed 0)

/-- The engine port takes the report of a command that ends (R168, R286 to R288). -/
def Core.reportPort (k : Core) (m : Cmd) (cycle : Nat) : Bool :=
  decide (m.xop = 0 ∨ m.xop = 4) || m.xb.roff == 0 || k.portFree cycle m.xb.roff m.xb.reportBytes

/-- How a started crossbar command ends in this cycle, if it does (R284 to R293). -/
def State.xbEnd (s : State) (c q : Nat) (m : Cmd) : Option State :=
  let x := m.xb
  let stop := if !m.revoked.isEmpty then some 5 else if m.stopping then some 2 else none
  let par := !((s.core c).arr m.arr).parity.isEmpty
  match x.op with
  | 0 =>
    if m.inRef || !m.buf.isEmpty then none
    else match stop with
      | some st => some (s.endXb c q m st 0 m.xbPart)
      | none => if m.items = x.nr then some (s.endXb c q m 0 0 m.xbPart) else none
  | 4 =>
    if !m.buf.isEmpty || !m.out.isEmpty then none
    else if stop.isSome || m.items = x.nv then some (s.endMvm c q m stop)
    else none
  | op =>
    match stop with
    | some st => some (s.endXb c q m st 0 (if op = 1 then xbProgWord 0 m.items 0 else 0))
    | none =>
      if op = 1 then (if m.items = x.nr then some (if par then s.parityEnd c q m else s.endVerify c q m) else none)
      else if s.now < m.tAt then none
      else if par then some (s.parityEnd c q m)
      else some (if op = 2 then s.endCal c q m else s.endProbe c q m)

/-- A stop or a save finds inputs that have been read ahead: their rows and vectors do not begin (R293). -/
def dropAhead (now q : Nat) (m : Cmd) : Cmd :=
  if (q = 4 ∨ q = 5) ∧ (m.stopping ∨ m.hold) ∧ m.xop ≠ 1 then { m with buf := m.buf.filter fun b => decide (b.at_ ≤ now) } else m

/-! ### The crossbar instructions (R294 to R301) -/

/-- The array is in the mask of the issuing context's task. -/
def State.arrOk (s : State) (a : Nat) : Bool := match s.myTask with | some t => t.img.xbarrays.testBit a | none => false

/-- Bits `[n - 1 : lo]` and above of a word that must be zero, with [63:hi]. -/
def mbzBits (w : Word) (lo hi : Nat) : Bool := getField w lo (hi - lo) == 0

/-- The checks that every crossbar instruction makes on its registers (R301): poison, the must-be-zero bits of s[a], further tests of the
values, then the array. -/
def xbGuard (s : State) (a : Nat) (b : Option Nat) (okA okB : Word → Bool) (mask : Bool) (k : Word → Word → Except (Nat × Option Word) State) :
    Except (Nat × Option Word) State :=
  let u := s.rs a
  let v : SVal := match b with | some b => s.rs b | none => {}
  if u.poison || v.poison then poisonFault
  else if !okA u.val then .error (3, some u.val)
  else if !okB v.val then .error (3, some v.val)
  else if mask && !s.arrOk (getField u.val 0 5) then .error (0x38, some u.val)
  else k u.val v.val

/-- Only the array number is set. -/
def plainArr (w : Word) : Bool := getField w 5 59 == 0

/-- The array number with a field in [17:8]. -/
def fieldArr (w : Word) : Bool := getField w 18 46 == 0 && getField w 5 3 == 0

/-- The changes that a swap of `x` makes, where it is accepted (R295). -/
def Core.swapOf (k : Core) (x : Nat) : Option (List (Nat × XState)) :=
  let a := k.arr x
  if k.paired x then
    let y := partner x
    let b := k.arr y
    if a.serves then (if b.ready then some [(y, .active), (x, .shadow)] else none)
    else if b.serves then (if a.ready then some [(x, .active), (y, .shadow)] else none)
    else if a.ready then some [(x, .active)]
    else none
  else if a.ready then some [(x, .active)]
  else if a.serves then some [(x, .shadow)]
  else none

/-- A swap or retirement of the array or of its partner is pending (R295). -/
def Core.pairPending (k : Core) (x : Nat) : Bool :=
  let f := fun (a : XArr) => a.swapPend || a.retPend
  f (k.arr x) || (k.paired x && f (k.arr (partner x)))

def execXbswap (pd a : Nat) (s : State) : Res' :=
  runSlot 6
    { names := fun x => [x.pReg pd, x.sReg a]
      run := fun s => xbGuard s a none plainArr (fun _ => true) true fun u _ =>
        let x := getField u 0 5
        let k := s.myCore
        if !k.pairPending x && (k.swapOf x).isSome then
          .ok ((s.updArr s.iss.core x fun r => { r with swapPend := true, pendAt := s.cycle }).emitP pd true)
        else .ok (s.emitP pd false) } s

/-- A pending change of array `x` may take effect in this cycle: a swap once neither array of a pair runs a command, a retirement once `x`
runs none (R295, R300). -/
def Core.canApplyX (k : Core) (x cycle : Nat) (both : Bool) (p : XArr → Bool) : Bool :=
  let a := k.arr x
  p a && decide (a.pendAt < cycle) && k.arrayFree x cycle && (!both || !k.paired x || k.arrayFree (partner x) cycle)

def State.takeSwap (s : State) (c x : Nat) : State :=
  s.updCore c fun k =>
    match k.swapOf x with
    | some l => l.foldl (fun k e => k.updArr e.1 fun r => { r with st := e.2 }) (k.updArr x fun r => { r with swapPend := false })
    | none => k.updArr x fun r => { r with swapPend := false, swdrop := true }

def execXbswapTakeEffect (c arr : Nat) (s : State) : Res' :=
  runEvent ((s.core c).canApplyX arr s.cycle true (·.swapPend)) (fun s => s.takeSwap c arr) s

def execXbretire (pd a : Nat) (s : State) : Res' :=
  runSlot 6
    { decode := fun s => if !s.me.mode then some 4 else none
      names := fun x => [x.pReg pd, x.sReg a]
      run := fun s => xbGuard s a none plainArr (fun _ => true) false fun u _ =>
        let x := getField u 0 5
        let k := s.myCore
        let swap := (k.arr x).swapPend || (k.paired x && (k.arr (partner x)).swapPend)
        if (k.arr x).st ≠ .retired ∧ !(k.arr x).retPend ∧ !swap then
          .ok ((s.updArr s.iss.core x fun r => { r with retPend := true, pendAt := s.cycle }).emitP pd true)
        else .ok (s.emitP pd false) } s

def State.takeRetire (s : State) (c x : Nat) : State :=
  let s := s.updCore c fun k =>
    (k.updArr (x / 2 * 2) fun r => { r with pair := false }).updArr x fun r => { r with st := .retired, retPend := false }
  s.escalate { what := "crossbar array retired", core := c, cause := x }

def execXbretireTakeEffect (c arr : Nat) (s : State) : Res' :=
  runEvent ((s.core c).canApplyX arr s.cycle false (·.retPend)) (fun s => s.takeRetire c arr) s

def xstateCode : XState → Nat
  | .empty => 0
  | .programming => 1
  | .verified => 2
  | .active => 3
  | .shadow => 4
  | .drifting => 5
  | .degraded => 6
  | .retired => 7

/-- The words of `xbstat` (R296). -/
def Core.xbstat (k : Core) (x sel : Nat) : Word :=
  let a := k.arr x
  let maxRow := a.rows.foldl (fun n e => Nat.max n e.2) 0
  match sel with
  | 0 =>
    wordOf (xstateCode a.st * 2 ^ 60 + boolNat a.cal * 2 ^ 59 + boolNat (k.paired x) * 2 ^ 58 + boolNat (k.arrayBusy x) * 2 ^ 57
      + boolNat a.eol * 2 ^ 56 + a.kcal % 8 * 2 ^ 53 + boolNat a.swdrop * 2 ^ 52 + a.pgm.toNat * 2 ^ 32 + a.dhard % 256 * 2 ^ 24
      + a.dthr % 256 * 2 ^ 16 + a.spare.length % 64)
  | 1 => wordOf (Nat.min maxRow (2 ^ 32 - 1) * 2 ^ 32 + a.total)
  | 2 => wordOf (a.d % 2 ^ 16 * 2 ^ 48 + a.qmax % 2 ^ 10 * 2 ^ 38 + bitsOf 16 32 a.tprobe)
  | _ => wordOf (a.spare.foldl (fun n e => n + 2 ^ e.1) 0 % 2 ^ 32)

def execXbstat (b a sel : Nat) (s : State) : Res' :=
  runSlot 6
    { names := fun x => [x.sReg b, x.sReg a]
      run := fun s => xbGuard s a none plainArr (fun _ => true) true fun u _ => .ok (s.emitS b (s.myCore.xbstat (getField u 0 5) sel) 3) } s

/-- A spare number or the code that clears (R297). -/
def spareArg (w : Word) : Bool := decide (w.toNat < 32 ∨ w.toNat = 63)

/-- `xbremap` accepts (R297). -/
def Core.remapOk (k : Core) (x pos sp : Nat) : Bool :=
  let a := k.arr x
  let mapped := a.spare.any fun e => decide (e.2 = pos + 1)
  decide (a.st = .empty ∨ a.st = .programming ∨ a.st = .verified ∨ a.st = .shadow ∨ a.st = .degraded) && !k.arrayBusy x &&
    (if sp = 63 then mapped else !mapped && a.spare.get 0 sp == 0)

def XArr.remap (a : XArr) (pos sp : Nat) : XArr :=
  { a with cal := false, st := if a.st = .verified ∨ a.st = .shadow then .programming else a.st
           spare := if sp = 63 then a.spare.filter (fun e => decide (e.2 ≠ pos + 1)) else a.spare.put 0 sp (pos + 1) }

def execXbremap (pd a b : Nat) (s : State) : Res' :=
  runSlot 6
    { names := fun x => [x.pReg pd, x.sReg a, x.sReg b]
      run := fun s => xbGuard s a (some b) fieldArr spareArg true fun u v =>
        let x := getField u 0 5
        let pos := getField u 8 10
        if s.myCore.remapOk x pos v.toNat then .ok ((s.updArr s.iss.core x fun r => r.remap pos v.toNat).emitP pd true)
        else .ok (s.emitP pd false) } s

/-- `xbcfg` accepts (R298). -/
def State.cfgOk (s : State) (x : Nat) (v : Word) : Bool :=
  let k := s.myCore
  let pair := v.getLsbD 0
  let change := x % 2 == 0 && pair != (k.arr x).pair
  let either := fun (f : Nat → Bool) => f x || f (partner x)
  decide (getField v 16 8 ≤ getField v 24 8) && !(pair && x % 2 == 1) &&
    !(change && (either (fun y => (k.arr y).serves || k.arrayBusy y || (k.arr y).swapPend) || !s.arrOk (partner x)))

def XArr.cfg (a : XArr) (x : Nat) (v : Word) : XArr :=
  { a with dhard := getField v 24 8, dthr := getField v 16 8, pair := if x % 2 = 0 then v.getLsbD 0 else a.pair }

def execXbcfg (pd a b : Nat) (s : State) : Res' :=
  runSlot 6
    { names := fun x => [x.pReg pd, x.sReg a, x.sReg b]
      run := fun s => xbGuard s a (some b) plainArr (fun v => getField v 32 32 == 0 && getField v 1 15 == 0) true fun u v =>
        let x := getField u 0 5
        if v.getLsbD 0 && !s.arrOk (partner x) then .error (0x38, some u)
        else if s.cfgOk x v then .ok ((s.updArr s.iss.core x fun r => r.cfg x v).emitP pd true)
        else .ok (s.emitP pd false) } s

/-- s[a] of `xbcol`: an array and a slice column (R299). -/
def colArg (w : Word) : Bool := fieldArr w && decide (getField w 8 10 < 512)

def XArr.coefWord (a : XArr) (q : Nat) : Word := wordOf (fieldOf 16 (a.coefOf q).1 * 2 ^ 16 + (a.coefOf q).2 % 2 ^ 16)

def XArr.clipWord (a : XArr) (q : Nat) : Word := wordOf (boolNat (a.clipOf q).1 * 2 ^ 63 + (a.clipOf q).2 % 2 ^ 32)

/-- A read of a column register, and what follows it. -/
def xbcolRead (b a : Nat) (f : XArr → Nat → Word) (g : State → Nat → Nat → State) : SlotOp where
  names x := [x.sReg b, x.sReg a]
  run s := xbGuard s a none colArg (fun _ => true) true fun u _ =>
    let x := getField u 0 5
    let q := getField u 8 10
    .ok (g (s.emitS b (f (s.myCore.arr x) q) 3) x q)

def execXbcolCoef (b a : Nat) (s : State) : Res' := runSlot 6 (xbcolRead b a XArr.coefWord fun s _ _ => s) s

def execXbcolClip (b a : Nat) (s : State) : Res' := runSlot 6 (xbcolRead b a XArr.clipWord fun s _ _ => s) s

def XArr.clipclr (a : XArr) (q : Nat) : XArr :=
  { a with clip := a.clip.put (false, 0) q (false, 0), swdrop := if q = 0 then false else a.swdrop }

def execXbcolClipclr (b a : Nat) (s : State) : Res' := runSlot 6 (xbcolRead b a XArr.clipWord fun s x q => s.updArr s.iss.core x fun r => r.clipclr q) s

def XArr.setCoef (a : XArr) (q : Nat) (v : Word) : XArr :=
  { a with coef := a.coef.put (0, 0x4000) q (sextNat 16 (getField v 16 16), getField v 0 16), cal := false, parity := a.parity.put false q false }

def execXbcolSet (pd a b : Nat) (s : State) : Res' :=
  runSlot 6
    { names := fun x => [x.pReg pd, x.sReg a, x.sReg b]
      run := fun s => xbGuard s a (some b) colArg (fun v => getField v 32 32 == 0) true fun u v =>
        let x := getField u 0 5
        if s.myCore.arrayBusy x then .ok (s.emitP pd false)
        else .ok ((s.updArr s.iss.core x fun r => r.setCoef (getField u 8 10) v).emitP pd true) } s

end Sys2Proof.Machine
end

