-- ==== Sys2Proof/Machine/Call.lean ====
section
/-! DEFINITION. Remote calls (R394 to R415): the call, its message and executor, the words of a callable, replies and notices, the
collection of a reply, and the calls of cq6. -/

namespace Sys2Proof.Machine

/-! ### Executors and the callable table (R336, R394, R395) -/

def State.executor (s : State) : ExecId → Exec
  | .vault v => s.vaultEx.get {} v
  | .hbm st => s.hbmEx.get {} st

def State.updExec (s : State) (e : ExecId) (f : Exec → Exec) : State :=
  match e with
  | .vault v => { s with vaultEx := s.vaultEx.put {} v (f (s.vaultEx.get {} v)) }
  | .hbm st => { s with hbmEx := s.hbmEx.put {} st (f (s.hbmEx.get {} st)) }

/-- Call slots of an executor (R394). -/
def callSlots : ExecId → Nat
  | .vault _ => 8
  | .hbm _ => 64

/-- The executor of a device physical address of this chip; none for a peer chip's and for tier 11 (R395). -/
def execAt (a : Nat) : Option ExecId :=
  match tierOf a with
  | 0 => some (.vault (vaultOf a))
  | 1 => some (.hbm (stackOf (hbmOff a)))
  | _ => none

/-- Entry `fn` of the callable table of an image: the byte offset in `.text`, where the entry is VALID (R336). -/
def State.callable (s : State) (img : Image) (fn : Nat) : Option Nat :=
  if img.ctN ≤ fn then none
  else
    let e := readNat s.mem (img.base + img.ctOff + 8 * fn) 8
    if bitOf 63 e then some (bitsOf 0 18 e) else none

/-! ### Reply slots (R399, R400) -/

def Ctx.reply (x : Ctx) (n : Nat) : Reply := x.y.get {} n

def Ctx.putReply (x : Ctx) (n : Nat) (r : Reply) : Ctx := { x with y := x.y.put {} n r }

/-- The status word of a slot (R400). -/
def Reply.word (r : Reply) : Word :=
  let pois := (r.vals.foldr (fun v n => boolNat v.poison + 2 * n) 0) % 16
  wordOf (r.st % 4 * 2 ^ 62 + boolNat r.pend * 2 ^ 61 + r.status % 256 * 2 ^ 48 + r.cause % 256 * 2 ^ 40 + r.nv % 8 * 2 ^ 37
    + pois * 2 ^ 28 + r.fn % 2 ^ 12 * 2 ^ 16 + r.seq % 2 ^ 16)

/-! ### rcall (R396 to R398) -/

/-- The handles that `rcall` names: the target and the extras. -/
def callHandles (h nx xa xb : Nat) : List Nat := h :: ((if 1 ≤ nx then [xa] else []) ++ (if 2 ≤ nx then [xb] else []))

/-- The scalars that a mask sends: s1 to s8, 0 where a bit is clear (R396, R401). -/
def Ctx.sent (x : Ctx) (smask : Nat) : List SVal := (List.range 8).map fun i => if smask.testBit i then x.readS (i + 1) else {}

def State.myImage (s : State) : Image := match s.myTask with | some t => t.img | none => {}

/-- The faults of R397, in order. -/
def State.callCheck (s : State) (y h a fn nx xa xb : Nat) : Option (Nat × Option Word) :=
  let o := s.rs a
  let hd := s.me.readH h
  let va := some (hd.vpage + o.val)
  let extra := (callHandles h nx xa xb).drop 1 |>.map s.me.readH
  if o.poison then some (0x10, none)
  else if (s.callable s.myImage fn).isNone then some (3, some (wordOf fn))
  else if (s.me.reply y).st = 1 then some (3, some (wordOf y))
  else if !hd.valid || decide (hd.bytes ≤ o.val.toNat) then some (0x0A, va)
  else if hd.lost then some (0x0D, va)
  else if tierOf (hd.frame + o.val.toNat) = 3 then some (9, va)
  else match extra.find? fun e => !e.valid with
    | some e => some (0x0A, some e.vpage)
    | none => none

/-- The call of R398: its message, its slot and its sequence number. A call to a peer chip goes by its link (R395). -/
def State.call (s : State) (y h a fn smask nx xa xb : Nat) : State :=
  let x := s.me
  let c := s.iss.core
  let hd := x.readH h
  let o := (s.rs a).val
  let nth := s.myCore.seq
  let seq := nth % 2 ^ 16
  let deadline := s.timebase + Nat.max (x.ctlGet 0x11).toNat 1000
  let m : CallMsg :=
    { fn := fn, off := o, args := x.sent smask, target := hd
      extra1 := if 1 ≤ nx then some (x.readH xa) else none
      extra2 := if 2 ≤ nx then some (x.readH xb) else none
      seq := seq, nth := nth, chip := s.chip, core := c, ctx := s.iss.ctx, slot := y, deadline := deadline, task := x.task.getD 0, img := s.myImage }
  let s := s.updMyCore fun k => { k with seq := nth + 1 }
  let s := s.updMe fun x => x.putReply y { st := 1, fn := fn, seq := seq, deadline := deadline }
  let a := hd.frame + o.toNat
  match execAt a with
  | some e => s.sendMsg (.call e m)
  | none => ({ s with away := s.away ++ [(s.ids, m)], ids := s.ids + 1 } : State).sendPeer (chipOf a) (.call m)

def rcallOp (y h a fn smask : Nat) (rel : Bool) (nx xa xb : Nat) : SlotOp where
  decode := handleDecode (callHandles h nx xa xb)
  names x :=
    x.sReg a :: (((List.range 8).filter fun i => smask.testBit i).map (fun i => x.sReg (i + 1)) ++ (callHandles h nx xa xb).map .h)
  waits _ := .acquire :: .calls :: waitsIf rel [.earlier false]
  run s :=
    match s.callCheck y h a fn nx xa xb with
    | some e => .error e
    | none => .ok (s.call y h a fn smask nx xa xb).cancelPoint

def execRcall (y h a fn smask : Nat) (rel : Bool) (nx xa xb : Nat) (s : State) : Res' :=
  runSlot 6 (rcallOp y h a fn smask rel nx xa xb) s

/-! ### rwait and rpoll (R410, R411) -/

/-- The slot as it stood when the bundle was opened. -/
def State.replyAt (s : State) (y : Nat) : Reply := s.iss.y0.get {} y

/-- The slot becomes FREE, unless a call of the same bundle has taken it. -/
def Ctx.freeReply (x : Ctx) (y : Nat) : Ctx := if (x.reply y).st = 1 then x else x.putReply y {}

def rwaitOp (ord : MemOrd) (y d pd : Nat) (trap : Bool) : SlotOp where
  names x := (List.range 5).map (fun i => x.sReg (d + i)) ++ [x.pReg pd]
  waits _ := .reply y :: waitsIf (ordAcq ord) [.replyPend y]
  run s :=
    let r := s.replyAt y
    let put := fun (s : State) (w : Word) (val : Nat → SVal) =>
      (List.range 4).foldl (fun s i => s.emitS (d + 1 + i) (val i).val 3 (val i).poison) (s.emitS d w 3)
    if r.st = 0 then .ok ((put s 0 fun _ => {}).emitP pd false)
    else if trap ∧ (r.status = 1 ∨ r.status = 4) then .error (if r.status = 1 then 0x20 else 0x21, some r.word)
    else .ok (((put s r.word fun i => (r.vals[i]?).getD {}).emitP pd (r.status == 0)).updMe fun x => x.freeReply y)

def execRwait (ord : MemOrd) (y d pd : Nat) (trap : Bool) (s : State) : Res' := runSlot 7 (rwaitOp ord y d pd trap) s

def execRpoll (y a pd : Nat) (s : State) : Res' :=
  runSlot 7
    { names := fun x => [x.sReg a, x.pReg pd]
      run := fun s => let r := s.replyAt y; .ok ((s.emitS a r.word 3).emitP pd (r.st == 2)) } s

/-! ### The message and the start of a call (R401, R408) -/

/-- The executor has accepted the message with this SEQ within the last 2^15 sequence values of the core (R408): SEQ comes back only after
2^16 calls, so that the call's own number decides. -/
def Exec.accepted (e : Exec) (m : CallMsg) : Bool :=
  m.cmd.isNone && e.seen.any fun t => decide (t.1 = m.chip ∧ t.2.1 = m.core ∧ t.2.2 = m.nth)

/-- The accepted numbers that still count after `m`: those of other cores and the last 2^15 of its own. -/
def Exec.accept (e : Exec) (m : CallMsg) : Exec :=
  let keep := e.seen.filter fun t => !decide (t.1 = m.chip ∧ t.2.1 = m.core ∧ t.2.2 + 2 ^ 15 ≤ m.nth)
  { e with seen := (m.chip, m.core, m.nth) :: keep }

def Msg.find (s : State) (id : Nat) : Option Msg := (s.msgs.find? fun m => decide (m.id = id)).map (·.msg)

def State.dropMsg (s : State) (id : Nat) : State := { s with msgs := s.msgs.filter fun m => decide (m.id ≠ id) }

/-- CALL_MESSAGE_ARRIVE: the message waits in the input buffer, or is dropped as a duplicate (R408). -/
def execCallMessageArrive (id : Nat) (s : State) : Res' :=
  match Msg.find s id with
  | some (.call e m) =>
    let s := s.dropMsg id
    .next (if (s.executor e).accepted m then s else s.updExec e fun x => { x.accept m with buf := x.buf ++ [(id, m)] })
  | _ => .next s

/-- A call ends without having run, or at its end: the reply to its caller, by a link to a caller of another chip, or the end of its command
(R407, R408, R413). -/
def State.replyCall (s : State) (m : CallMsg) (id status cause : Nat) (vals : List SVal) (words : Nat) : State :=
  match m.cmd with
  | some q => s.updCmd m.core 6 q fun n => { n with note := true, status := status, detail := cause, values := vals, items := words }
  | none =>
    let pend := s.callStores.any fun t => decide (t.call = id)
    let s := if pend then { s with pendCalls := s.pendCalls ++ [(id, m)] } else s
    if m.chip = s.chip then s.sendMsg (.reply m id status cause vals pend) else s.sendPeer m.chip (.reply m id status cause vals pend)

/-- The first free slot of an executor. -/
def Exec.freeSlot (e : Exec) (n : Nat) : Option Nat := (List.range n).find? fun i => !(e.slots.any fun t => decide (t.1 = i))

/-- A handle that a call carries has been revoked (R223). -/
def CallMsg.revoked (m : CallMsg) : Bool := !m.target.valid || (m.extra1.any fun h => !h.valid) || (m.extra2.any fun h => !h.valid)

/-- The call slot of a call that starts (R401). -/
def State.newCall (s : State) (id : Nat) (m : CallMsg) : CallSlot :=
  let regs := ((List.range 8).zip m.args).foldl (fun (t : SMap SVal) e => t.put {} (e.1 + 1) e.2) []
  { id := id, msg := m, s := regs.put {} 9 ⟨m.off, false⟩, pc := (s.callable m.img m.fn).getD 0, readyAt := s.now + 1 }

/-- CALL_START: the oldest message of the buffer meets a free slot (R401, R408). A revocation that has reached its handles ends it unstarted:
with FAULT, and a command of cq6 with REVOKED (R223). -/
def State.startCall (s : State) (e : ExecId) : State :=
  let x := s.executor e
  match x.buf, x.freeSlot (callSlots e) with
  | (id, m) :: r, some n =>
    let s := s.updExec e fun x => { x with buf := r }
    if m.cmd.isNone ∧ m.deadline ≤ s.timebase then s
    else if m.revoked then s.replyCall m id (if m.cmd.isSome then 5 else 1) (if m.cmd.isSome then 0 else 0x0A) [] 0
    else s.updExec e fun x => { x with slots := x.slots.insert n (s.newCall id m) }
  | _, _ => s

def execCallStart (e : ExecId) (s : State) : Res' := .next (s.startCall e)

/-! ### The words of a callable (R402 to R407) -/

/-- The opcodes of the remote subset (R403). -/
def remoteOpc (o : Nat) : Bool :=
  (1 ≤ o && o ≤ 3) || (0x0A ≤ o && o ≤ 0x21) || (0x24 ≤ o && o ≤ 0x2C) || o == 0x2F || o == 0x40 || o == 0x140 || o == 0x147 ||
    o == 0x180 || o == 0x183 || (0x185 ≤ o && o ≤ 0x18F) || o == 0x214

/-- A word of the subset that works on registers only: its scalar registers, its predicates and its effect. -/
def remoteAlu : Instr → Option (List Nat × List Nat × (State → Res'))
  | .add d a b => some ([d, a, b], [], execAdd d a b)
  | .sub d a b => some ([d, a, b], [], execSub d a b)
  | .mul d a b => some ([d, a, b], [], execMul d a b)
  | .min d a b => some ([d, a, b], [], execMin d a b)
  | .max d a b => some ([d, a, b], [], execMax d a b)
  | .minu d a b => some ([d, a, b], [], execMinu d a b)
  | .maxu d a b => some ([d, a, b], [], execMaxu d a b)
  | .and d a b => some ([d, a, b], [], execAnd d a b)
  | .or d a b => some ([d, a, b], [], execOr d a b)
  | .xor d a b => some ([d, a, b], [], execXor d a b)
  | .andn d a b => some ([d, a, b], [], execAndn d a b)
  | .shl d a b => some ([d, a, b], [], execShl d a b)
  | .shr d a b => some ([d, a, b], [], execShr d a b)
  | .sra d a b => some ([d, a, b], [], execSra d a b)
  | .rotl d a b => some ([d, a, b], [], execRotl d a b)
  | .clz d a => some ([d, a], [], execClz d a)
  | .ctz d a => some ([d, a], [], execCtz d a)
  | .popc d a => some ([d, a], [], execPopc d a)
  | .bext d a p n => some ([d, a], [], execBext d a p n)
  | .bins d a b p n => some ([d, a, b], [], execBins d a b p n)
  | .sext d a w => some ([d, a], [], execSext d a w)
  | .cmp cc d a b => some ([a, b], [d], execCmp cc d a b)
  | .pand d a b => some ([], [d, a, b], execPand d a b)
  | .por d a b => some ([], [d, a, b], execPor d a b)
  | .pxor d a b => some ([], [d, a, b], execPxor d a b)
  | .pandn d a b => some ([], [d, a, b], execPandn d a b)
  | .sel d c a b => some ([d, a, b], [c], execSel d c a b)
  | .addi d a i => some ([d, a], [], execAddi d a i)
  | .andi d a i => some ([d, a], [], execAndi d a i)
  | .ori d a i => some ([d, a], [], execOri d a i)
  | .xori d a i => some ([d, a], [], execXori d a i)
  | .shli d a n => some ([d, a], [], execShli d a n)
  | .shri d a n => some ([d, a], [], execShri d a n)
  | .srai d a n => some ([d, a], [], execSrai d a n)
  | .cmpi cc d a i => some ([a], [d], execCmpi cc d a i)
  | .lih d i => some ([d], [], execLih d i)
  | .lim d i => some ([d], [], execLim d i)
  | _ => none

/-- An access of the subset: load, store or atomic, with its order, its address, its registers and its bytes. -/
inductive RemoteAcc where
  | load (d : Nat)
  | loadX (d : Nat)
  | store (d : Nat)
  | storeX (d : Nat)
  | amo (op : AmoOp) (d b c : Nat)
  deriving DecidableEq, Repr

def remoteMem : Instr → Option (RemoteAcc × MemOrd × Addr × Nat)
  | .ld sz o _ d ad => some (.load d, o, ad, sz)
  | .ldx o _ d ad => some (.loadX d, o, ad, 32)
  | .st sz o _ d ad => some (.store d, o, ad, sz)
  | .stx o _ d ad => some (.storeX d, o, ad, 32)
  | .amoAdd sz o _ d ad b => some (.amo .add d b 0, o, ad, sz)
  | .amoMin sz o _ d ad b => some (.amo .min d b 0, o, ad, sz)
  | .amoMax sz o _ d ad b => some (.amo .max d b 0, o, ad, sz)
  | .amoMinu sz o _ d ad b => some (.amo .minu d b 0, o, ad, sz)
  | .amoMaxu sz o _ d ad b => some (.amo .maxu d b 0, o, ad, sz)
  | .amoAnd sz o _ d ad b => some (.amo .and d b 0, o, ad, sz)
  | .amoOr sz o _ d ad b => some (.amo .or d b 0, o, ad, sz)
  | .amoXor sz o _ d ad b => some (.amo .xor d b 0, o, ad, sz)
  | .amoSwap sz o _ d ad b => some (.amo .swap d b 0, o, ad, sz)
  | .amoCas sz o _ d ad b c => some (.amo .cas d b c, o, ad, sz)
  | .amoFadd ty o _ d ad b => some (.amo (.fadd ty) d b 0, o, ad, ty.bits / 8)
  | _ => none

/-- The scalar registers of an access. -/
def RemoteAcc.regs : RemoteAcc → List Nat
  | .load d | .store d => [d]
  | .loadX d | .storeX d => [d, d + 3]
  | .amo _ d b c => [d, b, c]

def CallSlot.readS (t : CallSlot) (n : Nat) : SVal := if n = 0 then {} else t.s.get {} n
def CallSlot.readP (t : CallSlot) (n : Nat) : Bool := if n = 0 then true else t.p.get false n
def CallSlot.writeS (t : CallSlot) (n : Nat) (v : SVal) : CallSlot := if n = 0 then t else { t with s := t.s.put {} n v }

/-- h0 to h2 of the callee (R401). -/
def CallSlot.readH (t : CallSlot) (n : Nat) : Handle :=
  match n with
  | 0 => t.msg.target
  | 1 => t.msg.extra1.getD {}
  | _ => t.msg.extra2.getD {}

/-- What a word does to its call. -/
inductive WordOut where
  /-- the state with the word's effects on memory, and the slot with its effects on registers and on the sequence -/
  | go (s : State) (t : CallSlot)
  | fault (cause : Nat)
  /-- `rret` -/
  | ret (vals : List SVal)
  /-- the word has performed in part and goes on -/
  | more (s : State) (t : CallSlot)
  /-- the word waits for its value -/
  | wait

/-- A register word: its chapter's effect on the callee's registers, every result visible at once (R402, R403). -/
def remoteRun (s : State) (t : CallSlot) (f : State → Res') : WordOut :=
  let x : Ctx := { s := t.s, p := t.p, st := .running }
  let k : Core := { ctx := [(0, x)] }
  let u : State := { cores := [(0, k)] }
  match f u with
  | .next v =>
    let y := v.cx 0 0
    if y.mode then .fault (y.ctlGet 6).toNat
    else let y := y.landAll; .go s { t with s := y.s, p := y.p }
  | _ => .fault 1

/-- The agent that a call is (R446). -/
def callAgent (e : ExecId) (m : CallMsg) : Agent :=
  match e with
  | .vault v => .vaultExec v (boolNat m.cmd.isSome)
  | .hbm st => .hbmExec st

/-- Work at a vault home for the caller's task (R378). -/
def State.countVault (s : State) (task pa n : Nat) : State :=
  if tierOf pa = 0 then s.updTask task fun t => { t with cw4 := satAdd 64 t.cw4 n } else s

/-- A store of the call to a word of the access has not performed (R191 constraint 4, R404). -/
def State.callStoreMeets (s : State) (id pa n : Nat) : Bool :=
  s.callStores.any fun t => decide (t.call = id) && sharesWord pa n t.addr t.data.length

/-- Stores of a call to its target page have not performed (R200). -/
def State.targetOpen (s : State) (id : Nat) : Bool := s.callStores.any fun t => decide (t.call = id) && t.target

/-- The address lies in the target page of a call. -/
def CallMsg.inTarget (m : CallMsg) (a : Nat) : Bool := decide (m.target.frame ≤ a ∧ a < m.target.frame + m.target.bytes)

/-- A store to another home, or a read of device control, is issued (R404). -/
def State.issueCallStore (s : State) (e : ExecId) (t : CallSlot) (a : Nat) (data : List Byte) (read : Bool := false) : State :=
  { s with ids := s.ids + 1, callStores := s.callStores ++ [⟨s.ids, t.id, callAgent e t.msg, a, data, t.msg.inTarget a, read⟩] }

/-- The bytes of a load at a home, and its poison; a lost quarter gives a poisoned 0 (R185). -/
def State.remoteLoad (s : State) (pa n : Nat) (ag : Agent) : (List Byte × Bool) × State :=
  let s' := s.watchPhys pa n 1 ag
  if s.lostAt pa then ((List.replicate n 0, true), s') else (s.peek pa n, s')

/-- A store at a home. -/
def State.remoteStore (s : State) (pa : Nat) (data : List Byte) (ag : Agent) : State :=
  if s.lostAt pa then s else (s.poke pa (data.map some) false).watchPhys pa data.length 2 ag

/-- The registers of a load whose words have all come, each with its poison (R95, R173). -/
def CallSlot.loaded (t : CallSlot) (d : Nat) (l : List (List Byte × Bool)) : CallSlot :=
  ((List.range l.length).zip l).foldl (fun t e => t.writeS (d + e.1) ⟨wordOf (leNat e.2.1), e.2.2⟩) { t with part := none, back := none, asked := false }

/-- One 8-byte word of a load performs (R171); the last one completes it. -/
def remoteLoadWord (s : State) (e : ExecId) (t : CallSlot) (d n pa : Nat) (got : List (List Byte × Bool)) : WordOut :=
  let a := pa + 8 * got.length
  let w := Nat.min n 8
  if s.emptyIn a w || s.callStoreMeets t.id a w then .wait
  else
    let (v, s) := (s.countVault t.msg.task a w).remoteLoad a w (callAgent e t.msg)
    let got := got ++ [v]
    if 8 * got.length < n then .more s { t with part := some (pa, got) } else .go s (t.loaded d got)

/-- One 8-byte word of a store to the executor's own home performs; all of a store to another home is issued (R171, R404). -/
def remoteStoreWord (s : State) (e : ExecId) (t : CallSlot) (data : List (List Byte)) (pa : Nat) (done : List (List Byte × Bool)) : WordOut :=
  let i := done.length
  let a := pa + 8 * i
  if execAt pa = some e then
    let bs := (data[i]?).getD []
    let s := (s.countVault t.msg.task a bs.length).remoteStore a bs (callAgent e t.msg)
    if i + 1 < data.length then .more s { t with part := some (pa, done ++ [(bs, false)]) } else .go s { t with part := none }
  else
    .go (((List.range data.length).zip data).foldl (fun s b =>
      (s.countVault t.msg.task (pa + 8 * b.1) b.2.length).issueCallStore e t (pa + 8 * b.1) b.2) s) t

/-- A load or a store of a device-control register, which only an extra handle can name (R167, R397, R404). -/
def remoteReg (s : State) (e : ExecId) (t : CallSlot) (d : Nat) (data : Option (List Byte)) (pa : Nat) : WordOut :=
  match data, t.back with
  | some bs, _ => .go (s.issueCallStore e t pa bs) t
  | none, some bs => .go s (t.loaded d [(bs, false)])
  | none, none => if t.asked then .wait else .more (s.issueCallStore e t pa (List.replicate 8 0) true) { t with asked := true }

/-- The words of a load or store from the first one on, or from where it stands. -/
def remoteWords (s : State) (e : ExecId) (t : CallSlot) (d n pa : Nat) (data : Option (List (List Byte))) (done : List (List Byte × Bool)) : WordOut :=
  if tierOf pa = 3 then remoteReg s e t d (data.map List.flatten) pa
  else match data with
    | some l => remoteStoreWord s e t l pa done
    | none => remoteLoadWord s e t d n pa done

/-- The registers that a store of a callee writes. -/
def RemoteAcc.sources : RemoteAcc → List Nat
  | .store d => [d]
  | .storeX d => [d, d + 1, d + 2, d + 3]
  | .amo _ _ b c => [b, c]
  | _ => []

/-- The first register of a load. -/
def RemoteAcc.dest : RemoteAcc → Nat
  | .load d | .loadX d | .store d | .storeX d | .amo _ d _ _ => d

/-- An access word (R404). Its check is made once, as it begins. -/
def remoteAccess (s : State) (e : ExecId) (t : CallSlot) (acc : RemoteAcc) (ad : Addr) (n : Nat) : WordOut :=
  let base := t.readS ad.a
  let kind : AccKind := match acc with | .load _ | .loadX _ => .load | .store _ | .storeX _ => .store | .amo .. => .rmw
  let ag := callAgent e t.msg
  let srcs := acc.sources.map t.readS
  let data : Option (List (List Byte)) := match acc with
    | .store _ | .storeX _ => some (srcs.map fun v => leBytes (Nat.min n 8) v.val.toNat)
    | _ => none
  match t.part with
  | some (pa, done) => remoteWords s e t acc.dest n pa data done
  | none =>
  if base.poison then .fault 0x10
  else
    match handleCheck (t.readH ad.h) (base.val + wordOfInt ad.disp) n n kind true true with
    | .error (c, _) => .fault c
    | .ok (.spad _) => .fault 3
    | .ok (.home pa _ _) =>
      if srcs.any (·.poison) then .fault 0x12
      else match acc with
      | .amo op d b c =>
        let s1 := s.countVault t.msg.task pa n
        if s.emptyIn pa n || s.callStoreMeets t.id pa n then .wait
        else if s.lostAt pa then .go s1 (t.writeS d ⟨0, true⟩)
        else
          let ((bs, po), s2) := s1.amoPhys op pa n ((t.readS b).val.toNat % 2 ^ (8 * n)) ((t.readS c).val.toNat % 2 ^ (8 * n)) ag
          .go s2 (t.writeS d ⟨wordOf (leNat bs), po⟩)
      | _ => remoteWords s e t acc.dest n pa data []

/-- `rret` (R406): its fields, and the values it returns. -/
def remoteRet (t : CallSlot) (w : Word) : WordOut :=
  let n := getField w 25 3
  let a := getField w 19 6
  let rest := getField w 41 8 == 0 && getField w 28 13 == 0 && getField w 0 19 == 0
  if !rest || decide (4 < n) || decide (15 < a) || (n != 0 && decide (15 < a + n - 1)) then .fault 3
  else .ret ((List.range n).map fun i => t.readS (a + i))

/-- One word of a callable, its guard read under R53 (R402, R403). -/
def remoteWord (s : State) (e : ExecId) (t : CallSlot) (w : Word) : WordOut :=
  let opc := getField w 54 10
  let small := fun (l : List Nat) => l.all fun r => decide (r ≤ 15)
  let preds := fun (l : List Nat) => l.all fun r => decide (r ≤ 7)
  if !remoteOpc opc then .fault 1
  else if opc = 0x214 then
    if 7 < getField w 49 4 ∨ (getField w 49 4 = 0 ∧ w.getLsbD 53) then .fault 3
    else match remoteRet t w with
      | .ret vals => if t.readP (getField w 49 4) == w.getLsbD 53 then .go s t else .ret vals
      | r => r
  else
    match decodeSlot false (homeSlot w.toNat) w with
    | .error _ => .fault 3
    | .ok (g, i) =>
      let on := t.readP g.pred != g.neg
      if 7 < g.pred then .fault 3
      else match remoteAlu i, remoteMem i, i with
        | some (ss, ps, f), _, _ =>
          if !small ss || !preds ps then .fault 3 else if on then remoteRun s t f else .go s t
        | none, some (acc, ord, ad, n), _ =>
          if !small (ad.a :: acc.regs) || decide (2 < ad.h) || ad.sp || ord != .rlx then .fault 3
          else if on then remoteAccess s e t acc ad n else .go s t
        | none, none, .br off => if on then .go s { t with pc := relTarget t.pc off, word := 8 } else .go s t
        | none, none, _ => .fault 1

/-- The text of an image ends the call when it is left. -/
def CallSlot.inText (t : CallSlot) : Bool := decide (t.pc + 64 ≤ t.msg.img.textLen)

/-- The word that a call executes next. -/
def State.callWord (s : State) (t : CallSlot) : Word := wordOf (readNat s.mem (t.msg.img.base + t.msg.img.textOff + t.pc + 8 * t.word) 8)

/-- The slot moves to the next word; a taken branch has left `word` at 8 and `pc` at its target. -/
def CallSlot.nextWord (t t0 : CallSlot) : CallSlot :=
  if t.word = 8 then { t with word := 0 }
  else if t0.word = 7 then { t with pc := t0.pc + 64, word := 0 }
  else { t with word := t0.word + 1 }

/-- All-zero words are skipped and take no time (R402). -/
def State.skipZeros (s : State) : Nat → CallSlot → CallSlot
  | 0, t => t
  | n + 1, t => if t.inText && s.callWord t == 0 then s.skipZeros n (t.nextWord t) else t

/-- The call leaves its slot with a reply. -/
def State.endCall (s : State) (e : ExecId) (n : Nat) (t : CallSlot) (status cause : Nat) (vals : List SVal) : State :=
  (s.updExec e fun x => { x with slots := x.slots.erase n }).replyCall t.msg t.id status cause vals t.words

/-- The time after which the next word may execute: the next core cycle, or 1 ns (R394). -/
def wordTime (e : ExecId) (now : Nat) : Nat := match e with | .vault _ => now + 1 | .hbm _ => now + 36

/-- The call ends once its stores to its target page have performed (R200). -/
def State.endCallWhen (s : State) (e : ExecId) (n : Nat) (t : CallSlot) (status cause : Nat) (vals : List SVal) : State :=
  if s.targetOpen t.id then s else s.endCall e n t status cause vals

/-- REMOTE_CALL_WORD: the next word of a call, or the next part of an access word. -/
def State.stepCall (s : State) (e : ExecId) (n : Nat) (t0 : CallSlot) : State :=
  let t := s.skipZeros (t0.msg.img.textLen / 8 + 1) t0
  if !t.inText then s.endCallWhen e n t 1 1 []
  else
    match remoteWord s e t (s.callWord t) with
    | .wait => s
    | .more s u => s.updExec e fun x => { x with slots := x.slots.insert n u }
    | .fault c => s.endCallWhen e n { t with words := t.words + 1 } 1 c []
    | .ret vals => s.endCallWhen e n { t with words := t.words + 1 } 0 0 vals
    | .go s u =>
      let u := { u.nextWord t with words := t.words + 1, readyAt := wordTime e s.now }
      s.updExec e fun x => { x with slots := x.slots.insert n u }

def Exec.slot (e : Exec) (n : Nat) : Option CallSlot := (e.slots.find? fun t => decide (t.1 = n)).map (·.2)

def execRemoteCallWord (e : ExecId) (slot : Nat) (s : State) : Res' :=
  match (s.executor e).slot slot with
  | some t => runEvent (s.running && decide (t.words < 4096 ∧ t.readyAt ≤ s.now)) (fun s => s.stepCall e slot t) s
  | none => .next s

/-- CALL_WORD_LIMIT: 4,096 words without `rret` (R407). -/
def execCallWordLimit (e : ExecId) (slot : Nat) (s : State) : Res' :=
  match (s.executor e).slot slot with
  | some t => runEvent (s.running && decide (4096 ≤ t.words)) (fun s => s.endCallWhen e slot t 1 0x28 []) s
  | none => .next s

/-! ### Replies, notices and deadlines (R399, R408) -/

/-- A context takes replies: it has not been cancelled or killed (R375, R399). -/
def Ctx.takesReplies (x : Ctx) : Bool := !decide (x.st = .cancelled ∨ x.st = .free)

/-- The call of a slot to a peer chip is no longer out. -/
def State.callBack (s : State) (c x y seq : Nat) : State :=
  { s with away := s.away.filter fun e => !decide (e.2.core = c ∧ e.2.ctx = x ∧ e.2.slot = y ∧ e.2.seq = seq) }

/-- CALL_REPLY_ARRIVE: the slot with this SEQ that is WAITING becomes FULL; otherwise the reply is dropped (R399). -/
def execCallReplyArrive (id : Nat) (s : State) : Res' :=
  match Msg.find s id with
  | some (.reply m _ status cause vals pend) =>
    let s := (s.dropMsg id).callBack m.core m.ctx m.slot m.seq
    let r := (s.cx m.core m.ctx).reply m.slot
    .next <|
      if (s.cx m.core m.ctx).takesReplies ∧ r.st = 1 ∧ r.seq = m.seq then
        s.updCx m.core m.ctx fun x =>
          x.putReply m.slot { r with st := 2, pend := pend, status := status, cause := cause, nv := vals.length, vals := vals }
      else s
  | _ => .next s

/-- COMPLETION_NOTICE_SEND: every store of a call that replied with PEND has performed (R408). -/
def execCompletionNoticeSend (id : Nat) (s : State) : Res' :=
  match s.pendCalls.find? fun e => decide (e.1 = id) with
  | some (_, m) =>
    runEvent (!(s.callStores.any fun t => decide (t.call = id)))
      (fun s =>
        let s : State := { s with pendCalls := s.pendCalls.filter fun e => decide (e.1 ≠ id) }
        if m.chip = s.chip then s.sendMsg (.notice m) else s.sendPeer m.chip (.notice m)) s
  | none => .next s

/-- COMPLETION_NOTICE_ARRIVE (R399). -/
def execCompletionNoticeArrive (id : Nat) (s : State) : Res' :=
  match Msg.find s id with
  | some (.notice m) =>
    let s := s.dropMsg id
    let r := (s.cx m.core m.ctx).reply m.slot
    .next (if r.st = 2 ∧ r.seq = m.seq then s.updCx m.core m.ctx fun x => x.putReply m.slot { r with pend := false } else s)
  | _ => .next s

/-- CALL_DEADLINE: a WAITING slot whose deadline TIMEBASE has reached becomes FULL with LOST (R399). -/
def execCallDeadline (c x y : Nat) (s : State) : Res' :=
  let r := (s.cx c x).reply y
  runEvent (decide (r.st = 1 ∧ r.deadline ≤ s.timebase))
    (fun s => (s.callBack c x y r.seq).updCx c x fun z => z.putReply y { r with st := 2, status := 4, nv := 0, pend := false, vals := [] }) s

/-! ### cq6 (R413, R414) -/

/-- The handles of a KIND 2 command. -/
def Cmd.vxHandles (m : Cmd) : List Nat :=
  let nx := getField m.w1 58 2
  getField m.w1 60 4 :: getField m.w2 60 4 :: ((if 1 ≤ nx then [getField m.w1 54 4] else []) ++ (if 2 ≤ nx then [getField m.w1 50 4] else []))

/-- The address of the result record. -/
def Cmd.record0 (m : Cmd) : Nat := (m.snap (getField m.w2 60 4)).frame + getField m.w2 0 33

def Cmd.vxFieldsOk (m : Cmd) : Bool :=
  let nx := getField m.w1 58 2
  getField m.w1 33 5 == 0 && getField m.w2 33 27 == 0 && nx != 3 && (decide (1 ≤ nx) || getField m.w1 54 4 == 0) &&
    (decide (2 ≤ nx) || getField m.w1 50 4 == 0)

/-- A page that lies in vault `c`. -/
def Handle.inVault (h : Handle) (c : Nat) : Bool := h.tier == 0 && vaultOf h.frame == c && vaultOf (h.frame + h.bytes - 1) == c

/-- The first failing start check, if any (R413). -/
def State.vxCheck (s : State) (c : Nat) (m : Cmd) : Option Nat :=
  let hs := m.vxHandles.map m.snap
  let th := m.snap (getField m.w1 60 4)
  let rh := m.snap (getField m.w2 60 4)
  let roff := getField m.w2 0 33
  let img := match s.cmdTask m with | some t => t.img | none => {}
  orElse (failIf (!m.vxFieldsOk || (s.callable img (getField m.w1 38 12)).isNone) 3) <|
  orElse (failIf (hs.any fun h => !h.valid) 0x0A) <|
  orElse (failIf (hs.any fun h => h.lost) 0x0D) <|
  orElse (failIf (!rh.w || hs.any fun h => h.tier == 3) 9) <|
  orElse (failIf (!th.inVault c || !rh.inVault c) 3) <|
  orElse (failIf (roff % 32 != 0) 5) <|
  orElse (failIf (decide (rh.bytes < roff + 32)) 0x0A) <|
  failIf (s.emptyIn m.record0 32) 3

/-- VAULT_EXECUTOR_COMMAND: the start of a KIND 2 command: its result words become EMPTY and its call waits for a slot (R413, R414). One that
a revocation has reached before ends REVOKED (R223). -/
def State.startVx (s : State) (c : Nat) (m : Cmd) : State :=
  if !m.revoked.isEmpty then s.updCore c fun k => (k.endCmd 6 m.id 5 0 0).armQueue 6 s.cycle
  else match s.vxCheck c m with
  | some d => s.failStart c 6 m d 0
  | none =>
    let w := m.record0 / 8
    let nx := getField m.w1 58 2
    let call : CallMsg :=
      { fn := getField m.w1 38 12, off := wordOf (getField m.w1 0 33), args := [⟨m.w3, false⟩], target := m.snap (getField m.w1 60 4)
        extra1 := if 1 ≤ nx then some (m.snap (getField m.w1 54 4)) else none
        extra2 := if 2 ≤ nx then some (m.snap (getField m.w1 50 4)) else none
        seq := 0, nth := 0, chip := s.chip, core := c, ctx := m.ctx, slot := 0, deadline := 0, task := m.task
        img := match s.cmdTask m with | some t => t.img | none => {}
        cmd := some m.id }
    let s := s.startCmd c 6 m id
    let s := { s with empty := (List.range 4).foldl (fun e i => e.put false (w + i) true) s.empty }
    s.updExec (.vault c) fun x => { x with buf := x.buf ++ [(m.id, call)] }

def execVaultExecutorCommand (c : Nat) (s : State) : Res' :=
  match (s.core c).starts 6 s.cycle with
  | some m => .next (s.startVx c m)
  | none => .next s

/-- The result words that are still EMPTY are written, of a command that has not ended DONE all four as 0, and become FULL (R414). A poisoned
value poisons its line. -/
def State.putResults (s : State) (c : Nat) (m : Cmd) : State :=
  let ag := Agent.vaultExec c 1
  (List.range 4).foldl (fun s i =>
    let a := m.record0 + 8 * i
    let v : SVal := if m.status = 0 then (m.values[i]?).getD {} else {}
    if m.status ≠ 0 ∨ s.empty.get false (a / 8) then
      let s := if s.lostAt a then { s with empty := s.empty.put false (a / 8) false }
        else (s.poke a ((leBytes 8 v.val.toNat).map some) false).watchPhys a 8 2 ag
      if v.poison then s.setPoison none (a / 64) true else s
    else s) s

/-- A KIND 2 command whose callee has ended and whose stores have all performed reaches its status (R236, R413). -/
def State.finishVx (s : State) (c : Nat) (m : Cmd) : State :=
  (s.putResults c m).updCore c fun k => k.endCmd 6 m.id m.status m.detail (if m.status = 0 then m.items else 0)

def State.vxDone (s : State) (m : Cmd) : Bool := m.note && !(s.callStores.any fun t => decide (t.call = m.id))

/-! ### cq7 (R249) -/

/-- The note of a host-notify command (R247, R249). -/
def State.noteOf (s : State) (m : Cmd) : List Word :=
  let l : Option Launch := (s.cmdTask m).bind fun t => s.launches.get none t.launch
  let (lq, seq) := match l with | some l => (l.lq, l.seq) | none => (0, 0)
  [wordOf (2 ^ 62 + lq % 32 * 2 ^ 32 + seq % 2 ^ 32), m.w1, m.w2, m.w3] ++ List.replicate 12 0

/-- Every access of the pushing context committed before the push has performed. -/
def State.noteReady (s : State) (c : Nat) (m : Cmd) : Bool :=
  !m.note && !((s.accsOf c m.ctx).any fun a => decide (a.step < m.step)) && decide (s.holding.length < 512)

/-- HOST_NOTIFY_COMMAND: the note of a started command enters the holding buffer, or a command starts (R248, R249). -/
def execHostNotifyCommand (c : Nat) (s : State) : Res' :=
  match ((s.core c).running 7).find? (fun m => !m.unchecked && s.noteReady c m) with
  | some m =>
    .next (({ s with holding := s.holding ++ [{ words := s.noteOf m, cmd := some (c, m.id) }] } : State).updCmd c 7 m.id fun n => { n with note := true })
  | none =>
    match (s.core c).starts 7 s.cycle with
    | some m => .next (s.startCmd c 7 m id)
    | none => .next s

/-! ### The end of a command (R236) -/

/-- A started command that reaches its status in this cycle. -/
def State.finish (s : State) (c q : Nat) (m : Cmd) : Option State :=
  if m.st ≠ 1 ∨ m.unchecked then none
  else if q < 4 then
    if s.beatsOf m.id || !(s.core c).kvPort s.cycle m.copy then none else (m.copyEnd s.cycle).map fun e => s.finishCopy c q m e.1 e.2
  else if q < 6 then (if (s.core c).reportPort m s.cycle then s.xbEnd c q m else none)
  else if q = 6 then (if s.vxDone m then some (s.finishVx c m) else none)
  else none

/-- The record of a command that has its status performs, when the engine port takes it. -/
def State.recordOf (s : State) (c q id : Nat) : State :=
  match (s.core c).cmd q id with
  | some m => if m.st = 2 ∧ (s.core c).recordDue q s.cycle m then s.putRecord c q m else s
  | none => s

/-- COMMAND_END: the status and its record; in a later cycle the signal, before the grants of that cycle (R236, R238). -/
def execCommandEnd (c q id : Nat) (s : State) : Res' :=
  match (s.core c).cmd q id with
  | some m =>
    if m.st = 3 then runEvent (decide (m.endAt < s.cycle) && !(s.core c).swept) (fun s => s.signal c q m) s
    else if m.st = 2 then .next (s.recordOf c q id)
    else match s.finish c q m with
      | some t => .next (t.recordOf c q id)
      | none => .next s
  | none => .next s

end Sys2Proof.Machine
end

