-- ==== Sys2Proof/Machine/Barrier.lean ====
section
/-! DEFINITION. Domains and barriers (R352 to R365, R386, R387): membership, arrival, the phases of a barrier, its release, and the
instructions that act on them. -/

namespace Sys2Proof.Machine

/-! ### Domains (R352, R363, R364) -/

/-- The number of the group of cores at a fixed level that a core belongs to. -/
def levelGroup (sel c : Nat) : Nat :=
  if sel = 0x80 then c else if sel = 0x81 then clusterOf c else if sel = 0x82 then dieOf c else 0

/-- The barrier of a fixed-level domain of a launch. Barriers 0 to 63 are those of the custom domains. -/
def fixedBar (l sel c : Nat) : Nat := 64 + (4 * l + (sel - 0x80)) * 128 + levelGroup sel c

/-- The barrier that a selector names for a context. -/
def State.barOf (s : State) (c x n : Nat) : Option Nat := if n < 64 then some n else (s.taskOf c x).map fun t => fixedBar t.launch n c

def State.bar (s : State) (b : Nat) : Option Barrier := s.bars.get none b

def State.setBar (s : State) (b : Nat) (v : Option Barrier) : State := { s with bars := s.bars.put none b v }

def State.dom (s : State) (n : Nat) : Domain := s.doms.get {} n

/-- The key of context `i` of a checkpointed task in lists of members: a saved member stands on no core (R357). -/
def savedKey (tid i : Nat) : Nat := 1024 + 4 * tid + i

/-- The task and the context that a key of a saved member names. -/
def savedOf (key : Nat) : Option (Nat × Nat) := if 1024 ≤ key then some ((key - 1024) / 4, (key - 1024) % 4) else none

/-- The contexts of a launch at a level of a core, as keys: those on a core and those saved. -/
def State.memberKeys (s : State) (l sel o : Nat) : List Nat :=
  s.tasks.flatMap fun e =>
    match e.2 with
    | some t =>
      if t.launch = l ∧ !t.ended ∧ sameLevel sel o t.core then
        if t.saved then (List.range t.ctxs.length).map (savedKey e.1) else t.ctxs.map (ctxKey t.core)
      else []
    | none => []

/-- The arrivals of a member. -/
def State.arrOf (s : State) (key : Nat) : SMap Arrival :=
  match savedOf key with
  | some (tid, i) => match s.tasks.get none tid with | some t => (t.arrs[i]?).getD [] | none => []
  | none => (s.cx (key / 4) (key % 4)).arr

/-- The member that a membership register names by the slot `k`: the saved member that stood there, where there is one. -/
def State.memberKey (s : State) (b : Barrier) (k : Nat) : Nat :=
  (b.members.find? fun m => match savedOf m with
    | some (tid, i) => (match s.tasks.get none tid with | some t => decide (t.core = k / 4 ∧ t.ctxs[i]? = some (k % 4)) | none => false)
    | none => false).getD k

/-- The context is a member of the domain that a selector names (R352, R358). The current phase of a custom domain keeps counting against
its old members (R357), so a removed one stays a member until the release (log entry 15). -/
def State.inDomain (s : State) (c x n : Nat) : Bool :=
  let key := ctxKey c x
  if n < 64 then
    ((s.dom n).has c x && (s.bar n).all fun b => s.memberKey b key == key) || ((s.bar n).any fun b => b.members.contains key)
  else (s.cx c x).task.isSome

/-- The level of a custom domain (R364). -/
def Domain.level (d : Domain) : Nat :=
  match d.keys.map (· / 4) with
  | [] => 0
  | o :: r => if r.all (o == ·) then 0 else if r.all (clusterOf o == clusterOf ·) then 1 else if r.all (dieOf o == dieOf ·) then 2 else 3

/-- CHIPS names another chip (R363). -/
def State.multi (s : State) (d : Domain) : Bool := (List.range 16).any fun i => decide (i ≠ s.chip) && d.chips.testBit i

/-- The home chip of a domain: the lowest chip named in CHIPS (R424). -/
def Domain.home (d : Domain) : Nat := ((List.range 16).find? fun i => d.chips.testBit i).getD 0

/-- DOMCFG (R363). -/
def State.domcfg (s : State) (d : Domain) : Word :=
  wordOf (boolNat d.valid * 2 ^ 63 + boolNat d.launch * 2 ^ 62 + d.level * 2 ^ 60 + boolNat (s.multi d) * 2 ^ 59 + d.chips % 2 ^ 16 * 2 ^ 32
    + d.keys.length)

/-- DOMCTXj: the context masks of cores 16j to 16j + 15 (R363). -/
def Domain.ctxWord (d : Domain) (j : Nat) : Word := wordOf (pack ((List.range 16).map fun i => (4, d.ctxs.get 0 (16 * j + i))))

/-- The domain of a fixed level, as the device computes it from the launch (R387). -/
def State.fixedDomain (s : State) (l sel c : Nat) : Domain :=
  let ks := s.launchCtxs l sel c
  { valid := true, launch := true, chips := 2 ^ s.chip
    cores := ks.foldl (fun m k => m ||| ((1 : BitVec 128) <<< (k / 4))) 0
    ctxs := ks.foldl (fun m k => m.put 0 (k / 4) ((m.get 0 (k / 4)) ||| 2 ^ (k % 4))) [] }

/-- One word of a domain (R387). -/
def State.domWord (s : State) (c x n sel : Nat) : Word :=
  let d := if n < 64 then s.dom n else match s.taskOf c x with | some t => s.fixedDomain t.launch n c | none => {}
  if !d.valid then 0
  else match sel with
    | 0 => if n < 64 then s.domcfg d else wordOf (2 ^ 63 + 2 ^ 62 + (n - 0x80) * 2 ^ 60 + 2 ^ (s.chip + 32) + d.keys.length)
    | 1 => wordOf (d.cores.toNat % 2 ^ 64)
    | 2 => wordOf (d.cores.toNat / 2 ^ 64)
    | _ => wordOf (d.ctxs.get 0 c)

/-! ### Phases (R353) -/

/-- The arrivals of the phase are complete. -/
def Barrier.complete (b : Barrier) : Bool := !b.members.isEmpty && decide (b.members.length ≤ b.arrived.length)

/-- A barrier whose last arrival has come delivers (R353). -/
def Barrier.settle (b : Barrier) : Barrier := if b.complete then { b with st := .delivering } else b

/-- An arrival is counted (R353). -/
def Barrier.count (b : Barrier) (key : Nat) (cmds : List Nat) : Barrier :=
  ({ b with st := .arriving, arrived := b.arrived ++ [key], covered := b.covered ++ cmds } : Barrier).settle

/-- A member becomes permanently arrived (R353, R357). An arrival that it has registered and that is still to be counted (`pending`) comes in
its own time, so that the phase waits for the accesses and the copies that it covers (R199, R354). -/
def Barrier.permanent (b : Barrier) (key : Nat) (pending : Bool) : Barrier :=
  if !b.members.contains key || b.perm.contains key then b
  else
    let b := { b with perm := b.perm ++ [key] }
    if b.arrived.contains key || pending then b else ({ b with arrived := b.arrived ++ [key], anyPerm := true } : Barrier).settle

/-- The barrier with other members, `gone` those of them that have been cancelled (R357). -/
def Barrier.join (b : Barrier) (ms gone : List Nat) : Barrier :=
  { b with members := ms, perm := (b.perm ++ gone.filter fun k => !b.perm.contains k).filter ms.contains, newMembers := none }

/-- A barrier in a phase in which nothing has arrived but its permanent members, those left out that have an arrival to be counted
(R353). -/
def Barrier.fresh (b : Barrier) (pending : Nat → Bool) : Barrier :=
  let perm := b.perm.filter fun k => !pending k
  { b with st := .compute, arrived := perm, anyPerm := !perm.isEmpty, covered := [], far := false }

/-- The barrier after the release of a phase (R353, R357). -/
def Barrier.next (b : Barrier) (gone : List Nat) (pending : Nat → Bool) : Barrier :=
  ({ b.join (b.newMembers.getD b.members) gone with phase := (b.phase + 1) % 2 ^ 32 } : Barrier).fresh pending

/-- An arrival of the member is on its way to the barrier. -/
def State.arriving (s : State) (bar key : Nat) : Bool :=
  s.msgs.any fun m => match m.msg with | .arrival b k _ _ => b == bar && k == key | _ => false

/-- Those of a list of members that have been cancelled (R353). -/
def State.goneOf (s : State) (ms : List Nat) : List Nat := ms.filter fun k => decide (k < 512 ∧ (s.cx (k / 4) (k % 4)).st = .cancelled)

/-! ### Releases reach contexts (R355, R356) -/

/-- An arrival that a release ends. -/
def Arrival.release (a : Arrival) (bar phase : Nat) (full : Bool) : Arrival :=
  if a.bar = bar ∧ a.phase = phase then { a with released := true, full := full } else a

/-- What a selector without an arrival reads as. -/
def noArrival : Arrival := ⟨0, 0, true, false⟩

/-- A release reaches a context. -/
def Ctx.release (x : Ctx) (bar phase : Nat) (full : Bool) : Ctx :=
  let arr := x.arr.map fun e => (e.1, e.2.release bar phase full)
  { x with arr := arr, syncHold := x.syncHold.filter fun n => !(SMap.get noArrival arr n).released }

/-- What a release held back is free (R355). -/
def freeOf (l : List (Nat × Nat)) (bar phase : Nat) : List (Nat × Nat) := l.filter fun e => decide (e ≠ (bar, phase))

/-- A release reaches context `i` of a checkpointed task, whose arrivals and commands its task keeps. -/
def Task.release (t : Task) (i bar phase : Nat) (full : Bool) : Task :=
  let arrs := (List.range t.arrs.length).map fun j =>
    let a := (t.arrs[j]?).getD []
    if j = i then a.map fun r => (r.1, r.2.release bar phase full) else a
  let held := fun (m : Cmd) => if some m.ctx = t.ctxs[i]? then { m with heldFor := freeOf m.heldFor bar phase } else m
  { t with arrs := arrs, cmds := t.cmds.map fun m => (m.1, held m.2) }

/-- The release of a phase reaches a member: its arrival is released, and its held writes may issue (R355, R356). -/
def State.release (s : State) (bar key phase : Nat) (full : Bool) : State :=
  match savedOf key with
  | some (tid, i) => s.updTask tid fun t => t.release i bar phase full
  | none =>
    let c := key / 4
    let x := key % 4
    let s := s.updCx c x fun y => y.release bar phase full
    let s := s.updCore c fun k => k.mapCmds fun _ m => if m.ctx = x then { m with heldFor := freeOf m.heldFor bar phase } else m
    { s with accs := s.accs.map fun a => if a.core = c ∧ a.ctx = x then { a with heldFor := freeOf a.heldFor bar phase } else a }

/-- A registered arrival that can no longer be counted is dropped, and its context is released. -/
def State.dropArrivals (s : State) (bar : Nat) (drop : Nat → Bool) : State :=
  let hit := fun (m : InMsg) => match m.msg with | .arrival b k _ _ => decide (b = bar) && drop k | _ => false
  let keys := (s.msgs.filter hit).filterMap fun m => match m.msg with | .arrival _ k _ _ => some k | _ => none
  let s := { s with msgs := s.msgs.filter fun m => !hit m }
  keys.foldl (fun s k =>
    ((s.arrOf k).filter fun e => decide (e.2.bar = bar) && !e.2.released).foldl (fun s e => s.release bar k e.2.phase false) s) s

/-! ### Membership (R357, R363) -/

/-- The membership of a barrier changes: at once where nothing has arrived in the phase, otherwise at the next release. A member that has
been cancelled counts as arrived (R357). -/
def State.setMembers (s : State) (bar : Nat) (ms : List Nat) : State :=
  match s.bar bar with
  | none => s
  | some b =>
    if b.arrived.isEmpty then
      (s.setBar bar (some ((b.join ms (s.goneOf ms)).fresh (s.arriving bar)))).dropArrivals bar fun k => !ms.contains k
    else s.setBar bar (some { b with newMembers := some ms })

/-- A barrier ceases to exist: every context that waits for it is released with predicate 0. -/
def State.eraseBar (s : State) (bar : Nat) : State :=
  match s.bar bar with
  | none => s
  | some b =>
    let s := (s.setBar bar none).dropArrivals bar fun _ => true
    (b.members ++ b.newMembers.getD []).foldl (fun s k => s.release bar k b.phase false) s

/-- The barrier of a custom domain that is formed with these members, at PHASE 0 (R353). -/
def State.formBar (s : State) (n : Nat) (ms : List Nat) : State := s.setBar n (some ((({} : Barrier).join ms (s.goneOf ms)).fresh fun _ => false))

/-- The registers of custom domain `n` change (R363, R386): its barrier is formed, or changes membership (R357). A domain that ends leaves its
barrier without members: at once where nothing has arrived in the phase, otherwise at the next release. -/
def State.putDom (s : State) (n : Nat) (d : Domain) : State :=
  let d0 := s.dom n
  let s := { s with doms := s.doms.put {} n d }
  match s.bar n with
  | none => if d.valid then s.formBar n d.keys else s
  | some b =>
    if !d.valid then (if b.arrived.isEmpty then s.eraseBar n else s.setMembers n [])
    else if d0.valid ∧ d.keys = d0.keys then s
    else s.setMembers n (d.keys.map (s.memberKey b))

/-- A domain that the scheduler formed is cleared at the end of its launch, its barrier with it (R365). -/
def State.clearDom (s : State) (n : Nat) : State := ({ s with doms := s.doms.put {} n {} } : State).eraseBar n

/-- The barriers of a launch that is placed (R352, R353). -/
def State.formFixed (s : State) (l : Nat) : State :=
  [0x80, 0x81, 0x82, 0x83].foldl (fun s sel =>
    (s.launchCtxs l 0x83 0).foldl (fun s k =>
      let b := fixedBar l sel (k / 4)
      if (s.bar b).isSome then s else s.setBar b (some { members := s.memberKeys l sel (k / 4) })) s) s

/-- The membership of a launch's barriers follows the placement of its tasks (R363). -/
def State.refreshFixed (s : State) (l : Nat) : State :=
  [0x80, 0x81, 0x82, 0x83].foldl (fun s sel =>
    (List.range 128).foldl (fun s c =>
      match s.bar (fixedBar l sel c) with
      | some b =>
        let ms := s.memberKeys l sel c
        if b.newMembers.getD b.members = ms then s else s.setMembers (fixedBar l sel c) ms
      | none => s) s) s

/-- The barriers of a launch that has ended. -/
def State.dropFixed (s : State) (l : Nat) : State :=
  let lo := 64 + 4 * l * 128
  { s with bars := s.bars.clear lo (lo + 512) }

/-- A context that is cancelled or killed counts as arrived at every barrier of which it is a member (R357). -/
def State.permArrive (s : State) (key : Nat) : State :=
  { s with bars := s.bars.map fun (e : Nat × Option Barrier) => (e.1, e.2.map fun (b : Barrier) => b.permanent key (s.arriving e.1 key)) }

/-! ### Arrival (R354) -/

/-- The tagged copies that an arrival of the issuing context covers. -/
def State.coveredCmds (s : State) : List Nat :=
  let x := s.iss.ctx
  let step := s.me.step
  (List.range 4).flatMap fun q =>
    ((s.myCore.queue q).cmds.filter fun m =>
      decide (m.ctx = x ∧ m.st < 2 ∧ m.step < step) && m.w2.getLsbD 51 && !m.covered).map (·.id)

/-- The arrival of the issuing context at a domain is registered (R354, R359). -/
def State.register (s : State) (n : Nat) : State :=
  let c := s.iss.core
  let x := s.iss.ctx
  let key := ctxKey c x
  match s.barOf c x n with
  | none => s
  | some bar =>
    match s.bar bar with
    | none => s
    | some b =>
      let now := b.members.contains key && decide (b.st ≠ .delivering) && !b.arrived.contains key
      let phase := if now then b.phase else (b.phase + 1) % 2 ^ 32
      let ids := s.coveredCmds
      let s := s.updMyCore fun k => k.mapCmds fun _ m => if ids.contains m.id then { m with covered := true } else m
      let s := s.updMe fun y => { y with arr := y.arr.put noArrival n ⟨bar, phase, false, false⟩ }
      s.sendMsg (.arrival bar key s.me.step ids)

/-- The fault of an instruction whose context is no member of its domain (R358). -/
def notMember {α : Type} (n : Nat) : Except (Nat × Option Word) α := .error (3, some (wordOf n))

def barriveOp (n : Nat) (hold : Bool) : SlotOp where
  waits _ := [.release n]
  run s :=
    if !s.inDomain s.iss.core s.iss.ctx n then notMember n
    else
      let s := s.register n
      .ok (if hold then s.updMe fun y => { y with syncHold := some n } else s)

def execBarrive (n : Nat) (s : State) : Res' := runSlot 7 (barriveOp n false) s

def execBsync (n : Nat) (s : State) : Res' := runSlot 7 (barriveOp n true) s

/-- The context's accesses of earlier steps than `step` have all performed. -/
def State.performedBefore (s : State) (c x step : Nat) : Bool := !(s.accsOf c x).any fun a => decide (a.step < step)

/-- The same of a member; a saved one has no access under way (R202). -/
def State.cameToRest (s : State) (key step : Nat) : Bool := (savedOf key).isSome || s.performedBefore (key / 4) (key % 4) step

/-- An arrival that is counted is told to the domain's home chip (R416, R424). -/
def State.tellHome (s : State) (bar : Nat) : State :=
  let d := s.dom bar
  if decide (bar < 64) && s.multi d && d.home != s.chip then s.sendPeer d.home (.arrival bar) else s

/-- BARRIER_ARRIVAL_COUNTED: the arrival of a member that has not arrived in this phase, its earlier accesses performed (R353, R354). -/
def execBarrierArrivalCounted (id : Nat) (s : State) : Res' :=
  match Msg.find s id with
  | some (.arrival bar key step cmds) =>
    match s.bar bar with
    | none => .next (s.dropMsg id)
    | some b =>
      runEvent (decide (b.st ≠ .delivering) && b.members.contains key && !b.arrived.contains key && s.cameToRest key step)
        (fun s => ((s.dropMsg id).setBar bar (some (b.count key cmds))).tellHome bar) s
  | _ => .next s

/-! ### Release (R353, R356) -/

/-- A command has not ended. -/
def State.cmdOpen (s : State) (id : Nat) : Bool :=
  s.cores.any (fun e => e.2.queues.any fun q => q.2.cmds.any fun m => decide (m.id = id ∧ m.st < 2)) ||
    s.tasks.any fun e => e.2.any fun t => t.cmds.any fun m => decide (m.2.id = id)

/-- Nothing outside the chip keeps a barrier from its release (R424). The home chip of a domain that spans chips waits for the members of the
others: how many those chips have, no register of this chip says, so that whether they have arrived is a free value, drawn at each look (log
entry 34). Any other chip waits for the release of the home chip. -/
def State.peersIn (s : State) (bar : Nat) (b : Barrier) : Bool × State :=
  if !(decide (bar < 64) && s.multi (s.dom bar)) then (true, s)
  else if (s.dom bar).home = s.chip then
    let (d, s) := s.draw
    (Config.peersArrived d, s)
  else (b.far, s)

/-- The release of a domain's home chip goes to the other chips (R416, R424). -/
def State.tellPeers (s : State) (bar : Nat) : State :=
  let d := s.dom bar
  if decide (bar < 64) && s.multi d && d.home == s.chip then
    ((List.range 16).filter fun i => decide (i ≠ s.chip) && d.chips.testBit i).foldl (fun s i => s.sendPeer i (.release bar)) s
  else s

/-- The barrier leaves DELIVERING: the next phase, or its end where its domain has ended and no member is left. -/
def State.nextPhase (s : State) (bar : Nat) (b : Barrier) : State :=
  if bar < 64 ∧ !(s.dom bar).valid ∧ b.newMembers.any (·.isEmpty) then (s.setBar bar none).dropArrivals bar fun _ => true
  else s.setBar bar (some (b.next (s.goneOf (b.newMembers.getD b.members)) (s.arriving bar)))

/-- BARRIER_RELEASE: the barrier leaves DELIVERING once every covered copy has ended, and sends the release to each member, one that is
permanently arrived included: its held writes issue (R355). -/
def execBarrierRelease (bar : Nat) (s : State) : Res' :=
  match s.bar bar with
  | none => .next s
  | some b =>
    runEvent (decide (b.st = .delivering) && !b.covered.any s.cmdOpen)
      (fun s =>
        let (all, s) := s.peersIn bar b
        if all then (b.members.foldl (fun s k => s.sendMsg (.release bar k b.phase (!b.anyPerm))) (s.nextPhase bar b)).tellPeers bar
        else s) s

def execBarrierReleaseArrive (id : Nat) (s : State) : Res' :=
  match Msg.find s id with
  | some (.release bar key phase full) => .next ((s.dropMsg id).release bar key phase full)
  | _ => .next s

/-! ### bwait and bstat (R360, R361) -/

def bwaitOp (n pd : Nat) : SlotOp where
  names x := [x.pReg pd]
  waits _ := [.release n]
  run s :=
    if !s.inDomain s.iss.core s.iss.ctx n then notMember n
    else .ok (s.emitP pd (s.me.arr.get noArrival n).full)

def execBwait (n pd : Nat) (s : State) : Res' := runSlot 7 (bwaitOp n pd) s

/-- A member that has not arrived stands still (R361). -/
def State.standsStill (s : State) (key : Nat) : Bool :=
  let y := s.cx (key / 4) (key % 4)
  (savedOf key).isSome || y.inTrap || decide (y.st = .trapped ∨ y.st = .frozen)

def bstateCode : BState → Nat
  | .compute => 0
  | .arriving => 1
  | .delivering => 2

/-- The status word of a barrier as a context reads it (R361). -/
def State.bstatWord (s : State) (n : Nat) : Word :=
  let c := s.iss.core
  let x := s.iss.ctx
  match s.barOf c x n with
  | none => 0
  | some bar =>
    let b := (s.bar bar).getD {}
    let a := s.me.arr.get noArrival n
    let held := b.members.any fun k => !b.arrived.contains k && s.standsStill k
    let me := !a.released && decide (a.bar = bar ∧ a.phase = b.phase)
    wordOf (b.phase % 2 ^ 32 * 2 ^ 32 + bstateCode b.st * 2 ^ 30 + boolNat held * 2 ^ 29 + boolNat me * 2 ^ 28
      + b.arrived.length % 2 ^ 10 * 2 ^ 16 + b.members.length % 2 ^ 10)

def execBstat (n a : Nat) (s : State) : Res' :=
  runSlot 7
    { names := fun x => [x.sReg a]
      run := fun s => if !s.inDomain s.iss.core s.iss.ctx n then notMember n else .ok (s.emitS a (s.bstatWord n) 3) } s

/-! ### domset and domget (R386, R387) -/

/-- The domain after an operation word; none where a bit that must be zero is set. -/
def Domain.oper (d : Domain) (w : Word) : Option Domain :=
  let op := getField w 62 2
  let core := getField w 8 7
  let cm := getField w 0 4
  let chips := getField w 16 16
  let fields := getField w 0 15
  if getField w 32 30 ≠ 0 ∨ w.getLsbD 15 ∨ getField w 4 4 ≠ 0 then none
  else match op with
    | 0 =>
      if chips ≠ 0 then none
      else some { d with valid := true, cores := d.cores ||| ((1 : BitVec 128) <<< core), ctxs := d.ctxs.put 0 core (d.ctxs.get 0 core ||| cm) }
    | 1 =>
      if chips ≠ 0 then none
      else
        let left := (List.range 4).foldl (fun m i => if (d.ctxs.get 0 core).testBit i && !cm.testBit i then m + 2 ^ i else m) 0
        some { d with ctxs := d.ctxs.put 0 core left, cores := if left = 0 then d.cores &&& ~~~((1 : BitVec 128) <<< core) else d.cores }
    | 2 => if chips ≠ 0 ∨ fields ≠ 0 then none else some {}
    | _ => if fields ≠ 0 then none else some { d with chips := chips }

/-- A change of a domain that spans chips goes to the other chips (R416). -/
def State.tellDomain (s : State) (n : Nat) (op : Word) : State :=
  if s.multi (s.dom n) then
    ((List.range 16).filter fun i => decide (i ≠ s.chip) && (s.dom n).chips.testBit i).foldl (fun s i => s.sendPeer i (.domain n op)) s
  else s

def domsetOp (n a : Nat) : SlotOp where
  decode s := if !s.me.mode then some 4 else none
  names x := [x.sReg a]
  run s :=
    let v := s.rs a
    if v.poison then poisonFault
    else match (s.dom n).oper v.val with
      | none => .error (3, some v.val)
      | some d => .ok ((s.putDom n d).tellDomain n v.val)

def execDomset (n a : Nat) (s : State) : Res' := runSlot 7 (domsetOp n a) s

def domgetOp (n a sel : Nat) : SlotOp where
  names x := [x.sReg a]
  run s :=
    let c := s.iss.core
    let x := s.iss.ctx
    if (decide (64 ≤ n) || (s.dom n).valid) && !s.inDomain c x n then notMember n
    else
      let r := s.me.sReg a
      .ok ((s.addLand c x s.me.step r (.domget n sel)).mark [r])

def execDomget (n a sel : Nat) (s : State) : Res' := runSlot 7 (domgetOp n a sel) s

end Sys2Proof.Machine
end

