-- ==== Sys2Proof/Machine/Fetch.lean ====
section
/-! DEFINITION. Fetching and decoding a bundle (R50, R51, R68, R69, R318), and the choice of the issuing context (R91, R92). -/

namespace Sys2Proof.Machine

/-- Lowest address of the runtime region (R51). -/
def runtimeBase : Nat := 0x3C000

/-- A fetch address lies in the text of the context's task (R51). -/
def State.inText (s : State) (c x a : Nat) : Bool :=
  match s.taskOf c x with
  | some k => decide (k.tb ≤ a ∧ a + 64 ≤ k.tb + k.img.textLen)
  | none => false

/-- The fetch region of the context's mode holds the address of its next bundle (R51, R312). -/
def State.fetchOk (s : State) (c x : Nat) : Bool :=
  let y := s.cx c x
  if y.mode then decide (runtimeBase ≤ y.f0 ∧ y.f0 ≤ 0x3FFC0) else s.inText c x y.f0

/-- Slot word `i` of the bundle at an address of instruction memory (R50). -/
def Core.slotWord (k : Core) (a i : Nat) : Word := wordOf (readNat k.imem (a + 8 * i) 8)

/-- The cause of a slot word that is not an instruction (R68). -/
def decodeCause : DecodeErr → Nat
  | .illegalOp => 1
  | .illegalSlot => 2
  | .illegalField => 3

/-- A slot word as the context decodes it: the vendor rows in RUNTIME mode with DIAG = 1 only (R68), and `syscall 0xFFFF` as the
handler's return while HDL = 1 (R318). -/
def Ctx.decode (x : Ctx) (slot : Nat) (w : Word) : Except DecodeErr (Guard × Instr) :=
  match decodeSlot (x.mode && x.diag) slot w with
  | .ok (g, .syscall n) => .ok (g, if n = 0xFFFF ∧ x.hdl then .handlerReturn else .syscall n)
  | r => r

/-- The eight slots of the context's next bundle, decoded (R69). -/
def State.bundle (s : State) (c x : Nat) : List (Nat × Except DecodeErr (Guard × Instr)) :=
  let y := s.cx c x
  let k := s.core c
  (List.range 8).map fun i => (i, y.decode i (k.slotWord y.f0 i))

/-- How many slot words of the bundle are not `nop`. -/
def State.bundleWords (s : State) (c x : Nat) : Nat :=
  let y := s.cx c x
  let k := s.core c
  ((List.range 8).filter fun i => decide (k.slotWord y.f0 i ≠ 0)).length

/-- A trap cause is pending, in whatever mode the context stands (R314, R332). -/
def Ctx.causePending (x : Ctx) : Bool := x.stepTrap || x.watch.isSome || !x.xfaults.isEmpty || x.budgetCause

/-- A cause is waiting that the context takes before its next bundle passes stage 1 (R314). -/
def Ctx.asyncPending (x : Ctx) : Bool :=
  x.stepTrap || (!x.inTrap && (x.watch.isSome || !x.xfaults.isEmpty || x.budgetCause))

/-- A context is READY and its task is not being saved. -/
def Core.canTake (k : Core) (x : Nat) : Bool := let y := k.ctx.get {} x; decide (y.st = .ready) && !y.held

/-- The first READY context after `cur`, in ascending number with wrap (R91). -/
def Core.nextReady (k : Core) : Option Nat :=
  let o := match k.cur with | some c => [c + 1, c + 2, c + 3, c + 4] | none => [0, 1, 2, 3]
  (o.map (· % 4)).find? k.canTake

/-- The running context, where it still runs. -/
def Core.runs (k : Core) : Option Nat := k.cur.filter fun c => decide ((k.ctx.get {} c).st = .running)

/-- The context taken on leaving, while it is still READY (R91). -/
def Core.taken (k : Core) : Option Nat := k.nextCtx.filter k.canTake

/-- At the end of a cycle the issue unit that has left its context takes the next READY one, where it has taken none (R91). -/
def Core.takeNext (k : Core) : Core :=
  match k.runs, k.taken with
  | none, none => { k with nextCtx := k.nextReady }
  | _, _ => k

/-- The context that issued last is READY again after its block, and no other has issued since: it resumes at no switch cost (R92). A
context that was blocked keeps the conditions of its block until it is selected. -/
def Core.resumes (k : Core) : Option Nat := k.lastCtx.filter fun x => k.canTake x && !(k.ctx.get {} x).waits.isEmpty

/-- The cycle from which a READY context may issue (R92). -/
def Core.earliest (k : Core) (x : Nat) : Nat :=
  let r := (k.ctx.get {} x).readyAt
  if k.lastCtx = none ∨ k.resumes = some x ∨ k.lastIssue + 2 ≤ r then r + 1 else Nat.max r k.leftAt + 2

/-- A context whose time has come. -/
def Core.ifDue (k : Core) (cycle x : Nat) : Option Nat := if k.earliest x ≤ cycle then some x else none

/-- The context that the issue unit takes in this cycle, if any: the running one; one that resumes; the one taken on leaving; or the first
READY one (R91, R92). -/
def Core.pick (k : Core) (cycle : Nat) : Option Nat :=
  match k.runs with
  | some c => some c
  | none =>
    match k.resumes.bind (k.ifDue cycle) with
    | some c => some c
    | none => (match k.taken with | some x => some x | none => k.nextReady).bind (k.ifDue cycle)

/-- The issue unit selects a context: READY becomes RUNNING and the snapshot is reinjected (R90, R310). -/
def State.select (s : State) (c x : Nat) : State :=
  let s := { s with iss := { s.iss with core := c, ctx := x } }
  let s := s.updCore c fun k => { k with cur := some x, nextCtx := none }
  s.updCx c x fun y => ({ y with st := .running, waits := [] } : Ctx).reinject

/-- The issue unit notes the cycle of an issue, and the cycle in which the running context stopped (R92). An attempt whose bundle blocks or
traps counts as an issue for the two-cycle idle test and for "no other context has issued": the specification leaves it open (log
entry 47). -/
def State.noteIssue (s : State) (c x : Nat) : State :=
  s.updCore c fun k =>
    Core.takeNext { k with lastIssue := s.cycle, lastCtx := some x,
                           leftAt := if (k.ctx.get {} x).st = .running then k.leftAt else s.cycle }

/-- The context with a `step` to run (R332). -/
def Core.stepping (k : Core) : Option Nat :=
  (List.range 4).find? fun i => let y := k.ctx.get {} i; y.stepper.isSome && decide (y.st = .frozen)

/-- The end of a `step`: the target is FROZEN again, and the predicate tells whether its bundle committed (R332). -/
def State.endStep (s : State) (c x step0 : Nat) : State :=
  let y := s.cx c x
  let s := s.returnResv c x
  let s := s.updCx c x fun z =>
    let z := z.freeze
    { z with stepper := none, waits := [], st := if z.st = .running ∨ z.st = .blocked then .frozen else z.st }
  let s := { s with iss := { s.iss with stepping := false } }
  match y.stepper with
  | some (c', x', st, r) =>
    { s with ids := s.ids + 1, lands := s.lands ++ [⟨s.ids, c', x', st, r, .val (.b (decide (step0 < y.step))), false⟩] }
  | none => s

end Sys2Proof.Machine
end

