-- ==== Sys2Proof/Machine/Schedule.lean ====
section
/-! DEFINITION. The clocks, what a core-clock cycle counts, and the test for a core that can issue (R25, R62, R92, R344, R374, R437). -/

namespace Sys2Proof.Machine

/-- Time units of 1/36 ns that a core-clock cycle takes; 1 ns where the core clock is gated (R25). -/
def State.period (s : State) : Nat :=
  match s.mg.power with
  | .a0 => 45
  | .a1 => 30
  | .a2 => 24
  | .a3 => 20
  | _ => 36

/-- TIMEBASE counts in IDLE and at the operating points (R437). -/
def State.counts (s : State) : Bool := s.running || decide (s.mg.power = .idle)

/-- A context of the task is READY, RUNNING or BLOCKED (R344). -/
def State.taskLive (s : State) (t : Task) : Bool :=
  t.ctxs.any fun x => let st := (s.cx t.core x).st; decide (st = .ready ∨ st = .running ∨ st = .blocked)

/-- A cycle of a task that stands on its core: its budget falls by one and its consumption grows (R344, R247 CYCLES). -/
def State.tickTask (s : State) (t : Task) : Task :=
  if !t.ended && !t.saved && s.taskLive t then
    if t.unlimited then { t with consumed := t.consumed + 1 }
    else { t with consumed := t.consumed + 1, budget := t.budget - 1, expired := t.expired || decide (t.budget = 1) }
  else t

/-- A cycle of a context: its task starts where it is LOADED (R310), and its grace count runs while it is READY, RUNNING or BLOCKED after
CANREQ (R374). -/
def Ctx.tick (x : Ctx) (cycle : Nat) : Ctx :=
  let x := if x.st = .loaded then { x with st := .ready, readyAt := cycle } else x
  if x.canreq && decide (x.st = .ready ∨ x.st = .running ∨ x.st = .blocked) then { x with grace := x.grace + 1 } else x

/-- A core whose issue unit can issue in this cycle: no event has run in the cycle yet, so that the issue sees the state as it stood at the
start of the cycle (R92), and its semaphore unit has not made the sweep that follows the issue (R238). -/
def State.canIssue (s : State) (c : Nat) : Bool :=
  let k := s.core c
  s.running && !s.begun && !s.mg.moving && !k.inReset && !k.swept && !(k.lastCtx.isSome && k.lastIssue == s.cycle) && (k.stepping.isSome || (k.pick s.cycle).isSome)

end Sys2Proof.Machine
end

