-- ==== Sys2Proof/Machine/ContextOps.lean ====
section
/-! DEFINITION. The context (R310 to R335, R373 to R375): stopping and cancelling a context, the traps that wait for a boundary, guidons and
freezes, the instructions that freeze, step and run contexts, `trap`, `syscall`, `brk`, the returns, watchpoints, `fence` and `drain`, and
the vendor diagnostic words. -/

namespace Sys2Proof.Machine

/-! ### Ending a context (R375) -/

/-- A context is READY, RUNNING or BLOCKED. -/
def Ctx.live (x : Ctx) : Bool := decide (x.st = .ready ∨ x.st = .running ∨ x.st = .blocked)

/-- A context has ended. -/
def Ctx.over (x : Ctx) : Bool := decide (x.st = .done ∨ x.st = .cancelled)

/-- The issue unit notes that its running context has stopped. -/
def State.noteLeft (s : State) (c x : Nat) : State :=
  s.updCore c fun k => if k.cur = some x ∧ (k.ctx.get {} x).st = .running then { k with leftAt := s.cycle } else k

/-- The scoreboarded results of a context are discarded, those of its posts, migrations and revocations included; its accesses still
perform (R375). -/
def State.dropResults (s : State) (c x : Nat) : State :=
  { s with
    msgs := s.msgs.map fun m => match m.msg with
      | .post b i h c' x' st _ => if c' = c ∧ x' = x then { m with msg := .post b i h c' x' st none } else m
      | _ => m
    migs := s.migs.map fun m => if m.core = c ∧ m.ctx = x then { m with reg := none } else m
    revokes := s.revokes.map fun r => if r.core = c ∧ r.ctx = x then { r with pd := none } else r
    accs := s.accs.map fun a => if a.core = c ∧ a.ctx = x then { a with grp := none, acq := false } else a
    groups := s.groups.filter fun g => !decide (g.core = c ∧ g.ctx = x)
    lands := s.lands.filter fun l => !decide (l.core = c ∧ l.ctx = x)
    walks := s.walks.filter fun w => !decide (w.core = c ∧ w.ctx = x) }

/-- The core of a context that has been cancelled: its commands, tile operations and tiles (R163, R236, R375). -/
def Core.abandon (k : Core) (x cycle now : Nat) : Core := (((k.discard x cycle).mapCmds (dropAhead now)).stopOps x).freeEnded

/-- A `step` that waits for the context learns that nothing committed. -/
def State.failStep (s : State) (c x : Nat) : State :=
  match (s.cx c x).stepper with
  | some (c', x', st, r) => (s.updCx c x fun y => { y with stepper := none }).addLand c' x' st r (.val (.b false))
  | none => s

/-- The context enters CANCELLED (R375). -/
def State.stopCtx (s : State) (c x : Nat) : State :=
  let s := (((s.noteLeft c x).returnResv c x).disarm c x).failStep c x
  let s := s.dropResults c x
  let s := s.updCx c x fun y =>
    { y with st := .cancelled, inflight := [], snap := [], snapT := [], pend := [], waits := [], stopNext := false, killNext := false,
             stepTrap := false, watch := none, budgetCause := false, syncHold := none, dloss := none, esc := none, newBudget := none }
  (s.updCore c fun k => k.abandon x s.cycle s.now).permArrive (ctxKey c x)

/-- A context that is FREE again: the order of its bundles goes on, and the runtime bank stays (R310, R312). -/
def Ctx.cleared (x : Ctx) : Ctx := { step := x.step, sR := x.sR, pR := x.pR }

/-- The contexts that a checkpointed task has left SAVED change, where no other task has taken their place (R310). -/
def State.leaveSlots (s : State) (tid : Nat) (t : Task) (f : Ctx → Ctx) : State :=
  t.ctxs.foldl (fun s x => s.updCx t.core x fun y => if y.st = .saved ∧ y.task = some tid then f y else y) s

/-- A context that has neither ended nor is FREE is stopped. -/
def State.killCtx (s : State) (c x : Nat) : State :=
  let y := s.cx c x
  if y.over || decide (y.st = .free) then s else s.stopCtx c x

/-- Every context of a task that has not ended is killed at once (R334, R346). A checkpointed task has none on a core. -/
def State.killTask (s : State) (t : Nat) : State :=
  match s.tasks.get none t with
  | some k => if k.saved ∨ k.freed then s else k.ctxs.foldl (fun s x => s.killCtx k.core x) s
  | none => s

/-- A launch notes the status and cause of an ended task; the first one stands. -/
def State.noteFault (s : State) (l cause : Nat) : State :=
  s.updLaunch l fun n => if n.status = 0 then { n with status := 1, cause := cause } else n

/-- A cancellation stop is due (R373, R374): a commit-kind point has passed, a block-kind point holds the context, or its grace has run out. -/
def Ctx.stopDue (x : Ctx) : Bool :=
  x.live && (x.killNext || (x.canreq && !x.inTrap && (x.stopNext || decide (x.st = .blocked))))

def execCancellationStop (c x : Nat) (s : State) : Res' := runEvent (s.cx c x).stopDue (fun s => s.stopCtx c x) s

/-- GRACE_EXPIRY: the grace count of a context reaches GRACE; events fall on bundle boundaries (R374). -/
def execGraceExpiry (c x : Nat) (s : State) : Res' :=
  let y := s.cx c x
  runEvent (y.canreq && y.live && decide (s.grace ≤ y.grace)) (fun s => s.stopCtx c x) s

/-! ### Blocks (R92) -/

/-- The budget cause makes a blocked context of KERNEL mode ready (R344). -/
def Ctx.wakes (x : Ctx) : Bool := x.budgetCause && !x.inTrap

/-- CONTEXT_UNBLOCK: no condition of the block holds any longer, or the cause BUDGET is pending. A context that must stop stays. -/
def execContextUnblock (c x : Nat) (s : State) : Res' :=
  let y := s.cx c x
  runEvent (decide (y.st = .blocked) && !y.stopDue && (y.wakes || !(y.waits.any (s.holds c x))))
    (fun s => s.updCx c x fun y => { y with st := .ready, readyAt := s.cycle }) s

/-! ### Asynchronous causes (R314, R219, R330, R344) -/

/-- The first pending cause is taken: the cause of a step, WATCH, a failed walk, BUDGET. -/
def State.takeCause (s : State) (c x : Nat) : State :=
  let y := s.cx c x
  if y.stepTrap then
    s.updCx c x fun y => ({ y.freeze with stepTrap := false, mode := true } : Ctx).fetchFrom vector
  else match y.watch, y.xfaults with
    | some a, _ => (s.updCx c x fun y => { y with watch := none }).trap c x 0x18 0 (some a)
    | none, f :: r =>
      ((s.updCx c x fun y => { y with xfaults := r }).putXfault c x f).trap c x f.cause 0x40 (some f.va)
    | none, [] => (s.updCx c x fun y => { y with budgetCause := false }).trap c x 0x28 0 none

/-- TRAP_ENTRY of an asynchronous cause, when the context is about to issue. -/
def execTrapEntry (c x : Nat) (s : State) : Res' :=
  runEvent (s.canIssue c && decide ((s.core c).stepping = none ∧ (s.core c).pick s.cycle = some x) && (s.cx c x).asyncPending)
    (fun s => ((s.select c x).takeCause c x).noteIssue c x) s

/-! ### Guidons and freezes (R329 to R331) -/

/-- The context stops issuing and is FROZEN. -/
def State.freezeCtx (s : State) (c x : Nat) : State :=
  let s := (s.noteLeft c x).returnResv c x
  s.updCx c x fun y => { y.freeze with st := .frozen }

/-- Bundles of a context that committed after cycle `h` and before cycle `due`. -/
def Ctx.skid (x : Ctx) (h due : Nat) : Nat := (x.commits.filter fun t => decide (h < t ∧ t < due)).length

/-- A guidon reaches a context of the selection (R329). -/
def State.guidonFreeze (s : State) (c x h due : Nat) : State :=
  if (s.cx c x).live then
    (s.freezeCtx c x).updCx c x fun y => y.ctlPut 0x14 (wordOf (y.skid h due))
  else s

/-- ADDR of the lowest-numbered watchpoint of a core that hit for an owner in cycle `h`, or whose cause the owner still holds (R330). -/
def Core.hitAddr (k : Core) (x h : Nat) (held : Option Word) : Option Nat :=
  (k.wps.find? fun w => decide (w.2.st = 2 ∧ w.2.owner = x ∧ (w.2.hitAt = h ∨ held = some (wordOf w.2.addr)))).map (·.2.addr)

/-- The owner of a watchpoint holds the WATCH cause, or escalates it; SKID counts as in R329, so that an owner that is FROZEN already keeps
its own (R329, R330). -/
def State.guidonOwner (s : State) (c x h due : Nat) (a : Word) : State :=
  let y := s.cx c x
  let a := match (s.core c).hitAddr x h y.watch with | some n => wordOf n | none => a
  match y.st with
  | .free | .done | .cancelled => s
  | .trapped | .saved => s.escCtx c x "watch" 0x18 0 y.f0
  | .frozen => s.updCx c x fun y => { y with watch := some a }
  | _ => s.updCx c x fun y => { y.ctlPut 0x14 (wordOf (y.skid h due)) with watch := some a }

/-- A guidon whose cycle has come, for a context. -/
def State.dueGuidon (s : State) (c x : Nat) : Option (Nat × Nat × Nat × Option Word) :=
  (s.msgs.find? fun m => match m.msg with | .guidon c' x' _ due _ => decide (c' = c ∧ x' = x ∧ due ≤ s.cycle) | _ => false).bind
    fun m => match m.msg with | .guidon _ _ h due own => some (m.id, h, due, own) | _ => none

def execGuidonArrive (c x : Nat) (s : State) : Res' :=
  match s.dueGuidon c x with
  | some (id, h, due, own) =>
    let s := s.dropMsg id
    .next (match own with | some a => s.guidonOwner c x h due a | none => s.guidonFreeze c x h due)
  | none => .next s

/-- A `ctxfrz` whose cycle has come, for a context. -/
def State.dueFreeze (s : State) (c x : Nat) : Option Nat :=
  (s.msgs.find? fun m => match m.msg with | .freeze c' x' due => decide (c' = c ∧ x' = x ∧ due ≤ s.cycle) | _ => false).map (·.id)

def execFreezeArrive (c x : Nat) (s : State) : Res' :=
  match s.dueFreeze c x with
  | some id => let s := s.dropMsg id; .next (if (s.cx c x).live then s.freezeCtx c x else s)
  | none => .next s

/-! ### ctxfrz, ctxrun and step (R331, R332) -/

/-- A slot that runs in RUNTIME mode only (R66). -/
def runtimeOnly (s : State) : Option Nat := if !s.me.mode then some 4 else none

/-- The target of a freeze, a run or a step: its core and context. -/
def targetOp (pd a : Nat) (f : Nat → Nat → State → State) : SlotOp where
  decode := runtimeOnly
  names x := [x.sReg a, x.pReg pd]
  run s :=
    let v := s.rs a
    if v.poison then poisonFault
    else if getField v.val 2 30 ≠ 0 ∨ getField v.val 39 25 ≠ 0 then .error (3, some v.val)
    else .ok (f (getField v.val 32 7) (getField v.val 0 2) s)

/-- The target stands FROZEN with no `step` in progress. -/
def Ctx.still (x : Ctx) : Bool := decide (x.st = .frozen) && x.stepper.isNone

def execCtxfrz (pd a : Nat) (s : State) : Res' :=
  runSlot 7
    (targetOp pd a fun c x s =>
      let ok := (s.cx c x).live
      (if ok then s.sendMsg (.freeze c x (s.cycle + guidonDist s.iss.core c)) else s).emitP pd ok) s

def execCtxrun (pd a : Nat) (s : State) : Res' :=
  runSlot 7
    (targetOp pd a fun c x s =>
      let ok := (s.cx c x).still
      (if ok then s.updCx c x fun y => { y with st := .ready, readyAt := s.cycle } else s).emitP pd ok) s

def execStep (pd a : Nat) (s : State) : Res' :=
  runSlot 7
    (targetOp pd a fun c x s =>
      if (s.cx c x).still then
        let r := s.me.pReg pd
        (s.updCx c x fun y => { y with stepper := some (s.iss.core, s.iss.ctx, s.me.step, r) }).mark [r]
      else s.emitP pd false) s

/-! ### trap, syscall and brk (R318, R321) -/

def execTrap (code : Nat) (s : State) : Res' := runSlot 7 { run := fun s => .ok (s.afterCommit (.escalate code)) } s

/-- A commit-then-trap cause; in a trap it is the second cause of a double trap and does not commit. -/
def softTrap (cause code : Nat) (s : State) : Except (Nat × Option Word) State :=
  if s.me.inTrap then .error (cause, some (wordOf code)) else .ok (s.afterCommit (.trap cause (some (wordOf code))))

def execSyscall (code : Nat) (s : State) : Res' := runSlot 7 { run := softTrap 0x40 code } s

def execBrk (code : Nat) (s : State) : Res' := runSlot 7 { run := softTrap 0x1A code } s

/-- The word stands alone in its bundle (R316 to R318). -/
def aloneDecode (s : State) : Option Nat := if s.iss.words ≠ 1 then some 3 else none

/-- The handler's return while HDL = 1; otherwise an ordinary `syscall 0xFFFF` (R318). -/
def handlerReturnOp : SlotOp where
  decode s := if s.me.hdl then aloneDecode s else none
  waits s := waitsIf s.me.hdl [.pipe]
  run s := if s.me.hdl then .ok (s.afterCommit .handlerReturn) else softTrap 0x40 0xFFFF s

def execHandlerReturn (s : State) : Res' := runSlot 7 handlerReturnOp s

/-! ### rte and upcall (R316, R317) -/

/-- The decode checks of a return from RUNTIME mode. -/
def returnDecode (s : State) : Option Nat := match aloneDecode s with | some c => some c | none => runtimeOnly s

def execRte (s : State) : Res' :=
  runSlot 7 { decode := returnDecode, waits := fun _ => [.pipe], run := fun s => .ok (s.afterCommit .rte) } s

def execUpcall (s : State) : Res' :=
  runSlot 7
    { decode := returnDecode
      waits := fun _ => [.pipe]
      run := fun s => if (s.me.ctlGet 0x12).getLsbD 63 then .ok (s.afterCommit .upcall) else .error (3, none) } s

/-! ### Watchpoints (R327) -/

/-- The word that `wset` names: its SP bit and address. -/
def watchTarget (c : Nat) (v : Word) : Option (Bool × Nat) :=
  if v.getLsbD 63 then
    if getField v 23 40 = 0 ∧ getField v 0 3 = 0 then some (true, getField v 0 23) else none
  else
    let a := getField v 0 48
    if getField v 48 15 = 0 ∧ getField v 0 3 = 0 ∧ tierOf a = 0 ∧ bitsOf 38 8 a = 0 ∧ vaultOf a = c then some (false, a) else none

def wsetOp (n a kinds dsel : Nat) : SlotOp where
  decode := runtimeOnly
  names x := [x.sReg a]
  run s :=
    let v := s.rs a
    if v.poison then poisonFault
    else match watchTarget s.iss.core v.val with
      | none => .error (3, some v.val)
      | some (sp, ad) =>
        let l := match s.myTask with | some t => t.launch | none => 0
        .ok (s.updMyCore fun k => { k with
          wps := k.wps.put {} n { st := 1, owner := s.iss.ctx, sp := sp, kinds := kinds, dsel := dsel, addr := ad, launch := l } })

def execWset (n a kinds dsel : Nat) (s : State) : Res' := runSlot 7 (wsetOp n a kinds dsel) s

def execWclr (n : Nat) (s : State) : Res' :=
  runSlot 7
    { decode := runtimeOnly
      run := fun s => .ok (s.updMyCore fun k => { k with wps := k.wps.put {} n { k.wps.get {} n with st := 0 } }) } s

/-! ### drain and fence (R185, R193, R194) -/

/-- The deferred-loss latch: VAULT_LOST where it is set. -/
def latchCheck (s : State) (k : State → State) : Except (Nat × Option Word) State :=
  match s.me.dloss with
  | some a => .error (0x0D, some a)
  | none => .ok (k s)

/-- The scope of a fence concerns other agents only: for the issuing context the hold is the same at every scope (R194). -/
def execFence (_sc : Scope) (s : State) : Res' :=
  runSlot 7 { waits := fun _ => [.earlier false], run := fun s => latchCheck s id } s

def execDrain (s : State) : Res' := runSlot 7 { waits := fun _ => [.earlier true], run := fun s => latchCheck s id } s

/-- `ccp` (R385). -/
def execCcp (s : State) : Res' := runSlot 7 { run := fun s => .ok s.cancelPoint } s

/-! ### Vendor diagnostic words (R68, R70) -/

def vendorOp (d : Nat) : SlotOp where
  decode s := if s.me.mode && s.me.diag then none else some 1
  names x := [x.sReg d]
  run s :=
    let (n, s) := s.draw
    let (r, w) := Config.diagWrite n
    let s := s.updMyCore fun k => { k with test := k.test.put 0 r w }
    let q := s.me.sReg d
    .ok ((s.addLand s.iss.core s.iss.ctx s.me.step q (.val (.w (Config.diagResult n)))).mark [q])

/-- What a word does with its opcode and its other operand bits is the vendor's: its result and the test access registers it writes are free
values. The specification states no latency for the result, so that its register is scoreboarded (R80, R82). -/
def execVendorDiagnostic (_opc d _rest : Nat) (s : State) : Res' := runSlot 0 (vendorOp d) s

end Sys2Proof.Machine
end

