-- ==== Sys2Proof/Machine/Group.lean ====
section
/-! DEFINITION. Sibling groups (R366 to R389): the ballot, the pennant, cancellation requests and end notices, the reclaimer, and the
instructions that post, read and cancel. -/

namespace Sys2Proof.Machine

/-! ### Slots (R366, R368) -/

def State.slot (s : State) (n : Nat) : Option Ballot := s.ballots.get none n

def State.setSlot (s : State) (n : Nat) (b : Option Ballot) : State := { s with ballots := s.ballots.put none n b }

/-- The ballot slot of a context's group, and its sibling number. -/
def State.groupOf (s : State) (c x : Nat) : Option (Nat × Nat) :=
  match s.taskOf c x, s.launchOf c x with
  | some t, some l => match t.sib, l.ballot with | some i, some b => some (b, i) | _, _ => none
  | _, _ => none

/-- The task of a sibling. -/
def State.sibling (s : State) (l sib : Nat) : Option (Nat × Task) :=
  s.tasks.findSome? fun e => match e.2 with | some t => if t.launch = l ∧ t.sib = some sib then some (e.1, t) else none | none => none

/-! ### Words (R380, R381) -/

def gstateCode : GState → Nat
  | .open => 0
  | .voting => 1
  | .decided => 2
  | .exhausted => 3
  | .closed => 4

def Ballot.status (b : Ballot) : Word :=
  wordOf (gstateCode b.st * 2 ^ 61 + boolNat b.tie * 2 ^ 60 + boolNat b.nowin * 2 ^ 59 + boolNat b.poolovf * 2 ^ 58 + boolNat b.rcerr * 2 ^ 57
    + b.winsib % 256 * 2 ^ 48 + b.q % 256 * 2 ^ 40 + b.n % 256 * 2 ^ 32 + b.posted.length % 256 * 2 ^ 24 + b.winvotes % 256 * 2 ^ 16
    + b.cancelled.length % 256 * 2 ^ 8 + b.reclaimed.length % 256)

/-- A selection of a slot (R380). -/
def Ballot.word (b : Ballot) (sel : Nat) : Word :=
  if sel = 0 then b.status
  else if sel = 1 then b.winner
  else if sel < 7 then wordOf ((b.cw[sel - 2]?).getD 0)
  else if sel = 7 then wordOf (b.other * 2 ^ 48 + b.late * 2 ^ 32 + b.dup * 2 ^ 16 + b.abst)
  else if sel < 16 then 0
  else if sel < 32 then match b.hashes[sel - 16]? with | some h => h.x | none => 0
  else if sel < 48 then match b.hashes[sel - 32]? with | some h => wordOf (h.first % 256 * 2 ^ 8 + h.votes % 256) | none => 0
  else 0

/-- A slot's word; a freed slot reads zero. -/
def State.slotWord (s : State) (n sel : Nat) : Word := match s.slot n with | some b => b.word sel | none => 0

/-! ### The unit (R368 to R372, R384) -/

def satInc16 (n : Nat) : Nat := satAdd 16 n 1

/-- The slot takes an event of place `p` in the order of R369 in this cycle. -/
def Ballot.takes (b : Ballot) (cycle p : Nat) : Bool := decide (b.at_ = cycle → b.place ≤ p)

def Ballot.finished (b : Ballot) (i : Nat) : Bool := b.posted.contains i || b.cancelled.contains i || b.ended.contains i

/-- A counted post of hash `x` (R368): the slot, and whether the hash has reached the quorum. -/
def Ballot.vote (b : Ballot) (sib : Nat) (x : Word) : Ballot × Bool :=
  let b := { b with posted := b.posted ++ [sib], st := .voting }
  match b.hashes.find? fun h => decide (h.x = x) with
  | some h =>
    let h' := { h with votes := h.votes + 1, low := Nat.min h.low sib }
    ({ b with hashes := b.hashes.map fun g => if g.x = x then h' else g }, decide (h'.votes = b.q))
  | none =>
    if b.hashes.length < 16 then ({ b with hashes := b.hashes ++ [⟨x, 1, sib, sib⟩] }, decide (b.q = 1))
    else ({ b with other := satInc16 b.other }, false)

/-- The winner is recorded. -/
def Ballot.win (b : Ballot) (x : Word) (st : GState) : Ballot :=
  match b.hashes.find? fun h => decide (h.x = x) with
  | some h => { b with st := st, winner := x, winsib := h.low, winvotes := h.votes }
  | none => { b with st := st }

/-- The pennant goes to a sibling, which is marked cancelled (R371). -/
def State.pennant (s : State) (slot sib : Nat) : State :=
  match s.slot slot with
  | none => s
  | some b =>
    let s := s.setSlot slot (some { b with cancelled := b.cancelled ++ [sib] })
    match s.sibling b.launch sib with
    | none => s
    | some (tid, t) => t.ctxs.foldl (fun s x => s.sendMsg (.pennant t.core x tid)) (s.updTask tid fun t => { t with cancelledSib := true })

/-- A slot is about to be decided: an acquiring `bread` behind which its context has gone on reads the word before that, since a decided
result would have held the later accesses (R196, R388, log entry 52). -/
def State.readOpen (s : State) (slot : Nat) : State :=
  { s with lands := s.lands.map fun l =>
      match l.val with
      | .bread n sel =>
        if n = slot ∧ l.acq ∧ l.step + 1 < (s.cx l.core l.ctx).step then { l with val := .val (.w (s.slotWord n sel)), acq := false } else l
      | _ => l }

/-- A post at the unit (R368): the reply, and the slot after it. -/
def State.postAt (s : State) (slot : Nat) (b : Ballot) (sib : Nat) (x : Word) : Bool × State :=
  if b.st ≠ .open ∧ b.st ≠ .voting ∨ b.cancelled.contains sib then (false, s.setSlot slot (some { b with late := satInc16 b.late }))
  else if b.posted.contains sib then (false, s.setSlot slot (some { b with dup := satInc16 b.dup }))
  else
    let (v, won) := b.vote sib x
    if won then
      let s := s.readOpen slot
      let v := v.win x .decided
      let l := (List.range v.n).filter fun i => !v.posted.contains i && !v.ended.contains i && !v.cancelled.contains i
      (true, l.foldl (fun s i => s.pennant slot i) (s.setSlot slot (some v)))
    else (true, s.setSlot slot (some v))

def execBallotPostArrive (id : Nat) (s : State) : Res' :=
  match Msg.find s id with
  | some (.post slot sib x c cx step reg) =>
    match s.slot slot with
    | none => .next ((s.dropMsg id).landIf c cx step reg (.b false))
    | some b =>
      runEvent (b.takes s.cycle sib)
        (fun s =>
          let (ok, s) := (s.dropMsg id).postAt slot { b with at_ := s.cycle, place := sib } sib x
          s.landIf c cx step reg (.b ok)) s
  | _ => .next s

/-- A cancellation request at the unit (R384). -/
def State.cancelAt (s : State) (slot : Nat) (b : Ballot) (mask : Word) : State :=
  let l := (List.range b.n).filter fun i => mask.getLsbD i && !b.ended.contains i && !b.cancelled.contains i
  let abst := (l.filter fun i => !b.posted.contains i).foldl (fun n _ => satInc16 n) b.abst
  l.foldl (fun s i => s.pennant slot i) (s.setSlot slot (some { b with abst := abst }))

def execGcancelRequestArrive (id : Nat) (s : State) : Res' :=
  match Msg.find s id with
  | some (.gcancel slot _ mask) =>
    match s.slot slot with
    | none => .next (s.dropMsg id)
    | some b => runEvent (b.takes s.cycle 64) (fun s => (s.dropMsg id).cancelAt slot { b with at_ := s.cycle, place := 64 } mask) s
  | _ => .next s

/-- The slot closes when the last sibling has ended and every cancelled one has been reclaimed (R369). -/
def Ballot.close (b : Ballot) : Ballot :=
  if (b.st = .decided ∨ b.st = .exhausted) ∧ b.ended.length = b.n ∧ b.cancelled.all b.reclaimed.contains then { b with st := .closed } else b

/-- A sibling has ended (R372). -/
def Ballot.endAt (b : Ballot) (sib : Nat) : Ballot :=
  if b.ended.contains sib then b
  else
    let count := decide (b.st = .open ∨ b.st = .voting) && !b.posted.contains sib && !b.cancelled.contains sib
    ({ b with ended := b.ended ++ [sib], abst := if count then satInc16 b.abst else b.abst } : Ballot).close

/-- A post of the sibling is still on its way. -/
def State.postsOpen (s : State) (slot sib : Nat) : Bool :=
  s.msgs.any fun m => match m.msg with | .post b i .. => decide (b = slot ∧ i = sib) | _ => false

def execEndNoticeArrive (id : Nat) (s : State) : Res' :=
  match Msg.find s id with
  | some (.endNotice slot sib) =>
    match s.slot slot with
    | none => .next (s.dropMsg id)
    | some b =>
      runEvent (b.takes s.cycle 65 && !s.postsOpen slot sib)
        (fun s => (s.dropMsg id).setSlot slot (some (({ b with at_ := s.cycle, place := 65 } : Ballot).endAt sib))) s
  | _ => .next s

/-- The best tracked hash: most votes, then the smallest value (R370). -/
def bestHash : List Hash → Option Hash
  | [] => none
  | h :: r => match bestHash r with
    | none => some h
    | some g => if g.votes < h.votes ∨ (g.votes = h.votes ∧ h.x.toNat < g.x.toNat) then some h else some g

/-- The EXHAUSTED test, at the end of each cycle (R369, R370). -/
def Ballot.exhaust (b : Ballot) : Ballot :=
  if (b.st = .open ∨ b.st = .voting) ∧ (List.range b.n).all b.finished then
    match bestHash b.hashes with
    | none => ({ b with st := .exhausted, nowin := true } : Ballot).close
    | some h =>
      let tie := decide (1 < (b.hashes.filter fun g => decide (g.votes = h.votes)).length)
      ({ b.win h.x .exhausted with tie := tie } : Ballot).close
  else b

/-- The end notices of the siblings whose last context has ended (R372), and the EXHAUSTED tests of the cycle. -/
def State.groupTick (s : State) : State :=
  let s := s.tasks.foldl (fun s e =>
    match e.2 with
    | some t =>
      match t.sib, (s.launches.get none t.launch).bind (·.ballot) with
      | some i, some b =>
        if !t.noted && !t.saved && (t.freed || t.ctxs.all fun x => (s.cx t.core x).over) then (s.updTask e.1 fun t => { t with noted := true }).sendMsg (.endNotice b i)
        else s
      | _, _ => s
    | none => s) s
  let s := s.ballots.foldl (fun s e => if e.2.map Ballot.exhaust = e.2 then s else s.readOpen e.1) s
  { s with ballots := s.ballots.map fun e => (e.1, e.2.map Ballot.exhaust) }

/-- BALLOT_SLOT_FREE: a closed slot whose completion record has performed (R369). -/
def execBallotSlotFree (slot : Nat) (s : State) : Res' :=
  match s.slot slot with
  | some b =>
    runEvent (decide (b.st = .closed) && (s.launches.get none b.launch).isNone && !(s.holding.any fun r => decide (r.slot = some slot)))
      (fun s => s.setSlot slot none) s
  | none => .next s

/-! ### The pennant (R371, R373) -/

/-- The pennant sets CANREQ; the grace count starts (R374). -/
def Ctx.request (x : Ctx) : Ctx :=
  if x.over || decide (x.st = .free) || x.canreq then x else { x with canreq := true, grace := 0 }

def execPennantArrive (c x : Nat) (s : State) : Res' :=
  match s.msgs.find? fun m => match m.msg with | .pennant c' x' _ => decide (c' = c ∧ x' = x) | _ => false with
  | some m =>
    match m.msg with
    | .pennant _ _ t =>
      let s := s.dropMsg m.id
      .next (if (s.cx c x).task = some t then s.updCx c x Ctx.request else s)
    | _ => .next s
  | none => .next s

/-! ### The reclaimer (R376 to R378) -/

/-- What a walk gives an engine of the control plane: a physical address, a failure with the address of a poisoned entry, or a BUSY leaf to
wait for. -/
inductive Xlated where
  | pa (a : Nat)
  | fail (pois : Option Nat)
  | wait
  deriving DecidableEq, Repr

def State.translate (s : State) (va xroot : Word) : Xlated :=
  match s.walk va xroot with
  | .busy _ => .wait
  | .leaf e _ =>
    if tierOf (leafFrame e) = 3 then .fail none else .pa (leafFrame e + va.toNat % pageBytes (leafSize e))
  | .fail p => .fail p
  | .down .. => .fail none

/-- The poisoned entries that failed walks read. -/
def Xlated.pois : Xlated → Option Nat
  | .fail p => p
  | _ => none

/-- A word at its home: its value and its poison; a lost quarter reads as a poisoned 0. -/
def State.homeWord (s : State) (a : Nat) : Nat × Bool :=
  if s.lostAt a then (0, true) else let (bs, po) := s.peek a 8; (leNat bs, po)

/-- The slot notes an error of the reclaim; a walk that read a poisoned entry reports it (R209). -/
def State.rcerr (s : State) (slot : Nat) (pois : Option Nat := none) : State :=
  let s := s.reportWalk 0 0 8 pois
  match s.slot slot with | some b => s.setSlot slot (some { b with rcerr := true }) | none => s

/-- A word at a virtual address, as the reclaimer reads it through its own walk: the address, the value and its poison. -/
def State.xlatWord (s : State) (va xroot : Word) : Xlated × Nat × Bool :=
  match s.translate va xroot with
  | .pa a => (.pa a, s.homeWord a)
  | x => (x, 0, false)

/-- The freed page enters the pool (R377). -/
def State.poolPut (s : State) (slot : Nat) (pool xroot pg : Word) (core : Nat) : Option State :=
  match s.xlatWord pool xroot, s.xlatWord (pool + 8) xroot with
  | (.wait, _), _ => none
  | _, (.wait, _) => none
  | (.pa p, k, po), (.pa _, cap, po') =>
    let ag := Agent.reclaimer core
    if po || po' then some ((s.watchPhys p 8 4 ag).rcerr slot)
    else if k < cap then
      let s := (s.poke p ((leBytes 8 (k + 1)).map some) false).watchPhys p 8 4 ag
      match s.translate (pool + 16 + wordOf (8 * k)) xroot with
      | .wait => none
      | .fail f => some (s.rcerr slot f)
      | .pa e => some (if s.lostAt e then s else (s.poke e ((leBytes 8 pg.toNat).map some) false).watchPhys e 8 2 ag)
    else
      let s := s.watchPhys p 8 4 ag
      some (match s.slot slot with | some b => s.setSlot slot (some { b with poolovf := true }) | none => s)
  | (x, _), (y, _) => some (s.rcerr slot (x.pois <|> y.pois))

/-- The count of a page goes down by one (R377); at 0 the page enters the pool. -/
def State.dropPage (s : State) (slot : Nat) (pool xroot pg : Word) (core r : Nat) : Option State :=
  let ag := Agent.reclaimer core
  let (bs, bad) := if s.lostAt r then ([], true) else s.peek r 4
  let old := if bad then 0 else leNat bs
  let s := if old = 0 then s else s.poke r ((leBytes 4 (old - 1)).map some) false
  let s := s.watchPhys r 4 4 ag
  if old = 0 then some (s.rcerr slot)
  else if old = 1 then s.poolPut slot pool xroot pg core
  else some s

/-- One entry of a page set (R377), both its words translated: none where a walk has to wait. -/
def State.reclaimEntry (s : State) (slot : Nat) (ps pool xroot : Word) (core i : Nat) : Option State :=
  let at_ := ps + wordOf (16 * i)
  match s.xlatWord at_ xroot, s.xlatWord (at_ + 8) xroot with
  | (.wait, _), _ => none
  | _, (.wait, _) => none
  | (.pa _, pg, po), (.pa _, rc, po') =>
    if po || po' || pg % 2 ^ 13 != 0 || rc % 4 != 0 then some (s.rcerr slot)
    else match s.translate (wordOf pg) xroot, s.translate (wordOf rc) xroot with
      | .wait, _ => none
      | _, .wait => none
      | .pa _, .pa r => s.dropPage slot pool xroot (wordOf pg) core r
      | x, y => some (s.rcerr slot (x.pois <|> y.pois))
  | (x, _), (y, _) => some (s.rcerr slot (x.pois <|> y.pois))

def State.reclaimEntries (s : State) (slot : Nat) (ps pool xroot : Word) (core : Nat) : List Nat → Option State
  | [] => some s
  | i :: r => match s.reclaimEntry slot ps pool xroot core i with
    | some t => t.reclaimEntries slot ps pool xroot core r
    | none => none

/-- The pages of a sibling (R376, R377): the descriptor, the page-set header and the pool are reached first. -/
def State.reclaimPages (s : State) (slot sib core : Nat) (aff xroot : Word) : Option State :=
  if aff = 0 then some s
  else if aff.toNat % 64 ≠ 0 then some (s.rcerr slot)
  else match s.translate aff xroot with
    | .wait => none
    | .fail f => some (s.rcerr slot f)
    | .pa d =>
      let ws := (List.range 8).map fun i => s.homeWord (d + 8 * i)
      let base := (ws[0]?).getD (0, true)
      let pool := wordOf ((ws[1]?).getD (0, true)).1
      let ps := wordOf (base.1 + 0x4000 * sib)
      if ws.any (·.2) || (ws.drop 2).any (fun w => w.1 != 0) then some (s.rcerr slot)
      else match s.translate ps xroot, s.translate pool xroot with
        | .wait, _ => none
        | _, .wait => none
        | .pa h, .pa _ =>
          let (hd, po) := s.homeWord h
          if po || hd / 2 ^ 10 != 0 then some (s.rcerr slot)
          else s.reclaimEntries slot ps pool xroot core ((List.range (hd % 2 ^ 10)).map (· + 1))
        | x, y => some (s.rcerr slot (x.pois <|> y.pois))

/-- The final update of a reclaim (R377, R378). -/
def Ballot.account (b : Ballot) (sib : Nat) (t : Task) : Ballot :=
  let work := [t.cw0, t.cw1, t.cw2, t.cw3, t.cw4]
  ({ b with cw := (b.cw.zip work).map fun e => satAdd 64 e.1 e.2, reclaimed := b.reclaimed ++ [sib] } : Ballot).close

/-- A call of the task is still open: it has neither replied nor been reported LOST. -/
def State.callsOpen (s : State) (tid : Nat) : Bool :=
  s.openCalls.any (fun m => decide (m.2.task = tid ∧ m.2.chip = s.chip)) ||
    s.msgs.any fun m => match m.msg with | .reply c .. => decide (c.task = tid) | _ => false

/-- GROUP_RECLAIM: a cancelled sibling that has come to rest, once (R377). -/
def execGroupReclaim (slot sib : Nat) (s : State) : Res' :=
  match s.slot slot with
  | none => .next s
  | some b =>
    match s.sibling b.launch sib, s.launches.get none b.launch with
    | some (tid, t), some l =>
      if b.cancelled.contains sib && !b.reclaimed.contains sib && t.freed && !s.callsOpen tid then
        match s.reclaimPages slot sib t.core ((l.words[1]?).getD 0) ((l.words[4]?).getD 0) with
        | some u => .next (match u.slot slot with | some v => u.setSlot slot (some (v.account sib t)) | none => u)
        | none => .next s
      else .next s
    | _, _ => .next s

/-! ### The instructions (R382 to R389) -/

/-- The context is in no sibling group: BADADDR holds SIBID (R389). -/
def noGroup {α : Type} : Except (Nat × Option Word) α := .error (3, some (BitVec.allOnes 64))

def bpostOp (a pd : Nat) : SlotOp where
  names x := [x.sReg a, x.pReg pd]
  waits _ := [.earlier false]
  run s :=
    let v := s.rs a
    if v.poison then poisonFault
    else match s.groupOf s.iss.core s.iss.ctx with
      | none => noGroup
      | some (slot, sib) =>
        let r := s.me.pReg pd
        .ok ((s.sendMsg (.post slot sib v.val s.iss.core s.iss.ctx s.me.step (some r))).mark [r])

def execBpost (a pd : Nat) (s : State) : Res' := runSlot 7 (bpostOp a pd) s

def breadOp (ord : MemOrd) (a sel : Nat) : SlotOp where
  names x := [x.sReg a]
  run s :=
    match s.groupOf s.iss.core s.iss.ctx with
    | none => noGroup
    | some (slot, _) =>
      let r := s.me.sReg a
      .ok ((s.addLand s.iss.core s.iss.ctx s.me.step r (.bread slot sel) (ordAcq ord)).mark [r])

def execBread (ord : MemOrd) (a sel : Nat) (s : State) : Res' := runSlot 7 (breadOp ord a sel) s

def gcancelOp (a : Nat) : SlotOp where
  names x := [x.sReg a]
  run s :=
    let v := s.rs a
    if v.poison then poisonFault
    else match s.groupOf s.iss.core s.iss.ctx with
      | none => noGroup
      | some (slot, _) => .ok (s.sendMsg (.gcancel slot s.iss.core v.val))

def execGcancel (a : Nat) (s : State) : Res' := runSlot 7 (gcancelOp a) s

end Sys2Proof.Machine
end

