-- ==== Sys2Proof/Machine/Save.lean ====
section
/-! DEFINITION. Checkpoint and resumption (R241, R242, R270, R293, R322 to R325): stopping a task at its save points, the save blocks, and
reading them back. -/

namespace Sys2Proof.Machine

/-! ### Blocks of memory -/

/-- A block of the save area: cleared, its lines free of poison, then the listed bytes. -/
def State.putBlock (s : State) (base len : Nat) (l : List (Nat × List Byte)) : State :=
  { s with
    mem := l.foldl (fun m e => writeBytes m (base + e.1) e.2) (s.mem.clear base (base + len))
    poison := s.poison.clear (base / 64) ((base + len) / 64)
    empty := s.empty.filter fun e => !rangesMeet (e.1 * 8) (e.1 * 8 + 8) base (base + len) }

def w8 (off : Nat) (w : Word) : Nat × List Byte := (off, leBytes 8 w.toNat)

def State.word (s : State) (a : Nat) : Word := wordOf (readNat s.mem a 8)

/-- Bits as a number, bit 0 first. -/
def bitsNat (l : List Bool) : Nat := l.foldr (fun b n => boolNat b + 2 * n) 0

/-- BASE of a context's save block (R322). -/
def saveBase (w : Word) : Nat := getField w 16 32 * 2 ^ 16

/-! ### The decision's effect: the task stops (R324 points 1 and 3) -/

/-- A context of the task issues nothing more. -/
def State.holdCtx (s : State) (c x : Nat) : State :=
  let s := s.noteLeft c x
  s.updCx c x fun y =>
    if y.st = .running then { y.freeze with st := .ready, held := true, readyAt := s.cycle } else { y with held := true }

/-- No context of the task is in a trap, TRAPPED or FROZEN: only then is it saved (R324). -/
def Ctx.mayBeSaved (x : Ctx) : Bool := x.over || (!x.inTrap && !decide (x.st = .trapped ∨ x.st = .frozen))

/-- The task stops at its save points: its contexts, its commands, its tile operations (R163, R270, R293). -/
def State.beginSave (s : State) (tid : Nat) (t : Task) : State :=
  let s := t.ctxs.foldl (fun s x => (s.holdCtx t.core x).updCore t.core fun k => k.stopOps x) s
  let s := s.updCore t.core fun k => k.mapCmds fun q m => if m.task = tid then dropAhead s.now q { m with hold := true } else m
  s.updTask tid fun t => { t with saving := true, drain := [] }

/-- A command of the task stands at a point at which it can be saved (R270, R293, R413). -/
def cmdSavable (q : Nat) (m : Cmd) : Bool :=
  decide (m.st = 0) ||
    (decide (m.st = 1) && !m.unchecked && !m.stopping &&
      (if q < 4 then decide (m.items < m.copy.total ∧ m.status = 0) && m.revokedDetail.isNone && !m.lost && !(m.batch.any (·.part))
       else if q < 6 then
         m.revoked.isEmpty && m.buf.isEmpty && ((m.xop == 0 && !m.inRef && decide (m.items < m.xb.nr)) ||
           (m.xop == 4 && m.out.isEmpty && decide (m.items < m.xb.nv)))
       else false))

/-- The commands of a task in a core's queues, by queue. -/
def Core.cmdsOf (k : Core) (tid : Nat) : List (Nat × Cmd) :=
  (List.range 8).flatMap fun q => ((k.queue q).cmds.filter fun m => decide (m.task = tid)).map fun m => (q, m)

/-- Nothing of a context is in flight (R324 point 2). -/
def State.ctxQuiet (s : State) (c x : Nat) : Bool :=
  (s.accsOf c x).isEmpty && !(s.groups.any fun g => decide (g.core = c ∧ g.ctx = x)) && !(s.lands.any fun l => decide (l.core = c ∧ l.ctx = x)) &&
    !(s.walks.any fun w => decide (w.core = c ∧ w.ctx = x)) && !(s.migs.any fun m => decide (m.core = c ∧ m.ctx = x)) &&
    !(s.revokes.any fun r => decide (r.core = c ∧ r.ctx = x) && r.pd.isSome) && (s.cx c x).pend.isEmpty &&
    !((s.cx c x).y.any fun r => r.2.st == 1 || r.2.pend)

def State.canSave (s : State) (tid : Nat) (t : Task) : Bool :=
  let k := s.core t.core
  t.saving && t.ctxs.all (fun x => s.ctxQuiet t.core x && (s.cx t.core x).mayBeSaved) && (k.cmdsOf tid).all (fun e => cmdSavable e.1 e.2 && !s.beatsOf e.2.id) &&
    !(k.mq.any fun o => t.ctxs.contains o.ctx) && !(k.pipe.any fun r => t.tiles.contains r.tile)

/-! ### The words of a command as saved (R270, R293) -/

def Cmd.savedWords (q : Nat) (m : Cmd) : List Word :=
  if m.st = 0 then [m.w0, m.w1, m.w2, m.w3]
  else if q < 4 then
    let p := m.copy
    let d := 8 * m.comp
    [m.w0, if p.expand then insField m.w1 0 33 (p.soff + d) else m.w1, if p.compress then insField m.w2 0 33 (p.doff + d) else m.w2,
      insField m.w3 22 22 m.items]
  else
    let x := m.xb
    if m.xop = 0 then
      let w2 := insField (insField m.w2 54 10 (x.row0 + m.items)) 43 11 (x.nr - m.items)
      [m.w0, insField m.w1 0 33 (x.ioff + 256 * m.items), if x.roff = 0 then w2 else insField w2 0 23 (x.roff + 136 * m.items), m.w3]
    else
      let w2 := insField m.w2 47 7 (x.nv - m.items)
      [m.w0, insField m.w1 0 33 (x.ioff + x.depth * m.items),
        if x.dt then insField w2 54 6 (x.trow + m.items) else insField w2 0 23 (x.roff + m.items * x.outRow), m.w3]

/-! ### The context block (R323) -/

/-- FILE and REG of a register (R89). -/
def RegId.code : RegId → Nat × Nat
  | .s n | .sR n => (0, n)
  | .p n | .pR n => (1, n)
  | .v n => (2, n)
  | .k n => (3, n)
  | .h n => (4, n)
  | .ctl n => (5, n)

/-- Bytes of a result's value. -/
def RVal.bytes (c : Nat) : RVal → List Byte
  | .w x => leBytes 8 x.toNat
  | .b x => leBytes 1 (boolNat x)
  | .v x => leBytes 256 x.toNat
  | .k x => leBytes 32 x.toNat
  | .h x => leBytes 8 (x.word0 c).toNat ++ leBytes 8 x.word1.toNat

/-- The descriptor of a snapshot entry (R89). -/
def Res.desc (r : Res) : Word :=
  let (f, n) := r.reg.code
  wordOf (2 ^ 36 + r.due % 32 * 2 ^ 31 + r.slot % 8 * 2 ^ 28 + boolNat r.poison * 2 ^ 27 + r.flags.toNat * 2 ^ 22 + f * 2 ^ 19 + n % 2 ^ 12 * 2 ^ 7 + r.pstep % 128)

/-- The FQ word (R313). -/
def fqWord (n a b c : Nat) : Word := wordOf (n % 4 * 2 ^ 54 + c % 2 ^ 18 * 2 ^ 36 + b % 2 ^ 18 * 2 ^ 18 + a % 2 ^ 18)

/-- The handler frame's words. -/
def Frame.words (f : Frame) (hdl : Bool) : List Word :=
  [wordOf (boolNat hdl), wordOf f.cause, wordOf f.mask, wordOf f.pc, f.bad, fqWord f.nfq f.fq1 f.fq2 f.fq3]

def cstateCode : CState → Nat
  | .free => 0
  | .loaded => 1
  | .ready => 2
  | .running => 3
  | .blocked => 4
  | .trapped => 5
  | .frozen => 6
  | .saved => 7
  | .done => 8
  | .cancelled => 9

/-- STATUS with CSTATE (R63): SAVED, or the state in which the context has ended. -/
def Ctx.savedStatus (x : Ctx) : Word :=
  wordOf ((if x.over then cstateCode x.st else 7) * 256 + boolNat x.canreq * 16 + boolNat x.diag * 8 + boolNat x.flush * 4)

def Reply.words (r : Reply) : List Word := r.word :: ((List.range 4).map fun i => ((r.vals[i]?).getD {}).val) ++ [wordOf r.deadline]

/-- Words at consecutive offsets. -/
def wordsAt (off : Nat) (l : List Word) : List (Nat × List Byte) := ((List.range l.length).zip l).map fun e => w8 (off + 8 * e.1) e.2

def Ctx.block (x : Ctx) (c : Nat) : List (Nat × List Byte) :=
  [w8 0 (wordOf x.f0), w8 8 (fqWord 3 x.f1 x.f2 x.f3)] ++
    wordsAt 0x10 (x.savedStatus :: [1, 3, 4, 5, 0x0A, 0x11, 0x12, 0x14, 6, 7, 8, 9].map x.ctlGet) ++
    (match x.dloss with | some a => [w8 0x80 (1 <<< 63), w8 0x88 a] | none => []) ++
    [w8 0x90 (wordOf (x.gen % 2 ^ 16))] ++ wordsAt 0xA0 ((x.xfaults.take 16).map XFault.word) ++ wordsAt 0x120 (x.frame.words x.hdl) ++
    x.s.map (fun e => w8 (0x200 + 8 * e.1) e.2.val) ++
    [w8 0x400 (wordOf (bitsNat ((List.range 64).map fun i => (x.s.get {} i).poison))),
     w8 0x408 (wordOf (bitsNat ((List.range 64).map fun i => (x.v.get {} i).poison))),
     w8 0x410 (wordOf (bitsNat ((List.range 16).map fun i => i == 0 || x.p.get false i)))] ++
    (List.range 8).map (fun i => (0x440 + 32 * i, leBytes 32 (x.readK i).toNat)) ++
    x.h.flatMap (fun e => [w8 (0x600 + 16 * e.1) (e.2.word0 c), w8 (0x608 + 16 * e.1) e.2.word1]) ++
    x.y.flatMap (fun e => wordsAt (0x800 + 64 * e.1) e.2.words) ++
    ((List.range 64).zip x.snap).flatMap (fun e => [w8 (0x1000 + 8 * e.1) e.2.desc, (0x2000 + 256 * e.1, e.2.val.bytes c)]) ++
    x.v.map (fun e => (0x6000 + 256 * e.1, leBytes 256 e.2.val.toNat))

/-! ### The task block (R241, R323) -/

/-- An armed wait as saved (R241). -/
def Armed.word (a : Armed) : Word :=
  wordOf (2 ^ 63 + boolNat a.que * 2 ^ 62 + a.who % 8 * 2 ^ 59 + boolNat a.dec * 2 ^ 58 + a.idx % 256 * 2 ^ 24 + a.thr % 2 ^ 16)

/-- The armed waits of a task: its contexts' and those of the queues it holds. -/
def Core.waitsOf (k : Core) (t : Task) : List Armed :=
  k.armed.filter fun a => if a.que then t.img.queues.testBit a.who else t.ctxs.contains a.who

/-- An entry of the command area. -/
def Cmd.block (m : Cmd) (c q e : Nat) : List (Nat × List Byte) :=
  let base := 0x1000 + 0x4000 * q + 0x200 * e
  let hs := (cmdHandles q m.w1 m.w2 m.w3).map m.snap
  wordsAt base (m.savedWords q) ++ [w8 (base + 0x20) (wordOf (2 ^ 63 + boolNat (decide (m.st = 1) || m.again) * 2 ^ 62))] ++
    wordsAt (base + 0x40) ((hs.take 28).flatMap fun h => [h.word0 c, h.word1])

def Plane.cells (p : Plane) (base : Nat) : List (Nat × List Byte) :=
  p.elems.map (fun e => (base + e.1, [e.2])) ++ p.scales.map (fun e => (base + 0x3000 + e.1, [e.2])) ++
    [w8 (base + 0x3100) (wordOf (pstateCode p.st + planeFmt p * 16))]

def Tile.block (v : Tile) (stat : Word) (base : Nat) : List (Nat × List Byte) :=
  v.elems.map (fun e => (base + 12 * e.1, leBytes 12 (fieldOf 96 e.2.acc))) ++
    [(base + 0xC000, leBytes 512 (v.elems.foldl (fun n e => if e.2.nan then n + 2 ^ e.1 else n) 0)), w8 (base + 0xC200) stat,
     w8 (base + 0xC208) (v.prog 0), w8 (base + 0xC210) (v.prog 1)]

/-- The number of each command within its queue. -/
def numbered (l : List (Nat × Cmd)) : List (Nat × Nat × Cmd) :=
  (List.range 8).flatMap fun q =>
    let r := (l.filter fun e => decide (e.1 = q)).map (·.2)
    ((List.range r.length).zip r).map fun e => (q, e.1, e.2)

/-- The cells of the task block but the scratchpad. -/
def Core.taskBlock (k : Core) (tid : Nat) (t : Task) (domid : Word) : List (Nat × List Byte) :=
  [w8 0 (wordOf t.budget), w8 8 domid] ++
    (List.range (t.img.semHi + 1 - t.img.semLo)).map (fun i => (0x400 + 4 * i, leBytes 4 (k.sem (t.img.semLo + i)))) ++
    wordsAt 0x800 ((k.waitsOf t).map Armed.word) ++
    (numbered (k.cmdsOf tid)).flatMap (fun e => e.2.2.block t.core e.1 e.2.1) ++
    (if t.img.tiles = 0 then [] else k.act.cells 0x21000 ++ k.shd.cells 0x25000) ++
    ((List.range t.tiles.length).zip t.tiles).flatMap fun e =>
      let v := k.tile e.2
      v.block (k.tstat v.holder v) (0x30000 + 0x10000 * e.1)

/-- The declared banks of a task's scratchpad, byte by byte, and the lines that hold a poisoned word. -/
def State.putBanks (s : State) (t : Task) (base : Nat) : State :=
  let k := s.core t.core
  let inTask := fun o => decide (o < 2 ^ 23) && t.img.banks.testBit (o / 2 ^ 21)
  { s with
    mem := k.spad.foldl (fun m e => if inTask e.1 then m.put 0 (base + 0x200000 + e.1) e.2 else m) s.mem
    poison := k.spadPoison.foldl (fun m e => if inTask (8 * e.1) then m.put false ((base + 0x200000 + 8 * e.1) / 64) true else m) s.poison }

/-! ### TASK_SAVE -/

/-- What a core gives up when a task's state has been written. -/
def Core.giveUp (k : Core) (tid : Nat) (t : Task) : Core :=
  { k with
    tiles := k.tiles.filter fun e => !t.tiles.contains e.1
    planeHolder := k.planeHolder.filter fun x => !t.ctxs.contains x
    armed := k.armed.filter fun a => if a.que then !t.img.queues.testBit a.who else !t.ctxs.contains a.who
    sems := k.sems.clear t.img.semLo (t.img.semHi + 1)
    wms := k.wms.filter fun e => !t.img.queues.testBit e.1
    queues := k.queues.map fun e => (e.1, { e.2 with cmds := e.2.cmds.filter fun m => decide (m.task ≠ tid) }) }

/-- What the task keeps of a context (R314). -/
def Ctx.keep (x : Ctx) : Kept := ⟨x.pstep, x.watch, x.budgetCause, x.stepTrap, x.syncHold, x.grace⟩

/-- A resumed context gets back what its task kept of it; the frame of a pending cause of a `step` is that of its fetch sequence. -/
def Ctx.unkeep (x : Ctx) (k : Kept) : Ctx :=
  let x := { x with watch := k.watch, budgetCause := k.budget, stepTrap := k.stepTrap, syncHold := k.sync, grace := k.grace }
  if k.stepTrap then { x with nfq := 3, fq1 := x.f1, fq2 := x.f2, fq3 := x.f3 } else x

/-- A saved context on its core. -/
def Ctx.leave (x : Ctx) : Ctx :=
  { x with st := if x.over then x.st else .saved, held := false, watch := none, budgetCause := false, stepTrap := false, syncHold := none,
           snap := [], snapT := [], inflight := [], waits := [], h := [], xfaults := [], dloss := none }

/-- The save of a task (R324 point 4): reservations return, the blocks are written, and its resources become free. -/
def State.saveTask (s : State) (tid : Nat) (t : Task) : State :=
  let c := t.core
  let s := t.ctxs.foldl (fun s x => s.returnResv c x) s
  let s := ((s.core c).cmdsOf tid).foldl (fun s e => s.updCore c fun k => k.rearm e.1 e.2) s
  let k := s.core c
  let bases := t.ctxs.map fun x => saveBase (k.ctxsave.get 0 x)
  let s := (t.ctxs.zip bases).foldl (fun s e => s.putBlock e.2 0x10000 ((s.cx c e.1).block c)) s
  let tb := bases.headD 0 + 0x10000
  let domid := (s.cx c (t.ctxs.headD 0)).ctlGet 0x10
  let s := (s.putBlock tb 0xA00000 (k.taskBlock tid t domid)).putBanks t tb
  let keep := fun (t : Task) =>
    { t with
      saving := false, saved := true, bases := bases
      xvas := t.ctxs.map fun x => ((s.cx c x).xfaults.take 16).map (·.va)
      planes := k.planeHolder.bind fun x => (List.range t.ctxs.length).find? fun i => decide (t.ctxs[i]? = some x)
      arrs := t.ctxs.map fun x => (s.cx c x).arr
      kept := t.ctxs.map fun x => (s.cx c x).keep
      marks := k.wms.filter fun e => t.img.queues.testBit e.1
      cmds := k.cmdsOf tid }
  let s := s.updTask tid keep
  t.ctxs.foldl (fun s x => s.updCx c x Ctx.leave) (s.updCore c fun k => k.giveUp tid t)

/-! ### Reading the blocks back (R325) -/

/-- A handle from its saved words: translated again from its virtual base in its space, its generation kept; none where the walk waits. -/
def State.rehandle (s : State) (xroot w0 w1 : Word) : Option Handle :=
  let gen := getField w0 32 16
  if !w0.getLsbD 63 then some (Handle.dead gen (getField w0 16 8))
  else
    match s.walk w1 (insField xroot 52 12 (getField w0 0 12)) with
    | .busy _ => none
    | .fail _ | .down .. => some (Handle.dead gen 8)
    | .leaf e _ => if leafRefused e 0 false then some (Handle.dead gen 9) else some (handleOf w1 e gen)

/-- A handle of the save area. -/
def State.handleAt (s : State) (xroot : Word) (a : Nat) : Option Handle := s.rehandle xroot (s.word a) (s.word (a + 8))

/-- A list of results, none where one of them is. -/
def allSome {α : Type} : List (Option α) → Option (List α)
  | [] => some []
  | some a :: r => (allSome r).map (a :: ·)
  | none :: _ => none

/-- A reply slot of the save area; its values take the poison of their line (R325). -/
def State.readReply (s : State) (a : Nat) : Reply :=
  let w := s.word a
  let po := if s.poisoned a 40 then 15 else getField w 28 4
  { st := getField w 62 2, pend := w.getLsbD 61, status := getField w 48 8, cause := getField w 40 8, nv := getField w 37 3
    vals := (List.range (Nat.min 4 (getField w 37 3))).map fun i => ⟨s.word (a + 8 + 8 * i), po.testBit i⟩
    fn := getField w 16 12, seq := getField w 0 16, deadline := (s.word (a + 40)).toNat }

/-- How many steps before step `pstep` a result with this SEQ was issued: its bundle is one of the 128 before it (R89). -/
def seqAge (pstep seq : Nat) : Nat := (pstep % 128 + 127 - seq % 128) % 128 + 1

/-- A snapshot entry from its descriptor and value, read from a poisoned line poisoned; `y` is the context that receives it (R89, R325). -/
def State.readRes (s : State) (xroot : Word) (a i : Nat) (y : Ctx) : Option (Option Res) :=
  let d := s.word (a + 0x1000 + 8 * i)
  let v := a + 0x2000 + 256 * i
  let n := getField d 7 12
  let age := seqAge y.pstep (getField d 0 7)
  let po := d.getLsbD 27 || s.poisoned v 256 || s.poisoned (a + 0x1000 + 8 * i) 8
  let mk := fun (r : RegId) (x : RVal) =>
    some (some (⟨r, x, po, BitVec.ofNat 5 (getField d 22 5), getField d 31 5, getField d 28 3, y.step - age, y.pstep - age⟩ : Res))
  if !d.getLsbD 36 then some none
  else match getField d 19 3 with
    | 0 => mk (.s n) (.w (s.word v))
    | 1 => mk (.p n) (.b ((s.word v).getLsbD 0))
    | 2 => mk (.v n) (.v (BitVec.ofNat 2048 (readNat s.mem v 256)))
    | 3 => mk (.k n) (.k (BitVec.ofNat 256 (readNat s.mem v 32)))
    | 4 => (s.handleAt xroot v).bind fun h => mk (.h n) (.h h)
    | 5 => mk (.ctl n) (.w (s.word v))
    | _ => some none

/-- Pending translation faults, up to the first entry that is not VALID. -/
def State.readFaults (s : State) (a : Nat) : List Word → List XFault
  | [] => []
  | va :: r =>
    let w := s.word a
    if w.getLsbD 63 then ⟨getField w 48 4, getField w 40 8, w.getLsbD 39, getField w 0 18, va⟩ :: s.readFaults (a + 8) r else []

/-- Entries of a file of registers. -/
def fileOf {α : Type} [DecidableEq α] (d : α) (lo n : Nat) (f : Nat → α) : SMap α := (List.range n).foldl (fun m i => m.put d (lo + i) (f (lo + i))) []

/-- A context from its block; none where a walk waits. `y` is the context that receives it, its step at least 128. -/
def State.readCtx (s : State) (a : Nat) (xroot : Word) (vas : List Word) (y : Ctx) : Option Ctx :=
  let hs := (List.range 16).map fun i => s.handleAt xroot (a + 0x600 + 16 * i)
  let rs := (List.range 64).map fun i => s.readRes xroot a i y
  match allSome hs, allSome rs with
  | some hs, some rs =>
    let st := s.word (a + 0x10)
    let fq := s.word (a + 8)
    let ctl := [1, 3, 4, 5, 0x0A, 0x11, 0x12, 0x14, 6, 7, 8, 9]
    let f := fun i => s.word (a + 0x120 + 8 * i)
    let fr := f 5
    let sp := s.word (a + 0x400)
    let vp := s.word (a + 0x408)
    some
      { y with
        st := match getField st 8 4 with | 8 => .done | 9 => .cancelled | _ => .ready
        mode := false, canreq := st.getLsbD 4, diag := st.getLsbD 3, flush := st.getLsbD 2, hdl := (f 0).getLsbD 0
        ctl := ((List.range 12).zip ctl).foldl (fun m e => m.put 0 e.2 (s.word (a + 0x18 + 8 * e.1))) y.ctl
        f0 := (s.word a).toNat, f1 := getField fq 0 18, f2 := getField fq 18 18, f3 := getField fq 36 18
        dloss := if (s.word (a + 0x80)).getLsbD 63 then some (s.word (a + 0x88)) else none
        gen := getField (s.word (a + 0x90)) 0 16
        xfaults := s.readFaults (a + 0xA0) vas
        frame := ⟨(f 1).toNat, (f 2).toNat, (f 3).toNat, f 4, getField fr 54 2, getField fr 0 18, getField fr 18 18, getField fr 36 18⟩
        s := fileOf {} 1 63 fun i => ⟨s.word (a + 0x200 + 8 * i), sp.getLsbD i || s.poisoned (a + 0x200 + 8 * i) 8⟩
        v := fileOf {} 0 64 fun i =>
          ⟨BitVec.ofNat 2048 (readNat s.mem (a + 0x6000 + 256 * i) 256), vp.getLsbD i || s.poisoned (a + 0x6000 + 256 * i) 256⟩
        p := fileOf false 1 15 fun i => (s.word (a + 0x410)).getLsbD i
        k := fileOf (BitVec.allOnes 256) 1 7 fun i => BitVec.ofNat 256 (readNat s.mem (a + 0x440 + 32 * i) 32)
        h := ((List.range 16).zip hs).foldl (fun m e => m.put {} e.1 e.2) []
        y := fileOf {} 0 32 fun i => s.readReply (a + 0x800 + 64 * i)
        snap := rs.filterMap id }
  | _, _ => none

/-- Bytes of the task block as a sparse file of `n` bytes. -/
def State.sliceOf (s : State) (a n : Nat) : SMap Byte := (s.mem.filter fun e => decide (a ≤ e.1 ∧ e.1 < a + n)).map fun e => (e.1 - a, e.2)

def State.readPlane (s : State) (a : Nat) : Plane :=
  let w := s.word (a + 0x3100)
  { st := match getField w 0 2 with | 1 => .loaded | 2 => .poisoned | _ => .empty
    fmt := if getField w 4 4 = 15 then none else tyOf (getField w 4 4)
    elems := s.sliceOf a 0x3000, scales := s.sliceOf (a + 0x3000) 0x100 }

/-- A tile from its block; `holder` renames the context. -/
def State.readTile (s : State) (a : Nat) (holder : Nat → Nat) : Tile :=
  let w := s.word (a + 0xC200)
  let p0 := s.word (a + 0xC208)
  let p1 := s.word (a + 0xC210)
  let nan := readNat s.mem (a + 0xC000) 512
  let keys := (s.mem.filter fun e => decide (a ≤ e.1 ∧ e.1 < a + 0xC000)).map fun e => (e.1 - a) / 12
  let marked := (List.range 4096).filter fun i => nan.testBit i
  { st := match getField w 0 3 with | 1 => .allocated | 2 => .accumulating | 3 => .drainable | 4 => .poison | 5 => .faulted | _ => .free
    holder := holder (getField w 12 2), anchor := sextNat 16 (getField w 48 16), inexact := w.getLsbD 8, ovf := w.getLsbD 9
    elems := (keys ++ marked).foldl (fun m i => m.put {} i ⟨sextNat 96 (readNat s.mem (a + 12 * i) 12), nan.testBit i⟩) []
    ops := getField p0 32 32, src := getField p0 14 2, next := getField p0 0 7, vr := p1.getLsbD 63, loc := getField p1 0 23 }

/-- A command from its entry and from what the task keeps of it; `ctx` renames its context. One that had started starts again: a copy at
once, its checks still to be made, a crossbar command when R281 lets it (R270, R293). -/
def State.readCmd (s : State) (tid tb q e : Nat) (xroot : Word) (old : Cmd) (ctx : Nat → Nat) : Option Cmd :=
  let a := tb + 0x1000 + 0x4000 * q + 0x200 * e
  let hs := cmdHandles q (s.word (a + 8)) (s.word (a + 16)) (s.word (a + 24))
  (allSome ((List.range hs.length).map fun i => s.handleAt xroot (a + 0x40 + 16 * i))).map fun l =>
    let again := decide (old.st = 1) || old.again
    { id := old.id, ctx := ctx old.ctx, task := tid, w0 := s.word a, w1 := s.word (a + 8), w2 := s.word (a + 16), w3 := s.word (a + 24)
      snaps := (hs.zip l).foldl (fun m e => m.insert e.1 e.2) []
      step := old.step, pushed := old.pushed, heldFor := old.heldFor, covered := old.covered, tileOk := old.tileOk
      again := again, granted := again, st := boolNat (again && decide (q < 4)), unchecked := again && decide (q < 4)
      startAt := if again then s.cycle else 0, compBase := old.compBase + (if q < 4 then old.comp else old.items)
      flags := old.flags, stale := old.stale, wm := old.wm, kv := old.kv, masked := old.masked, bits := old.bits, first := old.first
      cnt := old.cnt, iter := old.iter, sat := old.sat }

/-- The commands of a task as they are resumed, by queue. -/
def State.readCmds (s : State) (tid tb : Nat) (xroot : Word) (t : Task) (ctx : Nat → Nat) : Option (List (Nat × Cmd)) :=
  allSome (((numbered t.cmds).filter fun e => (s.word (tb + 0x1020 + 0x4000 * e.1 + 0x200 * e.2.1)).getLsbD 63).map fun e =>
    (s.readCmd tid tb e.1 e.2.1 xroot e.2.2 ctx).map fun m => (e.1, m))

/-- The armed waits of a task, in list order, up to the first that is not VALID; they stand ahead of every later one (R242). -/
def State.readWaits (s : State) (t : Task) (ctx : Nat → Nat) (a : Nat) : Nat → List Armed
  | 0 => []
  | n + 1 =>
    let w := s.word a
    let who := getField w 59 3
    let idx := getField w 24 8
    let ok := decide (t.img.semLo ≤ idx ∧ idx ≤ t.img.semHi) &&
      (if w.getLsbD 62 then t.img.queues.testBit who else t.ctxs.contains who)
    if !w.getLsbD 63 then []
    else
      let r := s.readWaits t ctx (a + 8) n
      if ok then ⟨w.getLsbD 62, if w.getLsbD 62 then who else ctx who, w.getLsbD 58, idx, getField w 0 16, 0⟩ :: r else r

/-- A word at 0x0000 to 0x014F of a context block is poisoned (R325). -/
def State.blockBad (s : State) (t : Task) : Bool := t.bases.any fun a => s.poisoned a 0x150

end Sys2Proof.Machine
end

