-- ==== Sys2Proof/Machine/Launch.lean ====
section
/-! DEFINITION. Launch queues, the completion ring and the kernel instructions (R202, R243 to R249, R339, R351, R426). -/

namespace Sys2Proof.Machine

/-! ### Fields of a launch record (R339) -/

def recKid (w : Word) : Nat := getField w 52 12
def recCls (w : Word) : Nat := getField w 49 3
def recShed (w : Word) : Bool := w.getLsbD 48
def recPref (w : Word) : Nat := getField w 46 2
def recRerun (w : Word) : Nat := getField w 40 6
def recSib (w : Word) : Bool := w.getLsbD 39
def recQuorum (w : Word) : Nat := getField w 32 7
def recCount (w : Word) : Nat := getField w 16 9
def recDom (w : Word) : Nat := getField w 8 8

/-- Word `i` of a record. -/
def wordAt (l : List Word) (i : Nat) : Word := (l[i]?).getD 0

def Record.word (r : Record) (i : Nat) : Word := wordAt r.words i

/-- Word 0 keeps to the layout (R339). -/
def word0Ok (w : Word) : Bool :=
  let n := recCount w
  getField w 0 8 == 0 && getField w 25 7 == 0 && recPref w != 3 && (decide (recDom w < 64) || recDom w == 0xFF) &&
    (if recSib w then decide (1 ≤ n ∧ n ≤ 64) && decide (1 ≤ recQuorum w ∧ recQuorum w ≤ n)
     else decide (1 ≤ n ∧ n ≤ 128) && recQuorum w == 0)

/-- The length and the offset of an input copy. -/
def copyLen (w : Word) : Nat := getField w 24 24
def copyOff (w : Word) : Nat := getField w 0 23

/-- An input copy keeps to the layout (R339). -/
def copyOk (w : Word) : Bool :=
  getField w 48 15 == 0 && !w.getLsbD 23 &&
    (!w.getLsbD 63 || (copyLen w % 64 == 0 && copyOff w % 64 == 0 && decide (copyLen w ≤ 2 ^ 23)))

def recordOk (l : List Word) : Bool :=
  word0Ok (wordAt l 0) && getField (wordAt l 2) 48 16 == 0 && getField (wordAt l 3) 48 16 == 0 &&
    (List.range 5).all fun i => copyOk (wordAt l (7 + 2 * i))

/-! ### Completion records (R247, R248) -/

/-- A completion record; PH is put in when it is written. -/
def resultWords (lq seq status cause : Nat) (tag : Word) (reruns cls cycles : Nat) (tail : List Word) : List Word :=
  [wordOf (status % 256 * 2 ^ 48 + cause % 256 * 2 ^ 40 + lq % 32 * 2 ^ 32 + seq % 2 ^ 32), tag,
   wordOf (reruns % 256 * 2 ^ 56 + cls % 8 * 2 ^ 48 + cycles % 2 ^ 48)] ++ (tail ++ List.replicate 13 0).take 13

def State.complete (s : State) (r : CRec) : State := { s with holding := s.holding ++ [r] }

/-- A record ends without having run. -/
def State.endRecord (s : State) (r : Record) (status cause : Nat) : State :=
  s.complete { words := resultWords r.lq r.seq status cause (r.word 5) r.reruns (recCls (r.word 0)) 0 [] }

/-- Entries of the ring (R246). -/
def State.ringSize (s : State) : Nat := 2 ^ (if 5 ≤ s.crLog ∧ s.crLog ≤ 16 then s.crLog else 5)

/-- The entry at the head may be written (R248). -/
def State.ringOpen (s : State) : Bool := s.crEn && decide ((s.crHead + 2 ^ 32 - s.crTail) % 2 ^ 32 < s.ringSize)

/-- The oldest record of the holding buffer is written as one write to host memory; CRHEAD moves, and vector 0 is sent where CRTAIL equals its
index (R247, R248, R426). The command of a note reaches DONE (R249). -/
def State.writeRecord (s : State) (r : CRec) : State :=
  let i := s.crHead
  let ph := boolNat (i / s.ringSize % 2 == 0)
  let words := match r.words with | w :: t => insField w 63 1 ph :: t | [] => []
  let bytes := words.flatMap fun w => leBytes 8 w.toNat
  let s := { s with
    host := writeBytes s.host (getField s.crBase 12 52 * 2 ^ 12 + i % s.ringSize * 128) bytes
    holding := s.holding.drop 1
    crHead := (i + 1) % 2 ^ 32
    msix0 := if s.crTail = i then s.msix0 + 1 else s.msix0 }
  match r.cmd with
  | some (c, id) => s.updCore c fun k => k.endCmd 7 id 0 0 0
  | none => s

def execCompletionRecordWrite (s : State) : Res' :=
  match s.holding with
  | r :: _ => runEvent s.ringOpen (fun s => s.writeRecord r) s
  | [] => .next s

/-! ### Launch queues (R243 to R245) -/

def State.lq (s : State) (q : Nat) : LQueue := s.lqs.get {} q

def State.updLq (s : State) (q : Nat) (f : LQueue → LQueue) : State := { s with lqs := s.lqs.put {} q (f (s.lq q)) }

def State.countRefused (s : State) (q : Nat) : State := s.updLq q fun u => { u with refused := (u.refused + 1) % 2 ^ 16 }

/-- A record is refused (R243, R245). -/
def State.refuse (s : State) (r : Record) : State := (s.countRefused r.lq).endRecord r 1 0xFF

/-- Records that may be shed for one of class `c` (R245). -/
def shedCandidates (l : List Record) (c : Nat) : List Record :=
  l.filter fun r => recShed (r.word 0) && decide (recCls (r.word 0) ≤ c)

/-- The victim: the oldest or the newest of the lowest class. -/
def shedVictim (newest : Bool) (l : List Record) : Option Record :=
  let v := l.foldl (fun n r => Nat.min n (recCls (r.word 0))) 8
  let pool := l.filter fun r => decide (recCls (r.word 0) = v)
  if newest then pool.getLast? else pool.head?

/-! ### Killing a task, a checkpointed one included (R346) -/

/-- The custom domain formed for a launch. -/
def State.domOf (s : State) (l : Nat) : Option Nat := (s.launches.get none l).bind fun n => if n.formed then n.dom else none

/-- A checkpointed task ends where it stands: its record leaves its queue, and its contexts count as arrived (R357). -/
def State.endSaved (s : State) (tid : Nat) (t : Task) : State :=
  let s := (List.range t.ctxs.length).foldl (fun s i => s.permArrive (savedKey tid i)) s
  let s := { s with lqs := s.lqs.map fun (e : Nat × LQueue) => (e.1, { e.2 with recs := e.2.recs.filter fun r => decide (r.resume ≠ some tid) }) }
  let s := s.leaveSlots tid t fun y => { y with st := .cancelled }
  s.updTask tid fun t => { t with saved := false, ended := true, freed := true, cmds := [], arrs := [] }

/-- A save in progress is given up. -/
def State.endSave (s : State) (tid : Nat) (t : Task) : State :=
  let s := s.updCore t.core fun k => k.mapCmds fun _ m => if m.task = tid then { m with hold := false } else m
  let s := t.ctxs.foldl (fun s x => s.updCx t.core x fun y => { y with held := false }) s
  s.updTask tid fun t => { t with saving := false }

/-- A task is killed, wherever it stands. -/
def State.endTask (s : State) (tid : Nat) : State :=
  match s.tasks.get none tid with
  | some t => if t.saved then s.endSaved tid t else (if t.saving then s.endSave tid t else s).killTask tid
  | none => s

/-! ### Arrival at a launch queue (R202, R243, R245) -/

/-- A record is shed (R245). That of a checkpointed task ends its launch with SHED, and the task where it stands. -/
def State.shed (s : State) (v : Record) : State :=
  match v.resume with
  | some tid =>
    let l := match s.tasks.get none tid with | some t => t.launch | none => 0
    (s.updLaunch l fun n => { n with status := 3, cause := 0 }).endTask tid
  | none => (s.updLq v.lq fun u => { u with recs := u.recs.filter fun e => decide (e ≠ v) }).endRecord v 3 0

/-- A record arrives at its queue: whether it was accepted (R245). -/
def State.enter (s : State) (r : Record) : Bool × State :=
  let u := s.lq r.lq
  let c := recCls (r.word 0)
  let n := u.recs.length
  let put := fun (s : State) => s.updLq r.lq fun u => { u with recs := u.recs ++ [r] }
  if !u.en then (false, s.refuse r)
  else if n < Nat.min ((u.thr[c]?).getD 256) 256 then (true, put s)
  else
    match shedVictim u.policy (shedCandidates (u.recs ++ [r]) c) with
    | none => if n < 256 then (true, put s) else (false, s.refuse r)
    | some v =>
      let s := (s.updLq r.lq fun u => { u with shedc := (u.shedc + 1) % 2 ^ 16 }).shed v
      if v = r then (false, s) else (true, put s)

/-- The aperture numbers a well-formed record and gives it to its queue (R243, R247). -/
def State.arrive (s : State) (q : Nat) (l : List Word) : Bool × State :=
  ({ s with seq := (s.seq + 1) % 2 ^ 32 } : State).enter { seq := s.seq, words := l, lq := q }

/-- LAUNCH_RECORD_WRITE: a posted write of the host to the launch window (R202, R243). -/
def execLaunchRecordWrite (off size : Nat) (words : List Word) (s : State) : Res' :=
  let q := off / 0x1000
  .next (if 32 ≤ q then s
    else if size = 128 ∧ off % 128 = 0 then { s with aperture := s.aperture ++ [(q, (List.range 16).map (wordAt words))] }
    else s.countRefused q)

/-- LAUNCH_RECORD_ACCEPT: every posted write that came before the oldest record of the aperture has performed (R202). -/
def execLaunchRecordAccept (s : State) : Res' :=
  match s.aperture with
  | (q, l) :: r => .next (({ s with aperture := r } : State).arrive q l).2
  | [] => .next s

/-! ### kdone, kfail, kbudget and klaunch (R351) -/

/-- Held as `drain` is, and checks the latch as it does. -/
def endOp (f : State → State) : SlotOp where
  waits _ := [.earlier true]
  run s := latchCheck s fun s => (f s).afterCommit .done

def execKdone (s : State) : Res' := runSlot 7 (endOp id) s

/-- A context of a failed launch is killed at its next bundle boundary; one that is stopped stands at a boundary. -/
def State.killSoon (s : State) (c x : Nat) : State :=
  if (s.cx c x).live then s.updCx c x fun y => { y with killNext := true } else s.killCtx c x

/-- The launch of the issuing context fails: every other context of its tasks is killed. -/
def State.failLaunch (s : State) (retry : Bool) : State :=
  match s.myTask with
  | none => s
  | some me =>
    let s := s.updLaunch me.launch fun l => { l with failed := true, retry := retry }
    s.tasks.foldl (fun s e =>
      match e.2 with
      | some t =>
        if t.launch ≠ me.launch ∨ t.freed then s
        else if t.saved then s.endSaved e.1 t
        else
          let s := if t.saving then s.endSave e.1 t else s
          (t.ctxs.filter fun x => !decide (t.core = s.iss.core ∧ x = s.iss.ctx)).foldl (fun s x => s.killSoon t.core x) s
      | none => s) s

def execKfail (retry : Bool) (s : State) : Res' := runSlot 7 (endOp fun s => s.failLaunch retry) s

def execKbudget (a : Nat) (s : State) : Res' :=
  runSlot 7
    { names := fun x => [x.sReg a]
      run := fun s =>
        let v := s.rs a
        if v.poison then poisonFault
        else if getField v.val 48 16 ≠ 0 then .error (3, some v.val)
        else .ok (match s.me.task with
          | some t => s.updTask t fun t => { t with est := v.val.toNat, estAt := s.cycle }
          | none => s) } s

def klaunchOp (pd a lq : Nat) : SlotOp where
  names x := [x.sReg a, x.sReg (a + 1), x.sReg (a + 2), x.sReg (a + 3), x.pReg pd]
  waits _ := [.earlier false]
  run s :=
    let v := fun i => s.rs (a + i)
    let w0 := (v 0).val
    let l := s.launchOf s.iss.core s.iss.ctx
    let mine := match l with | some l => l.words | none => []
    let cls := match l with | some l => l.cls | none => 0
    if (List.range 4).any fun i => (v i).poison then poisonFault
    else if !word0Ok w0 || decide (cls < recCls w0) then .error (3, some w0)
    else
      let words := (List.range 4).map (fun i => (v i).val) ++ [wordAt mine 4, wordAt mine 5] ++ List.replicate 10 0
      let (ok, s) := s.arrive lq words
      let r := s.me.pReg pd
      .ok ((s.addLand s.iss.core s.iss.ctx s.me.step r (.val (.b ok))).mark [r]).cancelPoint

def execKlaunch (pd a lq : Nat) (s : State) : Res' := runSlot 6 (klaunchOp pd a lq) s

end Sys2Proof.Machine
end

