-- ==== Sys2Proof/Machine/Kernel.lean ====
section
/-! DEFINITION. The kernel (R336 to R350, R365 to R367, R379): the image, room and placement, pre-emption, checkpoint and resumption of a task,
the end of a task and of its launch, preloading, and the actions of CTXCTL. -/

namespace Sys2Proof.Machine

/-! ### The image (R336 to R338) -/

/-- The header at an address. -/
def State.readImage (s : State) (a len : Nat) : Image :=
  let w := fun o n => readNat s.mem (a + o) n
  { base := a, len := len, entry := w 0x10 8, textOff := w 0x18 4, textLen := w 0x1C 4, roOff := w 0x20 4, roLen := w 0x24 4
    ctOff := w 0x28 4, ctN := w 0x2C 4, ctx := w 0x30 1, tiles := w 0x31 1, banks := w 0x32 1, handles := w 0x33 1
    ckpt := w 0x34 1 != 0, queues := w 0x35 1, semLo := w 0x36 1, semHi := w 0x37 1, xbarrays := w 0x38 4
    handler := if bitOf 63 (w 0x40 8) then some (bitsOf 0 18 (w 0x40 8)) else none }

/-- Bytes of a scratchpad bank. -/
def bankBytes : Nat := 2 ^ 21

def lowBank (banks : Nat) : Nat := ((List.range 4).find? fun b => banks.testBit b).getD 0

/-- Consecutive declared banks from the lowest one (R338). -/
def bankRun (banks : Nat) : Nat := ((List.range 4).map fun i => lowBank banks + i).takeWhile (fun b => decide (b < 4) && banks.testBit b) |>.length

/-- An address of a bundle in `.text`. -/
def Image.bundleAt (m : Image) (o : Nat) : Bool := decide (o % 64 = 0 ∧ o < m.textLen)

/-- Every VALID entry of the callable table names a byte of `.text`. -/
def State.callablesOk (s : State) (m : Image) : Bool :=
  (List.range m.ctN).all fun i =>
    let e := readNat s.mem (m.base + m.ctOff + 8 * i) 8
    !bitOf 63 e || decide (bitsOf 0 18 e < m.textLen)

/-- The declarations keep to their bounds (R75, R336). -/
def Image.declOk (m : Image) : Bool :=
  decide (1 ≤ m.ctx ∧ m.ctx ≤ 4 ∧ m.tiles ≤ 8 ∧ m.banks ≤ 15 ∧ m.handles ≤ 16) &&
    (decide (m.semLo ≤ m.semHi) || (m.semLo == 0xFF && m.semHi == 0))

/-- The sections lie in the image and keep to their bounds. -/
def Image.sectionsOk (m : Image) : Bool :=
  decide (m.textLen % 64 = 0 ∧ 64 ≤ m.textLen ∧ m.textLen ≤ 0x3C000 ∧ m.roLen ≤ 2 ^ 23 ∧ m.ctN ≤ 4096) &&
    decide (256 ≤ m.len ∧ m.textOff + m.textLen ≤ m.len ∧ m.roOff + m.roLen ≤ m.len ∧ m.ctOff + 8 * m.ctN ≤ m.len) &&
    decide (m.roLen ≤ if m.banks = 0 then 0 else bankBytes * bankRun m.banks)

/-- The signature section, where there is one. -/
def State.signatureOk (s : State) (m : Image) : Bool :=
  !(s.word (m.base + 8)).getLsbD 32 || decide (readNat s.mem (m.base + 0x50) 4 + readNat s.mem (m.base + 0x54) 4 ≤ m.len)

/-- The loader accepts the image (R338). -/
def State.imageOk (s : State) (m : Image) : Bool :=
  s.word m.base == 0x010058455441424D && readNat s.mem (m.base + 8) 4 == 1 && decide (readNat s.mem (m.base + 0x34) 1 ≤ 1) &&
    m.declOk && m.sectionsOk && s.signatureOk m && m.bundleAt m.entry && s.callablesOk m &&
    (match m.handler with | some o => m.bundleAt o | none => true)

/-- The image that entry `kid` of the kernel table names (R337), where the loader accepts it. -/
def State.findImage (s : State) (kid : Nat) : Option Image :=
  let e := getField s.ktBase 13 35 * 2 ^ 13 + 32 * kid
  let m := s.readImage (getField (s.word e) 0 48) (getField (s.word (e + 8)) 0 32)
  if (s.word (e + 8)).getLsbD 63 && s.imageOk m then some m else none

/-! ### Room (R340) -/

/-- Where a task is placed: its core, contexts, physical tiles and bundle address. -/
structure Spot where
  core : Nat
  ctxs : List Nat
  tiles : List Nat
  tb : Nat
  deriving DecidableEq, Repr

/-- The tasks that hold resources of a core, less those counted as gone. -/
def State.onCore (s : State) (c : Nat) (gone : List Nat) : List Task :=
  s.tasks.filterMap fun e =>
    match e.2 with
    | some t => if t.core = c ∧ !t.freed ∧ !t.saved ∧ !gone.contains e.1 then some t else none
    | none => none

/-- Two tasks declare something in common that one core cannot give to both (R237, R278, R340). -/
def Image.clash (m n : Image) : Bool :=
  (m.banks &&& n.banks) != 0 || (m.queues &&& n.queues) != 0 || (m.xbarrays &&& n.xbarrays) != 0 ||
    decide (m.semLo ≤ m.semHi ∧ n.semLo ≤ n.semHi ∧ m.semLo ≤ n.semHi ∧ n.semLo ≤ m.semHi) || decide (0 < m.tiles ∧ 0 < n.tiles)

/-- A run of instruction memory is free. -/
def runFree (ts : List Task) (len a : Nat) : Bool :=
  decide (a + len ≤ 0x3C000) && ts.all fun t => !rangesMeet a (a + len) t.tb (t.tb + t.img.textLen)

/-- The lowest free run. -/
def freeRun (ts : List Task) (len : Nat) : Option Nat :=
  ((0 :: ts.map fun t => t.tb + t.img.textLen).filter (runFree ts len)).foldl
    (fun r a => match r with | some b => some (Nat.min a b) | none => some a) none

/-- The room that a core has for a task, if any; a resumed task needs the run of its own text (R340, R345). -/
def State.room (s : State) (c : Nat) (m : Image) (tb : Option Nat) (gone : List Nat) : Option Spot :=
  let ts := s.onCore c gone
  let ctxs := (List.range 4).filter fun x => !(ts.any fun t => t.ctxs.contains x)
  let tiles := (List.range 8).filter fun p => !(ts.any fun t => t.tiles.contains p)
  if (s.core c).inReset || ts.any (fun t => !t.drain.isEmpty || t.img.clash m) || decide (ctxs.length < m.ctx ∨ tiles.length < m.tiles) then none
  else
    (match tb with
     | some a => if runFree ts m.textLen a then some a else none
     | none => freeRun ts m.textLen).map fun a => ⟨c, ctxs.take m.ctx, tiles.take m.tiles, a⟩

/-! ### The order of cores (R342) -/

def natDist (a b : Nat) : Nat := (a - b) + (b - a)

/-- The distance of core `n` from core `f`, cores of the other die after all of the same die. -/
def coreRank (f n : Nat) : Nat :=
  (if dieOf f = dieOf n then 0 else 15) + natDist (f % 8) (n % 8) + natDist (f % 64 / 8) (n % 64 / 8)

/-- The cores in the order in which they are tried from core `f`. -/
def coreOrder (f : Nat) : List Nat := (List.range 30).flatMap fun d => (List.range 128).filter fun n => coreRank f n = d

/-- The preferred core of a record; none while a walk waits (R342). -/
def State.prefer (s : State) (r : Record) (has : Nat → Bool) : Option Nat :=
  let aff := r.word 1
  if aff = 0 then some 0
  else match s.walk aff (r.word 4) with
    | .busy _ => none
    | .fail _ | .down .. => some 0
    | .leaf e _ =>
      let a := leafFrame e + aff.toNat % pageBytes (leafSize e)
      match tierOf a with
      | 0 => some (vaultOf a)
      | 1 =>
        let l := (List.range 128).filter fun c => decide (clusterOf c = stackOf (hbmOff a))
        some (((l.find? has).getD (l.headD 0)))
      | _ => some 0

/-- The first `n` spots of a list of cores. -/
def takeSpots (has : Nat → Option Spot) : Nat → List Nat → List Spot
  | 0, _ => []
  | _, [] => []
  | n + 1, c :: r => match has c with | some p => p :: takeSpots has n r | none => takeSpots has (n + 1) r

/-! ### Groups and domains at placement (R365, R366) -/

/-- The custom domain that a record forms; none where it is not available. -/
def State.domFor (s : State) (r : Record) : Option (Option Nat) :=
  let w := r.word 0
  if recDom w ≠ 0xFF then (if (s.dom (recDom w)).valid then none else some (some (recDom w)))
  else if recSib w then ((List.range 64).find? fun n => !(s.dom n).valid).map some
  else some none

/-- The lowest free ballot slot of a die. -/
def State.freeSlot (s : State) (die : Nat) : Option Nat := ((List.range 32).map fun k => 32 * die + k).find? fun n => (s.slot n).isNone

/-- What a record needs beside its tasks. -/
def State.groupRoom (s : State) (r : Record) (c : Nat) : Bool :=
  (s.domFor r).isSome && (!recSib (r.word 0) || (s.freeSlot (dieOf c)).isSome)

/-- The spots of all tasks of a record, if it can be placed (R341, R342, R366); `gone` counts as freed. -/
def State.plan (s : State) (r : Record) (m : Image) (gone : List Nat) : Option (List Spot) :=
  let old : Option Task := r.resume.bind fun t => s.tasks.get none t
  let used := fun c => match old with
    | some t => s.tasks.any fun e => e.2.any fun (u : Task) => decide (u.launch = t.launch ∧ u.core = c ∧ !u.freed ∧ !u.saved)
    | none => false
  let has := fun c => if used c then none else s.room c m (old.map (·.tb)) gone
  let count := if r.resume.isSome then 1 else recCount (r.word 0)
  (s.prefer r fun c => (has c).isSome).bind fun f =>
    ((coreOrder f).findSome? has).bind fun a =>
      let l := a :: takeSpots has (count - 1) ((coreOrder a.core).filter fun c => decide (c ≠ a.core))
      if l.length = count ∧ (r.resume.isSome ∨ s.groupRoom r a.core) then some l else none

/-! ### Loading scratchpad and text (R338, R343) -/

/-- The entries of a sparse file from `a` on, `n` of them, replace those of another file from `b` on. -/
def copyRange {α : Type} (src : SMap α) (a n b : Nat) (dst : SMap α) : SMap α :=
  (src.filter fun e => decide (a ≤ e.1 ∧ e.1 < a + n)).foldl (fun d e => d.insert (e.1 - a + b) e.2) (dst.clear b (b + n))

/-- The scratchpad words at `off` on that a poisoned line of a range of device memory reaches. -/
def State.badWords (s : State) (pa n off : Nat) : List Nat :=
  (s.poison.filter fun l => rangesMeet (l.1 * 64) (l.1 * 64 + 64) pa (pa + n)).flatMap fun l =>
    let lo := (Nat.max pa (l.1 * 64) - pa + off) / 8
    let hi := (Nat.min (pa + n) (l.1 * 64 + 64) - pa + off + 7) / 8
    (List.range (hi - lo)).map fun i => lo + i

/-- Bytes of device memory go to a scratchpad, poison with them; a lost quarter gives poisoned zeros (R185). -/
def State.fill (s : State) (c pa n off : Nat) : State :=
  let lost := s.lostAt pa
  let bad := if lost then (List.range ((off + n + 7) / 8 - off / 8)).map fun i => off / 8 + i else s.badWords pa n off
  s.updCore c fun k =>
    { k with
      spad := if lost then k.spad.clear off (off + n) else copyRange s.mem pa n off k.spad
      spadPoison := bad.foldl (fun m w => m.put false w true) k.spadPoison }

/-- The declared banks are cleared, poison with them. -/
def Core.clearBanks (k : Core) (banks : Nat) : Core :=
  (List.range 4).foldl (fun k b =>
    if banks.testBit b then
      let lo := b * bankBytes
      { k with spad := k.spad.clear lo (lo + bankBytes), spadPoison := k.spadPoison.clear (lo / 8) ((lo + bankBytes) / 8)
               wr := k.wr.clear lo (lo + bankBytes) }
    else k) k

/-- A piece of an input copy: where its bytes come from, how many, and where they go. -/
structure CopyPiece where
  pa : Nat
  n : Nat
  off : Nat
  deriving DecidableEq, Repr

/-- Why a placement does not go on: a walk waits, or the launch ends with a cause. -/
inductive Stop where
  | wait
  | cause (n : Nat)
  deriving DecidableEq, Repr

/-- One page of an input copy. -/
def State.copyPage (s : State) (xroot va : Word) (n off : Nat) : Except Stop CopyPiece :=
  match s.walk va xroot with
  | .busy _ => .error .wait
  | .fail _ | .down .. => .error (.cause 8)
  | .leaf e _ =>
    if tierOf (leafFrame e) = 3 then .error (.cause 9) else .ok ⟨leafFrame e + va.toNat % pageBytes (leafSize e), n, off⟩

/-- An input copy, page by page. -/
def State.copyPages (s : State) (xroot va : Word) (len off : Nat) : Except Stop (List CopyPiece) :=
  let start := fun i => if i = 0 then 0 else i * 8192 - va.toNat % 8192
  (List.range (len / 8192 + 2)).foldr
    (fun i r =>
      let a := start i
      if len ≤ a then r
      else match s.copyPage xroot (va + wordOf a) (Nat.min (start (i + 1)) len - a) (off + a), r with
        | .error e, _ => .error e
        | .ok _, .error e => .error e
        | .ok p, .ok l => .ok (p :: l)) (.ok [])

/-- The valid input copies of a record: source, length and offset. -/
def Record.copies (r : Record) : List (Word × Nat × Nat) :=
  (List.range 5).filterMap fun i =>
    let w := r.word (7 + 2 * i)
    if w.getLsbD 63 then some (r.word (6 + 2 * i), copyLen w, copyOff w) else none

/-- A copy lies in the declared banks (R343). -/
def copyInBanks (banks len off : Nat) : Bool :=
  decide (off + len ≤ 2 ^ 23) && (List.range 4).all fun b =>
    decide (len = 0) || !rangesMeet off (off + len) (b * bankBytes) ((b + 1) * bankBytes) || banks.testBit b

/-- The pieces of each input copy, in order: the ranges are checked for every copy first. -/
def State.copyPlan (s : State) (r : Record) (m : Image) : Except Stop (List (Nat × Nat × List CopyPiece)) :=
  if r.copies.any fun c => !copyInBanks m.banks c.2.1 c.2.2 then .error (.cause 0x30)
  else r.copies.foldr
    (fun c l => match s.copyPages (r.word 4) c.1 c.2.1 c.2.2, l with
      | .error e, _ => .error e
      | .ok _, .error e => .error e
      | .ok p, .ok l => .ok ((c.2.2, c.2.1, p) :: l)) (.ok [])

/-- `.rodata` and the input copies enter the banks, which have been cleared. -/
def State.loadBanks (s : State) (c : Nat) (m : Image) (cps : List (Nat × Nat × List CopyPiece)) : State :=
  let s := s.updCore c fun k => k.clearBanks m.banks
  let s := if m.roLen = 0 then s else s.fill c (m.base + m.roOff) m.roLen (lowBank m.banks * bankBytes)
  cps.foldl (fun s e =>
    let s := s.updCore c fun k => { k with spadPoison := k.spadPoison.clear (e.1 / 8) ((e.1 + e.2.1) / 8) }
    e.2.2.foldl (fun s p => s.fill c p.pa p.n p.off) s) s

/-- The preload that serves a record on a core (R349, R350). -/
def Core.preloaded (k : Core) (r : Record) : Bool := k.pre.any fun p => decide (p.lq = r.lq ∧ p.seq = r.seq) && !p.stale

/-- A task takes banks from a preload: it becomes stale. -/
def Core.takeBanks (k : Core) (banks : Nat) : Core :=
  { k with pre := k.pre.map fun p => { p with stale := p.stale || (p.banks &&& banks) != 0 } }

/-- Text and banks of a task at its placement. -/
def State.loadImage (s : State) (r : Record) (m : Image) (sp : Spot) (cps : List (Nat × Nat × List CopyPiece)) : State :=
  if (s.core sp.core).preloaded r then
    s.updCore sp.core fun k => { k with imem := copyRange k.shadow 0 m.textLen sp.tb k.imem, shadow := [], pre := none }
  else
    (s.loadBanks sp.core m cps).updCore sp.core fun k =>
      ({ k with imem := copyRange s.mem (m.base + m.textOff) m.textLen sp.tb k.imem } : Core).takeBanks m.banks

/-! ### Placement (R310, R343, R365, R366) -/

/-- A context as its task is loaded: LOADED until the task starts at the end of the cycle; the order of its bundles goes on, and the runtime
bank stays (R310, R312). -/
def Ctx.load (old : Ctx) (tid cycle : Nat) (m : Image) (tb : Nat) (dom : Option Nat) : Ctx :=
  let h : Word := match m.handler with | some o => wordOf (2 ^ 63 + tb + o) | none => 0
  let ctl := SMap.put 0 (SMap.put 0 (SMap.put 0 [] 0x10 (wordOf (dom.getD 0xFF))) 0x11 1000000) 0x12 h
  ({ st := .loaded, step := old.step, sR := old.sR, pR := old.pR, ctl := ctl, readyAt := cycle, task := some tid } : Ctx).fetchFrom (tb + m.entry)

/-- The core that a task takes: semaphores at 0, planes empty, tiles free (R141, R237). -/
def Core.assign (k : Core) (m : Image) (sp : Spot) (xroot : Word) : Core :=
  { k with
    sems := if m.semLo ≤ m.semHi then k.sems.clear m.semLo (m.semHi + 1) else k.sems
    act := if m.tiles = 0 then k.act else {}
    shd := if m.tiles = 0 then k.shd else {}
    tiles := k.tiles.filter fun e => !sp.tiles.contains e.1
    xroot := sp.ctxs.foldl (fun x c => x.put 0 c (xrootBits xroot)) k.xroot }

/-- One task of a launch is placed. -/
def State.placeTask (s : State) (r : Record) (l : Nat) (m : Image) (dom : Option Nat) (cps : List (Nat × Nat × List CopyPiece)) (sp : Spot)
    (sib : Option Nat) : Nat × State :=
  let (tid, s) := s.newId
  let budget := getField (r.word 2) 0 48
  let t : Task :=
    { launch := l, core := sp.core, ctxs := sp.ctxs, img := m, tiles := sp.tiles, tb := sp.tb, sib := sib, budget := budget
      unlimited := budget = 0, est := getField (r.word 3) 0 48, estAt := s.cycle, placedAt := tid }
  let s := (s.loadImage r m sp cps).updCore sp.core fun k => k.assign m sp (r.word 4)
  let s := sp.ctxs.foldl (fun s x => s.updCx sp.core x fun y => y.load tid s.cycle m sp.tb dom) s
  (tid, { s with tasks := s.tasks.put none tid (some t) })

/-- The record leaves its queue. -/
def State.dequeue (s : State) (r : Record) : State := s.updLq r.lq fun u => { u with recs := u.recs.filter fun e => decide (e ≠ r) }

/-- All tasks of a record are placed at once. -/
def State.place (s : State) (r : Record) (m : Image) (sps : List Spot) (cps : List (Nat × Nat × List CopyPiece)) : State :=
  let w := r.word 0
  let dom := (s.domFor r).getD none
  let slot := if recSib w then s.freeSlot (dieOf (sps.headD ⟨0, [], [], 0⟩).core) else none
  let (l, s) := (s.dequeue r).newId
  let (tids, s) := ((List.range sps.length).zip sps).foldl
    (fun (a : List Nat × State) e =>
      let (t, s) := a.2.placeTask r l m dom cps e.2 (if recSib w then some e.1 else none)
      (a.1 ++ [t], s)) ([], s)
  let n : Launch :=
    { seq := r.seq, lq := r.lq, words := r.words, kid := recKid w, cls := recCls w, img := m, tasks := tids, reruns := r.reruns
      dom := dom, formed := dom.isSome, ballot := slot }
  let s := ({ s with launches := s.launches.put none l (some n) } : State).formFixed l
  let s := match dom with | some d => s.putDom d (s.fixedDomain l 0x83 0) | none => s
  match slot with | some b => s.setSlot b (some { launch := l, q := recQuorum w, n := recCount w }) | none => s

/-! ### Pre-emption (R345, R346, R367) -/

/-- What the scheduler decides for a victim. -/
inductive Fate where
  | drain | checkpoint | kill
  deriving DecidableEq, Repr

/-- Every context of a task can be saved now (R322, R345). -/
def State.savable (s : State) (t : Task) : Bool :=
  t.img.ckpt && t.sib.isNone && t.ctxs.all fun x =>
    let y := s.cx t.core x
    ((s.core t.core).ctxsave.get 0 x).getLsbD 0 && !y.inTrap && !decide (y.st = .trapped ∨ y.st = .frozen)

def State.fate (s : State) (t : Task) : Fate :=
  if t.est - (s.cycle - t.estAt) ≤ s.drainThr then .drain else if s.savable t then .checkpoint else .kill

/-- The decision for a victim changes nothing: it has ended, it is being saved, or it drains already. -/
def State.decided (s : State) (r : Record) (t : Task) : Bool :=
  t.ended || t.saving || t.ctxs.all (fun x => (s.cx t.core x).over) || t.drain.contains r.seq

/-- A task may be a victim of a record of class `c`. -/
def State.victimOf (s : State) (c : Nat) (t : Task) : Bool :=
  !t.freed && !t.saved && (match s.launches.get none t.launch with | some l => decide (l.cls < c) && recPref (wordAt l.words 0) != 2 | none => false)

/-- The keys of R345: class, place of the core from core `f`, and the task placed last first. -/
def victimKey (cls f core placed : Nat) : Nat × Nat × Nat := (cls, coreRank f core * 128 + core, placed)

def keyBefore (a b : Nat × Nat × Nat) : Bool :=
  decide (a.1 < b.1) || (a.1 == b.1 && (decide (a.2.1 < b.2.1) || (a.2.1 == b.2.1 && decide (b.2.2 < a.2.2))))

def insertVictim (a : (Nat × Nat × Nat) × Nat) : List ((Nat × Nat × Nat) × Nat) → List ((Nat × Nat × Nat) × Nat)
  | [] => [a]
  | b :: r => if keyBefore a.1 b.1 then a :: b :: r else b :: insertVictim a r

/-- The candidates for a record, in order. -/
def State.candidates (s : State) (r : Record) (f : Nat) : List Nat :=
  let l := s.tasks.filterMap fun (e : Nat × Option Task) => e.2.bind fun (t : Task) =>
    if s.victimOf (recCls (r.word 0)) t then
      (s.launches.get none t.launch).map fun n => (victimKey n.cls f t.core t.placedAt, e.1)
    else none
  (l.foldr insertVictim []).map (·.2)

/-- The shortest run of candidates that makes room, `taken` those before. -/
def State.chooseVictims (s : State) (r : Record) (m : Image) (taken : List Nat) : List Nat → Option (List Nat)
  | [] => if (s.plan r m taken).isSome then some taken else none
  | t :: l => if (s.plan r m taken).isSome then some taken else s.chooseVictims r m (taken ++ [t]) l

/-- The victims of a record whose decisions change something (R345). -/
def State.victims (s : State) (r : Record) (m : Image) : List Nat :=
  if !s.preempt then []
  else match s.prefer r fun c => (s.room c m none []).isSome with
    | none => []
    | some f =>
      let l := (s.chooseVictims r m [] (s.candidates r f)).getD []
      if l.any fun t => (s.tasks.get none t).any fun k => !s.decided r k then l else []

/-- The decision for a victim takes effect. -/
def State.strike (s : State) (r : Record) (tid : Nat) : State :=
  match s.tasks.get none tid with
  | none => s
  | some t =>
    if s.decided r t then s
    else match s.fate t with
      | .drain => s.updTask tid fun t => { t with drain := t.drain ++ [r.seq] }
      | .checkpoint => s.beginSave tid t
      | .kill =>
        (s.updLaunch t.launch fun l => { l with killed := true }).endTask tid

/-! ### Reading a checkpointed task back (R325) -/

/-- The barrier of the core level moves with its task; every other barrier keeps its number. -/
def movedBar (l c0 c1 b : Nat) : Nat := if b = fixedBar l 0x80 c0 then fixedBar l 0x80 c1 else b

/-- The context numbers of a task after it has moved. -/
def renamed (old new : List Nat) (x : Nat) : Nat := (((old.zip new).find? fun e => decide (e.1 = x)).map (·.2)).getD x

/-- The contexts of a task as they are resumed: none where a walk waits. -/
def State.readCtxs (s : State) (tid : Nat) (t : Task) (sp : Spot) (xroot : Word) : Option (List Ctx) :=
  let tb := t.bases.headD 0 + 0x10000
  allSome ((List.range t.ctxs.length).map fun i =>
    let old := s.cx sp.core ((sp.ctxs[i]?).getD 0)
    let kept := (t.kept[i]?).getD {}
    let y : Ctx :=
      { step := old.step + 128, pstep := kept.pstep, sR := old.sR, pR := old.pR, readyAt := s.cycle, task := some tid
        ctl := SMap.put 0 [] 0x10 (s.word (tb + 8)) }
    (s.readCtx ((t.bases[i]?).getD 0) xroot ((t.xvas[i]?).getD []) y).map fun z =>
      { z.unkeep kept with arr := ((t.arrs[i]?).getD []).map fun e => (e.1, { e.2 with bar := movedBar t.launch t.core sp.core e.2.bar }) })

/-- The poisoned page-table entries that the walks of a task's saved handles read (R209, R325): those of the handle files, of the snapshots
and of the commands. -/
def State.savedPoison (s : State) (t : Task) (xroot : Word) : List Nat :=
  let tb := t.bases.headD 0 + 0x10000
  let snap := fun a => (List.range 64).filterMap fun i =>
    let d := s.word (a + 0x1000 + 8 * i)
    if d.getLsbD 36 ∧ getField d 19 3 = 4 then some (a + 0x2000 + 256 * i) else none
  let cmd := fun (e : Nat × Nat × Cmd) =>
    let a := tb + 0x1000 + 0x4000 * e.1 + 0x200 * e.2.1
    (List.range (cmdHandles e.1 (s.word (a + 8)) (s.word (a + 16)) (s.word (a + 24))).length).map fun i => a + 0x40 + 16 * i
  let at_ := t.bases.flatMap (fun a => (List.range 16).map (fun i => a + 0x600 + 16 * i) ++ snap a) ++ (numbered t.cmds).flatMap cmd
  at_.filterMap fun a =>
    let w := s.word a
    if w.getLsbD 63 then s.walkPoison (s.word (a + 8)) (insField xroot 52 12 (getField w 0 12)) else none

/-- A checkpointed task can be resumed at a place now: no walk of its handles waits on a BUSY leaf, or its blocks are poisoned and end it. -/
def State.canResume (s : State) (tid : Nat) (t : Task) (sp : Spot) (xroot : Word) : Bool :=
  s.blockBad t ||
    ((s.readCtxs tid t sp xroot).isSome && (s.readCmds tid (t.bases.headD 0 + 0x10000) xroot t (renamed t.ctxs sp.ctxs)).isSome)

/-! ### Dispatch (R341, R345) -/

/-- What the scheduler does with a record. -/
inductive Act where
  | reject (cause : Nat)
  | place (m : Image) (sps : List Spot) (cps : List (Nat × Nat × List CopyPiece))
  | resume (tid : Nat) (sp : Spot)
  | preempt (ts : List Nat)
  deriving DecidableEq, Repr

/-- What a record's turn brings; none where it is passed over. -/
def State.consider (s : State) (r : Record) : Option Act :=
  let orPreempt := fun (m : Image) => match s.victims r m with | [] => none | l => some (Act.preempt l)
  match r.resume with
  | some tid =>
    match s.tasks.get none tid with
    | none => none
    | some t => match s.plan r t.img [] with
      | some (p :: _) => if s.canResume tid t p (r.word 4) then some (.resume tid p) else none
      | _ => orPreempt t.img
  | none =>
    match (if recordOk r.words then s.findImage (recKid (r.word 0)) else none) with
    | none => some (.reject 3)
    | some m =>
      match s.plan r m [] with
      | none => orPreempt m
      | some sps => match s.copyPlan r m with
        | .error .wait => none
        | .error (.cause c) => some (.reject c)
        | .ok cps => some (.place m sps cps)

/-- A record comes before another: the higher class, then the lower SEQ. -/
def Record.before (a b : Record) : Bool :=
  decide (recCls (b.word 0) < recCls (a.word 0)) || (recCls (a.word 0) == recCls (b.word 0) && decide (a.seq ≤ b.seq))

def insertRecord (a : Record) : List Record → List Record
  | [] => [a]
  | b :: r => if a.before b then a :: b :: r else b :: insertRecord a r

/-- The first record that the scheduler acts on, and what it does. -/
def State.turnOf (s : State) : Option (Record × Act) :=
  if s.ktBase.getLsbD 0 && decide (s.holding.length < 512) && s.running && !s.mg.capHold then
    ((s.lqs.flatMap fun e => e.2.recs).foldr insertRecord []).findSome? fun r => (s.consider r).map fun a => (r, a)
  else none

/-- The poisoned page-table entries that the walks of a record's affinity address and input copies read (R209, R342, R343). -/
def State.recordPoison (s : State) (r : Record) : List Nat :=
  let xroot := r.word 4
  let pages := r.copies.flatMap fun c => (List.range (c.2.1 / 8192 + 2)).map fun i => c.1 + wordOf (Nat.min (8192 * i) (c.2.1 - 1))
  ((if r.word 1 = 0 then [] else [r.word 1]) ++ (if r.resume.isSome then [] else pages)).filterMap (fun va => s.walkPoison va xroot) |>.eraseDups

/-- Each is reported. -/
def State.reportAll (s : State) (l : List Nat) : State := l.foldl (fun s a => s.reportWalk 0 0 8 (some a)) s

def execDispatch (s : State) : Res' :=
  match s.turnOf with
  | some (r, .reject c) => .next (((s.reportAll (s.recordPoison r)).dequeue r).endRecord r 1 c)
  | some (r, .place m sps cps) => .next ((s.reportAll (s.recordPoison r)).place r m sps cps)
  | some (r, .preempt l) => .next (l.foldl (fun s t => s.strike r t) (s.reportAll (s.recordPoison r)))
  | _ => .next s

/-! ### TASK_SAVE and TASK_RESUME (R324, R325, R345) -/

/-- The record of a checkpointed task returns to the front of its queue. -/
def State.requeue (s : State) (l : Launch) (resume : Option Nat) (reruns : Nat) : State :=
  s.updLq l.lq fun u => { u with recs := { seq := l.seq, words := l.words, lq := l.lq, reruns := reruns, resume := resume } :: u.recs }

/-- A list with its elements renamed. -/
def renameKeys (f : Nat → Nat) (l : List Nat) : List Nat := l.map f

/-- A barrier's members renamed. -/
def Barrier.rename (b : Barrier) (f : Nat → Nat) : Barrier :=
  { b with members := renameKeys f b.members, arrived := renameKeys f b.arrived, perm := renameKeys f b.perm
           newMembers := b.newMembers.map (renameKeys f) }

/-- The barriers, and the messages of their arrivals and releases, follow members that change their keys. -/
def State.rekey (s : State) (l c0 c1 : Nat) (f : Nat → Nat) : State :=
  let bar := movedBar l c0 c1
  { s with
    bars := s.bars.foldl (fun (m : SMap (Option Barrier)) e => m.put none (bar e.1) (e.2.map fun b => b.rename f)) []
    msgs := s.msgs.map fun m => match m.msg with
      | .arrival b k st cs => { m with msg := .arrival (bar b) (f k) st cs }
      | .release b k ph fu => { m with msg := .release (bar b) (f k) ph fu }
      | _ => m }

/-- The members of a task that has been saved stand on no core. -/
def State.keysOut (s : State) (tid : Nat) (t : Task) : State :=
  s.rekey t.launch t.core t.core fun k =>
    if k / 4 = t.core then
      match (List.range t.ctxs.length).find? fun i => decide (t.ctxs[i]? = some (k % 4)) with
      | some i => savedKey tid i
      | none => k
    else k

/-- The members of a task that comes back at a place. -/
def State.keysIn (s : State) (tid : Nat) (t : Task) (sp : Spot) : State :=
  s.rekey t.launch t.core sp.core fun k =>
    match savedOf k with
    | some (u, i) => if u = tid then ctxKey sp.core ((sp.ctxs[i]?).getD 0) else k
    | none => k

def execTaskSave (tid : Nat) (s : State) : Res' :=
  match s.tasks.get none tid with
  | none => .next s
  | some t =>
    runEvent (s.canSave tid t)
      (fun s =>
        let s := (s.saveTask tid t).keysOut tid t
        match s.launches.get none t.launch with | some l => s.requeue l (some tid) l.reruns | none => s) s

/-- Scratchpad banks from the task block, poisoned words with them. -/
def State.restoreBanks (s : State) (c : Nat) (m : Image) (tb : Nat) : State :=
  let s := s.updCore c fun k => (k.clearBanks m.banks).takeBanks m.banks
  (List.range 4).foldl (fun s b =>
    if m.banks.testBit b then s.fill c (tb + 0x200000 + b * bankBytes) bankBytes (b * bankBytes) else s) s

/-- The core's part of a resumed task: semaphores, armed waits, queues, planes and tiles (R242, R325). -/
def State.restoreCore (s : State) (t : Task) (sp : Spot) (tb : Nat) (cmds : List (Nat × Cmd)) (ren : Nat → Nat) (k : Core) : Core :=
  let m := t.img
  let n := m.semHi + 1 - m.semLo
  let k := (List.range n).foldl (fun (k : Core) i => k.setSem (m.semLo + i) (readNat s.mem (tb + 0x400 + 4 * i) 4)) k
  let k := { k with armed := k.armed ++ s.readWaits t ren (tb + 0x800) 16 }
  let k := cmds.foldl (fun (k : Core) e => k.updQueue e.1 fun u => { u with cmds := u.cmds ++ [e.2] }) k
  let k := (List.range 8).foldl (fun (k : Core) q => k.armQueue q s.cycle) { k with wms := t.marks.foldl (fun w e => w.put {} e.1 e.2) k.wms }
  let k := if m.tiles = 0 then k else
    { k with act := s.readPlane (tb + 0x21000), shd := s.readPlane (tb + 0x25000), planeHolder := (t.planes.bind fun i => sp.ctxs[i]?) }
  ((List.range sp.tiles.length).zip sp.tiles).foldl
    (fun (k : Core) e =>
      let x := (cmds.find? fun c => decide (c.2.tile = some e.1) && c.2.tileOk).map (·.2.id)
      { k with tiles := k.tiles.put {} e.2 { s.readTile (tb + 0x30000 + 0x10000 * e.1) ren with xcmd := x } }) k

/-- A checkpointed task comes back (R325). -/
def State.resumeTask (s : State) (tid : Nat) (t : Task) (sp : Spot) (ys : List Ctx) (cmds : List (Nat × Cmd)) (ren : Nat → Nat) : State :=
  let tb := t.bases.headD 0 + 0x10000
  let l := s.launches.get none t.launch
  let xroot := match l with | some l => wordAt l.words 4 | none => 0
  let c := sp.core
  let s := s.updCore c fun k =>
    ({ k with
        imem := copyRange s.mem (t.img.base + t.img.textOff) t.img.textLen sp.tb k.imem
        xroot := sp.ctxs.foldl (fun x i => x.put 0 i (xrootBits xroot)) k.xroot } : Core)
  let s := s.restoreBanks c t.img tb
  let s := s.updCore c (s.restoreCore t sp tb cmds ren)
  let s := s.leaveSlots tid t Ctx.cleared
  let s := (sp.ctxs.zip ys).foldl (fun s e => s.setCx c e.1 e.2) s
  let (placed, s) := s.newId
  let s := s.updTask tid fun t =>
    { t with core := c, ctxs := sp.ctxs, tiles := sp.tiles, saved := false, budget := (s.word tb).toNat, placedAt := placed, bases := [],
             xvas := [], planes := none, arrs := [], cmds := [], marks := [], kept := [] }
  let dom := s.domOf t.launch
  let s := s.keysIn tid t sp
  let s := match dom with | some d => { s with doms := s.doms.put {} d (s.fixedDomain t.launch 0x83 0) } | none => s
  (s.formFixed t.launch).refreshFixed t.launch

def execTaskResume (tid : Nat) (s : State) : Res' :=
  match s.turnOf, s.tasks.get none tid with
  | some (r, .resume t' sp), some t =>
    if t' ≠ tid then .next s
    else if s.blockBad t then
      .next (((s.dequeue r).noteFault t.launch 0x10).endTask tid)
    else
      let tb := t.bases.headD 0 + 0x10000
      let ren := renamed t.ctxs sp.ctxs
      match s.readCtxs tid t sp (r.word 4), s.readCmds tid tb (r.word 4) t ren with
      | some ys, some cmds => .next (((s.dequeue r).reportAll (s.savedPoison t (r.word 4))).resumeTask tid t sp ys cmds ren)
      | _, _ => .next s
  | _, _ => .next s

/-! ### Budgets (R344) -/

/-- The contexts that have not ended hold the cause BUDGET. -/
def execBudgetExpiry (tid : Nat) (s : State) : Res' :=
  match s.tasks.get none tid with
  | none => .next s
  | some t =>
    runEvent (t.expired && !t.saved)
      (fun s =>
        let s := s.updTask tid fun t => { t with expired := false }
        t.ctxs.foldl (fun s x => s.updCx t.core x fun y => if y.over then y else { y with budgetCause := true }) s) s

/-! ### The end of a task and of a launch (R347, R348, R379) -/

/-- Every context of a task has ended, and what is pending for those that are DONE has landed. -/
def State.canEnd (s : State) (t : Task) : Bool :=
  !t.saved && t.ctxs.all fun x => let y := s.cx t.core x; y.over && (decide (y.st = .cancelled) || y.pend.isEmpty)

/-- The task ends: its unstarted commands are discarded. -/
def State.endedTask (s : State) (tid : Nat) (t : Task) : State :=
  let s := t.ctxs.foldl (fun s x => s.updCore t.core fun k => k.discardQueued x s.cycle) s
  (s.updTask tid fun t => { t with ended := true, saving := false }).refreshFixed t.launch

/-- Nothing of an ended task is under way. -/
def State.canFree (s : State) (tid : Nat) (t : Task) : Bool :=
  let k := s.core t.core
  t.ctxs.all (fun x => (s.accsOf t.core x).isEmpty) && (k.cmdsOf tid).isEmpty &&
    !(s.beats.any fun b => decide (b.core = t.core) && t.img.queues.testBit b.q) && !(k.mq.any fun o => t.ctxs.contains o.ctx) &&
    !(k.pipe.any fun r => t.tiles.contains r.tile)

/-- The cause that a DONE context still holds (R347). -/
def Ctx.heldCause (x : Ctx) : Option Nat :=
  if x.st ≠ .done then none else if x.dloss.isSome then some 0x0D else (x.xfaults.head?).map (·.cause)

/-- The resources of an ended task become free (R310). -/
def State.freeTask (s : State) (tid : Nat) (t : Task) : State :=
  let s := t.ctxs.foldl (fun s x => match (s.cx t.core x).heldCause with | some c => s.noteFault t.launch c | none => s) s
  let s := t.ctxs.foldl (fun s x => s.updCx t.core x Ctx.cleared) s
  let s := s.updCore t.core fun k =>
    { k with
      tiles := k.tiles.filter fun e => !t.tiles.contains e.1
      planeHolder := k.planeHolder.filter fun x => !t.ctxs.contains x
      armed := k.armed.filter fun a => if a.que then !t.img.queues.testBit a.who else !t.ctxs.contains a.who
      wms := k.wms.filter fun e => !t.img.queues.testBit e.1 }
  s.updTask tid fun t => { t with freed := true }

/-- How a launch ends: status and cause, or a rerun. -/
inductive Ending where
  | over (status cause : Nat)
  | rerun
  deriving DecidableEq, Repr

def Launch.ending (l : Launch) (b : Option Ballot) : Ending :=
  let w := wordAt l.words 0
  let more := decide (l.reruns < recRerun w)
  let winner := match b with | some b => !b.nowin | none => false
  if l.failed then (if l.retry && more then .rerun else .over 1 0)
  else if winner then .over 0 0
  else if l.status ≠ 0 then .over l.status l.cause
  else if l.killed then (if recPref w = 0 ∧ more ∧ !recSib w then .rerun else .over 2 0)
  else .over 0 0

/-- Words 3 to 9 of the completion record of a group (R379). -/
def groupWords (b : Option Ballot) : List Word := match b with | some b => b.cw.map wordOf ++ [b.winner, b.status] | none => []

/-- Everything of a launch has ended. -/
def State.launchDone (s : State) (l : Launch) : Bool :=
  let calls := fun t => s.callsOpen t || s.pendCalls.any fun e => decide (e.2.task = t)
  l.tasks.all (fun t => match s.tasks.get none t with | some k => k.freed && !calls t | none => true) &&
    (match l.ballot.bind s.slot with | some b => decide (b.st = .closed) | none => true)

/-- The launch ends: its record is completed or returns to its queue, its domain, barriers and bound watchpoints end. -/
def State.endLaunch (s : State) (n : Nat) (l : Launch) : State :=
  let b := l.ballot.bind s.slot
  let cycles := (l.tasks.filterMap fun t => (s.tasks.get none t).map (·.consumed)).foldl Nat.max 0
  let s := match l.ending b with
    | .rerun => s.requeue l none (l.reruns + 1)
    | .over st c => s.complete { words := resultWords l.lq l.seq st c (wordAt l.words 5) l.reruns l.cls cycles (groupWords b), slot := l.ballot }
  let s := if l.formed then (match l.dom with | some d => s.clearDom d | none => s) else s
  let s := s.dropFixed n
  { s with
    tasks := l.tasks.foldl (fun (m : SMap (Option Task)) t => m.put none t none) s.tasks
    launches := s.launches.put none n none
    cores := s.cores.map fun (e : Nat × Core) =>
      (e.1, { e.2 with
        wps := e.2.wps.map fun (w : Nat × Watch) => if 64 ≤ w.2.dsel ∧ w.2.launch = n ∧ w.2.st ≠ 0 then (w.1, { w.2 with st := 0 }) else w
        ctx := e.2.ctx.map fun (f : Nat × Ctx) => (f.1, if f.2.task.any l.tasks.contains then f.2.cleared else f.2) }) }

/-- TASK_END: the task ends, its resources become free, and after the last task the launch ends. -/
def execTaskEnd (tid : Nat) (s : State) : Res' :=
  match s.tasks.get none tid with
  | none => .next s
  | some t =>
    if !t.ended then runEvent (s.canEnd t) (fun s => s.endedTask tid t) s
    else if !t.freed then runEvent (s.canFree tid t) (fun s => s.freeTask tid t) s
    else match s.launches.get none t.launch with
      | some l => runEvent (s.launchDone l) (fun s => s.endLaunch t.launch l) s
      | none => .next s

/-! ### Preloading (R349, R350) -/

/-- The record that the scheduler would place next on a core: the first in its order that takes the core, once the tasks that stand there have
gone (R341, R349). -/
def State.nextFor (s : State) (c : Nat) : Option Record :=
  let gone := s.tasks.filterMap fun e => match e.2 with | some t => if t.core = c ∧ !t.freed ∧ !t.saved then some e.1 else none | none => none
  let img : Record → Option Image := fun r => match r.resume with
    | some tid => (s.tasks.get none tid).map fun t => t.img
    | none => if recordOk r.words then s.findImage (recKid (r.word 0)) else none
  ((s.lqs.flatMap fun e => e.2.recs).foldr insertRecord []).find? fun r =>
    (img r).any fun m => ((s.plan r m gone).getD []).any fun p => decide (p.core = c)

/-- The record of a queue with a SEQ that is next on a core and has not run before. -/
def State.recordAt (s : State) (c lq seq : Nat) : Option Record := (s.nextFor c).filter fun r => decide (r.lq = lq ∧ r.seq = seq) && r.resume.isNone

/-- PRELOAD: text into the shadow, `.rodata` and input copies into banks that no task of the core declares. A preload whose copy fails is
discarded. -/
def State.preloadRecord (s : State) (c : Nat) (r : Record) (m : Image) : State :=
  match s.copyPlan r m with
  | .error _ => s
  | .ok cps =>
    (s.loadBanks c m cps).updCore c fun k =>
      { k with shadow := copyRange s.mem (m.base + m.textOff) m.textLen 0 [], pre := some { lq := r.lq, seq := r.seq, banks := m.banks } }

def execPreload (c lq seq : Nat) (s : State) : Res' :=
  match s.recordAt c lq seq with
  | none => .next s
  | some r =>
    match (if recordOk r.words then s.findImage (recKid (r.word 0)) else none) with
    | none => .next s
    | some m =>
      runEvent (s.preload && s.running && !s.mg.capHold && s.ktBase.getLsbD 0 && !(s.core c).inReset && decide (c < 128) &&
          (s.onCore c []).all fun t => (t.img.banks &&& m.banks) == 0)
        (fun s => s.preloadRecord c r m) s

/-! ### CTXCTL (R320) -/

/-- KILL of a TRAPPED context: its task ends with the cause of the double trap, or with the low bits of the code of `trap`. -/
def State.ctlKill (s : State) (c x : Nat) : State :=
  let y := s.cx c x
  let cause := match y.esc with | some (true, n) => n | some (false, n) => n % 256 | none => 0
  match y.task with
  | some t =>
    let l := match s.tasks.get none t with | some k => k.launch | none => 0
    (s.noteFault l cause).endTask t
  | none => s

/-- RESUME of a TRAPPED context: after `trap` it is READY again; after a double trap it is killed. -/
def State.ctlResume (s : State) (c x : Nat) : State :=
  match (s.cx c x).esc with
  | some (false, _) => s.updCx c x fun y => { y with st := .ready, esc := none, readyAt := s.cycle }
  | _ => s.ctlKill c x

def execCtxctlResume (c x : Nat) (s : State) : Res' := runEvent (decide ((s.cx c x).st = .trapped)) (fun s => s.ctlResume c x) s

def execCtxctlKill (c x : Nat) (s : State) : Res' := runEvent (decide ((s.cx c x).st = .trapped)) (fun s => s.ctlKill c x) s

end Sys2Proof.Machine
end

