-- ==== Sys2Proof/Machine/Link.lean ====
section
/-! DEFINITION. The halyards of a vault (R225 to R228) and the Gleilo links (R416 to R423). -/

namespace Sys2Proof.Machine

/-! ### Halyards (R225, R226) -/

/-- What an unlisted halyard stands at: data halyards ACTIVE, spares IDLE. -/
def halIdle (n : Nat) : Nat := if n < 16 then 0 else 5

def Core.halyard (k : Core) (n : Nat) : Nat := k.hal.get (halIdle n) n

/-- A halyard changes state, which is reported. -/
def State.setHalyard (s : State) (c n st : Nat) : State :=
  (s.updCore c fun k => { k with hal := k.hal.put (halIdle n) n st }).escalate { what := "halyard state", core := c, ctx := n, cause := st }

/-- The lowest-numbered IDLE spare. -/
def Core.idleSpare (k : Core) : Option Nat := [16, 17].find? fun n => k.halyard n == 5

/-- The spare that serves a quarter. -/
def Core.spareOf (k : Core) (q : Nat) : Option Nat := if k.sp16 = some q then some 16 else if k.sp17 = some q then some 17 else none

/-- The quarter that a halyard serves. -/
def Core.serves (k : Core) (n : Nat) : Option Nat := if n < 16 then some n else if n = 16 then k.sp16 else if n = 17 then k.sp17 else none

def Core.setSpare (k : Core) (n : Nat) (q : Option Nat) : Core := if n = 16 then { k with sp16 := q } else { k with sp17 := q }

/-- A spare takes a quarter: the data halyard is SPARED, the spare ACTIVE. -/
def State.spare (s : State) (c q sp : Nat) : State :=
  ((s.updCore c fun k => k.setSpare sp (some q)).setHalyard c q 3).setHalyard c sp 0

/-- A quarter leaves service (R225). -/
def State.retireQuarter (s : State) (c q : Nat) (lost : Bool) : State :=
  let bit : BitVec 16 := 1 <<< q
  s.updCore c fun k => { k with retq := k.retq ||| bit, lostq := if lost then k.lostq ||| bit else k.lostq }

/-- A quarter is lost (R228). -/
def State.loseQuarter (s : State) (c q : Nat) : State :=
  (((s.retireQuarter c q true).setHalyard c q 4).loseHandles c q).escalate { what := "vault quarter lost", core := c, ctx := q }

/-- A quarter whose halyard has failed: a spare takes it at once, or it is lost. -/
def State.rescue (s : State) (c q : Nat) : State :=
  match (s.core c).idleSpare with
  | some sp => s.spare c q sp
  | none => s.loseQuarter c q

def execHalyardErrorRateHigh (c n : Nat) (s : State) : Res' :=
  runEvent (decide (c < 128 ∧ n < 18) && (s.core c).halyard n == 0) (fun s => s.setHalyard c n 1) s

def execHalyardRateWindow (c n : Nat) (s : State) : Res' :=
  runEvent (decide (c < 128 ∧ n < 18) && (s.core c).halyard n == 1) (fun s => s.setHalyard c n 0) s

/-- A steer command for a halyard in WATCH: it waits for a quiesce point where a spare is IDLE; otherwise the halyard drains. -/
def execHalyardSteer (c n : Nat) (s : State) : Res' :=
  runEvent (decide (c < 128 ∧ n < 16) && (s.core c).halyard n == 1 && !(s.core c).steer.contains n)
    (fun s =>
      if (s.core c).idleSpare.isSome then s.updCore c fun k => { k with steer := k.steer ++ [n] } else s.setHalyard c n 2) s

/-- A quiesce point (R227): every waiting steer command whose halyard is still in WATCH takes effect; no access is lost and none faults. -/
def execQuiescePoint (c : Nat) (s : State) : Res' :=
  let l := (s.core c).steer
  let s := s.updCore c fun k => { k with steer := [] }
  .next (l.foldl (fun s n =>
    if (s.core c).halyard n ≠ 1 then s
    else match (s.core c).idleSpare with
      | some sp => s.spare c n sp
      | none => s.setHalyard c n 2) s)

/-- A retire command for a draining halyard: its quarter retires and its handles are revoked (R223). -/
def execHalyardRetire (c n : Nat) (s : State) : Res' :=
  runEvent (decide (c < 128 ∧ n < 16) && (s.core c).halyard n == 2)
    (fun s =>
      ((s.setHalyard c n 4).retireQuarter c n false).startRevoke
        { id := 0, core := c, ctx := 0, step := 0, mode := 3, quarter := n, dev := true }) s

/-- An uncorrectable failure of a data halyard in service, or of a spare that serves a quarter. -/
def execHalyardFailure (c n : Nat) (s : State) : Res' :=
  let h := (s.core c).halyard n
  if 128 ≤ c then .next s
  else if n < 16 then runEvent (decide (h < 3)) (fun s => s.rescue c n) s
  else
    match (s.core c).serves n with
    | some q => .next (((s.setHalyard c n 4).updCore c fun k => k.setSpare n none).rescue c q)
    | none => .next s

/-- HSTATE (R225). -/
def Core.hstate (k : Core) : Word := wordOf (pack ((List.range 18).map fun n => (3, k.halyard n)))

/-- VCAP (R225). -/
def Core.vcap (k : Core) : Word :=
  let cap := ((List.range 16).filter fun q => !k.retq.getLsbD q).length
  wordOf (k.lostq.toNat * 2 ^ 48 + k.retq.toNat * 2 ^ 32 + (k.sp17.getD 0x1F) % 32 * 2 ^ 19 + (k.sp16.getD 0x1F) % 32 * 2 ^ 14 + cap)

/-! ### Links: states (R420, R421) -/

def State.gleilo (s : State) (l : Nat) : Link := s.links.get {} l

def State.setLink (s : State) (l : Nat) (v : Link) : State := { s with links := s.links.put {} l v }

def lstateCode : LState → Nat
  | .down => 0
  | .training => 1
  | .up => 2
  | .degraded => 3
  | .repairing => 4
  | .failed => 5

/-- A link changes state, which is reported (R420). -/
def State.moveLink (s : State) (l : Nat) (v : Link) : State :=
  (s.setLink l v).escalate { what := "link state", core := l, cause := lstateCode v.st }

/-- A link that fails or goes down: the flits in its buffers are lost. The copies that depend on it end at their next beat (R421). -/
def Link.stop (v : Link) (st : LState) : Link := { v with st := st, width := 0, out := [], retry := [], rx := [], stopTx := 0, stopRx := 0, discarding := false, tries := 0 }

/-- LINKCTL.EN is set: a link that is DOWN trains. -/
def State.enableLink (s : State) (l : Nat) : State :=
  let v := s.gleilo l
  if v.st = .down then s.moveLink l { v with en := true, st := .training, trainAt := s.now, expect := 0, txSeq := 0 }
  else s.setLink l { v with en := true }

/-- LINKCTL.EN is cleared. -/
def State.disableLink (s : State) (l : Nat) : State :=
  let v := { s.gleilo l with en := false }
  if v.st = .down then s.setLink l v else s.moveLink l (v.stop .down)

def execLinkEnable (l : Nat) (s : State) : Res' := runEvent (decide (l < 8) && !(s.gleilo l).en) (fun s => s.enableLink l) s

def execLinkDisable (l : Nat) (s : State) : Res' := runEvent (decide (l < 8) && (s.gleilo l).en) (fun s => s.disableLink l) s

/-- The end of training: the lanes that pass, and the chip at the far end. -/
def execLinkTrainingDone (l lanes chip : Nat) (s : State) : Res' :=
  let v := s.gleilo l
  runEvent (decide (v.st = .training))
    (fun s =>
      if chip % 16 ≠ v.peer ∨ lanes < 8 then s.moveLink l (v.stop .failed)
      else if 16 ≤ lanes then s.moveLink l ({ v with st := .up, width := 16, good := 16 } : Link).transmit
      else s.moveLink l ({ v with st := .degraded, width := 8, good := lanes } : Link).transmit) s

/-- Training has taken 10 ms. -/
def execLinkTrainingTimeout (l : Nat) (s : State) : Res' :=
  let v := s.gleilo l
  runEvent (decide (v.st = .training ∧ v.trainAt + 36 * 10000000 ≤ s.now)) (fun s => s.moveLink l (v.stop .failed)) s

/-- A lane's error rate exceeds its threshold, or the lane is lost. -/
def execLaneFault (l lane : Nat) (s : State) : Res' :=
  let v := s.gleilo l
  runEvent (decide (lane < 18) && !v.retln.getLsbD lane && decide (v.st = .up ∨ v.st = .degraded))
    (fun s =>
      if v.st = .degraded ∧ v.good ≤ 8 ∧ 2 ≤ v.spused then s.moveLink l (v.stop .failed)
      else s.moveLink l { v with st := .repairing, back := v.st, badLane := lane }) s

/-- A repair ends: the lane is retired for a spare and the flits are replayed, or the link runs on over its best 8 lanes (R418, R420). -/
def execLinkRepair (l : Nat) (s : State) : Res' :=
  let v := s.gleilo l
  runEvent (decide (v.st = .repairing))
    (fun s =>
      if v.spused < 2 then
        s.moveLink l ({ v with
          st := v.back, spused := v.spused + 1, retln := v.retln ||| ((1 : BitVec 18) <<< v.badLane),
          replay := satAdd 16 v.replay v.retry.length } : Link).transmit
      else s.moveLink l ({ v with st := .degraded, width := 8, good := v.good - 1 } : Link).transmit) s

/-- LINKCTL and LINKSTAT (R422). -/
def Link.ctl (v : Link) : Word := wordOf (v.peer % 16 * 2 + boolNat v.en)

def Link.stat (v : Link) : Word :=
  wordOf (lstateCode v.st * 2 ^ 61 + v.width % 32 * 2 ^ 56 + v.spused % 4 * 2 ^ 54 + v.retln.toNat * 2 ^ 36 + v.replay % 2 ^ 16 * 2 ^ 16
    + v.crcerr % 2 ^ 16)

/-! ### Flits (R417 to R419) -/

/-- The receive buffer of a channel, in flits. -/
def Link.held (v : Link) (vc : Nat) : Nat := (v.rx.get [] vc).length

/-- STOP is sent when the free space has fallen to 96 flits, GO when it has risen to 160. -/
def Link.flow (v : Link) (vc : Nat) : Link :=
  let free := 256 - v.held vc
  let bit : BitVec 3 := 1 <<< vc
  if free ≤ 96 then { v with stopTx := v.stopTx ||| bit } else if 160 ≤ free then { v with stopTx := v.stopTx &&& ~~~bit } else v

/-- The far end expects flit `n` next: the flits before it leave the retry buffer (R418). -/
def Link.acked (v : Link) (n : Nat) : Link :=
  { v with retry := match v.retry.findIdx? fun f => decide (f.seqNo = n) with
      | some i => v.retry.drop i
      | none => if n = v.txSeq then [] else v.retry }

/-- A flit that is accepted: the go/stop bits and the acknowledgement of its header act, and its payload enters the receive buffer of its
channel. -/
def Link.accept (v : Link) (f : Flit) : Link :=
  let v := ({ v with expect := (v.expect + 1) % 2 ^ 12, tries := 0, discarding := false, stopRx := BitVec.ofNat 3 f.stop } : Link).acked f.ack
  let v := v.transmit
  if f.vc < 3 then ({ v with rx := v.rx.put [] f.vc (v.rx.get [] f.vc ++ [f.payload]) } : Link).flow f.vc else v

/-- FLIT_RECEIVE: the next flit expected, with a right CRC, is accepted; any other is discarded, and the first one that fails asks for a
replay (R418). A flit replayed 16 times in a row without being accepted, or a buffer that overflows, fails the link (R418, R419). -/
def execFlitReceive (l : Nat) (f : Flit) (s : State) : Res' :=
  let v := s.gleilo l
  runEvent (decide (v.st = .up ∨ v.st = .degraded))
    (fun s =>
      if f.crcOk ∧ f.seqNo = v.expect then
        if f.vc < 3 ∧ 256 ≤ v.held f.vc then s.moveLink l ({ v with crcerr := satAdd 16 v.crcerr 1 }.stop .failed) else s.setLink l (v.accept f)
      else
        let v := if f.crcOk then v else { v with crcerr := satAdd 16 v.crcerr 1 }
        if v.discarding ∧ f.seqNo ≠ v.expect then s.setLink l v
        else if 16 ≤ v.tries then s.moveLink l (v.stop .failed)
        else s.setLink l { v with discarding := true, tries := v.tries + 1, replay := satAdd 16 v.replay 1 }) s

/-! ### What has come from other chips (R416, R417, R423) -/

/-- A page address of chip `src` as this chip sees it (R20). -/
def State.inward (s : State) (src a : Nat) : Nat :=
  if tierOf a = 2 then (if chipOf a = s.chip then peerLocal a else a)
  else if tierOf a = 3 then a
  else 2 ^ 47 + src % 16 * 2 ^ 42 + tierOf a * 2 ^ 40 + bitsOf 0 40 a

/-- A handle of another chip's context, in this chip's addresses. -/
def State.inwardHandle (s : State) (src : Nat) (h : Handle) : Handle := { h with frame := s.inward src h.frame }

/-- A call of another chip's context: its handles in this chip's addresses; its task is none of this chip's. -/
def State.inwardCall (s : State) (m : CallMsg) : CallMsg :=
  { m with
    target := s.inwardHandle m.chip m.target, extra1 := m.extra1.map (s.inwardHandle m.chip), extra2 := m.extra2.map (s.inwardHandle m.chip)
    task := 2 ^ 64, cmd := none }

/-- An item has come to the chip it was sent to: a beat performs at its home, a call goes to its executor, a reply or a notice to its caller, a
release to the domain's barrier. What an arrival and a change of a domain do at the home chip stands in the free value of R424 (log entry 34). -/
def State.takeItem (s : State) : LinkItem → State
  | .write a bs => if s.lostAt a || decide (2 ≤ tierOf a) then s else (s.poke a (bs.map some) false).watchPhys a bs.length 2 .host
  | .read c a n => if 2 ≤ tierOf a then s.sendPeer c (.data []) else (s.watchPhys a n 1 .host).sendPeer c (.data (s.peek a n).1)
  | .data _ => s
  | .call m =>
    let n := s.inwardCall m
    match execAt (n.target.frame + n.off.toNat) with | some e => if m.chip = s.chip then s else s.sendMsg (.call e n) | none => s
  | .reply m id st ca vs pe => if m.chip = s.chip then s.sendMsg (.reply m id st ca vs pe) else s
  | .notice m => if m.chip = s.chip then s.sendMsg (.notice m) else s
  | .arrival _ => s
  | .release d => match s.bar d with | some b => s.setBar d (some { b with far := true }) | none => s
  | .domain _ _ => s

/-- A parcel for another chip goes on by this chip's routes; one that would take a fourth hop is discarded and reported (R423). -/
def State.takeParcel (s : State) (p : Parcel) : State :=
  if p.chip = s.chip then s.takeItem p.item
  else if 3 ≤ p.hops then s.escalate { what := "link hops", core := p.chip }
  else s.sendParcel { p with hops := p.hops + 1 }

/-- The oldest payload of a channel is delivered, in the order of its acceptance (R417). -/
def State.takeFlit (s : State) (l vc : Nat) : State :=
  let v := s.gleilo l
  match v.rx.get [] vc with
  | [] => s
  | bs :: r =>
    let s := s.setLink l (({ v with rx := v.rx.put [] vc r } : Link).flow vc)
    match Config.parcel bs with
    | some p => s.takeParcel p
    | none => s

/-- What the links deliver in a cycle: one payload of each channel. -/
def State.takeFlits (s : State) : State := s.links.foldl (fun s e => [0, 1, 2].foldl (fun s vc => s.takeFlit e.1 vc) s) s

end Sys2Proof.Machine
end

