-- ==== Sys2Proof/Machine/Mgmt.lean ====
section
/-! DEFINITION. Management, power and trust (R25 to R27, R279, R434 to R444): the mailbox and its commands, the power states, bring-up,
resets, the power cap, the thermal trip and the monitor points. -/

namespace Sys2Proof.Machine

/-! ### Power states (R25, R436) -/

def powerCode : Power → Nat
  | .off => 0
  | .standby => 1
  | .idle => 2
  | .a0 => 3
  | .a1 => 4
  | .a2 => 5
  | .a3 => 6

def powerOf (n : Nat) : Power :=
  match n with
  | 0 => .off
  | 1 => .standby
  | 2 => .idle
  | 3 => .a0
  | 4 => .a1
  | 5 => .a2
  | _ => .a3

/-- An operating point. -/
def Power.isPoint (p : Power) : Bool := decide (3 ≤ powerCode p)

/-- PWRSTAT (R436). -/
def State.pwrstat (s : State) : Word :=
  let m := s.mg
  wordOf (powerCode m.power * 2 ^ 60 + boolNat m.trip * 2 ^ 59 + boolNat m.tripSeen * 2 ^ 58 + boolNat m.capEn * 2 ^ 57 + boolNat m.capHold * 2 ^ 56
    + boolNat Config.qrl9m * 2 ^ 55 + m.capW % 2 ^ 11 * 2 ^ 32 + m.refusals % 2 ^ 16)

/-! ### What is lost and what is kept (R279, R437, R444) -/

/-- A crossbar array after a reset or a power cycle (R279). -/
def XArr.comeUp (a : XArr) : XArr :=
  let live := !decide (a.st = .empty ∨ a.st = .retired)
  { st := if live then .programming else a.st, cells := a.cells, spare := a.spare, rows := a.rows, total := a.total
    pgm := if live then BitVec.allOnes 16 else a.pgm }

/-- What a core keeps: its crossbars and the state of its halyards. -/
def Core.lose (k : Core) : Core :=
  { xb := k.xb.map fun e => (e.1, e.2.comeUp), hal := k.hal, sp16 := k.sp16, sp17 := k.sp17, lostq := k.lostq, retq := k.retq }

/-- The device without power to its cores and memories. Retired lanes stay retired (R420). -/
def State.powerLoss (s : State) : State :=
  { agenda := s.agenda, iss := s.iss, cycle := s.cycle, now := s.now, ids := s.ids, frees := s.frees, host := s.host, mg := s.mg, escs := s.escs
    msix0 := s.msix0, msix1 := s.msix1, hostRead := s.hostRead
    cores := s.cores.map fun e => (e.1, e.2.lose)
    links := s.links.map fun e => (e.1, { retln := e.2.retln, spused := e.2.spused }) }

/-! ### Bring-up (R442) -/

/-- One step of the measurement chain. -/
def extend (m : BitVec 512) (image : List Byte) : BitVec 512 :=
  Config.shake256 (leBytes 64 m.toNat ++ leBytes 64 (Config.shake256 image).toNat)

/-- The bytes of the runtime region (R51). -/
def runtimeSize : Nat := 2 ^ 14

/-- A core leaves reset with the runtime image in its runtime region. -/
def Core.wake (k : Core) (rt : List Byte) : Core := { k with inReset := false, imem := writeBytes k.imem runtimeBase (rt.take runtimeSize) }

/-- The root of trust verifies the firmware and the runtime and measures both. TIMEBASE and the launch SEQ restart from 0 (R247, R437). -/
def State.bringUp (s : State) : Bool × State :=
  let fw := s.mg.firmware.getD Config.factoryFirmware
  let rt := s.mg.runtime.getD Config.factoryRuntime
  if !Config.verifyVendor fw then (false, s.escalate { what := "firmware verification" })
  else
    let ok := Config.verifyVendor rt
    let s : State := { s with now := 0, seq := 0, aperture := [], mg := { s.mg with measure := extend (extend 0 fw) rt, measures := 2, runtimeOk := ok } }
    (true,
      if ok then (List.range 128).foldl (fun s c => s.updCore c fun k => k.wake rt) s
      else s.escalate { what := "runtime verification" })

/-! ### The mailbox (R434, R435) -/

/-- The arguments of a command lie within its row of the table. -/
def mbArgsOk (op : Nat) (a b : Word) : Bool :=
  match op with
  | 1 => decide (a.toNat ≤ 6) && b == 0
  | 2 => decide (a.toNat ≤ 2047) && b == 0
  | 3 => b == 0
  | 4 => decide (a.toNat < 4096) && b == 0
  | 5 => (a == 0 && b == 0) || (a == 1 && decide (b.toNat < 128))
  | 6 => true
  | _ => false

/-- A command waits to be carried out. -/
def State.mbWaits (s : State) : Bool := decide (s.mg.mbst = 1) && s.mg.outcome.isNone && !s.mg.moving

/-- Command `op` waits, with arguments that its row admits. -/
def State.mbReady (s : State) (op : Nat) : Bool := s.mbWaits && decide (s.mg.op = op) && mbArgsOk op s.mg.arg0 s.mg.arg1

/-- A write to MBCMD starts a command; while one runs it is discarded, and reported (R435). -/
def State.mbStart (s : State) (op : Nat) : State :=
  if s.mg.mbst = 1 then s.escalate { what := "mailbox busy", cause := 1 }
  else s.updMg fun m => { m with mbst := 1, op := op, reason := 0, result := 0, outcome := none }

def State.mbRefuse (s : State) (reason : Nat) : State := s.updMg fun m => { m with outcome := some (3, reason, 0) }

/-- A refused POWER or CAP command is counted (R436). -/
def State.mbRefuseCounted (s : State) (reason : Nat) : State := (s.mbRefuse reason).updMg fun m => { m with refusals := satAdd 16 m.refusals 1 }

def State.mbOk (s : State) (result : Nat) : State := s.updMg fun m => { m with outcome := some (2, 0, result) }

/-- MBSTAT (R434). -/
def Mgmt.mbstat (m : Mgmt) : Word := wordOf (m.mbst % 4 * 2 ^ 62 + m.reason % 256 * 2 ^ 48 + m.result % 2 ^ 48)

/-- MAILBOX_INVALID_OP: REASON 2; a POWER or CAP command is counted in REFUSALS (R435, R436; DEDUCED, log entry 18). -/
def execMailboxInvalidOp (s : State) : Res' :=
  runEvent (s.mbWaits && !mbArgsOk s.mg.op s.mg.arg0 s.mg.arg1)
    (fun s => if s.mg.op = 1 ∨ s.mg.op = 2 then s.mbRefuseCounted 2 else s.mbRefuse 2) s

/-! ### POWER (R27, R437) -/

/-- Why a POWER command is refused, if it is. -/
def State.powerRefusal (s : State) (dest : Power) : Option Nat :=
  let m := s.mg
  let known := if m.power.isPoint then true else if m.power = .idle then dest != .idle else m.power == .standby && dest.isPoint
  if !known then some 6
  else if m.trip && decide (4 ≤ powerCode dest) then some 3
  else if dest = .a3 ∧ !m.capEn then some 4
  else none

def execMailboxPower (s : State) : Res' :=
  runEvent (s.mbReady 1)
    (fun s =>
      let dest := powerOf s.mg.arg0.toNat
      match s.powerRefusal dest with
      | some r => s.mbRefuseCounted r
      | none => s.updMg fun m => { m with moving := true, target := dest, tripped := false }) s

/-- The POWER command settles: the new state. A command during which the trip fired ends at A0, whatever state it named, and RESULT says so
(R27, R439); a command to OFF has no end to report (log entry 51). -/
def State.settlePower (s : State) : State :=
  let dest := if s.mg.tripped ∧ s.mg.target ≠ .off then .a0 else s.mg.target
  let from_ := s.mg.power
  match dest with
  | .off => { s.powerLoss with mg := { power := .off, firmware := s.mg.firmware, runtime := s.mg.runtime } }
  | .standby => s.powerLoss.updMg fun m => { m with power := .standby }
  | .idle => s.updMg fun m => { m with power := .idle }
  | p =>
    if from_ = .standby then
      let (ok, s) := s.bringUp
      if ok then s.updMg fun m => { m with power := p } else s
    else s.updMg fun m => { m with power := p }

/-- MAILBOX_COMMAND_DONE: the running command finishes. A move to IDLE waits for every committed access (R437). -/
def execMailboxCommandDone (s : State) : Res' :=
  let m := s.mg
  if m.mbst ≠ 1 then .next s
  else if m.moving then
    runEvent (m.target != .idle || s.accs.isEmpty)
      (fun s =>
        let s := s.settlePower
        if s.mg.power = .off then s
        else s.updMg fun m => { m with moving := false, tripped := false, mbst := 2, reason := 0, result := powerCode m.power }) s
  else match m.outcome with
    | some (st, r, v) => .next (s.updMg fun m => { m with mbst := st, reason := r, result := v, outcome := none })
    | none => .next s

/-- POWER_UP: the board and the host restore power (R26, R437). -/
def execPowerUp (s : State) : Res' := runEvent (decide (s.mg.power = .off)) (fun s => s.updMg fun m => { m with power := .standby }) s

/-! ### CAP (R29, R438) -/

def execMailboxCap (s : State) : Res' :=
  runEvent (s.mbReady 2)
    (fun s =>
      let w := s.mg.arg0.toNat
      if Config.qrl9m && decide (1500 < w) then s.mbRefuseCounted 2
      else if w = 0 ∧ s.mg.power = .a3 then s.mbRefuseCounted 6
      else
        (s.updMg fun m =>
          { m with capEn := w != 0, capW := w, capHold := m.capHold && w != 0, overCount := 0, overEsc := false }).mbOk 0) s

/-- CAP_WINDOW: the average module input power of a window of 1 ms against the cap. -/
def execCapWindow (avg : Nat) (s : State) : Res' :=
  runEvent s.mg.capEn
    (fun s =>
      if s.mg.capW < avg then
        let n := s.mg.overCount + 1
        let esc := decide (20 ≤ n) && !s.mg.overEsc
        let s := s.updMg fun m => { m with capHold := true, overCount := n, overEsc := m.overEsc || esc }
        if esc then s.escalate { what := "CAP_EXCEEDED" } else s
      else s.updMg fun m => { m with capHold := false, overCount := 0, overEsc := false }) s

/-! ### ATTEST and VERIFY (R442, R443) -/

/-- The first 256 bytes of a report. -/
def State.reportHead (s : State) (nonce : List Byte) : List Byte :=
  leBytes 8 0x0054534554544151 ++ leBytes 8 (1 + s.chip % 16 * 2 ^ 32) ++ nonce ++ leBytes 64 Config.identityDigest.toNat ++
    leBytes 64 s.mg.measure.toNat ++ leBytes 8 s.mg.measures ++ leBytes 8 s.timebase ++ List.replicate 32 0

def signatureBytes : Nat := 3309

def execMailboxAttest (s : State) : Res' :=
  runEvent (s.mbReady 3)
    (fun s =>
      let a := s.mg.arg0.toNat
      let head := s.reportHead (readBytes s.host a 64)
      let sig := (List.range signatureBytes).map (Config.signByte head)
      ({ s with host := writeBytes s.host a (head ++ sig) } : State).mbOk 0xDED) s

/-- The signature of a kernel image (R336): SIGNED, 3,309 bytes, and valid. -/
def State.kernelSigned (s : State) (kid : Nat) : Bool :=
  let e := getField s.ktBase 13 35 * 2 ^ 13 + 32 * kid
  let a := getField (s.word e) 0 48
  let off := readNat s.mem (a + 0x50) 4
  (s.word (e + 8)).getLsbD 63 && (s.word (a + 8)).getLsbD 32 && decide (readNat s.mem (a + 0x54) 4 = signatureBytes) &&
    Config.verifyKernel (readBytes s.mem a off) (readBytes s.mem (a + off) signatureBytes)

def execMailboxVerify (s : State) : Res' :=
  runEvent (s.mbReady 4) (fun s => if s.kernelSigned s.mg.arg0.toNat then s.mbOk 0 else s.mbRefuse 5) s

/-! ### FWLOAD (R442) -/

def execMailboxFwload (s : State) : Res' :=
  runEvent (s.mbReady 6)
    (fun s =>
      let image := readBytes s.host s.mg.arg0.toNat s.mg.arg1.toNat
      if !Config.verifyVendor image then s.mbRefuse 5
      else
        let n := s.mg.measures + 1
        (s.updMg fun m =>
          { m with
            measure := extend m.measure image, measures := n
            firmware := if Config.isRuntime image then m.firmware else some image
            runtime := if Config.isRuntime image then some image else m.runtime }).mbOk n) s

/-! ### RESET (R444) -/

/-- A device reset: STANDBY, bring-up, and the operating point that was in force. -/
def State.resetDevice (s : State) : State :=
  let p := s.mg.power
  let (ok, s) := (s.powerLoss.updMg fun m => { m with power := .standby }).bringUp
  if ok ∧ p.isPoint then s.updMg fun m => { m with power := p } else s

def execMailboxResetDevice (s : State) : Res' :=
  runEvent (s.mbReady 5 && s.mg.arg0 == 0) (fun s => s.resetDevice.mbOk 0) s

/-- A task on a core that is reset: killed, and ended. It is freed once its accesses have performed and its started cq6 and cq7 commands
have ended (R16, R375). A sibling's end is noticed. -/
def State.resetTask (s : State) (tid : Nat) (t : Task) : State :=
  let s := (s.updLaunch t.launch fun l => { l with killed := true }).endTask tid
  let s := match t.sib, (s.launches.get none t.launch).bind (·.ballot) with
    | some i, some b => if t.noted then s else s.sendMsg (.endNotice b i)
    | _, _ => s
  (s.updTask tid fun t => { t with ended := true, noted := true }).refreshFixed t.launch

/-- The commands of a queue that stand outside the core: started commands of cq6 and cq7 run to their end (R249, R413). -/
def Queue.outside (u : Queue) : Queue := { u with cmds := u.cmds.filter fun m => decide (m.st ≠ 0) }

/-- The core after its reset: contexts, tiles, semaphores and queues cleared; its vault, its instruction memory and its crossbars as they
were. -/
def Core.reset (k : Core) : Core :=
  { k with
    ctx := k.ctx.map fun e => (e.1, ({ step := e.2.step } : Ctx))
    tiles := [], act := {}, shd := {}, planeHolder := none, mq := [], pipe := [], sems := [], armed := [], sget := none, wms := []
    queues := (k.queues.filter fun q => decide (q.1 = 6 ∨ q.1 = 7)).map fun q => (q.1, q.2.outside)
    cur := none, lastCtx := none }

def State.resetCore (s : State) (c : Nat) : State :=
  let l := s.tasks.filterMap fun (e : Nat × Option Task) => e.2.bind fun (t : Task) => if t.core = c ∧ !t.freed ∧ !t.saved then some (e.1, t) else none
  let s := l.foldl (fun s e => s.resetTask e.1 e.2) s
  let s := (List.range 4).foldl (fun s x => s.dropResults c x) s
  s.updCore c Core.reset

def execMailboxResetCore (s : State) : Res' :=
  runEvent (s.mbReady 5 && s.mg.arg0 == 1) (fun s => (s.resetCore s.mg.arg1.toNat).mbOk 0) s

/-! ### The thermal trip (R26, R27, R439) -/

/-- 105 °C and 95 °C in codes of 0.25 °C from −64 °C. -/
def tripCode : Nat := 676
def coolCode : Nat := 636

/-- A logic-die sensor. -/
def isDieSensor (n : Nat) : Bool := decide (72 ≤ n ∧ n ≤ 79)

/-- A reading of a sensor: since when every sensor has read below 95 °C. -/
def Mgmt.feel (m : Mgmt) (now n x : Nat) : Mgmt :=
  if isDieSensor n then
    let m := { m with temps := m.temps.put 0 n x }
    if (List.range 8).all fun i => decide (m.temps.get 0 (72 + i) < coolCode) then
      { m with belowSince := some (m.belowSince.getD now) }
    else { m with belowSince := none }
  else m

/-- THERMAL_TRIP: a sensor reads 105 °C or more; every logic die drops to A0. It fires in IDLE and at the operating points, and during a
POWER command, that out of STANDBY included (R27). In IDLE, which has no clock that could drop, the trip is asserted and reported and the
device stays in IDLE: the model's choice (DESIGN CHOICE, log entry 51). -/
def execThermalTrip (point code : Nat) (s : State) : Res' :=
  runEvent (isDieSensor point && decide (tripCode ≤ code) && !s.mg.trip && (s.mg.moving || decide (2 ≤ powerCode s.mg.power)))
    (fun s =>
      (s.updMg fun m =>
        let m := m.feel s.now point code
        { m with trip := true, tripSeen := true, tripped := true, power := if m.power.isPoint then .a0 else m.power }).escalate
          { what := "thermal trip", ctx := point, cause := code }) s

/-- THERMAL_TRIP_RELEASE: every sensor has read below 95 °C for 100 ms. The operating point stays. -/
def execThermalTripRelease (s : State) : Res' :=
  runEvent (s.mg.trip && (match s.mg.belowSince with | some t => decide (t + 36 * 100000000 ≤ s.now) | none => false))
    (fun s => s.updMg fun m => { m with trip := false }) s

/-! ### Monitor points (R440, R441) -/

def execMonitorSample (n x : Nat) (s : State) : Res' :=
  runEvent (decide (n < 96 ∧ s.mg.power ≠ .off))
    (fun s => s.updMg fun m => (m.feel s.now n x).sample n x) s

/-- START: the statistics of every point are cleared and the edges written take effect. -/
def Mgmt.start (m : Mgmt) : Mgmt :=
  { m with
    drop := 0
    mons := (List.range 96).foldl (fun l n =>
      let p := m.mon n
      l.put {} n { p with edges := p.next, min := 2 ^ 32 - 1, max := 0, bins := [] }) [] }

def execMonctlStart (s : State) : Res' := runEvent (decide (s.mg.power ≠ .off)) (fun s => s.updMg Mgmt.start) s

/-- MONCTL (R441). -/
def Mgmt.monctl (m : Mgmt) : Word := wordOf (boolNat m.freeze * 2 ^ 33 + m.drop % 2 ^ 32)

/-- A word of a monitor point (R440). -/
def Mgmt.monWord (m : Mgmt) (n off : Nat) : Word :=
  let p := m.mon n
  if off = 0 then (if n < 40 then 0 else 1 <<< 61)
  else if off < 0x28 then
    let e := fun i => (p.next[i]?).getD 0
    let i := (off - 8) / 8 * 4
    wordOf (e i * 2 ^ 48 + e (i + 1) * 2 ^ 32 + e (i + 2) * 2 ^ 16 + e (i + 3))
  else if off = 0x28 then wordOf p.cur
  else if off = 0x30 then wordOf p.min
  else if off = 0x38 then wordOf p.max
  else if off < 0x80 then let i := (off - 0x40) / 8 * 2; wordOf (p.bins.get 0 (i + 1) * 2 ^ 32 + p.bins.get 0 i)
  else 0

/-- A write of four edges. -/
def Mgmt.setEdges (m : Mgmt) (n off : Nat) (w : Word) : Mgmt :=
  let p := m.mon n
  let i := (off - 8) / 8 * 4
  let v := fun j => getField w (48 - 16 * j) 16
  let next := (List.range 15).map fun k => if i ≤ k ∧ k < i + 4 then v (k - i) else (p.next[k]?).getD 0xFFFF
  { m with mons := m.mons.put {} n { p with next := next } }

end Sys2Proof.Machine
end

