-- ==== Sys2Proof/Machine/Registers.lean ====
section
/-! DEFINITION. Device-control registers (R6, R7, R21, R212, R213, R225, R244, R246, R320, R322, R326, R337, R363, R374, R380, R422, R425,
R434 to R441): what each reads as, what a write does, and the host's accesses to device memory. -/

namespace Sys2Proof.Machine

/-- The block and the offset that a tier-11 address names (R18, R21). -/
def blockAt (a : Nat) : Option (Block × Nat) :=
  match bitsOf 38 2 a with
  | 0 => some (.core (bitsOf 31 7 a), bitsOf 0 31 a)
  | 1 => some (.io, bitsOf 0 31 a)
  | 2 => some (.hbm (bitsOf 31 3 a), bitsOf 0 31 a)
  | _ => none

/-- Index `i` of a register file at `lo`, with `n` entries `step` bytes apart, and the offset within the entry. -/
def entryAt (lo n step off : Nat) : Option (Nat × Nat) :=
  if lo ≤ off ∧ off < lo + n * step then some ((off - lo) / step, (off - lo) % step) else none

/-! ### The block of a core -/

/-- WPCFG (R326). -/
def Watch.cfg (w : Watch) : Word :=
  wordOf (w.st % 4 * 2 ^ 62 + w.owner % 4 * 2 ^ 60 + boolNat w.sp * 2 ^ 59 + w.kinds % 8 * 2 ^ 56 + w.dsel % 256 * 2 ^ 48 + w.addr % 2 ^ 48)

def Core.readReg (k : Core) (off : Nat) : Word :=
  match entryAt 0x400 4 8 off, entryAt 0x420 4 8 off, entryAt 0x480 4 8 off, entryAt 0x4A0 4 8 off, entryAt 0x500 8 16 off with
  | some (x, _), _, _, _, _ => k.xroot.get 0 x
  | _, some (x, _), _, _, _ => k.xfault.get 0 x
  | _, _, some (x, _), _, _ => k.ctxsave.get 0 x
  | _, _, _, some (x, _), _ => wordOf (cstateCode (k.ctx.get {} x).st * 2 ^ 8)
  | _, _, _, _, some (n, o) => let w := k.wps.get {} n; if o = 0 then w.cfg else w.hit
  | none, none, none, none, none =>
    if off = 0x440 then k.hstate else if off = 0x448 then k.vcap else Config.unassigned off

/-- A write to CTXCTL (R320). -/
def State.ctxctl (s : State) (c x act : Nat) : State :=
  if (s.cx c x).st ≠ .trapped then s else if act = 1 then s.ctlResume c x else if act = 2 then s.ctlKill c x else s

def State.writeCore (s : State) (c off : Nat) (w : Word) : State :=
  match entryAt 0x400 4 8 off, entryAt 0x420 4 8 off, entryAt 0x480 4 8 off, entryAt 0x4A0 4 8 off with
  | some (x, _), _, _, _ => s.updCore c fun k => { k with xroot := k.xroot.put 0 x (xrootBits w) }
  | _, some (x, _), _, _ =>
    if w.getLsbD 63 then s.updCore c fun k => { k with xfault := k.xfault.put 0 x (insField (k.xfault.get 0 x) 63 1 0) } else s
  | _, _, some (x, _), _ => s.updCore c fun k => { k with ctxsave := k.ctxsave.put 0 x (keepBits w [(16, 32), (0, 1)]) }
  | _, _, _, some (x, _) => s.ctxctl c x (getField w 0 2)
  | none, none, none, none => s

/-! ### The block of the I/O die -/

/-- Launch-queue registers (R244). -/
def LQueue.word (u : LQueue) (o : Nat) : Word :=
  let t := fun i => (u.thr[i]?).getD 256
  match o with
  | 0 => wordOf (boolNat u.policy * 2 + boolNat u.en)
  | 8 => wordOf (pack [(16, t 0), (16, t 1), (16, t 2), (16, t 3)])
  | 16 => wordOf (pack [(16, t 4), (16, t 5), (16, t 6), (16, t 7)])
  | 24 => wordOf (u.shedc % 2 ^ 16 * 2 ^ 32 + u.refused % 2 ^ 16 * 2 ^ 16 + u.recs.length)
  | _ => 0

/-- A write to them; a queue keeps EN = 0 where the runtime has failed its verification (R442). -/
def LQueue.write (u : LQueue) (o : Nat) (w : Word) (enOk : Bool) : LQueue :=
  let f := fun i => getField w (16 * i) 9
  match o with
  | 0 => { u with en := w.getLsbD 0 && enOk, policy := w.getLsbD 1 }
  | 8 => { u with thr := [f 0, f 1, f 2, f 3] ++ u.thr.drop 4 }
  | 16 => { u with thr := u.thr.take 4 ++ [f 0, f 1, f 2, f 3] }
  | 24 => { u with shedc := getField w 32 16, refused := getField w 16 16 }
  | _ => u

/-- Domain registers (R363). -/
def State.domReg (s : State) (n o : Nat) : Word :=
  let d := s.dom n
  if o = 0 then s.domcfg d
  else if o = 8 then wordOf (d.cores.toNat % 2 ^ 64)
  else if o = 16 then wordOf (d.cores.toNat / 2 ^ 64)
  else if o ≤ 0x50 then d.ctxWord ((o - 0x18) / 8)
  else 0

/-- The context masks of cores 16j to 16j + 15. -/
def Domain.setCtxs (d : Domain) (j : Nat) (w : Word) : Domain :=
  { d with ctxs := (List.range 16).foldl (fun m i => m.put 0 (16 * j + i) (getField w (4 * i) 4)) d.ctxs }

def Domain.write (d : Domain) (o : Nat) (w : Word) : Domain :=
  if o = 0 then { d with valid := w.getLsbD 63, chips := getField w 32 16 }
  else if o = 8 then { d with cores := BitVec.ofNat 128 (d.cores.toNat / 2 ^ 64 * 2 ^ 64 + w.toNat) }
  else if o = 16 then { d with cores := BitVec.ofNat 128 (w.toNat * 2 ^ 64 + d.cores.toNat % 2 ^ 64) }
  else if o ≤ 0x50 then d.setCtxs ((o - 0x18) / 8) w
  else d

/-- The registers of the management plane (R434, R436, R440, R441). -/
def State.readMgmt (s : State) (off : Nat) : Word :=
  match entryAt 0x10000 96 0x100 off with
  | some (n, o) => s.mg.monWord n o
  | none =>
    match off with
    | 0xC008 => s.mg.arg0
    | 0xC010 => s.mg.arg1
    | 0xC018 => s.mg.mbstat
    | 0xC020 => s.pwrstat
    | 0xC030 => s.mg.monctl
    | _ => 0

def State.writeMgmt (s : State) (off : Nat) (w : Word) : State :=
  match entryAt 0x10000 96 0x100 off with
  | some (n, o) => if 8 ≤ o ∧ o ≤ 0x20 then s.updMg fun m => m.setEdges n o w else s
  | none =>
    match off with
    | 0xC000 => s.mbStart (getField w 0 8)
    | 0xC008 => s.updMg fun m => { m with arg0 := w }
    | 0xC010 => s.updMg fun m => { m with arg1 := w }
    | 0xC020 => if w.getLsbD 58 then s.updMg fun m => { m with tripSeen := false } else s
    | 0xC030 =>
      let s := s.updMg fun m => { m with freeze := w.getLsbD 33 }
      if w.getLsbD 32 then s.updMg Mgmt.start else s
    | _ => s

/-- Offsets that only the host reaches (R434). -/
def isMgmt (off : Nat) : Bool := decide (0xC000 ≤ off ∧ off < 0x16000)

/-- The single registers of the I/O die. -/
def State.readIo1 (s : State) (off : Nat) : Word :=
  match off with
  | 0x3000 => s.crBase
  | 0x3008 => wordOf (boolNat s.crEn * 2 ^ 8 + s.crLog % 32)
  | 0x3010 => wordOf s.crHead
  | 0x3018 => wordOf s.crTail
  | 0x3100 => s.ktBase
  | 0x3108 => wordOf (boolNat s.preempt * 2 ^ 63 + boolNat s.preload * 2 ^ 62 + s.drainThr % 2 ^ 48)
  | 0x3110 => wordOf s.grace
  | 0x3200 => s.hwBase
  | 0x3600 => s.chipRoute
  | 0x3608 => wordOf s.chip
  | _ => Config.unassigned off

def State.writeIo1 (s : State) (off : Nat) (w : Word) : State :=
  match off with
  | 0x3000 => { s with crBase := keepBits w [(12, 52)] }
  | 0x3008 => { s with crEn := w.getLsbD 8, crLog := getField w 0 5 }
  | 0x3018 => { s with crTail := getField w 0 32 }
  | 0x3100 => { s with ktBase := keepBits w [(13, 35), (0, 1)] }
  | 0x3108 => { s with preempt := w.getLsbD 63, preload := w.getLsbD 62, drainThr := getField w 0 48 }
  | 0x3110 => { s with grace := getField w 0 32 }
  | 0x3200 => { s with hwBase := keepBits w [(34, 14)] }
  | 0x3600 => { s with chipRoute := w }
  | 0x3608 => { s with chip := getField w 0 4 }
  | _ => s

/-- LINKCTL and LINKSTAT (R420, R422). -/
def State.writeLink (s : State) (l o : Nat) (w : Word) : State :=
  if o = 0 then
    let s := s.setLink l { s.gleilo l with peer := getField w 1 4 }
    if w.getLsbD 0 then (if (s.gleilo l).en then s else s.enableLink l) else (if (s.gleilo l).en then s.disableLink l else s)
  else if o = 8 then
    let v := s.gleilo l
    s.setLink l { v with
      replay := if getField w 16 16 = 0 then v.replay else 0
      crcerr := if getField w 0 16 = 0 then v.crcerr else 0 }
  else s

def State.readIo (s : State) (ag : RegAgent) (off : Nat) : Word :=
  if isMgmt off then (if ag = .host then s.readMgmt off else 0)
  else
    match entryAt 0x2000 32 0x20 off, entryAt 0x3400 8 0x40 off, entryAt 0x4000 64 0x80 off, entryAt 0x18000 64 0x200 off with
    | some (q, o), _, _, _ => (s.lq q).word o
    | _, some (l, o), _, _ => if o = 0 then (s.gleilo l).ctl else if o = 8 then (s.gleilo l).stat else Config.unassigned off
    | _, _, some (n, o), _ => s.domReg n o
    | _, _, _, some (n, o) => s.slotWord n (o / 8)
    | none, none, none, none => s.readIo1 off

def State.writeIo (s : State) (ag : RegAgent) (off : Nat) (w : Word) : State :=
  if isMgmt off then (if ag = .host then s.writeMgmt off w else s)
  else
    match entryAt 0x2000 32 0x20 off, entryAt 0x3400 8 0x40 off, entryAt 0x4000 64 0x80 off, entryAt 0x18000 64 0x200 off with
    | some (q, o), _, _, _ => s.updLq q fun u => u.write o w s.mg.runtimeOk
    | _, some (l, o), _, _ => s.writeLink l o w
    | _, _, some (n, o), _ => s.putDom n ((s.dom n).write o w)
    | _, _, _, some _ => s
    | none, none, none, none => s.writeIo1 off w

/-! ### Reading and writing -/

/-- A register reads (R6). -/
def State.readReg (s : State) (ag : RegAgent) (b : Block) (off : Nat) : Word :=
  match b with
  | .core c => (s.core c).readReg off
  | .io => s.readIo ag off
  | .hbm _ => Config.unassigned off

/-- A register is written under its access codes: fields that are RO or RSV keep their values (R6, R7). -/
def State.writeReg (s : State) (ag : RegAgent) (b : Block) (off : Nat) (w : Word) : State :=
  match b with
  | .core c => if c < 128 then s.writeCore c off w else s
  | .io => s.writeIo ag off w
  | .hbm _ => s

/-- REGISTER_WRITE: an aligned write of 8 bytes. -/
def execRegisterWrite (agent : RegAgent) (blk : Block) (off : Nat) (val : Word) (s : State) : Res' :=
  runEvent (off % 8 == 0 && decide (s.mg.power ≠ .off)) (fun s => s.writeReg agent blk off val) s

/-! ### Host accesses to device memory (R425) -/

/-- Every byte of the range is a populated byte of the vaults or of HBM. -/
def hostReaches (a n : Nat) : Bool :=
  match tierOf a with
  | 0 => bitsOf 38 8 a == 0 && decide (a + n ≤ 2 ^ 38)
  | 1 => bitsOf 39 7 a == 0 && decide (hbmOff a + n ≤ hbmTop)
  | _ => false

/-- The pieces of `n` bytes at `a`, one for each 8-byte word. -/
def wordPieces (a n : Nat) : List (Nat × Nat) :=
  (List.range (n / 8 + 2)).filterMap fun i =>
    let lo := Nat.max a ((a / 8 + i) * 8)
    let hi := Nat.min (a + n) ((a / 8 + i + 1) * 8)
    if lo < hi then some (lo, hi - lo) else none

/-- A host write, word by word; the bytes of a lost quarter are not written (R185). -/
def State.hostWrite (s : State) (a : Nat) (data : List Byte) : State :=
  let n := data.length
  let s := (wordPieces a n).foldl (fun s p =>
    if s.lostAt p.1 then s else (s.poke p.1 (((data.drop (p.1 - a)).take p.2).map some) false).watchPhys p.1 p.2 2 .host) s
  (List.range (n / 64 + 2)).foldl (fun s i =>
    let l := a / 64 + i
    if a ≤ l * 64 ∧ l * 64 + 64 ≤ a + n then s.setPoison none l false else s) s

/-- A host read. The specification does not say what it brings from a lost quarter: a free value (log entry 5). -/
def State.hostLoad (s : State) (a n : Nat) : State :=
  let (d, s) := s.draw
  let bs := (wordPieces a n).flatMap fun p =>
    if s.lostAt p.1 then leBytes p.2 (Config.lostWord d p.1).toNat else readBytes s.mem p.1 p.2
  (wordPieces a n).foldl (fun s p => s.watchPhys p.1 p.2 1 .host) { s with hostRead := bs }

/-- HOST_MEMORY_ACCESS through BAR4: performed at its home, or completed with Unsupported Request. A read of an EMPTY word waits (R414). -/
def execHostMemoryAccess (write : Bool) (off n : Nat) (data : List Byte) (s : State) : Res' :=
  let a := s.hwBase.toNat + off
  if !s.counts ∨ 2 ^ 34 < off + n ∨ !hostReaches a n then .next { s with hostRead := [] }
  else if write then .next (s.hostWrite a ((List.range n).map fun i => (data[i]?).getD 0))
  else runEvent (!s.emptyIn a n) (fun s => s.hostLoad a n) s

end Sys2Proof.Machine
end

