-- ==== Sys2Proof/Machine/Perform.lean ====
section
/-! DEFINITION. Accesses as they perform at their homes, in the orders that R191 allows, and scoreboarded results as they land (R82, R171,
R173, R174, R177, R182, R184, R185, R189, R203, R404, R414). -/

namespace Sys2Proof.Machine

/-! ### The order of accesses (R191) -/

def Access.loads (a : Access) : Bool :=
  match a.op with
  | .load | .ro _ => true
  | _ => false

/-- A load and a later slot's write of one bundle that share a word: the load performs first (R85). -/
def Access.readsFirst (e a : Access) : Bool :=
  match e.place, a.place with
  | .phys p, .phys q => e.loads && !a.loads && sharesWord p e.n q a.n
  | _, _ => false

/-- An access of the bundle of an acquire counts as later than it: another access, a message included, unless R85 puts it first; of two
acquires the lower slot's comes first (R192). A local access performs at its commit whatever its bundle holds (R191). -/
def Access.afterAcquire (e a : Access) : Bool :=
  e.acq && !a.isLocal && decide (e.step = a.step ∧ e.grp ≠ a.grp) && !a.readsFirst e && (!a.acq || decide (e.id < a.id))

/-- `e` must perform before `a`, both of one context (R85, R191): `e` is of an earlier bundle, or a load of the same bundle whose words `a`
writes. -/
def Access.before (e a : Access) : Bool :=
  match e.place, a.place with
  | .phys p, .phys q =>
    if e.step < a.step then
      (e.near && a.near) || sharesWord p e.n q a.n || (tierOf p == 3 && tierOf q == 3)
    else e.step == a.step && e.loads && !a.loads && sharesWord p e.n q a.n
  | .spad c o, .spad d r =>
    c == d && decide (e.step < a.step) &&
      (if a.send then e.send && sharesWord o e.n r a.n
       else (List.range a.n).any fun i => a.touchesByte i && e.storesIn (r + i) (r + i + 1))
  | _, _ => false

/-- The bytes of a line in the read-only cache of a core (R177). -/
def Core.roLine (k : Core) (l : Nat) : Option (List Byte) := (k.roc.find? fun e => decide (e.addr = l)).map (·.bytes)

/-- A hit of the read-only path performs at the core (R203). -/
def State.roHit (s : State) (a : Access) : Option (List Byte) :=
  match a.op, a.place with
  | .ro _, .phys p => ((s.core a.core).roLine (p / 64 * 64)).map fun bs => (bs.drop (p % 64)).take a.n
  | _, _ => none

/-- A matrix operation that holds a store back still has to read bytes of it (R154). -/
def State.stillHeld (s : State) (a : Access) : Bool :=
  match a.place, a.op with
  | .spad c o, .store data => (s.core c).mq.any fun m => a.behind.contains m.id && m.readsBytes o data
  | _, _ => false

/-- The end of a cycle for a held store: it performs in the cycle after the reads have passed its bytes (R191 constraint 2). -/
def State.letGo (s : State) (a : Access) : Access := if s.stillHeld a then a else { a with behind := [] }

/-- A load or atomic meets an EMPTY word (R414). -/
def State.waitsEmpty (s : State) (a : Access) : Bool :=
  match a.op, a.place with
  | .store _, _ => false
  | _, .phys p => s.emptyIn p a.n
  | _, _ => false

/-- A message takes the engine port of its bank (R168, R182). -/
def State.portOpen (s : State) (a : Access) : Bool :=
  match a.place with
  | .spad c o => !a.send || (s.core c).portFree s.cycle o a.n
  | .phys _ => true

/-- The access can perform now. A read-only hit is ordered against no access (R203). -/
def State.canPerform (s : State) (a : Access) : Bool :=
  (s.roHit a).isSome ||
    (!(s.accs.any fun e =>
        decide (e.id ≠ a.id ∧ e.core = a.core ∧ e.ctx = a.ctx) && ((e.before a && (s.roHit e).isNone) || e.afterAcquire a)) &&
      !(s.lands.any fun l => l.acq && decide (l.core = a.core ∧ l.ctx = a.ctx ∧ l.step = a.step) && !a.isLocal) &&
      a.heldFor.isEmpty && a.behind.isEmpty && !s.waitsEmpty a && s.portOpen a)

/-! ### Performing -/

/-- The agent of an access: the context, or the message it has become (R446). -/
def Access.agent (a : Access) : Agent := if a.send then .message a.core a.ctx else .context a.core a.ctx

/-- Bytes come back to a result group (R173). -/
def Group.take (g : Group) (off : Nat) (bs : List Byte) (po : Bool) : Group :=
  let n := bs.length
  { g with
    left := g.left - 1
    got := ((List.range n).zip bs).foldl (fun m e => m.put 0 (off + e.1) e.2) g.got
    poison := if po then g.poison ++ (List.range ((n + 7) / 8)).map (off / 8 + ·) else g.poison }

/-- What an access read is delivered. -/
def State.comeBack (s : State) (a : Access) (bs : List Byte) (po : Bool) : State :=
  match a.grp with
  | some g => { s with groups := s.groups.map fun e => if e.id = g then e.take a.off bs po else e }
  | none => s

/-- A read-only line enters the cache (R177). -/
def State.roInstall (s : State) (c l : Nat) : State :=
  let (d, s) := s.draw
  let line : RoLine := ⟨l, readBytes s.mem l 64⟩
  s.updCore c fun k => { k with roc := installIn 1024 (Config.freeChoice d) (k.roc.filter fun e => decide (e.addr ≠ l)) line }

/-- An access to a quarter that was lost after the commit (R185): a read gives a poisoned 0, a write is not performed, and the first such
access sets the latch. -/
def State.lose (s : State) (a : Access) : State :=
  let s := s.updCx a.core a.ctx fun x => { x with dloss := match x.dloss with | some v => some v | none => some a.vaddr }
  s.comeBack a (List.replicate a.n 0) true

/-- A store at its home; the last word of a store that covers its whole line clears the line's poison (R174). -/
def State.storeHome (s : State) (a : Access) (p : Nat) (data : List (Option Byte)) : State :=
  let rest := s.accs.any fun e =>
    match e.place with
    | .phys q => decide (e.id ≠ a.id ∧ e.core = a.core ∧ e.ctx = a.ctx ∧ e.step = a.step ∧ q / 64 = p / 64) && !e.loads
    | .spad .. => false
  (s.poke p data (a.full && !rest)).watchPhys p a.n 2 a.agent

/-- An access to device control (R167): one aligned load or store of 8 bytes. -/
def State.performReg (s : State) (a : Access) (p : Nat) : State :=
  match blockAt p, a.op with
  | some (b, off), .store data => s.writeReg .device b off (wordOf (leNat (data.map fun d => d.getD 0)))
  | some (b, off), _ => s.comeBack a (leBytes 8 (s.readReg .device b off).toNat) false
  | none, .store _ => s
  | none, _ => s.comeBack a (List.replicate a.n 0) false

/-- The bytes that an access reads or writes: under a mask, its active byte lanes (R173, R174). -/
def State.touches (s : State) (a : Access) : Nat :=
  match a.op, a.grp.bind fun g => s.groups.find? fun e => decide (e.id = g) with
  | .store data, _ => (data.filter (·.isSome)).length
  | _, some g => ((List.range a.n).filter fun i => g.dest.active (a.off + i)).length
  | _, none => a.n

/-- The work of a context's access at a vault (R378). -/
def State.countAccess (s : State) (a : Access) (p : Nat) : State :=
  match (s.cx a.core a.ctx).task with
  | some t => s.countVault t p (s.touches a)
  | none => s

/-- An access performs at a byte address (R173, R174, R177, R184, R189). -/
def State.performPhys (s : State) (a : Access) (p : Nat) : State :=
  match s.roHit a with
  | some bs => s.comeBack a bs false
  | none =>
    if tierOf p = 3 then s.performReg a p
    else if s.lostAt p then s.lose a
    else
      let s := s.countAccess a p
      match a.op with
      | .load => let (bs, po) := s.peek p a.n; (s.watchPhys p a.n 1 a.agent).comeBack a bs po
      | .ro fill =>
        let (bs, po) := s.peek p a.n
        let s := (s.watchPhys p a.n 1 a.agent).comeBack a bs po
        if fill && !po then s.roInstall a.core (p / 64 * 64) else s
      | .store data => s.storeHome a p data
      | .amo op b c => let ((bs, po), s) := s.amoPhys op p a.n b c a.agent; s.comeBack a bs po

/-- An access performs at a scratchpad: a held local store, or a message (R154, R182). -/
def State.performSpad (s : State) (a : Access) (core off : Nat) : State :=
  match a.op with
  | .store data => s.spadStore core off data a.agent
  | _ => s

/-- The word of a callee that waits for a register has its value. -/
def Exec.answer (x : Exec) (call : Nat) (bs : List Byte) : Exec :=
  { x with slots := x.slots.map fun e => if e.2.id = call then (e.1, { e.2 with back := some bs }) else e }

/-- An access of a callee to device control (R167, R404). -/
def State.performCallReg (s : State) (t : CallStore) : State :=
  let at_ := blockAt t.addr
  if t.read then
    let bs := match at_ with | some (b, off) => leBytes 8 (s.readReg .device b off).toNat | none => List.replicate 8 0
    { s with vaultEx := s.vaultEx.map fun e => (e.1, e.2.answer t.call bs), hbmEx := s.hbmEx.map fun e => (e.1, e.2.answer t.call bs) }
  else match at_ with
    | some (b, off) => s.writeReg .device b off (wordOf (leNat t.data))
    | none => s

/-- A store of a callee performs at its home (R404). -/
def State.performCallStore (s : State) (t : CallStore) : State :=
  if tierOf t.addr = 3 then s.performCallReg t
  else if s.lostAt t.addr then s else (s.poke t.addr (t.data.map some) false).watchPhys t.addr t.data.length 2 t.agent

/-- A callee's stores to one word perform in the order of its words. -/
def State.callStoreFirst (s : State) (t : CallStore) : Bool :=
  !s.callStores.any fun u => decide (u.call = t.call ∧ u.id < t.id) && sharesWord u.addr u.data.length t.addr t.data.length

/-- ACCESS_PERFORM: the access with this identifier, the callee's store, or the beat of a copy. -/
def execAccessPerform (id : Nat) (s : State) : Res' :=
  match s.accs.find? (fun a => decide (a.id = id)), s.callStores.find? (fun t => decide (t.id = id)) with
  | some a, _ =>
    runEvent (s.running && s.canPerform a)
      (fun s =>
        let t := match a.place with
          | .phys p => s.performPhys a p
          | .spad c o => s.performSpad a c o
        { t with accs := t.accs.filter fun e => decide (e.id ≠ id) }) s
  | none, some t =>
    runEvent (s.running && s.callStoreFirst t)
      (fun s => let u := s.performCallStore t; { u with callStores := u.callStores.filter fun e => decide (e.id ≠ id) }) s
  | none, none =>
    match s.beats.find? fun b => decide (b.id = id) with
    | some b => runEvent (s.running && s.beatReady b) (fun s => s.performBeat b) s
    | none => .next s

/-! ### Landing (R82, R83) -/

/-- A register's scoreboarded result is written and its mark clears. -/
def Ctx.landResult (x : Ctx) (step : Nat) (r : RegId) (v : RVal) (po : Bool) : Ctx := (x.write r v po).unmark r step

/-- Every result issued earlier to the registers has become visible. -/
def Ctx.ready (x : Ctx) (step : Nat) (regs : List RegId) : Bool := regs.all fun r => !x.earlierResult r step

def Group.bytes (g : Group) : List Byte := (List.range g.n).map fun i => g.got.get 0 i

/-- A result group lands: all its registers (R82). -/
def State.landGroup (s : State) (g : Group) : State :=
  let s := s.updCx g.core g.ctx fun x =>
    let x := (g.dest.results g.regs x g.bytes g.poison).foldl (fun x r => x.landResult g.step r.1 r.2.1 r.2.2) x
    g.regs.foldl (fun x r => x.unmark r g.step) x
  { s with groups := s.groups.filter fun e => decide (e.id ≠ g.id) }

/-- The value that a register receives, read from its unit as it lands (R387, R388). -/
def State.landValue (s : State) (l : Land) : RVal :=
  match l.val with
  | .val v => v
  | .bread n sel => .w (s.slotWord n sel)
  | .domget n sel => .w (s.domWord l.core l.ctx n sel)

def State.landOne (s : State) (l : Land) : State :=
  let v := s.landValue l
  let s := s.updCx l.core l.ctx fun x => x.landResult l.step l.reg v false
  { s with lands := s.lands.filter fun e => decide (e.id ≠ l.id) }

/-- RESULT_LAND: the group or the single result with this identifier. -/
def execResultLand (grp : Nat) (s : State) : Res' :=
  match s.groups.find? (fun g => decide (g.id = grp)), s.lands.find? (fun l => decide (l.id = grp)) with
  | some g, _ => runEvent (g.left == 0 && (s.cx g.core g.ctx).ready g.step g.regs) (fun s => s.landGroup g) s
  | none, some l => runEvent ((s.cx l.core l.ctx).ready l.step [l.reg]) (fun s => s.landOne l) s
  | none, none => .next s

end Sys2Proof.Machine
end

