-- ==== Sys2Proof/Machine/Dispatch.lean ====
section
/-! DEFINITION. The dispatcher: one arm for each constructor of `Instr`, each one call of that instruction's meaning. -/

namespace Sys2Proof.Machine

def exec (i : Instr) (s : State) : Host.Outcome State Fault Refusal :=
  match i with
  | .add d a b => Sys2Proof.Machine.execAdd d a b s
  | .sub d a b => Sys2Proof.Machine.execSub d a b s
  | .mul d a b => Sys2Proof.Machine.execMul d a b s
  | .mulh d a b => Sys2Proof.Machine.execMulh d a b s
  | .mulhu d a b => Sys2Proof.Machine.execMulhu d a b s
  | .div d a b => Sys2Proof.Machine.execDiv d a b s
  | .divu d a b => Sys2Proof.Machine.execDivu d a b s
  | .rem d a b => Sys2Proof.Machine.execRem d a b s
  | .remu d a b => Sys2Proof.Machine.execRemu d a b s
  | .min d a b => Sys2Proof.Machine.execMin d a b s
  | .max d a b => Sys2Proof.Machine.execMax d a b s
  | .minu d a b => Sys2Proof.Machine.execMinu d a b s
  | .maxu d a b => Sys2Proof.Machine.execMaxu d a b s
  | .and d a b => Sys2Proof.Machine.execAnd d a b s
  | .or d a b => Sys2Proof.Machine.execOr d a b s
  | .xor d a b => Sys2Proof.Machine.execXor d a b s
  | .andn d a b => Sys2Proof.Machine.execAndn d a b s
  | .shl d a b => Sys2Proof.Machine.execShl d a b s
  | .shr d a b => Sys2Proof.Machine.execShr d a b s
  | .sra d a b => Sys2Proof.Machine.execSra d a b s
  | .rotl d a b => Sys2Proof.Machine.execRotl d a b s
  | .clz d a => Sys2Proof.Machine.execClz d a s
  | .ctz d a => Sys2Proof.Machine.execCtz d a s
  | .popc d a => Sys2Proof.Machine.execPopc d a s
  | .bext d a pos len => Sys2Proof.Machine.execBext d a pos len s
  | .bins d a b pos len => Sys2Proof.Machine.execBins d a b pos len s
  | .sext d a w => Sys2Proof.Machine.execSext d a w s
  | .cmp cc d a b => Sys2Proof.Machine.execCmp cc d a b s
  | .pand d a b => Sys2Proof.Machine.execPand d a b s
  | .por d a b => Sys2Proof.Machine.execPor d a b s
  | .pxor d a b => Sys2Proof.Machine.execPxor d a b s
  | .pandn d a b => Sys2Proof.Machine.execPandn d a b s
  | .sel d c a b => Sys2Proof.Machine.execSel d c a b s
  | .hmix d a b => Sys2Proof.Machine.execHmix d a b s
  | .kvslot d a b => Sys2Proof.Machine.execKvslot d a b s
  | .addi d a imm => Sys2Proof.Machine.execAddi d a imm s
  | .andi d a imm => Sys2Proof.Machine.execAndi d a imm s
  | .ori d a imm => Sys2Proof.Machine.execOri d a imm s
  | .xori d a imm => Sys2Proof.Machine.execXori d a imm s
  | .shli d a n => Sys2Proof.Machine.execShli d a n s
  | .shri d a n => Sys2Proof.Machine.execShri d a n s
  | .srai d a n => Sys2Proof.Machine.execSrai d a n s
  | .cmpi cc d a imm => Sys2Proof.Machine.execCmpi cc d a imm s
  | .lih d imm => Sys2Proof.Machine.execLih d imm s
  | .lim d imm => Sys2Proof.Machine.execLim d imm s
  | .ctlr d num => Sys2Proof.Machine.execCtlr d num s
  | .ctlw num a => Sys2Proof.Machine.execCtlw num a s
  | .br off => Sys2Proof.Machine.execBr off s
  | .brr a => Sys2Proof.Machine.execBrr a s
  | .call off => Sys2Proof.Machine.execCall off s
  | .callr a => Sys2Proof.Machine.execCallr a s
  | .loop off => Sys2Proof.Machine.execLoop off s
  | .chk av a off => Sys2Proof.Machine.execChk av a off s
  | .vadd ty md d a b k => Sys2Proof.Machine.execVadd ty md d a b k s
  | .vsub ty md d a b k => Sys2Proof.Machine.execVsub ty md d a b k s
  | .vmul ty md d a b k => Sys2Proof.Machine.execVmul ty md d a b k s
  | .vfma ty md d a b c k => Sys2Proof.Machine.execVfma ty md d a b c k s
  | .vfms ty md d a b c k => Sys2Proof.Machine.execVfms ty md d a b c k s
  | .vfnma ty md d a b c k => Sys2Proof.Machine.execVfnma ty md d a b c k s
  | .vmin ty d a b k => Sys2Proof.Machine.execVmin ty d a b k s
  | .vmax ty d a b k => Sys2Proof.Machine.execVmax ty d a b k s
  | .vabs ty d a k => Sys2Proof.Machine.execVabs ty d a k s
  | .vneg ty d a k => Sys2Proof.Machine.execVneg ty d a k s
  | .vand ty d a b k => Sys2Proof.Machine.execVand ty d a b k s
  | .vor ty d a b k => Sys2Proof.Machine.execVor ty d a b k s
  | .vxor ty d a b k => Sys2Proof.Machine.execVxor ty d a b k s
  | .vshl ty d a b k => Sys2Proof.Machine.execVshl ty d a b k s
  | .vshr ty d a b k => Sys2Proof.Machine.execVshr ty d a b k s
  | .vsra ty d a b k => Sys2Proof.Machine.execVsra ty d a b k s
  | .vaddsat ty d a b k => Sys2Proof.Machine.execVaddsat ty d a b k s
  | .vsubsat ty d a b k => Sys2Proof.Machine.execVsubsat ty d a b k s
  | .vclamp ty d a b c k => Sys2Proof.Machine.execVclamp ty d a b c k s
  | .vexp2 ty d a k => Sys2Proof.Machine.execVexp2 ty d a k s
  | .vlog2 ty d a k => Sys2Proof.Machine.execVlog2 ty d a k s
  | .vrcp ty d a k => Sys2Proof.Machine.execVrcp ty d a k s
  | .vrsq ty d a k => Sys2Proof.Machine.execVrsq ty d a k s
  | .vcmp cc ty d a b k => Sys2Proof.Machine.execVcmp cc ty d a b k s
  | .kand d a b => Sys2Proof.Machine.execKand d a b s
  | .kor d a b => Sys2Proof.Machine.execKor d a b s
  | .kxor d a b => Sys2Proof.Machine.execKxor d a b s
  | .knot d a => Sys2Proof.Machine.execKnot d a s
  | .kpop ty d a => Sys2Proof.Machine.execKpop ty d a s
  | .vsel ty d a b k => Sys2Proof.Machine.execVsel ty d a b k s
  | .vbcast ty d a k => Sys2Proof.Machine.execVbcast ty d a k s
  | .vperm ty d a b k => Sys2Proof.Machine.execVperm ty d a b k s
  | .vshuf ty pat d a b k => Sys2Proof.Machine.execVshuf ty pat d a b k s
  | .vrot ty d a n k => Sys2Proof.Machine.execVrot ty d a n k s
  | .viota ty d a k => Sys2Proof.Machine.execViota ty d a k s
  | .vins ty d a lane => Sys2Proof.Machine.execVins ty d a lane s
  | .vext ty d a lane => Sys2Proof.Machine.execVext ty d a lane s
  | .vmov ty d a k => Sys2Proof.Machine.execVmov ty d a k s
  | .vred ty op d a k => Sys2Proof.Machine.execVred ty op d a k s
  | .vscan ty op d a k => Sys2Proof.Machine.execVscan ty op d a k s
  | .vcvt ty ty2 md d a part k => Sys2Proof.Machine.execVcvt ty ty2 md d a part k s
  | .vmxq ty2 md d c a part => Sys2Proof.Machine.execVmxq ty2 md d c a part s
  | .vmxdq ty2 d a c part => Sys2Proof.Machine.execVmxdq ty2 d a c part s
  | .talloc t a pl => Sys2Proof.Machine.execTalloc t a pl s
  | .tfree t pl => Sys2Proof.Machine.execTfree t pl s
  | .tzero t anchor => Sys2Proof.Machine.execTzero t anchor s
  | .tanchor t anchor => Sys2Proof.Machine.execTanchor t anchor s
  | .tload ty a b => Sys2Proof.Machine.execTload ty a b s
  | .tmm ty t va a b n row0 => Sys2Proof.Machine.execTmm ty t va a b n row0 s
  | .tdrain ty md t a row zr => Sys2Proof.Machine.execTdrain ty md t a row zr s
  | .tstat t a => Sys2Proof.Machine.execTstat t a s
  | .tprog t a w => Sys2Proof.Machine.execTprog t a w s
  | .tclr t => Sys2Proof.Machine.execTclr t s
  | .ld sz ord hint d ad => Sys2Proof.Machine.execLd sz ord hint d ad s
  | .ldS sz hint d ad => Sys2Proof.Machine.execLdS sz hint d ad s
  | .vld hint d ad k => Sys2Proof.Machine.execVld hint d ad k s
  | .vldS hint d ad k => Sys2Proof.Machine.execVldS hint d ad k s
  | .ldro sz hint d ad => Sys2Proof.Machine.execLdro sz hint d ad s
  | .vldro hint d ad k => Sys2Proof.Machine.execVldro hint d ad k s
  | .vldb w hint d ad part => Sys2Proof.Machine.execVldb w hint d ad part s
  | .ldx ord hint d ad => Sys2Proof.Machine.execLdx ord hint d ad s
  | .roinvAddr h a disp => Sys2Proof.Machine.execRoinvAddr h a disp s
  | .st sz ord hint d ad => Sys2Proof.Machine.execSt sz ord hint d ad s
  | .vst hint d ad k => Sys2Proof.Machine.execVst hint d ad k s
  | .vstb w hint d ad part => Sys2Proof.Machine.execVstb w hint d ad part s
  | .stx ord hint d ad => Sys2Proof.Machine.execStx ord hint d ad s
  | .send vec ord d a disp k => Sys2Proof.Machine.execSend vec ord d a disp k s
  | .amoAdd sz ord hint d ad b => Sys2Proof.Machine.execAmoAdd sz ord hint d ad b s
  | .amoMin sz ord hint d ad b => Sys2Proof.Machine.execAmoMin sz ord hint d ad b s
  | .amoMax sz ord hint d ad b => Sys2Proof.Machine.execAmoMax sz ord hint d ad b s
  | .amoMinu sz ord hint d ad b => Sys2Proof.Machine.execAmoMinu sz ord hint d ad b s
  | .amoMaxu sz ord hint d ad b => Sys2Proof.Machine.execAmoMaxu sz ord hint d ad b s
  | .amoAnd sz ord hint d ad b => Sys2Proof.Machine.execAmoAnd sz ord hint d ad b s
  | .amoOr sz ord hint d ad b => Sys2Proof.Machine.execAmoOr sz ord hint d ad b s
  | .amoXor sz ord hint d ad b => Sys2Proof.Machine.execAmoXor sz ord hint d ad b s
  | .amoSwap sz ord hint d ad b => Sys2Proof.Machine.execAmoSwap sz ord hint d ad b s
  | .amoCas sz ord hint d ad b c => Sys2Proof.Machine.execAmoCas sz ord hint d ad b c s
  | .amoFadd ty ord hint d ad b => Sys2Proof.Machine.execAmoFadd ty ord hint d ad b s
  | .push q a pd => Sys2Proof.Machine.execPush q a pd s
  | .xlat h a intent => Sys2Proof.Machine.execXlat h a intent s
  | .xlatS h a intent => Sys2Proof.Machine.execXlatS h a intent s
  | .hinfo b h word => Sys2Proof.Machine.execHinfo b h word s
  | .hrel h => Sys2Proof.Machine.execHrel h s
  | .tlbinv pd a b mode dev => Sys2Proof.Machine.execTlbinv pd a b mode dev s
  | .pgmig a b => Sys2Proof.Machine.execPgmig a b s
  | .rcall y h a fn smask rel nx xa xb => Sys2Proof.Machine.execRcall y h a fn smask rel nx xa xb s
  | .cpwm pd q a b => Sys2Proof.Machine.execCpwm pd q a b s
  | .cpwmq b q => Sys2Proof.Machine.execCpwmq b q s
  | .cpprog b q sel => Sys2Proof.Machine.execCpprog b q sel s
  | .xbswap pd a => Sys2Proof.Machine.execXbswap pd a s
  | .xbstat b a sel => Sys2Proof.Machine.execXbstat b a sel s
  | .xbretire pd a => Sys2Proof.Machine.execXbretire pd a s
  | .xbremap pd a b => Sys2Proof.Machine.execXbremap pd a b s
  | .xbcfg pd a b => Sys2Proof.Machine.execXbcfg pd a b s
  | .xbcolCoef b a => Sys2Proof.Machine.execXbcolCoef b a s
  | .xbcolClip b a => Sys2Proof.Machine.execXbcolClip b a s
  | .xbcolSet pd a b => Sys2Proof.Machine.execXbcolSet pd a b s
  | .xbcolClipclr b a => Sys2Proof.Machine.execXbcolClipclr b a s
  | .klaunch pd a lq => Sys2Proof.Machine.execKlaunch pd a lq s
  | .semwait n thr ord dec => Sys2Proof.Machine.execSemwait n thr ord dec s
  | .semsig n inc ord => Sys2Proof.Machine.execSemsig n inc ord s
  | .semset n a ord => Sys2Proof.Machine.execSemset n a ord s
  | .semget n a ord => Sys2Proof.Machine.execSemget n a ord s
  | .semtry n thr pd ord dec => Sys2Proof.Machine.execSemtry n thr pd ord dec s
  | .qlevel n min a pd => Sys2Proof.Machine.execQlevel n min a pd s
  | .fence sc => Sys2Proof.Machine.execFence sc s
  | .bsync n => Sys2Proof.Machine.execBsync n s
  | .barrive n => Sys2Proof.Machine.execBarrive n s
  | .bwait n pd => Sys2Proof.Machine.execBwait n pd s
  | .bstat n a => Sys2Proof.Machine.execBstat n a s
  | .bpost a pd => Sys2Proof.Machine.execBpost a pd s
  | .bread ord a sel => Sys2Proof.Machine.execBread ord a sel s
  | .domset n a => Sys2Proof.Machine.execDomset n a s
  | .domget n a sel => Sys2Proof.Machine.execDomget n a sel s
  | .gcancel a => Sys2Proof.Machine.execGcancel a s
  | .rwait ord y d pd trap => Sys2Proof.Machine.execRwait ord y d pd trap s
  | .rpoll y a pd => Sys2Proof.Machine.execRpoll y a pd s
  | .trap code => Sys2Proof.Machine.execTrap code s
  | .syscall code => Sys2Proof.Machine.execSyscall code s
  | .brk code => Sys2Proof.Machine.execBrk code s
  | .step pd a => Sys2Proof.Machine.execStep pd a s
  | .wset n a kinds dsel => Sys2Proof.Machine.execWset n a kinds dsel s
  | .wclr n => Sys2Proof.Machine.execWclr n s
  | .ctxfrz pd a => Sys2Proof.Machine.execCtxfrz pd a s
  | .ctxrun pd a => Sys2Proof.Machine.execCtxrun pd a s
  | .kfail retry => Sys2Proof.Machine.execKfail retry s
  | .kbudget a => Sys2Proof.Machine.execKbudget a s
  | .vendorDiagnostic opc d rest => Sys2Proof.Machine.execVendorDiagnostic opc d rest s
  | .contextUnblock c x => Sys2Proof.Machine.execContextUnblock c x s
  | .resultLand grp => Sys2Proof.Machine.execResultLand grp s
  | .trapEntry c x => Sys2Proof.Machine.execTrapEntry c x s
  | .accessPerform id => Sys2Proof.Machine.execAccessPerform id s
  | .guidonArrive c x => Sys2Proof.Machine.execGuidonArrive c x s
  | .walkComplete id => Sys2Proof.Machine.execWalkComplete id s
  | .walkBusyRestart id => Sys2Proof.Machine.execWalkBusyRestart id s
  | .revocationComplete id => Sys2Proof.Machine.execRevocationComplete id s
  | .pgmigMove id => Sys2Proof.Machine.execPgmigMove id s
  | .tileRowEnter c => Sys2Proof.Machine.execTileRowEnter c s
  | .tileRowApply c => Sys2Proof.Machine.execTileRowApply c s
  | .tloadComplete c => Sys2Proof.Machine.execTloadComplete c s
  | .tswapTakeEffect c => Sys2Proof.Machine.execTswapTakeEffect c s
  | .semaphoreGrant c => Sys2Proof.Machine.execSemaphoreGrant c s
  | .copyCommand c q => Sys2Proof.Machine.execCopyCommand c q s
  | .copyItem c q id => Sys2Proof.Machine.execCopyItem c q id s
  | .xbprog c q => Sys2Proof.Machine.execXbprog c q s
  | .xbprogRow c q id => Sys2Proof.Machine.execXbprogRow c q id s
  | .xbverify c q => Sys2Proof.Machine.execXbverify c q s
  | .xbcal c q => Sys2Proof.Machine.execXbcal c q s
  | .xbprobe c q => Sys2Proof.Machine.execXbprobe c q s
  | .xbmvm c q => Sys2Proof.Machine.execXbmvm c q s
  | .xbmvmVectorDelivery c q id => Sys2Proof.Machine.execXbmvmVectorDelivery c q id s
  | .xbswapTakeEffect c arr => Sys2Proof.Machine.execXbswapTakeEffect c arr s
  | .xbretireTakeEffect c arr => Sys2Proof.Machine.execXbretireTakeEffect c arr s
  | .vaultExecutorCommand c => Sys2Proof.Machine.execVaultExecutorCommand c s
  | .hostNotifyCommand c => Sys2Proof.Machine.execHostNotifyCommand c s
  | .commandEnd c q id => Sys2Proof.Machine.execCommandEnd c q id s
  | .callMessageArrive id => Sys2Proof.Machine.execCallMessageArrive id s
  | .callStart e => Sys2Proof.Machine.execCallStart e s
  | .remoteCallWord e slot => Sys2Proof.Machine.execRemoteCallWord e slot s
  | .callWordLimit e slot => Sys2Proof.Machine.execCallWordLimit e slot s
  | .callReplyArrive id => Sys2Proof.Machine.execCallReplyArrive id s
  | .completionNoticeSend id => Sys2Proof.Machine.execCompletionNoticeSend id s
  | .completionNoticeArrive id => Sys2Proof.Machine.execCompletionNoticeArrive id s
  | .callDeadline c x y => Sys2Proof.Machine.execCallDeadline c x y s
  | .barrierArrivalCounted id => Sys2Proof.Machine.execBarrierArrivalCounted id s
  | .barrierRelease id => Sys2Proof.Machine.execBarrierRelease id s
  | .barrierReleaseArrive id => Sys2Proof.Machine.execBarrierReleaseArrive id s
  | .ballotPostArrive id => Sys2Proof.Machine.execBallotPostArrive id s
  | .gcancelRequestArrive id => Sys2Proof.Machine.execGcancelRequestArrive id s
  | .endNoticeArrive id => Sys2Proof.Machine.execEndNoticeArrive id s
  | .pennantArrive c x => Sys2Proof.Machine.execPennantArrive c x s
  | .cancellationStop c x => Sys2Proof.Machine.execCancellationStop c x s
  | .graceExpiry c x => Sys2Proof.Machine.execGraceExpiry c x s
  | .groupReclaim slot sib => Sys2Proof.Machine.execGroupReclaim slot sib s
  | .ballotSlotFree slot => Sys2Proof.Machine.execBallotSlotFree slot s
  | .launchRecordWrite off size words => Sys2Proof.Machine.execLaunchRecordWrite off size words s
  | .preload c lq seq => Sys2Proof.Machine.execPreload c lq seq s
  | .taskSave t => Sys2Proof.Machine.execTaskSave t s
  | .taskResume t => Sys2Proof.Machine.execTaskResume t s
  | .budgetExpiry t => Sys2Proof.Machine.execBudgetExpiry t s
  | .taskEnd t => Sys2Proof.Machine.execTaskEnd t s
  | .registerWrite agent blk off val => Sys2Proof.Machine.execRegisterWrite agent blk off val s
  | .hostMemoryAccess write off n data => Sys2Proof.Machine.execHostMemoryAccess write off n data s
  | .halyardSteer c n => Sys2Proof.Machine.execHalyardSteer c n s
  | .halyardFailure c n => Sys2Proof.Machine.execHalyardFailure c n s
  | .quiescePoint c => Sys2Proof.Machine.execQuiescePoint c s
  | .linkTrainingDone l lanes chip => Sys2Proof.Machine.execLinkTrainingDone l lanes chip s
  | .flitReceive l f => Sys2Proof.Machine.execFlitReceive l f s
  | .monitorSample n x => Sys2Proof.Machine.execMonitorSample n x s
  | .thermalTrip point code => Sys2Proof.Machine.execThermalTrip point code s
  | .freezeArrive c x => Sys2Proof.Machine.execFreezeArrive c x s
  | .capWindow avg => Sys2Proof.Machine.execCapWindow avg s
  | .ctxctlResume c x => Sys2Proof.Machine.execCtxctlResume c x s
  | .ctxctlKill c x => Sys2Proof.Machine.execCtxctlKill c x s
  | .halyardErrorRateHigh c n => Sys2Proof.Machine.execHalyardErrorRateHigh c n s
  | .halyardRateWindow c n => Sys2Proof.Machine.execHalyardRateWindow c n s
  | .halyardRetire c n => Sys2Proof.Machine.execHalyardRetire c n s
  | .linkEnable l => Sys2Proof.Machine.execLinkEnable l s
  | .linkDisable l => Sys2Proof.Machine.execLinkDisable l s
  | .linkTrainingTimeout l => Sys2Proof.Machine.execLinkTrainingTimeout l s
  | .laneFault l lane => Sys2Proof.Machine.execLaneFault l lane s
  | .linkRepair l => Sys2Proof.Machine.execLinkRepair l s
  | .nop => Sys2Proof.Machine.execNop s
  | .ret => Sys2Proof.Machine.execRet s
  | .tswap => Sys2Proof.Machine.execTswap s
  | .roinvAll => Sys2Proof.Machine.execRoinvAll s
  | .drain => Sys2Proof.Machine.execDrain s
  | .ccp => Sys2Proof.Machine.execCcp s
  | .handlerReturn => Sys2Proof.Machine.execHandlerReturn s
  | .rte => Sys2Proof.Machine.execRte s
  | .kdone => Sys2Proof.Machine.execKdone s
  | .upcall => Sys2Proof.Machine.execUpcall s
  | .launchRecordAccept => Sys2Proof.Machine.execLaunchRecordAccept s
  | .dispatch => Sys2Proof.Machine.execDispatch s
  | .completionRecordWrite => Sys2Proof.Machine.execCompletionRecordWrite s
  | .monctlStart => Sys2Proof.Machine.execMonctlStart s
  | .mailboxPower => Sys2Proof.Machine.execMailboxPower s
  | .mailboxCap => Sys2Proof.Machine.execMailboxCap s
  | .mailboxAttest => Sys2Proof.Machine.execMailboxAttest s
  | .mailboxVerify => Sys2Proof.Machine.execMailboxVerify s
  | .mailboxResetDevice => Sys2Proof.Machine.execMailboxResetDevice s
  | .mailboxResetCore => Sys2Proof.Machine.execMailboxResetCore s
  | .mailboxFwload => Sys2Proof.Machine.execMailboxFwload s
  | .mailboxInvalidOp => Sys2Proof.Machine.execMailboxInvalidOp s
  | .thermalTripRelease => Sys2Proof.Machine.execThermalTripRelease s
  | .powerUp => Sys2Proof.Machine.execPowerUp s
  | .mailboxCommandDone => Sys2Proof.Machine.execMailboxCommandDone s

end Sys2Proof.Machine
end

