-- ==== Sys2Proof/Machine/Cycle.lean ====
section
/-! DEFINITION. The end of a core-clock cycle, what must happen before a context issues, and the turn that the model takes where its
agenda names none (log entry 3). -/

namespace Sys2Proof.Machine

/-- The events of the management plane: the mailbox with its commands, the trip, the cap, the monitor points, and the host's writes to the
registers of R434 and R440. -/
def ofManagement : Instr → Bool
  | .mailboxPower | .mailboxCap | .mailboxAttest | .mailboxVerify | .mailboxResetDevice | .mailboxResetCore | .mailboxFwload | .mailboxInvalidOp
  | .mailboxCommandDone | .thermalTrip .. | .thermalTripRelease | .capWindow _ | .monitorSample .. | .monctlStart => true
  | .registerWrite _ .io off _ => isMgmt off
  | _ => false

/-- An event can run in the power state (R25, R26): nothing but POWER_UP in OFF, only the management plane in STANDBY and in IDLE, where no core,
mesh, engine or link is clocked. -/
def State.powered (s : State) (i : Instr) : Bool :=
  match s.mg.power with
  | .off => decide (i = .powerUp)
  | .standby | .idle => ofManagement i
  | _ => true

/-- What the end of a cycle does in one core: the semaphore unit's sweep, the tiles of ended contexts, the start of placed tasks and the
grace counts, the context that the issue unit takes. -/
def Core.tick (k : Core) (cycle : Nat) : Core :=
  let k := (k.semTick cycle).freeEnded
  Core.takeNext { k with ctx := k.ctx.map fun f => (f.1, f.2.tick cycle) }

/-- The end of a core-clock cycle. -/
def State.tick (s : State) : State :=
  let s := if s.running then
      let s := s.groupTick.takeFlits
      let s : State := { s with
        cycle := s.cycle + 1
        begun := false
        tasks := s.tasks.map fun e => (e.1, e.2.map s.tickTask)
        cores := s.cores.map fun e => (e.1, e.2.tick s.cycle) }
      { s with accs := s.accs.map s.letGo }
    else s
  let later := s.now + s.period
  if !s.counts then s
  else if s.now / 36000 = later / 36000 ∨ s.mg.clamps.isEmpty then { s with now := later }
  else { s with now := later, mg := s.mg.sampleClamps }

/-- What comes before the next bundle of a context: a guidon or a freeze whose cycle has come, the end of its grace, the cause BUDGET, a
stop, a waiting cause (R314, R329, R331, R344, R373, R374). -/
def State.dueFirst (s : State) (c x : Nat) : Option Instr :=
  let y := s.cx c x
  if (s.dueGuidon c x).isSome then some (.guidonArrive c x)
  else if (s.dueFreeze c x).isSome then some (.freezeArrive c x)
  else if y.canreq && y.live && decide (s.grace ≤ y.grace) then some (.graceExpiry c x)
  else match y.task.filter fun t => (s.tasks.get none t).any fun k => k.expired && !k.saved with
    | some t => some (.budgetExpiry t)
    | none =>
      if y.stopDue then some (.cancellationStop c x)
      else if y.asyncPending then some (.trapEntry c x)
      else none

/-! ### The default turn -/

/-- The events that fall on a bundle boundary, of the contexts that the state lists. -/
def State.boundaryEvents (s : State) : List Instr :=
  s.cores.flatMap fun e => e.2.ctx.flatMap fun f => (s.dueFirst e.1 f.1).toList

/-- The start of a crossbar command by its operation. -/
def startEvent (c q : Nat) (m : Cmd) : Instr :=
  match m.xop with
  | 1 => .xbverify c q
  | 2 => .xbcal c q
  | 3 => .xbprobe c q
  | 4 => .xbmvm c q
  | _ => .xbprog c q

/-- What a started crossbar command does at a time that R292 fixes. -/
def xbFixed (c q now : Nat) (m : Cmd) : List Instr :=
  if m.st ≠ 1 then []
  else (match m.xop with
    | 0 => if m.rowDue now || m.readFixed now then [.xbprogRow c q m.id] else []
    | 1 => if m.rowDue now || m.readFixed now then [.xbverify c q] else []
    | 4 => (if m.readFixed now then [.xbmvm c q] else []) ++ [.xbmvmVectorDelivery c q m.id]
    | _ => []) ++ [.commandEnd c q m.id]

/-- The crossbar sequencer's events of a cycle: swaps and retirements, what started commands do, their records, and the start of a stream's
next command (R236, R292, R295, R300). -/
def Core.xbEvents (c now cycle : Nat) (k : Core) : List Instr :=
  ((k.xb.filter fun a => a.2.swapPend || a.2.retPend).flatMap fun a => [.xbswapTakeEffect c a.1, .xbretireTakeEffect c a.1]) ++
    [4, 5].flatMap fun q =>
      ((k.queue q).cmds.flatMap fun m => if m.st = 2 then [.commandEnd c q m.id] else xbFixed c q now m) ++
        (k.starts q cycle).toList.map (startEvent c q)

/-- The semaphore unit's events of a cycle: the signals, in ascending queue number, then the sweep (R236, R238), and the start checks of the
commands whose waits it has granted (R234). -/
def Core.semEvents (c : Nat) (k : Core) : List Instr :=
  (k.queues.flatMap fun u => (u.2.cmds.filter fun m => decide (m.st = 3)).map fun m => .commandEnd c u.1 m.id) ++
    (if k.armed.isEmpty && [4, 5].all (fun q => (k.head q).isNone) then [] else [.semaphoreGrant c]) ++
    k.queues.flatMap fun u =>
      if u.2.cmds.any (·.unchecked) then (if u.1 < 4 then [.copyCommand c u.1] else if u.1 = 6 then [.vaultExecutorCommand c] else [.hostNotifyCommand c])
      else []

/-- The events of a core that the specification fixes to a cycle: the matrix unit's and the end of a context's block (R92, R152), the crossbar
sequencer's and the semaphore unit's. -/
def Core.fixedEvents (c now cycle : Nat) (k : Core) : List Instr :=
  [.tileRowApply c, .tswapTakeEffect c, .tloadComplete c, .tileRowEnter c] ++ (k.ctx.map fun f => .contextUnblock c f.1) ++
    k.xbEvents c now cycle ++ k.semEvents c

/-- What a message leads to. -/
def InMsg.event (m : InMsg) : List Instr :=
  match m.msg with
  | .call .. => [.callMessageArrive m.id]
  | .reply .. => [.callReplyArrive m.id]
  | .notice .. => [.completionNoticeArrive m.id]
  | .post .. => [.ballotPostArrive m.id]
  | .gcancel .. => [.gcancelRequestArrive m.id]
  | .endNotice .. => [.endNoticeArrive m.id]
  | .pennant c x _ => [.pennantArrive c x]
  | .arrival .. => [.barrierArrivalCounted m.id]
  | .release .. => [.barrierReleaseArrive m.id]
  | .guidon c x .. => [.guidonArrive c x]
  | .freeze c x _ => [.freezeArrive c x]

/-- The cycles within which a release reaches its members (R356): by the level of the fixed domain or of the custom domain; across chips with
1,500 ns for each of at most 3 hops (R423, R424). -/
def State.releaseBound (s : State) (bar : Nat) : Nat :=
  let d := s.dom bar
  let level := if bar < 64 then d.level else (bar - 64) / 128 % 4
  ([20, 60, 120].getD level 400) + (if bar < 64 ∧ s.multi d then ceilDiv (3 * 1500 * 36) s.period else 0)

/-- The cycles within which a post, a cancellation request or an end notice reaches its slot (R372, R383, R384). -/
def postBound (slot core : Nat) : Nat := if dieOf core = slot / 32 then 60 else 200

/-- The core of the sibling that an end notice names. -/
def State.noticeBound (s : State) (slot sib : Nat) : Nat :=
  match (s.slot slot).bind fun b => s.sibling b.launch sib with
  | some e => postBound slot e.2.core
  | none => 200

/-- The cycles within which the pennant reaches a context (R371). -/
def State.pennantBound (s : State) (core task : Nat) : Nat :=
  match ((s.tasks.get none task).bind fun t => s.launches.get none t.launch).bind (·.ballot) with
  | some slot => if dieOf core = slot / 32 then 120 else 400
  | none => 400

/-- The cycle at whose end a message has arrived, where the specification bounds it, and its place among the messages of a cycle at a ballot
unit (R369). -/
def State.dueBy (s : State) (m : InMsg) : Option (Nat × Nat) :=
  match m.msg with
  | .post slot sib _ c .. => some (m.at_ + postBound slot c, sib)
  | .gcancel slot c _ => some (m.at_ + postBound slot c, 64)
  | .endNotice slot sib => some (m.at_ + s.noticeBound slot sib, 65)
  | .pennant c _ t => some (m.at_ + s.pennantBound c t, 0)
  | .release bar .. => some (m.at_ + s.releaseBound bar, 0)
  | _ => none

/-- A place in the order of a ballot unit goes before those behind it. -/
def insertPlace (e : Nat × Instr) : List (Nat × Instr) → List (Nat × Instr)
  | [] => [e]
  | f :: r => if f.1 < e.1 then f :: insertPlace e r else e :: f :: r

/-- The arrivals that the bounds of the messages leave no later cycle (R356, R371, R372, R383). -/
def State.lastArrivals (s : State) : List Instr :=
  ((s.msgs.flatMap fun m => match s.dueBy m with
    | some (t, p) => if t ≤ s.cycle then m.event.map fun i => (p, i) else []
    | none => []).foldr insertPlace []).map (·.2)

/-- The events that the specification fixes to a cycle, of what the state lists: those of the cores, and the messages whose bound ends; a held
local store performs in the cycle after it is let go (R191 constraint 2). -/
def State.fixedEvents (s : State) : List Instr :=
  (s.cores.flatMap fun e => e.2.fixedEvents e.1 s.now s.cycle) ++
    ((s.accs.filter fun a => a.isLocal && a.behind.isEmpty).map fun a => .accessPerform a.id) ++ s.lastArrivals

/-- What a command of a queue may do. -/
def cmdEvents (c q : Nat) (m : Cmd) : List Instr :=
  if m.st = 0 then
    if q < 4 then [.copyCommand c q]
    else if q < 6 then [.xbprog c q, .xbverify c q, .xbcal c q, .xbprobe c q, .xbmvm c q]
    else if q = 6 then [.vaultExecutorCommand c]
    else [.hostNotifyCommand c]
  else if m.st = 1 then
    if q < 4 then [.copyItem c q m.id, .commandEnd c q m.id]
    else if q < 6 then [.xbprogRow c q m.id, .xbverify c q, .xbmvm c q, .xbmvmVectorDelivery c q m.id, .commandEnd c q m.id]
    else if q = 6 then [.commandEnd c q m.id]
    else [.hostNotifyCommand c, .commandEnd c q m.id]
  else [.commandEnd c q m.id]

def execEvents (e : ExecId) (x : Exec) : List Instr :=
  .callStart e :: x.slots.flatMap fun t => [.remoteCallWord e t.1, .callWordLimit e t.1]

/-- The events of a core whose time is open. -/
def Core.openEvents (c : Nat) (k : Core) : List Instr :=
  (k.queues.flatMap fun u => u.2.cmds.flatMap fun m => cmdEvents c u.1 m) ++
    (k.ctx.flatMap fun f => f.2.y.map fun r => .callDeadline c f.1 r.1)

/-- The events whose time is open, of what the state lists: none that needs a choice or data from outside. -/
def State.openEvents (s : State) : List Instr :=
  s.accs.map (fun a => .accessPerform a.id) ++ s.callStores.map (fun t => .accessPerform t.id) ++ s.beats.map (fun b => .accessPerform b.id) ++
    s.groups.map (fun g => .resultLand g.id) ++ s.lands.map (fun l => .resultLand l.id) ++
    s.walks.flatMap (fun w => [.walkComplete w.id, .walkBusyRestart w.id]) ++
    s.migs.flatMap (fun m => [.walkComplete m.id, .walkBusyRestart m.id, .pgmigMove m.id]) ++
    s.revokes.map (fun r => .revocationComplete r.id) ++
    s.msgs.flatMap InMsg.event ++
    s.cores.flatMap (fun e => Core.openEvents e.1 e.2) ++
    s.vaultEx.flatMap (fun e => execEvents (.vault e.1) e.2) ++ s.hbmEx.flatMap (fun e => execEvents (.hbm e.1) e.2) ++
    s.pendCalls.map (fun e => .completionNoticeSend e.1) ++
    s.bars.map (fun b => .barrierRelease b.1) ++
    s.ballots.flatMap (fun b => (match b.2 with | some v => v.cancelled | none => []).map (Instr.groupReclaim b.1) ++ [.ballotSlotFree b.1]) ++
    s.tasks.flatMap (fun t => [.taskSave t.1, .taskResume t.1, .taskEnd t.1]) ++
    [.completionRecordWrite, .launchRecordAccept, .dispatch, .mailboxPower, .mailboxCap, .mailboxAttest, .mailboxVerify, .mailboxResetDevice,
      .mailboxResetCore, .mailboxFwload, .mailboxInvalidOp, .mailboxCommandDone]

/-- The event can run and changes the state. -/
def State.changes (s : State) (i : Instr) : Bool :=
  s.powered i && match exec i s with
  | .next t => decide (t ≠ s)
  | _ => false

/-- What comes first in a cycle: an event at a bundle boundary, then the issues (R77, R92). -/
def State.firstTurn (s : State) : Option Turn :=
  match s.boundaryEvents.find? s.changes with
  | some i => some (.event i)
  | none => (s.cores.find? fun e => s.canIssue e.1).map fun e => .issue e.1

/-- What a cycle brings for certain: what comes first in it, then the events fixed to it. -/
def State.fixedTurn (s : State) : Option Turn :=
  match s.firstTurn with
  | some t => some t
  | none => (s.fixedEvents.find? s.changes).map .event

/-- The turn taken where the agenda names none: what the cycle brings for certain, then an event whose time is open, then the end of the
cycle. -/
def State.defaultTurn (s : State) : Turn :=
  match s.fixedTurn with
  | some t => t
  | none =>
    match s.openEvents.find? s.changes with
    | some i => .event i
    | none => .tick

end Sys2Proof.Machine
end

