-- ==== Sys2Proof/Machine/Bundle.lean ====
section
/-! DEFINITION. The issue of a bundle by the issue unit: the slots in slot order through the dispatcher (R78, R85), and the turn of a
core. -/

namespace Sys2Proof.Machine

/-- The slots of the bundle in progress, in slot order: each decode fault is a verdict, each instruction runs. Loads stand in slot 4
before the stores of slot 5, so no load sees a store of its bundle (R85). -/
def runSlots : List (Nat × Except DecodeErr (Guard × Instr)) → State → Host.Outcome State Fault Refusal
  | [], s => .next s
  | (n, .error e) :: r, s => runSlots r (({ s with iss := { s.iss with slot := n } } : State).verdict (.decode (decodeCause e)))
  | (n, .ok (g, i)) :: r, s =>
    match exec i { s with iss := { s.iss with slot := n, guard := g } } with
    | .next t => runSlots r t
    | .fault f => .fault f
    | .refused f => .refused f

/-- The bundle at the fetch sequence's head of the context that issues (R51, R78). -/
def issueBundle (s : State) : Host.Outcome State Fault Refusal :=
  let s := s.visible
  let c := s.iss.core
  let x := s.iss.ctx
  if s.fetchOk c x then
    match runSlots (s.bundle c x) (s.openBundle 0 (s.bundleWords c x) ⟨false, 0⟩) with
    | .next t => .next (closeBundle s t)
    | .fault f => .fault f
    | .refused f => .refused f
  else .next (s.trap c x 1 0xFF (some (wordOf s.me.f0)))

/-- The bundle of a FROZEN context is held by R316: nothing has committed, blocked or faulted, and the `step` goes on in the next cycle. -/
def State.pipeHeld (s t : State) (c x : Nat) : Bool :=
  decide ((t.cx c x).st = (s.cx c x).st ∧ (t.cx c x).step = (s.cx c x).step) && !(t.cx c x).stepTrap && !(t.cx c x).inflight.isEmpty

/-- One cycle of a `step` of a FROZEN context (R332). -/
def stepCtx (c x : Nat) (s : State) : Host.Outcome State Fault Refusal :=
  let s := { s with iss := { s.iss with core := c, ctx := x, stepping := true } }
  let n := (s.cx c x).step
  if (s.cx c x).causePending then .next (s.endStep c x n)
  else
    match issueBundle (s.updCx c x Ctx.reinject) with
    | .next t =>
      .next (if s.pipeHeld t c x then { t with iss := { t.iss with stepping := false } }.noteIssue c x else (t.endStep c x n).noteIssue c x)
    | .fault f => .fault f
    | .refused f => .refused f

/-- The turn of a core's issue unit (R77, R91, R92): a `step` in progress, or the context it picks; what is due before its bundle comes
first. Where nothing can issue, nothing happens. -/
def issueCore (c : Nat) (s : State) : Host.Outcome State Fault Refusal :=
  if s.canIssue c then
    match (s.core c).stepping, (s.core c).pick s.cycle with
    | some x, _ => stepCtx c x s
    | none, some x =>
      match s.dueFirst c x with
      | some i => exec i s
      | none =>
        match issueBundle (s.select c x) with
        | .next t => .next (t.noteIssue c x)
        | .fault f => .fault f
        | .refused f => .refused f
    | none, none => .next s
  else .next s

/-- An instruction of a slot, which only the issue unit runs; every other constructor is an event. -/
def isSlotInstr (i : Instr) : Bool := (encode ⟨false, 0⟩ i).isSome

/-- An event at a bundle boundary of one context: it comes before the bundles of its cycle. -/
def atBoundary : Instr → Bool
  | .guidonArrive .. | .freezeArrive .. | .graceExpiry .. | .budgetExpiry .. | .cancellationStop .. | .trapEntry .. => true
  | _ => false

/-- After an event that stands at no bundle boundary, no bundle issues in the cycle any more: an issue sees the state as it stood at the start
of its cycle (R92). -/
def noteEvent (i : Instr) : Host.Outcome State Fault Refusal → Host.Outcome State Fault Refusal
  | .next t => .next { t with begun := t.begun || !atBoundary i }
  | .fault f => .fault f
  | .refused f => .refused f

/-- One turn: an event, where the power state lets it run (R25, R26), the issue of a core, or the end of a cycle. -/
def runTurn (t : Turn) (s : State) : Host.Outcome State Fault Refusal :=
  match t with
  | .event i => if isSlotInstr i || !s.powered i then .next s else noteEvent i (exec i s)
  | .issue c => issueCore c s
  | .tick => .next s.tick

/-- What must come before a turn that the agenda names: an event at no bundle boundary and the end of the cycle wait for what the cycle brings
for certain (R77, R92, R205, R292). -/
def State.dueBefore (s : State) : Turn → Option Turn
  | .event i => if isSlotInstr i || atBoundary i then none else s.fixedTurn
  | .issue _ => none
  | .tick => s.fixedTurn

/-- The state in which a word runs as the first instruction (the host's `withFetchWord`, log entry 2): operating point A2, context 0 of
core 0 RUNNING in KERNEL mode as the one context of a task whose text starts at bundle address 0, the word in the slot that is
its home, the rest of the bundle `nop`, and the issue of core 0 as the next turn. -/
def placeWord (s : State) (w : Nat) : State :=
  let k := s.core 0
  let y : Ctx := { k.ctx.get {} 0 with st := .running, task := some 0, f0 := 0, f1 := 64, f2 := 128, f3 := 192 }
  let img : Image := { textLen := 64, tiles := 8, banks := 15, handles := 16, queues := 255, semLo := 0, semHi := 255, xbarrays := 2 ^ 32 - 1 }
  let t : Task := { launch := 0, core := 0, ctxs := [0], img := img, tiles := [0, 1, 2, 3, 4, 5, 6, 7], tb := 0 }
  let l : Launch := { seq := 0, lq := 0, words := List.replicate 16 0, kid := 0, cls := 0, img := img, tasks := [0] }
  { s with
    agenda := [.issue 0]
    begun := false
    mg := { s.mg with power := .a2 }
    tasks := s.tasks.put none 0 (some t)
    launches := s.launches.put none 0 (some l)
    cores := s.cores.put {} 0 { k with
      inReset := false, cur := some 0, lastCtx := none, ctx := k.ctx.put {} 0 y
      imem := writeBytes (k.imem.clear 0 64) (8 * homeSlot w) (leBytes 8 w) } }

end Sys2Proof.Machine
end

