-- ==== Sys2Proof/Machine/Step.lean ====
section
/-! DEFINITION. One step of the device: the oldest turn of the agenda or what must come before it, or the default turn where the agenda is
empty. -/

namespace Sys2Proof.Machine

/-- One step. -/
def step (s : State) : Host.Outcome State Fault Refusal :=
  match s.agenda with
  | t :: r =>
    match s.dueBefore t with
    | some u => runTurn u s
    | none => runTurn t { s with agenda := r }
  | [] => runTurn s.defaultTurn s

/-- `s` with an instruction word where the next step issues it. A slot word is 64 bits, whatever number of bits is named. -/
def State.withFetchWord (s : State) (_nbits w : Nat) : State := placeWord s w

end Sys2Proof.Machine
end

