-- ==== Sys2Proof/Safety.lean ====
section
/-! DEFINITION. The terms that claims use: the state a bundle of one word sees, the state after it commits, faults or blocks, the
conditions under which it issues, and what is called a well-formed state. -/

namespace Sys2Proof.Machine

/-! ### A bundle that holds one instruction (R78) -/

/-- The state that the word of such a bundle sees: the results due at its step are visible (R81), its guard is 1. -/
def State.opened (s : State) (home : Nat) : State := s.visible.openBundle home 1 ⟨false, 0⟩

/-- The state after the bundle commits with the effect `f` of its word (R76, R84, R86). -/
def State.done (s : State) (home : Nat) (f : State → State) : State := (f (s.opened home)).commit s.visible.me

/-- The state after the word raises an execution fault: nothing commits, the trap is taken (R84, R313). -/
def State.faulted (s : State) (home cause : Nat) (bad : Option Word) : State :=
  s.visible.closed.trap s.iss.core s.iss.ctx cause (2 ^ home) bad

/-- The state after the bundle blocks (R79, R89). -/
def State.blocked (s : State) (ws : List Wait) : State := s.visible.closed.block ws

/-- The bundle can issue: none is in progress, no `bsync` holds the context, and no register that the word names is pending from an
earlier bundle (R79, R82). -/
structure State.Issues (s : State) (names : Ctx → List RegId) : Prop where
  alone : s.iss.opened = false
  unheld : s.me.syncHold = none
  ready : ∀ r ∈ RegId.p 0 :: names s.visible.me, ∀ e ∈ s.me.pend, e.1 = r → s.me.step ≤ e.2

/-- None of the conditions holds the bundle (R79, R92). -/
def State.Clear (s : State) (home : Nat) (ws : List Wait) : Prop :=
  ∀ w ∈ ws, (s.opened home).holds s.iss.core s.iss.ctx w = false

/-- The result of a register write that the bundle issues: the register, its value, its latency (R80, R81). -/
def State.result (s : State) (home : Nat) (reg : RegId) (val : RVal) (lat : Nat) (poison : Bool := false) (flags : FlagBits := 0) : Res :=
  ⟨reg, val, poison, flags, s.me.step + lat, home, s.me.step, s.me.pstep⟩

/-- Results go in flight. -/
def Ctx.launch (x : Ctx) (rs : List Res) : Ctx := { x with inflight := x.inflight ++ rs }

/-- The state after a bundle that only puts results in flight: the fetch sequence and the step advance, and nothing else changes but the
record of the commit and the kernel bundle count of the task (R76, R86, R378). -/
def State.afterResults (s : State) (rs : List Res) : State :=
  (s.visible.closed.updMe fun y => (y.launch rs).advance none s.cycle).countBundle s.visible.me

/-- No STEP trap follows the bundle (R333). -/
def State.NoStep (s : State) : Prop := s.visible.me.sstep = false ∨ s.me.inTrap = true

/-! ### Well-formed states -/

/-- The memory of the device, the host's memory and the poison marks are in canonical form. -/
def State.memWf (s : State) : Bool :=
  s.mem.wf 0 && s.host.wf 0 && s.poison.wf false && s.empty.wf false

end Sys2Proof.Machine
end

