-- ==== Sys2Proof/Certificates/Slice0/Obligations.lean ====
section
/-! DEFINITION. The statements about the model. `Claims` holds the shapes that several statements share; every statement is a
`def Obligations.<Name> : Prop`. -/

namespace Sys2Proof.Claims

open Sys2Proof.Machine

/-! ### Shapes -/

/-- `i d a b` writes `f` of the values of two scalars, with latency `lat`, poison the OR of theirs, and no flag (R95, R97). -/
def Scalar2 (i : Nat → Nat → Nat → Instr) (lat : Nat) (f : Word → Word → Word) : Prop :=
  ∀ (s : State) (d a b : Nat), s.Issues (fun x => [x.sReg d, x.sReg a, x.sReg b]) →
    exec (i d a b) s = .next (s.done 0 fun t =>
      t.emitS d (f (s.visible.rs a).val (s.visible.rs b).val) lat ((s.visible.rs a).poison || (s.visible.rs b).poison))

/-- As `Scalar2`, with flags, which a poisoned source suppresses (R95, R98). -/
def Scalar2Flags (i : Nat → Nat → Nat → Instr) (lat : Nat) (f : Word → Word → Word) (g : Word → Word → FlagBits) : Prop :=
  ∀ (s : State) (d a b : Nat), s.Issues (fun x => [x.sReg d, x.sReg a, x.sReg b]) →
    let u := s.visible.rs a
    let v := s.visible.rs b
    exec (i d a b) s = .next (s.done 0 fun t =>
      t.emitS d (f u.val v.val) lat (u.poison || v.poison) (if u.poison || v.poison then 0 else g u.val v.val))

/-- `i d a` writes `f` of the value of one scalar, one step later, and keeps its poison bit (R95). -/
def Scalar1 (i : Nat → Nat → Instr) (f : Word → Word) : Prop :=
  ∀ (s : State) (d a : Nat), s.Issues (fun x => [x.sReg d, x.sReg a]) →
    exec (i d a) s = .next (s.done 0 fun t => t.emitS d (f (s.visible.rs a).val) 1 (s.visible.rs a).poison)

/-- `i d a b` writes `f` of two predicates, one step later (R101). -/
def Predicate2 (i : Nat → Nat → Nat → Instr) (f : Bool → Bool → Bool) : Prop :=
  ∀ (s : State) (d a b : Nat), s.Issues (fun x => [x.pReg d, x.pReg a, x.pReg b]) →
    exec (i d a b) s = .next (s.done 0 fun t => t.emitP d (f (s.visible.me.readP a) (s.visible.me.readP b)))

/-- The truth of a condition on two words, signed conditions in two's complement (R100). -/
def truth (cc : CC) (a b : Word) : Prop :=
  match cc with
  | .eq => a = b
  | .ne => a ≠ b
  | .lt => a.toInt < b.toInt
  | .le => a.toInt ≤ b.toInt
  | .gt => b.toInt < a.toInt
  | .ge => b.toInt ≤ a.toInt
  | .ltu => a.toNat < b.toNat
  | .leu => a.toNat ≤ b.toNat
  | .gtu => b.toNat < a.toNat
  | .geu => b.toNat ≤ a.toNat
  | .ord | .uno => False

/-- A taken branch from `pc`: fetch goes to the target after the delay bundles, and a target not above `pc` is a cancellation point
(R86, R112). -/
def redirect (pc target : Nat) (t : State) : State :=
  if target ≤ pc then (t.branchTo target).cancelPoint else t.branchTo target

/-! ### Lanes -/

/-- Lane `j` of width `w` (R60, R114). -/
def lane (w : Nat) (x : VWord) (j : Nat) : Nat := x.toNat / 2 ^ (w * j) % 2 ^ w

/-- Lane `j` of width `w` is active under the mask field `k` (R115). -/
def active (x : Ctx) (k w j : Nat) : Bool := k == 0 || (x.k.get (BitVec.allOnes 256) k).getLsbD (j * w / 8)

/-- The poison of the sources of a vector instruction (R116). -/
def sourcePoison (x : Ctx) (vs ss : List Nat) : Bool := vs.any (fun n => (x.readV n).poison) || ss.any fun n => (x.readS n).poison

/-- The instruction `i` merges, with latency `lat`: an active lane of v[d] receives the first part of `f`, every other lane keeps its
value, the flags are those of the active lanes unless a source is poisoned, and poison is the OR of that of the sources and, under a
mask, of the destination (R115, R116). -/
def Merges (i : Instr) (w lat d k : Nat) (vs ss : List Nat) (f : Ctx → Nat → Nat × FlagBits) : Prop :=
  ∀ s : State, s.Issues (fun x => x.vReg d :: .k k :: (vs.map x.vReg ++ ss.map x.sReg)) →
    let x := s.visible.me
    let po := sourcePoison x vs ss
    ∃ (r : VWord) (fl : FlagBits),
      exec i s = .next (s.done 1 fun t => t.emitV d r lat (po || (k != 0 && (x.readV d).poison)) (if po then 0 else fl)) ∧
      (∀ j < 2048 / w, lane w r j = if active x k w j then (f x j).1 else lane w (x.readV d).val j) ∧
      ∀ b < 5, fl.getLsbD b = true ↔ ∃ j < 2048 / w, active x k w j = true ∧ (f x j).2.getLsbD b = true

/-- A function of one lane of v[a]. -/
def Merges1 (i : Nat → Nat → Nat → Instr) (w lat : Nat) (f : Bool → Nat → Nat × FlagBits) : Prop :=
  ∀ d a k, Merges (i d a k) w lat d k [a] [] fun x j => f x.flush (lane w (x.readV a).val j)

/-- A function of the lanes of v[a] and v[b]. -/
def Merges2 (i : Nat → Nat → Nat → Nat → Instr) (w lat : Nat) (f : Bool → Nat → Nat → Nat × FlagBits) : Prop :=
  ∀ d a b k, Merges (i d a b k) w lat d k [a, b] [] fun x j => f x.flush (lane w (x.readV a).val j) (lane w (x.readV b).val j)

/-- A function of the lanes of v[a], v[b] and v[c]. -/
def Merges3 (i : Nat → Nat → Nat → Nat → Nat → Instr) (w lat : Nat) (f : Bool → Nat → Nat → Nat → Nat × FlagBits) : Prop :=
  ∀ d a b c k, Merges (i d a b c k) w lat d k [a, b, c] [] fun x j =>
    f x.flush (lane w (x.readV a).val j) (lane w (x.readV b).val j) (lane w (x.readV c).val j)

/-- The integer lane types with their widths, and whether they are signed (R114). -/
def laneInts : List (Ty × Nat × Bool) := [(.i32, 32, true), (.i16, 16, true), (.i8, 8, true), (.ui8, 8, false)]

/-- All lane types with their widths. -/
def laneTypes : List (Ty × Nat) := [(.f32, 32), (.f16, 16), (.bf16, 16), (.i32, 32), (.i16, 16), (.i8, 8), (.ui8, 8)]

/-- The floating lane types, their widths and their formats. -/
def laneFloats : List (Ty × Nat × FFmt) := [(.f32, 32, fp32), (.f16, 16, fp16), (.bf16, 16, fbf16)]

/-- The integer that a lane holds. -/
def intOf (w : Nat) (signed : Bool) (c : Nat) : Int := if signed ∧ 2 ^ (w - 1) ≤ c then (c : Int) - 2 ^ w else c

/-- Least and largest value of an integer lane. -/
def leastOf (w : Nat) (signed : Bool) : Int := if signed then -2 ^ (w - 1) else 0
def mostOf (w : Nat) (signed : Bool) : Int := if signed then 2 ^ (w - 1) - 1 else 2 ^ w - 1

/-- The code of an integer modulo 2^w. -/
def codeOf (w : Nat) (i : Int) : Nat := (i % 2 ^ w).toNat

/-- An integer clamped to the range of a lane, with ISAT where it is clamped (R124). -/
def clampTo (w : Nat) (signed : Bool) (i : Int) : Nat × FlagBits :=
  if i < leastOf w signed then (codeOf w (leastOf w signed), isat)
  else if mostOf w signed < i then (codeOf w (mostOf w signed), isat) else (codeOf w i, 0)

/-! ### Floating values as rational numbers -/

/-- The number that a finite value is. -/
def real : FVal → ℚ
  | .fin neg num exp => (if neg then -1 else 1) * num * (2 : ℚ) ^ exp
  | _ => 0

/-- The magnitude of a code without its sign, as though the exponents had no end (R30, R36). -/
def magnitude (f : FFmt) (c : Nat) : ℚ :=
  if c < 2 ^ (f.p - 1) then (c : ℚ) * (2 : ℚ) ^ (f.emin - f.p + 1)
  else ((2 ^ (f.p - 1) + c % 2 ^ (f.p - 1) : Nat) : ℚ) * (2 : ℚ) ^ (f.emin - f.p + (c / 2 ^ (f.p - 1) : Nat))

/-- FNV where a value is a signalling NaN (R31). -/
def quietens (x : FVal) : FlagBits := match x with | .nan true _ => fnv | _ => 0

/-- RoundToFormat of a rational number; an exact zero takes the sign `zneg` (R33). -/
def toFormat (f : FFmt) (m : Rnd) (flush : Bool) (q : ℚ) (zneg : Bool) : Nat × FlagBits :=
  if q = 0 then (f.zero zneg, 0) else f.round m flush (decide (q < 0)) q.num.natAbs q.den

/-- A sum (R31, R35, R117): the sign of an exact zero is the common one of two zeros, else the one of R33. -/
def sumTo (f : FFmt) (m : Rnd) (flush : Bool) (x y : FVal) : Nat × FlagBits :=
  match x, y with
  | .nan .., _ | _, .nan .. => (f.nan, quietens x ||| quietens y)
  | .inf a, .inf b => if a = b then (f.inf a, 0) else (f.nan, fnv)
  | .inf a, .fin .. | .fin .., .inf a => (f.inf a, 0)
  | .fin a _ _, .fin b _ _ =>
    toFormat f m flush (real x + real y) (if real x = 0 ∧ real y = 0 ∧ a = b then a else decide (m = .rdn))

/-- A product (R31, R35, R117): an exact zero takes the XOR of the signs. -/
def productTo (f : FFmt) (m : Rnd) (flush : Bool) (x y : FVal) : Nat × FlagBits :=
  match x, y with
  | .nan .., _ | _, .nan .. => (f.nan, quietens x ||| quietens y)
  | .inf a, .inf b => (f.inf (a ^^ b), 0)
  | .inf a, .fin b _ _ | .fin b _ _, .inf a => if real x = 0 ∧ real y = 0 then (f.nan, fnv) else (f.inf (a ^^ b), 0)
  | .fin a _ _, .fin b _ _ => toFormat f m flush (real x * real y) (a ^^ b)

/-- ±(x × y) ± z, rounded once (R122): `np` negates the product, `nz` the addend. -/
def fusedTo (f : FFmt) (m : Rnd) (flush np nz : Bool) (x y z : FVal) : Nat × FlagBits :=
  let nans := quietens x ||| quietens y ||| quietens z
  match x, y with
  | .nan .., _ | _, .nan .. => (f.nan, nans)
  | .inf a, .inf b => plus (.inf (a ^^ b ^^ np))
  | .inf a, .fin b n _ | .fin b n _, .inf a => if n = 0 then (f.nan, fnv) else plus (.inf (a ^^ b ^^ np))
  | .fin a n e, .fin b k g => plus (.fin (a ^^ b ^^ np) (n * k) (e + g))
where plus (p : FVal) : Nat × FlagBits :=
  match z with
  | .nan .. => (f.nan, quietens z)
  | .inf c => sumTo f m flush p (.inf (c ^^ nz))
  | .fin c l h => sumTo f m flush p (.fin (c ^^ nz) l h)

/-- The order of the minimum and the maximum: −0 lies below +0 (R123). -/
def below (x y : FVal) : Prop :=
  match x, y with
  | .inf a, .inf b => a = true ∧ b = false
  | .inf a, .fin .. => a = true
  | .fin .., .inf b => b = false
  | .fin a _ _, .fin b _ _ => real x < real y ∨ (real x = real y ∧ real x = 0 ∧ a = true ∧ b = false)
  | _, _ => False

/-- The minimum, or the maximum, of two codes (R123): a NaN gives the canonical one. -/
noncomputable def extreme (f : FFmt) (isMax flush : Bool) (a b : Nat) : Nat × FlagBits :=
  let x := f.decode flush a
  let y := f.decode flush b
  let code (v : FVal) : Nat := match v with
    | .nan .. => f.nan
    | .inf n => f.inf n
    | .fin n _ _ => (toFormat f .rne flush (real v) n).1
  open Classical in
  if x.isNan ∨ y.isNan then (f.nan, quietens x ||| quietens y)
  else (code (if below x y then (if isMax then y else x) else (if isMax then x else y)), 0)

/-- `vabs` and `vneg` on a code: the sign bit, after FLUSH (R123). -/
def signed (f : FFmt) (w : Nat) (neg flush : Bool) (a : Nat) : Nat × FlagBits :=
  match f.decode flush a with
  | .nan s n => (f.nan, quietens (.nan s n))
  | v =>
    let m := if flush ∧ a % 2 ^ (w - 1) < 2 ^ (f.p - 1) ∧ real v = 0 then 0 else a % 2 ^ (w - 1)
    (if neg ∧ a < 2 ^ (w - 1) then 2 ^ (w - 1) + m else m, 0)

/-- The truth of a condition on two floating values; unordered, only `ne` and `uno` hold (R57, R127). −0 equals +0. -/
def truthF (cc : CC) (x y : FVal) : Prop :=
  let lt (x y : FVal) : Prop := match x, y with
    | .inf a, .inf b => a = true ∧ b = false
    | .inf a, .fin .. => a = true
    | .fin .., .inf b => b = false
    | .fin .., .fin .. => real x < real y
    | _, _ => False
  let un : Prop := x.isNan = true ∨ y.isNan = true
  match cc with
  | .eq => ¬ un ∧ ¬ lt x y ∧ ¬ lt y x
  | .ne => un ∨ lt x y ∨ lt y x
  | .lt => lt x y
  | .le => ¬ un ∧ ¬ lt y x
  | .gt => lt y x
  | .ge => ¬ un ∧ ¬ lt x y
  | .ord => ¬ un
  | .uno => un
  | .ltu | .leu | .gtu | .geu => False

/-- The truth of a condition on two integer lanes (R127). -/
def truthI (cc : CC) (w : Nat) (sg : Bool) (a b : Nat) : Prop :=
  match cc with
  | .eq => a = b
  | .ne => a ≠ b
  | .lt => intOf w sg a < intOf w sg b
  | .le => intOf w sg a ≤ intOf w sg b
  | .gt => intOf w sg b < intOf w sg a
  | .ge => intOf w sg b ≤ intOf w sg a
  | .ltu => a < b
  | .leu => a ≤ b
  | .gtu => b < a
  | .geu => b ≤ a
  | .ord | .uno => False

/-- `vcmp` writes the truth `P` of active lanes to all their mask bits and 0 elsewhere, and FNV where an active lane has `nv` (R127). -/
def Compares (cc : CC) (ty : Ty) (w : Nat) (P : Bool → Nat → Nat → Prop) (nv : Bool → Nat → Bool) : Prop :=
  ∀ (s : State) (d a b k : Nat), s.Issues (fun x => [.k d, x.vReg a, x.vReg b, .k k]) →
    let x := s.visible.me
    let u (j : Nat) := lane w (x.readV a).val j
    let v (j : Nat) := lane w (x.readV b).val j
    ∃ (r : KWord) (fl : FlagBits),
      exec (.vcmp cc ty d a b k) s = .next (s.done 1 fun t => t.emitK d r 3 (if (x.readV a).poison || (x.readV b).poison then 0 else fl)) ∧
      (∀ i < 256, r.getLsbD i = true ↔ active x k w (i / (w / 8)) = true ∧ P x.flush (u (i / (w / 8))) (v (i / (w / 8)))) ∧
      ∀ b < 5, fl.getLsbD b = true ↔
        b = 0 ∧ ∃ j < 2048 / w, active x k w j = true ∧ (nv x.flush (u j) = true ∨ nv x.flush (v j) = true)

/-- The pairwise tree of R44: level `l`, place `i`. -/
def tree (f : Nat → Nat → Nat × FlagBits) (x : Nat → Nat) : Nat → Nat → Nat
  | 0, i => x i
  | l + 1, i => (f (tree f x l (2 * i)) (tree f x l (2 * i + 1))).1

/-- The chain of R133. -/
def chain (f : Nat → Nat → Nat × FlagBits) (x : Nat → Nat) : Nat → Nat
  | 0 => x 0
  | j + 1 => (f (chain f x j) (x (j + 1))).1

/-- The instruction `i d a k` writes every lane of v[d] and keeps nothing of it; `out` says what the lanes hold and which flags rise
(R116, R132, R133). -/
def Replaces (i : Nat → Nat → Nat → Instr) (w : Nat) (out : Bool → (Nat → Bool) → (Nat → Nat) → (Nat → Nat) → (Nat → Bool) → Prop) : Prop :=
  ∀ (s : State) (d a k : Nat), s.Issues (fun x => [x.vReg d, x.vReg a, .k k]) →
    let x := s.visible.me
    let po := (x.readV a).poison
    ∃ (r : VWord) (fl : FlagBits),
      exec (i d a k) s = .next (s.done 1 fun t => t.emitV d r 8 po (if po then 0 else fl)) ∧
      out x.flush (active x k w) (lane w (x.readV a).val) (lane w r) fl.getLsbD

/-- The lane that enters a reduction: the identity where it is inactive (R132). -/
def entering (act : Nat → Bool) (u : Nat → Nat) (ident j : Nat) : Nat := if act j then u j else ident

/-- Flags of exactly the set bits of `g`, the OR over some places (R132, R133). -/
def FlagsOf (fl : Nat → Bool) (P : FlagBits → Prop) : Prop := ∀ b < 5, fl b = true ↔ ∃ g, P g ∧ g.getLsbD b = true

/-- The node of a floating reduction (R132). -/
noncomputable def nodeF (f : FFmt) (op : RedOp) (z : Bool) (a b : Nat) : Nat × FlagBits :=
  match op with
  | .sum => sumTo f .rne z (f.decode z a) (f.decode z b)
  | .min => extreme f false z a b
  | .max => extreme f true z a b

/-- Lane 0 of a floating scan: its NaN is the canonical one, and FLUSH reads its subnormals as zeros (R31, R32, R133). -/
def startF (f : FFmt) (z : Bool) (c : Nat) : Nat × FlagBits :=
  match f.decode z c with
  | .nan signalling _ => (f.nan, if signalling then fnv else 0)
  | .fin neg 0 _ => (f.zero neg, 0)
  | _ => (c, 0)

/-- The identity of a floating reduction (R132). -/
def identF (f : FFmt) (op : RedOp) : Nat := match op with | .sum => 0 | .min => f.inf false | .max => f.inf true

/-! ### Conversions -/

/-- A rational number rounded to an integer and clamped to a range, with ISAT and FNX (R34). -/
def toInteger (m : Rnd) (lo hi : Int) (q : ℚ) : Int × FlagBits :=
  let r : Int := match m with
    | .rz => if q < 0 then ⌈q⌉ else ⌊q⌋
    | .rup => ⌈q⌉
    | .rdn => ⌊q⌋
    | .rne => if q - ⌊q⌋ < 1 / 2 then ⌊q⌋ else if 1 / 2 < q - ⌊q⌋ then ⌈q⌉ else if ⌊q⌋ % 2 = 0 then ⌊q⌋ else ⌈q⌉
  let lost : FlagBits := if (r : ℚ) = q then 0 else fnx
  if r < lo then (lo, lost ||| isat) else if hi < r then (hi, lost ||| isat) else (r, lost)

/-- A floating value to an integer format (R34). -/
def integerOf (m : Rnd) (lo hi : Int) (v : FVal) : Int × FlagBits :=
  match v with
  | .nan .. => (0, fnv)
  | .inf n => (if n then lo else hi, isat)
  | .fin .. => toInteger m lo hi (real v)

/-- FP32 to an MX element format (R41); a zero keeps the sign of its source (the model's choice, log entry 49). -/
def toMx (f : FFmt) (m : Rnd) (v : FVal) : Nat × FlagBits :=
  match v with
  | .nan _ n => (if f = fe2m3 ∨ f = fe2m1 then f.zero n else f.nan, fnv)
  | .inf n => if f = fe5m2 then (f.inf n, 0) else (f.max n, fof ||| fnx)
  | .fin n _ _ => toFormat f m false (real v) n

/-- The formats of the MX elements that are floating, with their widths (R36). -/
def mxFloats : List (Ty × Nat × FFmt) := [(.e4m3, 8, fe4m3), (.e5m2, 8, fe5m2), (.e2m3, 6, fe2m3), (.e2m1, 4, fe2m1)]

/-- `vcvt` of the pair `ty`, `ty2`, of widths `ws` and `wd`, converts each element of a part by `f` and keeps every bit of v[d] that it
does not write (R134). -/
def Converts (ty ty2 : Ty) (ws wd : Nat) (f : Rnd → Bool → Nat → Nat × FlagBits) : Prop :=
  ∀ (s : State) (md : Rnd) (d a part k : Nat), s.Issues (fun x => [x.vReg d, x.vReg a, .k k]) →
    let wm := max ws wd
    let n := 2048 / wm
    part < 2048 / (n * min ws wd) →
    let x := s.visible.me
    let src (i : Nat) := (x.readV a).val.toNat / 2 ^ (if wd ≤ ws then i * ws else part * n * ws + i * ws) % 2 ^ ws
    let off := if wd ≤ ws then part * n * wd else 0
    let keeps := k ≠ 0 ∨ n * wd < 2048
    ∃ (r : VWord) (fl : FlagBits),
      exec (.vcvt ty ty2 md d a part k) s = .next (s.done 1 fun t =>
        t.emitV d r 5 ((x.readV a).poison || (decide keeps && (x.readV d).poison)) (if (x.readV a).poison then 0 else fl)) ∧
      (∀ i < n, r.toNat / 2 ^ (off + i * wd) % 2 ^ wd =
        if active x k wm i then (f md x.flush (src i)).1 else (x.readV d).val.toNat / 2 ^ (off + i * wd) % 2 ^ wd) ∧
      (∀ b < 2048, (b < off ∨ off + n * wd ≤ b) → r.getLsbD b = (x.readV d).val.getLsbD b) ∧
      FlagsOf fl.getLsbD fun g => ∃ i < n, active x k wm i = true ∧ g = (f md x.flush (src i)).2

/-! ### Tiles -/

/-- Logical tile `t` of the issuing task is the physical tile `p` (R139). -/
def Names (s : State) (t p : Nat) : Prop := ∃ k, s.myTask = some k ∧ k.tiles[t]? = some p

/-- A physical tile of the issuing core. -/
def tileIn (s : State) (p : Nat) : Tile := s.myCore.tiles.get {} p

/-- A physical tile receives a value. -/
def tileTo (p : Nat) (v : Tile) (s : State) : State := s.updMyCore fun k => { k with tiles := k.tiles.put {} p v }

/-- The planes receive a holder. -/
def planesTo (h : Option Nat) (s : State) : State := s.updMyCore fun k => { k with planeHolder := h }

/-- The issuing context holds the tile (R140). -/
def Holds (s : State) (p : Nat) : Prop := (tileIn s p).st ≠ .free ∧ (tileIn s p).holder = s.iss.ctx

/-- The tile is in POISON or FAULTED (R159). -/
def Broken (s : State) (p : Nat) : Prop := (tileIn s p).st = .poison ∨ (tileIn s p).st = .faulted

/-- Blocks, and bytes of the elements, of a row or a column (R142). -/
def blocksOf (ty : Ty) : Nat := if ty = .e2m3 ∨ ty = .e2m1 then 4 else 2
def rowBytes (ty : Ty) : Nat := if ty = .e2m3 then 192 else 128

/-- The byte of scratchpad exists and lies in a declared bank (R155, R168). -/
def allowed (s : State) (o : Nat) : Prop := o < 2 ^ 23 ∧ ∃ k, s.myTask = some k ∧ k.img.banks.testBit (o / 2 ^ 21) = true

/-- AccToFormat of c × 2^anchor (R40). -/
def readOut (ty : Ty) (m : Rnd) (flush : Bool) (anchor : Int) (e : Elem) : Nat × FlagBits :=
  let q : ℚ := e.acc * (2 : ℚ) ^ anchor
  match ty with
  | .f32 => if e.nan then (0x7FC00000, 0) else toFormat fp32 m flush q false
  | .f16 => if e.nan then (0x7E00, 0) else toFormat fp16 m flush q false
  | .bf16 => if e.nan then (0x7FC0, 0) else toFormat fbf16 m flush q false
  | _ => if e.nan then (0, fnv) else let r := toInteger m (-2 ^ 31) (2 ^ 31 - 1) q; (codeOf 32 r.1, r.2)

/-- Codes of R157. -/
def stateCode : TState → Nat
  | .free => 0 | .allocated => 1 | .accumulating => 2 | .drainable => 3 | .poison => 4 | .faulted => 5
def planeCode : PState → Nat
  | .empty => 0 | .loaded => 1 | .poisoned => 2
def formatCode : Option Ty → Nat
  | some .mxi8 => 8 | some .e4m3 => 9 | some .e5m2 => 10 | some .e2m3 => 11 | some .e2m1 => 12 | _ => 15

/-- The operand range checks of `n` records at the addresses of two scalars (R155), in their order; that the first range comes before the second
is a reading (log entry 48). -/
def RangeFaults (s : State) (i : Instr) (ty : Ty) (a b n : Nat) : Prop :=
  let u := s.visible.rs a
  let v := s.visible.rs b
  let clean := u.poison = false ∧ v.poison = false
  (u.poison = true ∨ v.poison = true → exec i s = .next (s.faulted 3 0x10 none)) ∧
  (clean → u.val.toNat % 64 ≠ 0 → exec i s = .next (s.faulted 3 5 (some u.val))) ∧
  (clean → u.val.toNat % 64 = 0 → v.val.toNat % blocksOf ty ≠ 0 → exec i s = .next (s.faulted 3 5 (some v.val))) ∧
  (clean → u.val.toNat % 64 = 0 → v.val.toNat % blocksOf ty = 0 → ∀ o,
    o < n * rowBytes ty → ¬ allowed s (u.val.toNat + o) → (∀ l < o, allowed s (u.val.toNat + l)) →
      exec i s = .next (s.faulted 3 0x30 (some (wordOf (u.val.toNat + o))))) ∧
  (clean → u.val.toNat % 64 = 0 → v.val.toNat % blocksOf ty = 0 → (∀ l < n * rowBytes ty, allowed s (u.val.toNat + l)) → ∀ o,
    o < n * blocksOf ty → ¬ allowed s (v.val.toNat + o) → (∀ l < o, allowed s (v.val.toNat + l)) →
      exec i s = .next (s.faulted 3 0x30 (some (wordOf (v.val.toNat + o)))))

/-- The operands pass the checks of R155. -/
def RangesOk (s : State) (ty : Ty) (a b n : Nat) : Prop :=
  let u := s.visible.rs a
  let v := s.visible.rs b
  u.poison = false ∧ v.poison = false ∧ u.val.toNat % 64 = 0 ∧ v.val.toNat % blocksOf ty = 0 ∧
  (∀ o < n * rowBytes ty, allowed s (u.val.toNat + o)) ∧ ∀ o < n * blocksOf ty, allowed s (v.val.toNat + o)

/-- What holds an operation with operands in scratchpad (R145, R154, R196). -/
def operandHolds (s : State) (ty : Ty) (a b n : Nat) : List Wait :=
  let u := (s.visible.rs a).val.toNat
  let v := (s.visible.rs b).val.toNat
  [.matrix, .acquire, .mark u (u + n * rowBytes ty), .mark v (v + n * blocksOf ty)]

/-- The format of the plane that is active after the queued operations (R143, R151). -/
def activeAfter (k : Core) : Option Ty :=
  (k.mq.foldl (fun (p : Option Ty × Option Ty) o => match o.kind with
    | .tload ty .. => (p.1, some ty)
    | .tswap => (p.2, p.1)
    | _ => p) (k.act.fmt, k.shd.fmt)).1

/-- The formats of a task's operands and planes. -/
def mxTypes : List Ty := [.mxi8, .e4m3, .e5m2, .e2m3, .e2m1]

/-- DecodeInt by the table of R36: none for a NaN or an infinity. -/
def elementInt (ty : Ty) (c : Nat) : Option Int :=
  let finite (w e m : Nat) : Option Int :=
    let ex := c / 2 ^ m % 2 ^ e
    let fr := c % 2 ^ m
    let n : Int := if ex = 0 then fr else (2 ^ m + fr) * 2 ^ (ex - 1)
    some (if 2 ^ (w - 1) ≤ c then -n else n)
  match ty with
  | .mxi8 => some (intOf 8 true c)
  | .e4m3 => if c % 128 = 127 then none else finite 8 4 3
  | .e5m2 => if c / 4 % 32 = 31 then none else finite 8 5 2
  | .e2m3 => finite 6 2 3
  | .e2m1 => finite 4 2 1
  | _ => none

/-- The unit of a format and the width of its elements (R36). -/
def unitOf (ty : Ty) : Int := match ty with | .mxi8 => -6 | .e4m3 => -9 | .e5m2 => -16 | .e2m3 => -3 | _ => -1
def mxWidth (ty : Ty) : Nat := match ty with | .e2m3 => 6 | .e2m1 => 4 | _ => 8

/-- Element `i` of a little-endian bit string of elements of `w` bits, given by its bytes (R37). -/
def element (w : Nat) (byte : Nat → Nat) (i : Nat) : Nat :=
  (byte (w * i / 8) + 256 * byte (w * i / 8 + 1)) / 2 ^ (w * i % 8) % 2 ^ w

/-- What a k-block adds: none where it marks NaN, else the sum of products and the exponent before the anchor (R38). -/
def IsContribution (ta tw : Ty) (a w : Nat → Nat) (xa xw : Nat) (o : Option (Int × Int)) : Prop :=
  let bad := xa = 0xFF ∨ xw = 0xFF ∨ ∃ e < 64, elementInt ta (a e) = none ∨ elementInt tw (w e) = none
  (bad → o = none) ∧
  (¬ bad → o = some (((List.range 64).map fun e => (elementInt ta (a e)).getD 0 * (elementInt tw (w e)).getD 0).sum,
    unitOf ta + unitOf tw + ((xa : Int) - 127) + ((xw : Int) - 127)))

/-- A rational number to the nearest integer, ties to even. -/
def nearestEven (q : ℚ) : Int :=
  if q - ⌊q⌋ < 1 / 2 then ⌊q⌋ else if 1 / 2 < q - ⌊q⌋ then ⌈q⌉ else if ⌊q⌋ % 2 = 0 then ⌊q⌋ else ⌈q⌉

/-- A value in the 96-bit window of an accumulator, and whether it was clamped (R38). -/
def window (i : Int) : Int × Bool :=
  if 2 ^ 95 - 1 < i then (2 ^ 95 - 1, true) else if i < -2 ^ 95 then (-2 ^ 95, true) else (i, false)

/-- One contribution to an element, with INEXACT and OVF so far (R38). -/
def contribute (anchor : Int) (e : Elem × Bool × Bool) (o : Option (Int × Int)) : Elem × Bool × Bool :=
  match o with
  | none => ({ e.1 with nan := true }, e.2.1, e.2.2)
  | some (sum, sh) =>
    let q : ℚ := sum * (2 : ℚ) ^ (sh - anchor)
    let c := nearestEven q
    ({ e.1 with acc := (window (e.1.acc + c)).1 }, e.2.1 || decide ((c : ℚ) ≠ q), e.2.2 || (window (e.1.acc + c)).2)

/-- An element under a new anchor (R149). -/
def reanchor (d : Int) (e : Elem) : Elem × Bool × Bool :=
  let q : ℚ := e.acc * (2 : ℚ) ^ d
  let c := nearestEven q
  ({ e with acc := (window c).1 }, decide ((c : ℚ) ≠ q), (window c).2)

/-- An operation of the queue has rows that have not entered: `n` in all (R149, R152). -/
def rowsOf : MKind → Nat
  | .tmm _ _ _ _ n _ => n
  | .tmmV _ _ _ n _ => n
  | .tanchor .. => 64
  | _ => 0

/-! ### Accesses -/

/-- The number whose little-endian bytes are the first `n` of `bs` (R4). -/
def number (n : Nat) (bs : Nat → Byte) : Nat := ((List.range n).map fun i => (bs i).toNat * 256 ^ i).sum

/-- The offset of an address (R169). -/
def offsetOf (s : State) (ad : Addr) : Word := (s.visible.rs ad.a).val + wordOfInt ad.disp

/-- The registers an address names, and the handle check of KERNEL mode (R79, R215). -/
def addressNames (ad : Addr) (x : Ctx) : List RegId := if ad.sp then [x.sReg ad.a] else [x.sReg ad.a, .h ad.h]
def handleOk (s : State) (ad : Addr) : Prop := ad.sp = true ∨ s.me.mode = true ∨ ∃ k, s.myTask = some k ∧ ad.h < k.img.handles

/-- What holds a load or an atomic: an acquire, and for the local forms a watermark or a held store over the bytes that `act` names (R173,
R186, R196). -/
def loadHolds (s : State) (ad : Addr) (n : Nat) (act : Nat → Bool) : List Wait :=
  let o := (offsetOf s ad).toNat
  .acquire :: if ad.sp && !(s.visible.rs ad.a).poison
    then (activeRuns act n).flatMap fun r => [.mark (o + r.1) (o + r.2), .heldStore (o + r.1) (o + r.2)] else []

/-- The words of `n` bytes that the byte test `act` reaches: offset and length (R171). -/
def wordsOf (n : Nat) (act : Nat → Bool) : List (Nat × Nat) :=
  (if n ≤ 8 then [(0, n)] else (List.range (n / 8)).map fun i => (8 * i, 8)).filter fun p => (List.range p.2).any fun b => act (p.1 + b)

/-- The byte of the destination is written (R173). -/
def reaches (d : Dest) (b : Nat) : Bool := match d with | .vector _ (some m) => m.getLsbD b | _ => true

/-- What the registers `regs` of a destination receive from the bytes `bs`, of which the words in `bad` are poisoned; `x` is the context as
they are written (R116, R173, R175). -/
def Delivers (d : Dest) (regs : List RegId) (x : Ctx) (n : Nat) (bs : Nat → Byte) (bad : Nat → Prop) (out : List (RegId × RVal × Bool)) : Prop :=
  match d with
  | .scalar _ => ∀ r, regs = [r] → ∃ po, out = [(r, .w (wordOf (number n bs)), po)] ∧ (po = true ↔ bad 0)
  | .quad _ => ∀ r0 r1 r2 r3, regs = [r0, r1, r2, r3] → ∃ p0 p1 p2 p3,
      out = [(r0, .w (wordOf (number 8 bs)), p0), (r1, .w (wordOf (number 8 fun i => bs (8 + i))), p1),
        (r2, .w (wordOf (number 8 fun i => bs (16 + i))), p2), (r3, .w (wordOf (number 8 fun i => bs (24 + i))), p3)] ∧
      (p0 = true ↔ bad 0) ∧ (p1 = true ↔ bad 1) ∧ (p2 = true ↔ bad 2) ∧ (p3 = true ↔ bad 3)
  | .vector _ m => ∀ p, regs = [.v p] → ∃ (r : VWord) (po : Bool), out = [(.v p, .v r, po)] ∧
      (∀ b < 256, lane 8 r b = if reaches d b then (bs b).toNat else lane 8 (x.v.get {} p).val b) ∧
      (po = true ↔ (∃ w < 32, bad w) ∨ (m.isSome = true ∧ (x.v.get {} p).poison = true))
  | .block _ part w => ∀ p, regs = [.v p] → ∃ (r : VWord) (po : Bool), out = [(.v p, .v r, po)] ∧
      r.toNat / 2 ^ (64 * w * part) % 2 ^ (64 * w) = number (8 * w) bs ∧
      (∀ b < 2048, (b < 64 * w * part ∨ 64 * w * (part + 1) ≤ b) → r.getLsbD b = (x.v.get {} p).val.getLsbD b) ∧
      (po = true ↔ (∃ i < w, bad i) ∨ (x.v.get {} p).poison = true)

/-- Results go in flight in order. -/
def emits (lat : Nat) (out : List (RegId × RVal × Bool)) (t : State) : State := out.foldl (fun u r => u.emit r.1 r.2.1 lat r.2.2) t

/-- The watchpoint test of the words of an access to the issuing core's scratchpad (R170, R328). -/
def watched (o kind : Nat) (ps : List (Nat × Nat)) (t : State) : State :=
  ps.foldl (fun u p => u.watch t.iss.core true (o + p.1) p.2 kind (.context t.iss.core t.iss.ctx)) t

/-- The accesses of a load or an atomic through a handle at its commit: one result group, one access for each piece, and its registers
pending (R82, R170, R171, R191). -/
def reads (d : Dest) (regs : List RegId) (n : Nat) (op : AccOp) (acq : Bool) (pa : Nat) (hd : Handle) (va : Word) (ps : List (Nat × Nat))
    (t : State) : State :=
  let acc (i : Nat) (p : Nat × Nat) : Access :=
    { id := t.ids + 1 + i, core := t.iss.core, ctx := t.iss.ctx, step := t.me.step, op := op, place := .phys (pa + p.1), n := p.2,
      near := decide (tierOf (pa + p.1) = 0 ∧ vaultOf (pa + p.1) = t.iss.core), acq := acq, grp := some t.ids, off := p.1,
      vaddr := va + wordOf p.1, space := hd.space, vpage := hd.vpage, size := hd.size }
  { t.mark regs with
    ids := t.ids + 1 + ps.length
    groups := t.groups ++ [{ id := t.ids, core := t.iss.core, ctx := t.iss.ctx, step := t.me.step, dest := d, regs := regs, n := n, left := ps.length }]
    accs := t.accs ++ ps.mapIdx acc }

/-- The stores of a store through a handle at its commit: one for each word with a byte to write (R170, R171, R174). -/
def writes (data : Nat → Option Byte) (n pa : Nat) (hd : Handle) (va : Word) (t : State) : State :=
  let ps := wordsOf n fun b => (data b).isSome
  let whole (p : Nat × Nat) : Bool :=
    let l := (pa + p.1) / 64 * 64
    decide (pa ≤ l ∧ l + 64 ≤ pa + n) && (List.range 64).all fun b => (data (l - pa + b)).isSome
  let acc (i : Nat) (p : Nat × Nat) : Access :=
    { id := t.ids + i, core := t.iss.core, ctx := t.iss.ctx, step := t.me.step, op := .store ((List.range p.2).map fun b => data (p.1 + b)),
      place := .phys (pa + p.1), n := p.2, near := decide (tierOf (pa + p.1) = 0 ∧ vaultOf (pa + p.1) = t.iss.core), off := p.1,
      full := whole p, vaddr := va + wordOf p.1, space := hd.space, vpage := hd.vpage, size := hd.size }
  { t with ids := t.ids + ps.length, accs := t.accs ++ ps.mapIdx acc }

/-- A local store that no operand read holds performs at its commit, word by word (R191). -/
def storesHere (data : Nat → Option Byte) (n o : Nat) (t : State) : State :=
  (wordsOf n fun b => (data b).isSome).foldl
    (fun u p => u.spadStore t.iss.core (o + p.1) ((List.range p.2).map fun b => data (p.1 + b)) (.context t.iss.core t.iss.ctx)) t

/-- A load of the L slot: `i` with its address, size, alignment, local latency, acquire, read-only path, speculative form, destination,
registers and mask (R172, R173, R176, R177). -/
def Loads (i : Instr) (ad : Addr) (n al lat : Nat) (acq ro spec : Bool) (dest : Ctx → Dest) (regs mask : Ctx → List RegId) : Prop :=
  ∀ s : State, s.Issues (fun x => regs x ++ addressNames ad x ++ mask x) → handleOk s ad → s.Clear 4 (loadHolds s ad n (reaches (dest s.visible.me))) →
    let x := s.visible.me
    let d := dest x
    let ps := wordsOf n (reaches d)
    match s.visible.address ad n al .load (!acq) with
    | .ok (.spad o) => ∃ out,
        Delivers d (regs x) x n (fun b => s.myCore.spadByte s.cycle (o + b))
          (fun w => ∃ p ∈ ps, p.1 = 8 * w ∧ s.myCore.spadPoisoned (o + p.1) p.2 = true) out ∧
        exec i s = .next (s.done 4 fun t => emits lat out (watched o 1 ps t))
    | .ok (.home pa hd va) =>
        exec i s = .next (s.done 4 (if ro && hd.rop && !hd.unc
          then reads d (regs x) n (.ro true) acq pa hd va ((linePieces pa n).filter fun p => (List.range p.2).any fun b => reaches d (p.1 + b))
          else reads d (regs x) n .load acq pa hd va ps))
    | .error (c, bad) =>
        if spec then ∃ out,
          Delivers d (regs x) x n (fun b => if n ≤ 8 then (if b = 0 then BitVec.ofNat 8 c else 0) else if b % 8 = 0 then BitVec.ofNat 8 c else 0)
            (fun _ => False) out ∧
          exec i s = .next (s.done 4 (emits lat (out.map fun r => (r.1, r.2.1, true))))
        else exec i s = .next (s.faulted 4 c bad)

/-- A store of the T slot (R172, R174, R169): the data and their poison are those of registers of the context. -/
def Stores (i : Instr) (ad : Addr) (n al : Nat) (rel : Bool) (src : Ctx → List RegId) (poison : Ctx → Bool) (data : Ctx → Nat → Option Byte) : Prop :=
  ∀ s : State, s.Issues (fun x => src x ++ addressNames ad x) → handleOk s ad →
    s.Clear 5 (.acquire :: if rel then [.earlier false] else []) →
    let x := s.visible.me
    match s.visible.address ad n al .store (!rel) with
    | .error (c, bad) => exec i s = .next (s.faulted 5 c bad)
    | .ok tgt =>
      (poison x = true → exec i s = .next (s.faulted 5 0x12 none)) ∧
      (poison x = false → match tgt with
        | .spad o =>
          let l := (List.range n).map (data x)
          (s.heldBehind o l = [] → s.storeAhead o l = false → exec i s = .next (s.done 5 (storesHere (data x) n o))) ∧
          (s.heldBehind o l ≠ [] ∨ s.storeAhead o l = true → exec i s = .next (s.done 5 fun t =>
            { t with ids := t.ids + 1,
                     accs := t.accs ++ [{ id := t.ids, core := t.iss.core, ctx := t.iss.ctx, step := t.me.step,
                                          op := .store l, place := .spad t.iss.core o, n := n, behind := s.heldBehind o l }] }))
        | .home pa hd va => exec i s = .next (s.done 5 (writes (data x) n pa hd va)))

/-- An atomic of the T slot (R169, R183, R184): local ones perform at the commit and answer six steps later. -/
def Atomics (i : Instr) (op : AmoOp) (n : Nat) (ord : MemOrd) (d : Nat) (ad : Addr) (b c : Nat) : Prop :=
  ∀ s : State, s.Issues (fun x => [x.sReg d, x.sReg b, x.sReg c] ++ addressNames ad x) → handleOk s ad →
    s.Clear 5 (loadHolds s ad n (fun _ => true) ++ if ord = .rel ∨ ord = .ar then [.earlier false] else []) →
    let u := s.visible.rs b
    let v := s.visible.rs c
    let ub := u.val.toNat % 2 ^ (8 * n)
    let vb := v.val.toNat % 2 ^ (8 * n)
    match s.visible.address ad n n .rmw (decide (ord = .rlx)) with
    | .error (c, bad) => exec i s = .next (s.faulted 5 c bad)
    | .ok tgt =>
      (u.poison = true ∨ v.poison = true → exec i s = .next (s.faulted 5 0x12 none)) ∧
      (u.poison = false → v.poison = false → match tgt with
        | .spad o => exec i s = .next (s.done 5 fun t =>
            let r := t.amoSpad t.iss.core op o n ub vb (.context t.iss.core t.iss.ctx)
            r.2.emitS d (wordOf (leNat r.1.1)) 6 r.1.2)
        | .home pa hd va => exec i s = .next (s.done 5
            (reads (.scalar d) [s.visible.me.sReg d] n (.amo op ub vb) (decide (ord = .acq ∨ ord = .ar)) pa hd va [(0, n)])))

/-- Bytes of a scalar and of a vector register. -/
def scalarByte (w : Word) (b : Nat) : Byte := BitVec.ofNat 8 (w.toNat / 256 ^ b)
def vectorByte (v : VWord) (b : Nat) : Byte := BitVec.ofNat 8 (lane 8 v b)

/-! ### Translation -/

/-- Field `[lo + len - 1 : lo]` of a number. -/
def field (lo len w : Nat) : Nat := w / 2 ^ lo % 2 ^ len

/-- A handle field of a KERNEL-mode word lies below the declared count (R215). -/
def handleIn (s : State) (h : Nat) : Prop := s.me.mode = true ∨ ∃ k, s.myTask = some k ∧ h < k.img.handles

/-- Bytes of a page of a size code (R206). -/
def pageOf (size : Nat) : Nat := 2 ^ (13 + 10 * size)

/-- The virtual address is canonical (R206). -/
def isCanonical (va : Nat) : Prop := field 52 12 va = 0 ∨ field 52 12 va = 2 ^ 12 - 1

/-- The handle that a leaf gives (R208, R215): everything but its generation follows from the leaf and the address. -/
def IsHandle (h : Handle) (va : Word) (leaf gen : Nat) : Prop :=
  h.valid = true ∧ h.vpage = va - wordOf (va.toNat % pageOf (field 2 2 leaf)) ∧ h.frame = field 13 35 leaf * 2 ^ 13 ∧
  h.size = field 2 2 leaf ∧ h.r = leaf.testBit 8 ∧ h.w = leaf.testBit 9 ∧ h.cow = leaf.testBit 12 ∧ h.rop = leaf.testBit 49 ∧
  h.mig = leaf.testBit 48 ∧ (h.unc = true ↔ field 10 2 leaf ≠ 0 ∨ field 46 2 leaf = 3) ∧ h.lost = leaf.testBit 51 ∧
  h.space = field 52 12 leaf ∧ h.gen = gen ∧ h.cause = 0

/-- A leaf that `xlat` refuses with XLAT_PERM (R218, R23). -/
def Refuses (leaf intent : Nat) (runtime : Bool) : Prop :=
  (intent.testBit 0 = true ∧ leaf.testBit 8 = false) ∨ (intent.testBit 1 = true ∧ leaf.testBit 9 = false) ∨
  (field 46 2 leaf = 3 ∧ runtime = false)

/-- A TLB entry holds the address of a space (R214). -/
def Matches (t : TlbEntry) (sp : Nat) (va : Word) : Prop := t.space = sp ∧ t.vpn = va.toNat / pageOf t.size

/-- The table entry at an address, as the walker reads it. -/
def entryAt (s : State) (a : Nat) : Nat := number 8 fun i => s.mem.get 0 (a + i)

/-- An entry of table `t` at a level (R206). -/
def slotOf (va : Word) (lvl t : Nat) : Nat := t + 8 * field (13 + 10 * lvl) 10 va.toNat

/-- A leaf that passes the checks of a walk at a level (R208, R209). -/
def GoodLeaf (s : State) (lvl sp e : Nat) : Prop :=
  e.testBit 0 = true ∧ e.testBit 1 = true ∧ field 4 3 e = 0 ∧ lvl < 3 ∧ field 2 2 e = lvl ∧ field 52 12 e = sp ∧ field 10 2 e < 2 ∧
  field 13 35 e * 2 ^ 13 % pageOf lvl = 0 ∧ (e.testBit 50 = true ↔ field 46 2 e = 2) ∧
  s.badRange (field 13 35 e * 2 ^ 13) (pageOf lvl) (e.testBit 51) = false

/-- A pointer that a walk follows at a level (R207, R209). -/
def GoodPointer (s : State) (lvl e : Nat) : Prop :=
  e.testBit 0 = true ∧ e.testBit 1 = false ∧ field 2 11 e = 0 ∧ field 48 16 e = 0 ∧ 0 < lvl ∧ field 46 2 e < 2 ∧
  s.badRange (field 13 35 e * 2 ^ 13) (2 ^ 13) false = false

/-- A walk from table `t` at a level reaches the leaf `e` at address `a` (R209). -/
def LeafAt (s : State) (va : Word) (sp e a : Nat) : Nat → Nat → Prop
  | 0, t => a = slotOf va 0 t ∧ e = entryAt s a ∧ s.poisoned a 8 = false ∧ GoodLeaf s 0 sp e
  | lvl + 1, t =>
    let b := slotOf va (lvl + 1) t
    s.poisoned b 8 = false ∧
      ((a = b ∧ e = entryAt s b ∧ GoodLeaf s (lvl + 1) sp e) ∨
        (GoodPointer s (lvl + 1) (entryAt s b) ∧ LeafAt s va sp e a lvl (field 13 35 (entryAt s b) * 2 ^ 13)))

/-- A walk under a translation register may begin at its root table (R206, R209, R212). -/
def RootOk (s : State) (va xroot : Word) : Prop :=
  let root := field 13 35 xroot.toNat * 2 ^ 13
  isCanonical va.toNat ∧ xroot.getLsbD 0 = true ∧ field 46 2 root < 2 ∧ s.badRange root (2 ^ 13) false = false

/-- A walk in progress, or one that begins, reads next at level `lvl` from table `t` (R209). -/
def ReadsAt (s : State) (va xroot : Word) (next : Option (Nat × Nat)) (lvl t : Nat) : Prop :=
  lvl ≤ 3 ∧ (next = some (lvl, t) ∨ (next = none ∧ RootOk s va xroot ∧ lvl = 3 ∧ t = field 13 35 xroot.toNat * 2 ^ 13))

/-- A walk under a translation register reaches a leaf (R209, R212). -/
def Translates (s : State) (va xroot : Word) (e a : Nat) : Prop :=
  let root := field 13 35 xroot.toNat * 2 ^ 13
  isCanonical va.toNat ∧ xroot.getLsbD 0 = true ∧ field 46 2 root < 2 ∧ s.badRange root (2 ^ 13) false = false ∧
  LeafAt s va (field 52 12 xroot.toNat) e a 3 root

/-- A revocation selects a translation or a handle: space, virtual base, page size and frame (R221, R226). -/
def Selects (r : Revoke) (space : Nat) (vpage : Word) (size : Nat) : Prop :=
  match r.mode with
  | 0 => space = r.space ∧ (r.va - vpage).toNat < pageOf size
  | 1 => space = r.space
  | _ => True

/-- A handle as a revocation leaves it (R223). -/
def Revoked (r : Revoke) (h h' : Handle) : Prop :=
  (h.valid = true ∧ Selects r h.space h.vpage h.size → h' = { h with valid := false, cause := 0x0A }) ∧
  (¬ (h.valid = true ∧ Selects r h.space h.vpage h.size) → h' = h)

/-! ### Queues and semaphores -/

/-- A semaphore index lies in the range of the issuing context's task (R237). -/
def semIn (s : State) (n : Nat) : Prop := ∃ k, s.myTask = some k ∧ k.img.semLo ≤ n ∧ n ≤ k.img.semHi

/-- A queue lies in the mask of the issuing context's task (R230). -/
def queueIn (s : State) (q : Nat) : Prop := ∃ k, s.myTask = some k ∧ k.img.queues.testBit q = true

/-- Entries of a queue and the kind that it accepts (R230). -/
def depthOf (q : Nat) : Nat := if q ≤ 3 then 32 else 16
def kindOf (q : Nat) : Nat := if q ≤ 3 then 0 else if q ≤ 5 then 1 else if q = 6 then 2 else 3

/-- Commands of a queue. -/
def cmdsOf (s : State) (c q : Nat) : List Cmd := ((s.core c).queues.get {} q).cmds

/-- Semaphore `n` of core `c`. -/
def semOf (s : State) (c n : Nat) : Nat := (s.core c).sems.get 0 n

/-- A semaphore takes a value and nothing else changes. -/
def semTo (n v : Nat) (t : State) : State := t.updMyCore fun k => { k with sems := k.sems.put 0 n v }

/-- The header word is accepted for a queue (R233, R234). -/
def HeaderOk (s : State) (q : Nat) (w : Word) : Prop :=
  let f (lo len : Nat) := field lo len w.toNat
  f 61 3 = kindOf q ∧ (f 41 20 ≠ 0 → ∀ i < 8, allowed s (f 41 20 * 8 + i)) ∧ (f 25 8 ≠ 0 → semIn s (f 33 8)) ∧ (f 1 16 ≠ 0 → semIn s (f 17 8))

/-- A command names a handle register (R255, R282, R413). -/
def NamesHandle (q : Nat) (w1 w2 w3 : Nat) (h : Nat) : Prop :=
  match kindOf q with
  | 0 =>
    let sh := field 60 4 w1
    (w1.testBit 59 = false ∧ sh ≤ h ∧ h ≤ sh + (if w3.testBit 62 then field 38 4 w1 else 0) ∧ h < 16) ∨ (w2.testBit 59 = false ∧ h = field 60 4 w2)
  | 1 => w1.testBit 51 = false ∧ field 61 3 w1 ≠ 2 ∧ field 61 3 w1 ≠ 3 ∧ h = field 52 4 w1
  | 2 => h = field 60 4 w1 ∨ h = field 60 4 w2 ∨ (1 ≤ field 58 2 w1 ∧ h = field 54 4 w1) ∨ (2 ≤ field 58 2 w1 ∧ h = field 50 4 w1)
  | _ => False

/-- The first command of a queue that has not started, among those before and after it, none of which a grant has just started (R231). -/
def FirstUnstarted (s : State) (c q : Nat) (before after : List Cmd) (m : Cmd) : Prop :=
  cmdsOf s c q = before ++ m :: after ∧ m.st = 0 ∧ (∀ u ∈ before, u.st ≠ 0) ∧
    (∀ u ∈ before ++ after, u.id ≠ m.id ∧ (u.st = 1 → u.unchecked = false))

/-- Its handles have landed, and no barrier and no save holds it (R255, R324, R355). -/
def Unheld (m : Cmd) : Prop := m.hold = false ∧ m.waits = [] ∧ m.heldFor = []

/-- It has no wait and has been pushed in an earlier cycle (R198, R234). -/
def Startable (s : State) (m : Cmd) : Prop := field 1 16 m.w0.toNat = 0 ∧ m.pushed < s.cycle ∧ Unheld m

/-- A started copy under way may move at its next beat (R251, R259, R269, R270): `n` items in all. -/
def Moving (s : State) (c q n : Nat) (m : Cmd) : Prop :=
  m.st = 1 ∧ m.unchecked = false ∧ m.items < n ∧ m.status = 0 ∧ m.stopping = false ∧ m.lost = false ∧ m.hold = false ∧ m.revoked = [] ∧
    s.running = true ∧ ((s.core c).queues.get {} q).beatAt ≤ s.cycle

/-- The engine port of a core takes a status record at word `sta` in this cycle (R168, R235). -/
def RecordTaken (s : State) (c sta : Nat) : Prop := sta = 0 ∨ (s.core c).portFree s.cycle (8 * sta) 8 = true

/-- A copy of elements between two pages with no stage (R252 to R254): its handles, offsets, count, first element and element bytes. -/
structure Plain (m : Cmd) (a b : Handle) (so do_ n start e : Nat) : Prop where
  w1 : m.w1.getLsbD 59 = false ∧ field 33 26 m.w1.toNat = 0 ∧ so = field 0 33 m.w1.toNat ∧ a = m.snaps.get {} (field 60 4 m.w1.toNat)
  w2 : m.w2.getLsbD 59 = false ∧ field 33 26 m.w2.toNat = 0 ∧ do_ = field 0 33 m.w2.toNat ∧ b = m.snaps.get {} (field 60 4 m.w2.toNat)
  w3 : field 55 9 m.w3.toNat = 0 ∧ field 44 3 m.w3.toNat = 0 ∧ field 51 4 m.w3.toNat = field 47 4 m.w3.toNat
  ty : (field 51 4 m.w3.toNat, e) ∈ [(0, 4), (1, 2), (2, 2), (3, 4), (4, 2), (5, 1), (6, 1), (7, 8)]
  counts : n = field 0 22 m.w3.toNat ∧ start = field 22 22 m.w3.toNat

/-- A frame lies in the vaults or in HBM. -/
def InMemory (h : Handle) : Prop := field 46 2 h.frame < 2

/-! ### The crossbar bank -/

/-- Array `a` of core `c`, and its change. -/
def arrOf (s : State) (c a : Nat) : XArr := (s.core c).xb.get {} a
def arrTo (a : Nat) (f : XArr → XArr) (t : State) : State := t.updMyCore fun k => { k with xb := k.xb.put {} a (f (k.xb.get {} a)) }

/-- An array lies in the mask of the issuing context's task (R278). -/
def arrIn (s : State) (a : Nat) : Prop := ∃ k, s.myTask = some k ∧ k.img.xbarrays.testBit a = true

/-- The other array of a pair, and whether an array is a member of one (R279, R298). -/
def mate (a : Nat) : Nat := if a % 2 = 0 then a + 1 else a - 1
def isPaired (s : State) (c a : Nat) : Prop := (arrOf s c (a / 2 * 2)).pair = true

/-- The array serves, or a swap can make it ACTIVE (R290, R295). -/
def Serves (x : XArr) : Prop := x.st = .active ∨ x.st = .drifting
def CanServe (x : XArr) : Prop := (x.st = .verified ∨ x.st = .shadow) ∧ x.cal = true

/-- The states that an accepted swap of `a` gives, as array and state (R295). -/
def Swaps (s : State) (c a : Nat) (l : List (Nat × XState)) : Prop :=
  let x := arrOf s c a
  let y := arrOf s c (mate a)
  (isPaired s c a ∧ Serves x ∧ CanServe y ∧ l = [(mate a, .active), (a, .shadow)]) ∨
  (isPaired s c a ∧ ¬ Serves x ∧ Serves y ∧ CanServe x ∧ l = [(a, .active), (mate a, .shadow)]) ∨
  (isPaired s c a ∧ ¬ Serves x ∧ ¬ Serves y ∧ CanServe x ∧ l = [(a, .active)]) ∨
  (¬ isPaired s c a ∧ CanServe x ∧ l = [(a, .active)]) ∨
  (¬ isPaired s c a ∧ Serves x ∧ l = [(a, .shadow)])

/-- A swap or a retirement of an array waits (R295, R300). -/
def Waits (x : XArr) : Prop := x.swapPend = true ∨ x.retPend = true

/-- No command of the core's crossbar streams has started and not yet signalled (R236, R295). -/
def quietX (s : State) (c : Nat) : Prop := ∀ q ∈ [4, 5], ∀ m ∈ cmdsOf s c q, m.st = 0

/-- A command may start on array `n`: none runs on it since the start of the cycle, and no swap or retirement waits (R281, R295). -/
def FreeX (s : State) (c n : Nat) : Prop :=
  let x := arrOf s c n
  (s.core c).arrayBusy n = false ∧ x.freed ≤ s.cycle ∧ x.retPend = false ∧ x.swapPend = false ∧
    (isPaired s c n → (arrOf s c (mate n)).swapPend = false)

/-- The execution faults of a crossbar instruction in their order, for an instruction that reads s[a] and s[b] (R301). -/
def XbFaults (s : State) (i : Instr) (a b : Nat) (okA okB : Nat → Prop) (masked : Bool) : Prop :=
  let u := s.visible.rs a
  let v := s.visible.rs b
  (u.poison = true ∨ v.poison = true → exec i s = .next (s.faulted 6 0x10 none)) ∧
  (u.poison = false → v.poison = false → ¬ okA u.val.toNat → exec i s = .next (s.faulted 6 3 (some u.val))) ∧
  (u.poison = false → v.poison = false → okA u.val.toNat → ¬ okB v.val.toNat → exec i s = .next (s.faulted 6 3 (some v.val))) ∧
  (masked = true → u.poison = false → v.poison = false → okA u.val.toNat → okB v.val.toNat → ¬ arrIn s (u.val.toNat % 32) →
    exec i s = .next (s.faulted 6 0x38 (some u.val)))

/-- It passes them. -/
def XbPasses (s : State) (a b : Nat) (okA okB : Nat → Prop) (masked : Bool) : Prop :=
  let u := s.visible.rs a
  let v := s.visible.rs b
  u.poison = false ∧ v.poison = false ∧ okA u.val.toNat ∧ okB v.val.toNat ∧ (masked = true → arrIn s (u.val.toNat % 32))

/-- The fields of word 2 of a crossbar command (R284 to R289). -/
def w2 (m : Cmd) (lo len : Nat) : Nat := field lo len m.w2.toNat
def xop (m : Cmd) : Nat := field 61 3 m.w1.toNat
def xarr (m : Cmd) : Nat := field 56 5 m.w1.toNat
def selected (m : Cmd) : List Nat := (List.range 4).filter fun g => (w2 m 43 4).testBit g

/-- Bytes of the input, of the report, and of the output of a command (R284 to R290). -/
def xbIn (m : Cmd) : Nat := if xop m = 4 then w2 m 47 7 * (64 * w2 m 27 5) else if xop m ≤ 1 then 256 * w2 m 43 11 else 0
def xbReport (m : Cmd) : Nat :=
  if w2 m 0 23 = 0 then 0
  else match xop m with
    | 0 => 136 * w2 m 43 11
    | 1 => 1024
    | 2 => 2048
    | 3 => 1024
    | _ => 0

/-- The fields of a command lie in their ranges (R283 order 1). -/
def XbFields (m : Cmd) : Prop :=
  let rows := 1 ≤ w2 m 43 11 ∧ w2 m 43 11 ≤ 1024 ∧ w2 m 54 10 + w2 m 43 11 ≤ 1024
  let dt := m.w2.getLsbD 63
  field 33 18 m.w1.toNat = 0 ∧ m.w3 = 0 ∧ (m.w1.getLsbD 51 = true ∨ xop m = 2 ∨ xop m = 3 → field 52 4 m.w1.toNat = 0) ∧
  (xop m = 2 ∨ xop m = 3 → field 0 33 m.w1.toNat = 0) ∧
  match xop m with
  | 0 => rows ∧ 1 ≤ w2 m 37 6 ∧ w2 m 35 2 ≠ 3 ∧ w2 m 23 12 = 0
  | 1 => rows ∧ 1 ≤ w2 m 35 8 ∧ w2 m 23 12 = 0
  | 2 => w2 m 61 3 ≤ 5 ∧ w2 m 23 38 = 0
  | 3 => w2 m 23 41 = 0
  | 4 =>
    (dt = true → w2 m 54 6 + w2 m 47 7 ≤ 64 ∧ (selected m).length = 1 ∧ w2 m 0 23 = 0) ∧ (dt = false → w2 m 60 3 = 0 ∧ w2 m 54 6 = 0) ∧
    1 ≤ w2 m 47 7 ∧ w2 m 47 7 ≤ 64 ∧ w2 m 43 4 ≠ 0 ∧ w2 m 40 3 ≤ 5 ∧ 2 ≤ w2 m 36 4 ∧ w2 m 36 4 ≤ 8 ∧ 1 ≤ w2 m 27 5 ∧ w2 m 27 5 ≤ 16 ∧
    w2 m 32 4 + w2 m 27 5 ≤ 16 ∧ w2 m 23 4 = 0
  | _ => False

/-- A scratchpad range of a command's task (R168). -/
def cmdAllowed (s : State) (m : Cmd) (o n : Nat) : Prop :=
  ∀ i < n, o + i < 2 ^ 23 ∧ ∃ k, s.tasks.get none m.task = some k ∧ k.img.banks.testBit ((o + i) / 2 ^ 21) = true

/-- The first start check of a crossbar command that fails (R283). -/
noncomputable def xbFirst (s : State) (c : Nat) (m : Cmd) : Option Nat :=
  let h := m.snaps.get {} (field 52 4 m.w1.toNat)
  let paged := (xop m ≤ 1 ∨ xop m = 4) ∧ m.w1.getLsbD 51 = false
  let io := field 0 33 m.w1.toNat
  let mine (a : Nat) : Prop := ∃ k, s.tasks.get none m.task = some k ∧ k.img.xbarrays.testBit a = true
  let st := (arrOf s c (xarr m)).st
  open Classical in
  if ¬ XbFields m then some 3
  else if ¬ mine (xarr m) ∨ (xop m = 4 ∧ isPaired s c (xarr m) ∧ ¬ mine (mate (xarr m))) then some 0x38
  else if (xop m = 0 ∧ st ∈ [XState.active, .drifting, .retired]) ∨ (1 ≤ xop m ∧ xop m ≤ 3 ∧ st ∈ [XState.empty, .retired]) then some 0x38
  else if paged ∧ (h.valid = false ∨ pageOf h.size < io + xbIn m) then some 0x0A
  else if paged ∧ h.lost = true then some 0x0D
  else if paged ∧ (h.r = false ∨ field 46 2 h.frame = 3) then some 9
  else if ((xop m ≤ 1 ∨ xop m = 4) ∧ io % 64 ≠ 0) ∨ w2 m 0 23 % (if xop m = 4 then 64 else 8) ≠ 0 then some 5
  else if ((xop m ≤ 1 ∨ xop m = 4) ∧ m.w1.getLsbD 51 = true ∧ ¬ cmdAllowed s m io (xbIn m)) ∨ ¬ cmdAllowed s m (w2 m 0 23) (xbReport m) ∨
      (xop m = 4 ∧ m.w2.getLsbD 63 = false ∧ ¬ cmdAllowed s m (w2 m 0 23) (w2 m 47 7 * (256 * (selected m).length))) then some 0x30
  else if xop m = 4 ∧ m.w2.getLsbD 63 = true ∧ m.tileOk = false then some 3
  else none

/-- Steps 1 to 3 of R47: the corrected value of a code, in units of 2^−4. -/
def corr (off : Int) (g code : Nat) : Int := nearestEven ((((code : Int) - 512) * 16 - off : Int) * (g : ℚ) / 2 ^ 14)

/-- XbColumn of R47 from the codes of planes 7 down to 8 − n: `code p h` with h 0 for the HIGH slice. -/
def columnOf (n k : Nat) (coef : Nat → Int × Nat) (code : Nat → Nat → Nat) : Int :=
  nearestEven (((((List.range n).map fun i =>
    let p := 7 - i
    let t (h : Nat) : Int := corr (coef h).1 (coef h).2 (code p h) * 2 ^ k * 2 ^ p * (if p = 7 then -1 else 1)
    t 0 * 16 + t 1).sum : Int) : ℚ) / 16)

/-- The level of a data position of a row, through its spare (R276, R297). -/
def levelOf (x : XArr) (r pos : Nat) : Nat :=
  SMap.get 0 (x.cells.get [] r) (match x.spare.find? fun e => decide (e.2 = pos + 1) with | some e => 1024 + e.1 | none => pos)

/-- The ideal code of slice column `q` in plane `p` (R46, R277): `act r` is the activation of row `r0 + r`. -/
def idealOf (x : XArr) (k r0 depth : Nat) (act : Nat → Nat) (p q : Nat) : Int :=
  let pos := 4 * (q / 2) + 2 * (q % 2)
  let sum : Int := ((List.range depth).map fun r =>
    if (act r).testBit p then (levelOf x (r0 + r) pos : Int) - levelOf x (r0 + r) (pos + 1) else 0).sum
  max 0 (min 1023 (nearestEven ((sum : ℚ) / 2 ^ k) + 512))

/-- The targets of a weight in the positions of its logical column (R277). -/
def targetOf (w : Int) (pos : Nat) : Nat :=
  match pos % 4 with
  | 0 => (max (w.fdiv 16) 0).toNat
  | 1 => (max (-w.fdiv 16) 0).toNat
  | 2 => (w.fmod 16).toNat
  | _ => 0

/-- Target of a reference cell (R277). -/
def refTarget (n : Nat) : Nat := match n with | 0 => 6 | 3 => 6 | 6 => 15 | 7 => 15 | _ => 0

/-! ### Barriers -/

/-- The cluster of a core (R11): an eighth of the cores, a quarter of its die's mesh. -/
def cluster (c : Nat) : Nat := 4 * (c / 64) + 2 * (c % 64 / 32) + c % 8 / 4

/-- Domain `d` names context `x` of core `c` (R363). -/
def InMasks (d : Domain) (c x : Nat) : Prop := d.valid = true ∧ d.cores.getLsbD c = true ∧ (d.ctxs.get 0 c).testBit x = true

/-- A member key names context `x` of core `c` before its task was checkpointed (R357). -/
def StoodAt (s : State) (key c x : Nat) : Prop :=
  1024 ≤ key ∧ ∃ k, s.tasks.get none ((key - 1024) / 4) = some k ∧ k.core = c ∧ k.ctxs[(key - 1024) % 4]? = some x

/-- The issuing context is a member of the domain of a selector (R352); of a custom one also while the current phase still counts it, and not
where a checkpointed member stood there (R357, log entry 15). -/
def MemberOf (s : State) (n : Nat) : Prop :=
  if n < 64 then
    (InMasks (s.doms.get {} n) s.iss.core s.iss.ctx ∧
      ∀ b, s.bars.get none n = some b → ∀ k ∈ b.members, ¬ StoodAt s k s.iss.core s.iss.ctx) ∨
    ∃ b, s.bars.get none n = some b ∧ 4 * s.iss.core + s.iss.ctx ∈ b.members
  else s.me.task ≠ none

/-- The last arrival of the issuing context at a selector has not been released (R359, R360). -/
def Arrived (s : State) (n : Nat) : Prop := (s.me.arr.get ⟨0, 0, true, false⟩ n).released = false

/-- The barrier of a selector for the issuing context: that of a custom domain by its number, that of a level by its launch and group. -/
def BarrierOf (s : State) (n bar : Nat) (b : Barrier) : Prop :=
  s.barOf s.iss.core s.iss.ctx n = some bar ∧ s.bars.get none bar = some b

/-- The operation word of `domset` has a must-be-zero bit set (R386). -/
def BadOperation (w : Word) : Prop :=
  let f (lo len : Nat) := field lo len w.toNat
  f 32 30 ≠ 0 ∨ f 15 1 ≠ 0 ∨ f 4 4 ≠ 0 ∨ (f 62 2 ≠ 3 ∧ f 16 16 ≠ 0) ∨ (2 ≤ f 62 2 ∧ f 0 15 ≠ 0)

/-- The domain after an operation word (R386). -/
def Operated (w : Word) (d e : Domain) : Prop :=
  let f (lo len : Nat) := field lo len w.toNat
  let k := f 8 7
  let others := (∀ c, c ≠ k → e.cores.getLsbD c = d.cores.getLsbD c ∧ e.ctxs.get 0 c = d.ctxs.get 0 c) ∧ e.chips = d.chips ∧ e.launch = d.launch
  (f 62 2 = 0 → others ∧ e.valid = true ∧ e.cores.getLsbD k = true ∧
    ∀ i < 4, (e.ctxs.get 0 k).testBit i = true ↔ (d.ctxs.get 0 k).testBit i = true ∨ w.getLsbD i = true) ∧
  (f 62 2 = 1 → others ∧ e.valid = d.valid ∧
    (∀ i < 4, (e.ctxs.get 0 k).testBit i = true ↔ (d.ctxs.get 0 k).testBit i = true ∧ w.getLsbD i = false) ∧
    (e.cores.getLsbD k = true ↔ d.cores.getLsbD k = true ∧ ∃ i < 4, (e.ctxs.get 0 k).testBit i = true)) ∧
  (f 62 2 = 2 → e = {}) ∧
  (f 62 2 = 3 → e = { d with chips := f 16 16 })

/-- The single result with this identifier may land: every earlier result to its register has become visible (R82). -/
def CanLand (s : State) (id : Nat) (l : Land) : Prop :=
  s.groups.find? (fun e => decide (e.id = id)) = none ∧ s.lands.find? (fun e => decide (e.id = id)) = some l ∧
  ∀ e ∈ (s.cx l.core l.ctx).inflight ++ (s.cx l.core l.ctx).snap ++ (s.cx l.core l.ctx).snapT, e.reg = l.reg → l.step ≤ e.seq

/-- It lands with the word `w`, unpoisoned, and its mark clears. -/
def LandsAs (s : State) (id : Nat) (l : Land) (w : Word) : Prop :=
  exec (.resultLand id) s = .next
    { s.updCx l.core l.ctx fun y => (y.write l.reg (.w w) false).unmark l.reg l.step with lands := s.lands.filter fun e => decide (e.id ≠ id) }

/-- The message with an identifier. -/
def MessageIs (s : State) (id : Nat) (m : Msg) : Prop := (s.msgs.find? fun e => decide (e.id = id)).map (·.msg) = some m

/-- The state without it. -/
def without (id : Nat) (s : State) : State := { s with msgs := s.msgs.filter fun e => decide (e.id ≠ id) }

/-! ### Sibling groups -/

/-- The issuing context belongs to a sibling group: its ballot slot and its sibling number (R366). -/
def InGroup (s : State) (slot sib : Nat) : Prop :=
  ∃ k l, s.myTask = some k ∧ s.launches.get none k.launch = some l ∧ k.sib = some sib ∧ l.ballot = some slot

/-- The slot after the last sibling has ended and every reclaim has completed (R369). -/
def closed (b : Ballot) : Ballot :=
  if (b.st = .decided ∨ b.st = .exhausted) ∧ b.ended.length = b.n ∧ ∀ i ∈ b.cancelled, i ∈ b.reclaimed then { b with st := .closed } else b

/-- The unit takes posts before cancellation requests and those before end notices: an event of place `p` comes too late in this cycle (R369). -/
def TooLate (s : State) (b : Ballot) (p : Nat) : Prop := b.at_ = s.cycle ∧ p < b.place

/-- Siblings at the unit that have neither posted, nor ended, nor been cancelled. -/
def pendingOf (b : Ballot) : List Nat := (List.range b.n).filter fun i => i ∉ b.posted ∧ i ∉ b.ended ∧ i ∉ b.cancelled

/-- A slot is decided: an acquiring `bread` behind which its context has gone on reads the word before that (log entry 52). -/
def readBefore (s : State) (slot : Nat) (l : Land) : Land :=
  match l.val with
  | .bread n sel =>
    if n = slot ∧ l.acq = true ∧ l.step + 1 < (s.cx l.core l.ctx).step then { l with val := .val (.w (s.slotWord n sel)), acq := false } else l
  | _ => l

/-- The pennant is sent to the siblings `l` (R371): each is marked at its task, and every context of it is addressed. -/
def PennantTo (s t : State) (launch : Nat) (l : List Nat) : Prop :=
  ∀ i ∈ l, ∀ tid k, s.tasks.get none tid = some k → k.launch = launch → k.sib = some i →
    (∀ e ∈ s.tasks, ∀ k', e.2 = some k' → k'.launch = launch → k'.sib = some i → e.1 = tid) →
      t.tasks.get none tid = some { k with cancelledSib := true } ∧ ∀ x ∈ k.ctxs, ∃ e ∈ t.msgs, e.msg = .pennant k.core x tid

/-- A word of the control plane can be reached through a translation register: its device physical address (R209, R377). -/
def At (s : State) (va xroot : Word) (p : Nat) : Prop :=
  ∃ e a, Translates s va xroot e a ∧ e.testBit 7 = false ∧ p = field 13 35 e * 2 ^ 13 + va.toNat % pageOf (field 2 2 e) ∧
    field 46 2 e < 3 ∧ s.lostAt p = false

/-- Work of a task, in the order of R378. -/
def workOf (k : Task) : List Nat := [k.cw0, k.cw1, k.cw2, k.cw3, k.cw4]

/-- The final update of a reclaim (R377, R378). -/
def accounted (b : Ballot) (sib : Nat) (k : Task) : Ballot :=
  closed { b with cw := (List.zip b.cw (workOf k)).map fun e => min (e.1 + e.2) (2 ^ 64 - 1), reclaimed := b.reclaimed ++ [sib] }

/-- A member that is cancelled or killed is permanently arrived; an arrival that it has registered is still to be counted (R353, R357). -/
noncomputable def permanently (s : State) (bar key : Nat) (b : Barrier) : Barrier :=
  open Classical in
  if key ∉ b.members ∨ key ∈ b.perm then b
  else if key ∈ b.arrived ∨ ∃ m ∈ s.msgs, ∃ n l, m.msg = .arrival bar key n l then { b with perm := b.perm ++ [key] }
  else { b with perm := b.perm ++ [key], arrived := b.arrived ++ [key], anyPerm := true,
                st := if b.members.length ≤ b.arrived.length + 1 then .delivering else b.st }

/-- A context stops or is killed (R375): nothing that it has in flight remains but the accesses that it has committed, its queued commands
end, its tiles are freed, it has arrived for good at its barriers. -/
def Stopped (s t : State) (c x : Nat) : Prop :=
  let y := t.cx c x
  t.mem = s.mem ∧ y.st = .cancelled ∧ y.inflight = [] ∧ y.snap = [] ∧ y.snapT = [] ∧ y.pend = [] ∧ y.dloss = none ∧ y.resv = none ∧
  y.waits = [] ∧ y.watch = none ∧ y.budgetCause = false ∧ y.syncHold = none ∧ y.newBudget = none ∧
  (∀ e ∈ t.lands, ¬ (e.core = c ∧ e.ctx = x)) ∧ (∀ e ∈ t.walks, ¬ (e.core = c ∧ e.ctx = x)) ∧
  (∀ e ∈ t.msgs, ∀ slot sib h n r, e.msg ≠ .post slot sib h c x n (some r)) ∧ (∀ e ∈ t.migs, e.core = c → e.ctx = x → e.reg = none) ∧
  (∀ e ∈ t.revokes, e.core = c → e.ctx = x → e.pd = none) ∧
  t.accs = s.accs.map (fun a => if a.core = c ∧ a.ctx = x then { a with grp := none, acq := false } else a) ∧
  (∀ g, g ∈ t.groups ↔ g ∈ s.groups ∧ ¬ (g.core = c ∧ g.ctx = x)) ∧
  (∀ w ∈ (t.core c).armed, w.que = true ∨ w.who ≠ x) ∧
  ((∀ q < 8, cmdsOf s c q = []) → ∀ n, semOf t c n = match (s.cx c x).resv with
    | some (m, v) => if n = m then min (semOf s c n + v) (2 ^ 32 - 1) else semOf s c n
    | none => semOf s c n) ∧
  (∀ q < 8, (cmdsOf t c q).map (·.id) = (cmdsOf s c q).map (·.id) ∧
    (∀ m ∈ cmdsOf t c q, m.ctx = x → m.st ≠ 0 ∧ (m.st = 1 → q < 6 → m.stopping = true)) ∧
    ∀ m ∈ cmdsOf s c q, m.ctx = x → m.st = 0 → ∃ m' ∈ cmdsOf t c q, m'.id = m.id ∧ m'.st = 2 ∧ m'.status = 2) ∧
  ((s.core c).tiles.wf {} = true → (s.core c).mq = [] → ∀ p, ((t.core c).tiles.get {} p).holder = x →
    ((t.core c).tiles.get {} p).st = .free ∨ ((t.core c).tiles.get {} p).xcmd ≠ none) ∧
  (∀ b, t.bars.get none b = (s.bars.get none b).map (permanently s b (4 * c + x))) ∧
  ∀ z, z ≠ x → t.cx c z = s.cx c z

/-- The context is outside a trap. -/
def Outside (x : Ctx) : Prop := x.mode = false ∧ x.hdl = false

/-- READY, RUNNING or BLOCKED. -/
def Live (x : Ctx) : Prop := x.st = .ready ∨ x.st = .running ∨ x.st = .blocked

/-! ### Remote calls -/

/-- An executor (R394). -/
def execOf (s : State) (e : ExecId) : Exec := match e with | .vault v => s.vaultEx.get {} v | .hbm k => s.hbmEx.get {} k
def slotsOf (e : ExecId) : Nat := match e with | .vault _ => 8 | .hbm _ => 64

/-- The executor beside a byte of this chip (R395, R211). -/
def Beside (pa : Nat) (e : ExecId) : Prop :=
  (field 46 2 pa = 0 ∧ e = .vault (field 31 7 pa)) ∨ (field 46 2 pa = 1 ∧ e = .hbm (field 13 3 pa ^^^ field 16 3 pa))

/-- Entry `fn` of the callable table of an image is valid and names the byte offset `off` (R336). -/
def HasEntry (s : State) (img : Image) (fn off : Nat) : Prop :=
  let e := entryAt s (img.base + img.ctOff + 8 * fn)
  fn < img.ctN ∧ e.testBit 63 = true ∧ off = field 0 18 e

/-- The handles that a call names (R396). -/
def named (h nx xa xb : Nat) : List Nat := h :: ((if 1 ≤ nx then [xa] else []) ++ if 2 ≤ nx then [xb] else [])

/-- The status word of a reply slot (R400). -/
def ReplyWord (r : Reply) (w : Word) : Prop :=
  r.st < 4 → r.status < 2 ^ 8 → r.cause < 2 ^ 8 → r.nv < 2 ^ 3 → r.fn < 2 ^ 12 → r.seq < 2 ^ 16 →
    let f (lo len : Nat) := field lo len w.toNat
    f 62 2 = r.st ∧ (f 61 1 = 1 ↔ r.pend = true) ∧ f 56 5 = 0 ∧ f 48 8 = r.status ∧ f 40 8 = r.cause ∧ f 37 3 = r.nv ∧ f 32 5 = 0 ∧
    (∀ i < 4, f (28 + i) 1 = 1 ↔ ∃ v, r.vals[i]? = some v ∧ v.poison = true) ∧ f 16 12 = r.fn ∧ f 0 16 = r.seq

/-- A register of a callee (R401). -/
def calleeS (t : CallSlot) (n : Nat) : SVal := if n = 0 then {} else t.s.get {} n
def calleeP (t : CallSlot) (n : Nat) : Bool := if n = 0 then true else t.p.get false n
def calleeH (t : CallSlot) (n : Nat) : Handle := match n with | 0 => t.msg.target | 1 => t.msg.extra1.getD {} | _ => t.msg.extra2.getD {}

/-- The slot word `j` places further in address order, and the code at a place (R402). -/
def ahead (t : CallSlot) (j : Nat) : CallSlot := { t with pc := t.pc + 64 * ((t.word + j) / 8), word := (t.word + j) % 8 }
def codeAt (s : State) (t : CallSlot) : Word := wordOf (entryAt s (t.msg.img.base + t.msg.img.textOff + t.pc + 8 * t.word))

/-- The call stands before the word at `u`: the words from `t` to it are zero, and it is not, or lies outside the text (R402). -/
def Reaches (s : State) (t u : CallSlot) : Prop :=
  t.word < 8 ∧ ∃ j, u = ahead t j ∧ (∀ i < j, (ahead t i).pc + 64 ≤ t.msg.img.textLen ∧ codeAt s (ahead t i) = 0) ∧
    (u.pc + 64 ≤ t.msg.img.textLen → codeAt s u ≠ 0)

/-- The opcodes of the remote subset (R403). -/
def inSubset (o : Nat) : Prop :=
  (1 ≤ o ∧ o ≤ 3) ∨ (0x0A ≤ o ∧ o ≤ 0x21) ∨ (0x24 ≤ o ∧ o ≤ 0x2C) ∨ o ∈ [0x2F, 0x40, 0x140, 0x147, 0x180, 0x183, 0x214] ∨ (0x185 ≤ o ∧ o ≤ 0x18F)

/-- The call of a slot to a peer chip is no longer out (R399). -/
def cameBack (c x y seq : Nat) (s : State) : State :=
  { s with away := s.away.filter fun e => decide (¬ (e.2.core = c ∧ e.2.ctx = x ∧ e.2.slot = y ∧ e.2.seq = seq)) }

/-- The call in slot `n` ends, once its stores to its target page have performed: the slot is free, and its caller is sent the reply, with PEND
where other stores of the call have not performed; a command of cq6 takes the status (R200, R406 to R408, R413). -/
def CallEnds (s : State) (i : Instr) (e : ExecId) (n : Nat) (t : CallSlot) (status cause : Nat) (vals : List SVal) : Prop :=
  let waits := ∃ z ∈ s.callStores, z.call = t.id ∧ z.target = true
  (waits → exec i s = .next s) ∧ (¬ waits →
  ∃ u, exec i s = .next u ∧ u.mem = s.mem ∧ (∀ j, (execOf u e).slot j = if j = n then none else (execOf s e).slot j) ∧
    (t.msg.cmd = none → ∃ p : Bool, (p = true ↔ ∃ z ∈ s.callStores, z.call = t.id) ∧
      (t.msg.chip = s.chip → u.msgs = s.msgs ++ [⟨s.ids, s.cycle, .reply t.msg t.id status cause vals p⟩]) ∧
      u.pendCalls = s.pendCalls ++ if p then [(t.id, t.msg)] else []) ∧
    ∀ q, t.msg.cmd = some q → u.msgs = s.msgs ∧ ∀ m ∈ cmdsOf u t.msg.core 6, m.id = q →
      m.note = true ∧ m.status = status ∧ m.detail = cause ∧ m.values = vals)

/-- The call executes a word and goes on one word later (R394, R402). -/
def CallGoes (s : State) (e : ExecId) (n : Nat) (t : CallSlot) (P : State → CallSlot → Prop) : Prop :=
  ∃ u t', exec (.remoteCallWord e n) s = .next u ∧ (execOf u e).slot n = some t' ∧ t'.id = t.id ∧ t'.msg = t.msg ∧ t'.words = t.words + 1 ∧
    t'.readyAt = (match e with | .vault _ => s.now + 1 | .hbm _ => s.now + 36) ∧ P u t'

/-- At the next word, the registers as given. -/
def onward (t t' : CallSlot) (sv : Nat → SVal) (pv : Nat → Bool) : Prop :=
  t'.pc = (ahead t 1).pc ∧ t'.word = (ahead t 1).word ∧ (∀ r, calleeS t' r = sv r) ∧ ∀ r, calleeP t' r = pv r

/-- A register of the callee takes a value; s0 does not. -/
def setS (t : CallSlot) (d : Nat) (v : SVal) (r : Nat) : SVal := if r = d ∧ r ≠ 0 then v else calleeS t r

/-- The first start check of a command of KIND 2 that fails (R413). -/
noncomputable def vxFirst (s : State) (c : Nat) (m : Cmd) : Option Nat :=
  let w1 := m.w1.toNat
  let nx := field 58 2 w1
  let snap (n : Nat) := m.snaps.get {} n
  let rh := snap (field 60 4 m.w2.toNat)
  let hs := (field 60 4 w1 :: field 60 4 m.w2.toNat :: ((if 1 ≤ nx then [field 54 4 w1] else []) ++ if 2 ≤ nx then [field 50 4 w1] else [])).map snap
  let roff := field 0 33 m.w2.toNat
  let near (h : Handle) := ∀ a ∈ [h.frame, h.frame + pageOf h.size - 1], field 46 2 h.frame = 0 ∧ field 31 7 a = c
  open Classical in
  if field 33 5 w1 ≠ 0 ∨ field 33 27 m.w2.toNat ≠ 0 ∨ nx = 3 ∨ (nx = 0 ∧ field 54 4 w1 ≠ 0) ∨ (nx < 2 ∧ field 50 4 w1 ≠ 0) ∨
      ¬ ∃ k off, s.tasks.get none m.task = some k ∧ HasEntry s k.img (field 38 12 w1) off then some 3
  else if ∃ h ∈ hs, h.valid = false then some 0x0A
  else if ∃ h ∈ hs, h.lost = true then some 0x0D
  else if rh.w = false ∨ ∃ h ∈ hs, field 46 2 h.frame = 3 then some 9
  else if ¬ near (snap (field 60 4 w1)) ∨ ¬ near rh then some 3
  else if roff % 32 ≠ 0 then some 5
  else if pageOf rh.size < roff + 32 then some 0x0A
  else if ∃ w, s.empty.get false w = true ∧ rh.frame + roff < 8 * w + 8 ∧ 8 * w < rh.frame + roff + 32 then some 3
  else none

/-! ### Traps and contexts -/

/-- The registers of a trap entry from `y` (R313): CAUSE, SLOTMASK, BADADDR where one is given, TRAPPC and FQ; RUNTIME mode; the runtime
vector. -/
def TrapRegs (y z : Ctx) (cause mask : Nat) (bad : Option Word) : Prop :=
  z.mode = true ∧ z.nfq = 3 ∧ z.fq1 = y.f1 ∧ z.fq2 = y.f2 ∧ z.fq3 = y.f3 ∧ z.f0 = 0x3C000 ∧ z.f1 = 0x3C040 ∧ z.f2 = 0x3C080 ∧ z.f3 = 0x3C0C0 ∧
  ∀ n, z.ctl.get 0 n = if n = 6 then wordOf cause else if n = 7 then wordOf mask else if n = 8 then wordOf y.f0
    else if n = 9 then bad.getD (y.ctl.get 0 9) else y.ctl.get 0 n

/-- Results as the snapshot of a context keeps them: counted from the next bundle to commit (R89). -/
def frozen (y : Ctx) : List Res := y.inflight.map fun r => { r with due := r.due - y.step + 1 }

/-- A context of KERNEL mode after a trap entry: the trap registers, the snapshot, and nothing else (R313). -/
def Trapped (y z : Ctx) (cause mask : Nat) (bad : Option Word) : Prop :=
  TrapRegs y z cause mask bad ∧
  z = { y with mode := true, nfq := 3, fq1 := y.f1, fq2 := y.f2, fq3 := y.f3, f0 := z.f0, f1 := z.f1, f2 := z.f2, f3 := z.f3, ctl := z.ctl,
               inflight := [], snap := y.snap ++ frozen y, resv := none,
               dloss := if cause = 0x0D ∧ mask = 0x80 then none else y.dloss }

/-- The context after its bundle has committed, with no branch: the step and the fetch sequence have advanced (R76, R86). -/
def advanced (s : State) (y : Ctx) : Ctx :=
  { y with step := y.step + 1, pstep := if y.mode = true ∨ y.hdl = true then y.pstep else y.pstep + 1,
           f0 := y.f1, f1 := y.f2, f2 := y.f3, f3 := (y.f3 + 64) % 2 ^ 64, resv := none,
           commits := s.cycle :: y.commits.filter fun t => decide (s.cycle < t + 64) }

/-- The fetch sequence after a return (R316): `pc`, then the valid entries of FQ, then in sequence. -/
def Resumes (z : Ctx) (pc nfq fq1 fq2 fq3 : Nat) : Prop :=
  z.f0 = pc ∧ z.f1 = (if 1 ≤ nfq then fq1 else z.f0 + 64) ∧ z.f2 = (if 2 ≤ nfq then fq2 else z.f1 + 64) ∧
  z.f3 = if 3 ≤ nfq then fq3 else z.f2 + 64

/-- A reserved decrement of context `x` has returned to its semaphore (R239). -/
def Returned (s t : State) (c x : Nat) : Prop :=
  ∀ n, semOf t c n = match (s.cx c x).resv with
    | some (m, v) => if n = m then min (semOf s c n + v) (2 ^ 32 - 1) else semOf s c n
    | none => semOf s c n

/-- Cycles from one core to another (R329). -/
def distance (o c : Nat) : Nat := if o = c then 2 else if cluster o = cluster c then 10 else if o / 64 = c / 64 then 24 else 40

/-- A context that has been frozen (R89, R310). -/
def Frozen (y z : Ctx) : Prop :=
  z = { y with st := .frozen, inflight := [], resv := none,
               snap := if y.mode = true ∨ y.hdl = true then y.snap else y.snap ++ frozen y,
               snapT := if y.mode = true ∨ y.hdl = true then y.snapT ++ frozen y else y.snapT }

/-- The word of `wset` names a watched word: its SP bit and its address (R327). -/
def Watched (c : Nat) (w : Word) (sp : Bool) (a : Nat) : Prop :=
  let f (lo len : Nat) := field lo len w.toNat
  f 0 3 = 0 ∧ sp = w.getLsbD 63 ∧
  (sp = true → f 23 40 = 0 ∧ a = f 0 23) ∧ (sp = false → f 48 15 = 0 ∧ f 46 2 = 0 ∧ f 38 8 = 0 ∧ f 31 7 = c ∧ a = f 0 48)

/-- The agent of a hit: its code, core and unit (R446). -/
def agentOf : Agent → Nat × Nat × Nat
  | .context c x => (0, c, x)
  | .channel c q => (1, c, q)
  | .sequencer c q => (2, c, q)
  | .vaultExec c u => (3, c, u)
  | .hbmExec k => (3, k, 2)
  | .message c x => (4, c, x)
  | .host => (5, 0, 0)
  | .pgmig c x => (6, c, x)
  | .reclaimer c => (7, c, 0)
  | .notify c => (8, c, 0)

/-- The guidon of a watchpoint selects context `x` of core `d` (R327, R329). -/
def Chosen (s : State) (o : Nat) (w : Watch) (d x : Nat) : Prop :=
  if w.dsel < 64 then InMasks (s.doms.get {} w.dsel) d x ∧ d < 128 ∧ x < 4
  else w.dsel ∈ [0x80, 0x81, 0x82, 0x83] ∧ ∃ e ∈ s.tasks, ∃ k, e.2 = some k ∧ k.launch = w.launch ∧ k.ended = false ∧ k.saved = false ∧ k.core = d ∧ x ∈ k.ctxs ∧
    (w.dsel = 0x80 → o = d) ∧ (w.dsel = 0x81 → cluster o = cluster d) ∧ (w.dsel = 0x82 → o / 64 = d / 64)

/-! ### Kernels and launches -/

/-- Word 0 of a launch record keeps to its layout (R339). -/
def Word0 (w : Word) : Prop :=
  let f (lo len : Nat) := field lo len w.toNat
  f 0 8 = 0 ∧ f 25 7 = 0 ∧ f 46 2 ≠ 3 ∧ (f 8 8 < 64 ∨ f 8 8 = 0xFF) ∧
  (f 39 1 = 1 → 1 ≤ f 16 9 ∧ f 16 9 ≤ 64 ∧ 1 ≤ f 32 7 ∧ f 32 7 ≤ f 16 9) ∧ (f 39 1 = 0 → 1 ≤ f 16 9 ∧ f 16 9 ≤ 128 ∧ f 32 7 = 0)

/-- Word `i` of a record, and fields of its word 0 (R339). -/
def recordWord (r : Record) (i : Nat) : Word := (r.words[i]?).getD 0
def r0 (r : Record) (lo len : Nat) : Nat := field lo len (recordWord r 0).toNat
def classOf (r : Record) : Nat := r0 r 49 3

/-- The completion record of a record that has not run (R245, R247). -/
def unrun (r : Record) (status cause : Nat) : CRec :=
  { words := [wordOf (status * 2 ^ 48 + cause * 2 ^ 40 + r.lq % 32 * 2 ^ 32 + r.seq % 2 ^ 32), recordWord r 5,
      wordOf (r.reruns % 256 * 2 ^ 56 + classOf r * 2 ^ 48)] ++ List.replicate 13 0 }

/-- The record of words `l` arrives at queue `q`, which accepts it or not (R243, R245, R247). -/
def Enters (s t : State) (q : Nat) (l : List Word) (ok : Bool) : Prop :=
  let r : Record := ⟨s.seq, l, q, 0, none⟩
  let u := s.lqs.get {} q
  let n := u.recs.length
  let cand (v : Record) := (v ∈ u.recs ∨ v = r) ∧ (recordWord v 0).getLsbD 48 = true ∧ classOf v ≤ classOf r
  let below := n < min ((u.thr[classOf r]?).getD 256) 256
  let holds (v : LQueue) (h : List CRec) := t = { s with seq := (s.seq + 1) % 2 ^ 32, lqs := t.lqs, holding := t.holding } ∧
    (∀ k, k ≠ q → t.lqs.get {} k = s.lqs.get {} k) ∧ t.lqs.get {} q = v ∧ t.holding = s.holding ++ h
  let accepts := ok = true ∧ holds { u with recs := u.recs ++ [r] } []
  let refuses := ok = false ∧ holds { u with refused := (u.refused + 1) % 2 ^ 16 } [unrun r 1 0xFF]
  (u.en = false → refuses) ∧ (u.en = true → below → accepts) ∧
  (u.en = true → ¬ below → (∀ v, ¬ cand v) → (n < 256 → accepts) ∧ (256 ≤ n → refuses)) ∧
  (u.en = true → ¬ below → ((u.recs ++ [r]).map (·.seq)).Nodup → ∀ before v after, u.recs ++ [r] = before ++ v :: after → cand v →
    (∀ w, cand w → classOf v ≤ classOf w) →
    (∀ w ∈ (if u.policy then after else before), cand w → classOf v < classOf w) →
      (ok = true ↔ v ≠ r) ∧
      (v.resume = none → holds { u with shedc := (u.shedc + 1) % 2 ^ 16, recs := before ++ after } [unrun v 3 0]) ∧
      ∀ n k, v.resume = some n → s.tasks.get none n = some k → k.saved = true → t.seq = (s.seq + 1) % 2 ^ 32 ∧ t.holding = s.holding ∧
        (t.lqs.get {} q).shedc = (u.shedc + 1) % 2 ^ 16 ∧ v ∉ (t.lqs.get {} q).recs ∧ r ∈ (t.lqs.get {} q).recs ∧
        t.launches.get none k.launch = (s.launches.get none k.launch).map fun l => { l with status := 3, cause := 0 })

/-- The context has committed its last bundle and is DONE (R310, R351): every result in flight has landed, and a register without one keeps its
value. -/
def EndsDone (s t : State) : Prop :=
  let y := s.me
  let z := t.me
  t.mem = s.mem ∧ t.host = s.host ∧ z.st = .done ∧ z.inflight = [] ∧ z.step = y.step + 1 ∧ z.mode = y.mode ∧ z.hdl = y.hdl ∧ z.pend = y.pend ∧
  (∀ n, (∀ r ∈ y.inflight, r.reg ≠ .s n) → z.s.get {} n = y.s.get {} n) ∧ (∀ n, (∀ r ∈ y.inflight, r.reg ≠ .p n) → z.p.get false n = y.p.get false n) ∧
  (∀ n, (∀ r ∈ y.inflight, r.reg ≠ .v n) → z.v.get {} n = y.v.get {} n)

/-- Entries of the completion ring (R246). -/
def ringEntries (s : State) : Nat := if 5 ≤ s.crLog ∧ s.crLog ≤ 16 then 2 ^ s.crLog else 32

/-- Bytes of device memory as a number (R4). -/
def memNum (s : State) (a n : Nat) : Nat := number n fun i => s.mem.get 0 (a + i)

/-- The lowest-numbered declared bank (R338). -/
def Lowest (banks low : Nat) : Prop := banks.testBit low = true ∧ ∀ j < low, banks.testBit j = false

/-- A byte offset of a bundle of `.text` (R336, R338). -/
def bundleOf (m : Image) (o : Nat) : Prop := o % 64 = 0 ∧ o < m.textLen

/-- Entry `kid` of the kernel table is valid, and the loader accepts the image that it names, whose header fields are those of `m` (R336 to R338). -/
def ImageAt (s : State) (kid : Nat) (m : Image) : Prop :=
  let e := field 13 35 s.ktBase.toNat * 2 ^ 13 + 32 * kid
  let h (o n : Nat) := memNum s (m.base + o) n
  (memNum s (e + 8) 8).testBit 63 = true ∧ m.base = field 0 48 (memNum s e 8) ∧ m.len = field 0 32 (memNum s (e + 8) 8) ∧
  (m.entry = h 0x10 8 ∧ m.textOff = h 0x18 4 ∧ m.textLen = h 0x1C 4 ∧ m.roOff = h 0x20 4 ∧ m.roLen = h 0x24 4 ∧ m.ctOff = h 0x28 4 ∧ m.ctN = h 0x2C 4 ∧
    m.ctx = h 0x30 1 ∧ m.tiles = h 0x31 1 ∧ m.banks = h 0x32 1 ∧ m.handles = h 0x33 1 ∧ (m.ckpt = true ↔ h 0x34 1 ≠ 0) ∧ m.queues = h 0x35 1 ∧
    m.semLo = h 0x36 1 ∧ m.semHi = h 0x37 1 ∧ m.xbarrays = h 0x38 4 ∧
    m.handler = if (h 0x40 8).testBit 63 then some (field 0 18 (h 0x40 8)) else none) ∧
  h 0 8 = 0x010058455441424D ∧ h 8 4 = 1 ∧ h 0x34 1 ≤ 1 ∧
  (1 ≤ m.ctx ∧ m.ctx ≤ 4 ∧ m.tiles ≤ 8 ∧ m.banks ≤ 15 ∧ m.handles ≤ 16 ∧ (m.semLo ≤ m.semHi ∨ (m.semLo = 0xFF ∧ m.semHi = 0))) ∧
  (m.textLen % 64 = 0 ∧ 64 ≤ m.textLen ∧ m.textLen ≤ 0x3C000 ∧ m.roLen ≤ 2 ^ 23 ∧ m.ctN ≤ 4096) ∧
  (256 ≤ m.len ∧ m.textOff + m.textLen ≤ m.len ∧ m.roOff + m.roLen ≤ m.len ∧ m.ctOff + 8 * m.ctN ≤ m.len ∧
    ((h 8 8).testBit 32 = true → h 0x50 4 + h 0x54 4 ≤ m.len)) ∧
  (m.banks = 0 → m.roLen = 0) ∧ (∀ low, Lowest m.banks low → ∀ o < m.roLen, low + o / 2 ^ 21 < 4 ∧ m.banks.testBit (low + o / 2 ^ 21) = true) ∧
  bundleOf m m.entry ∧ (∀ o, m.handler = some o → bundleOf m o) ∧
  ∀ i < m.ctN, (h (m.ctOff + 8 * i) 8).testBit 63 = true → field 0 18 (h (m.ctOff + 8 * i) 8) < m.textLen

/-- Input copy `i` of a record is valid; its length, its offset, and the scratchpad bytes that it covers (R339, R343). -/
def copyValid (r : Record) (i : Nat) : Prop := i < 5 ∧ (recordWord r (7 + 2 * i)).getLsbD 63 = true
def lengthOf (r : Record) (i : Nat) : Nat := field 24 24 (recordWord r (7 + 2 * i)).toNat
def placeOf (r : Record) (i : Nat) : Nat := field 0 23 (recordWord r (7 + 2 * i)).toNat
def Covers (r : Record) (i o : Nat) : Prop := copyValid r i ∧ placeOf r i ≤ o ∧ o < placeOf r i + lengthOf r i

/-- A launch record keeps to its layout (R339). -/
def RecordOk (r : Record) : Prop :=
  let f (i lo len : Nat) := field lo len (recordWord r i).toNat
  Word0 (recordWord r 0) ∧ f 2 48 16 = 0 ∧ f 3 48 16 = 0 ∧
  ∀ i < 5, f (7 + 2 * i) 48 15 = 0 ∧ f (7 + 2 * i) 23 1 = 0 ∧
    (copyValid r i → lengthOf r i % 64 = 0 ∧ placeOf r i % 64 = 0 ∧ lengthOf r i ≤ 2 ^ 23)

/-- A task holds resources of core `c`, less the tasks that count as gone (R340, R345). -/
def Holder (s : State) (c : Nat) (gone : List Nat) (k : Task) : Prop :=
  ∃ n, (n, some k) ∈ s.tasks ∧ n ∉ gone ∧ k.core = c ∧ k.freed = false ∧ k.saved = false

/-- A run of instruction memory is free (R340). -/
def RunFree (s : State) (c : Nat) (gone : List Nat) (len a : Nat) : Prop :=
  a + len ≤ 0x3C000 ∧ ∀ k, Holder s c gone k → a + len ≤ k.tb ∨ k.tb + k.img.textLen ≤ a

/-- Core `c` has room for a task of image `m`, and the place that it takes: the lowest-numbered free contexts and tiles, and the lowest free run of
instruction memory, or the run at `old` (R340, R343). -/
def Room (s : State) (c : Nat) (m : Image) (old : Option Nat) (gone : List Nat) (p : Spot) : Prop :=
  open Classical in
  let free (f : Task → List Nat) (n : Nat) := (List.range n).filter fun x => decide (∀ k, Holder s c gone k → x ∉ f k)
  (s.core c).inReset = false ∧ p.core = c ∧
  (∀ k, Holder s c gone k → k.drain = [] ∧ m.banks &&& k.img.banks = 0 ∧ m.queues &&& k.img.queues = 0 ∧ m.xbarrays &&& k.img.xbarrays = 0 ∧
    (m.tiles = 0 ∨ k.img.tiles = 0) ∧
    ¬ (m.semLo ≤ m.semHi ∧ k.img.semLo ≤ k.img.semHi ∧ m.semLo ≤ k.img.semHi ∧ k.img.semLo ≤ m.semHi)) ∧
  p.ctxs = (free Task.ctxs 4).take m.ctx ∧ p.ctxs.length = m.ctx ∧ p.tiles = (free Task.tiles 8).take m.tiles ∧ p.tiles.length = m.tiles ∧
  RunFree s c gone m.textLen p.tb ∧ (∀ a, old = some a → p.tb = a) ∧ (old = none → ∀ a < p.tb, ¬ RunFree s c gone m.textLen a)

/-- Cores at lesser distance from core `f` come first, those of the other die last, and of two at one distance the lower number (R342). -/
def away (f n : Nat) : Nat :=
  (if f / 64 = n / 64 then 0 else 64) + ((f % 8 - n % 8) + (n % 8 - f % 8)) + ((f % 64 / 8 - n % 64 / 8) + (n % 64 / 8 - f % 64 / 8))
def Nearer (f a b : Nat) : Prop := away f a < away f b ∨ (away f a = away f b ∧ a < b)

/-- The core from which a record's cores are tried (R342). -/
def Preferred (s : State) (r : Record) (has : Nat → Prop) (f : Nat) : Prop :=
  let va := recordWord r 1
  (va = 0 ∧ f = 0) ∨ ∃ e a, va ≠ 0 ∧ Translates s va (recordWord r 4) e a ∧ e.testBit 7 = false ∧
    let pa := field 13 35 e * 2 ^ 13 + va.toNat % pageOf (field 2 2 e)
    (field 46 2 pa = 0 → f = field 31 7 pa) ∧ (2 ≤ field 46 2 pa → f = 0) ∧
    (field 46 2 pa = 1 →
      let mine (c : Nat) := c < 128 ∧ cluster c = field 13 3 pa ^^^ field 16 3 pa
      mine f ∧ ((has f ∧ ∀ c < f, mine c → ¬ has c) ∨ ((∀ c, mine c → ¬ has c) ∧ ∀ c < f, ¬ mine c)))

/-- The place of the first task of a record (R342). -/
def FirstPlace (s : State) (f : Nat) (m : Image) (gone : List Nat) (p : Spot) : Prop :=
  p.core < 128 ∧ Room s p.core m none gone p ∧ ∀ c < 128, c ≠ p.core → (∃ q, Room s c m none gone q) → Nearer f p.core c

/-- `r` is the first of the records that wait (R341). -/
def First (s : State) (r : Record) : Prop :=
  (∃ e ∈ s.lqs, r ∈ e.2.recs) ∧
  ∀ e ∈ s.lqs, ∀ r' ∈ e.2.recs, r' ≠ r → classOf r' < classOf r ∨ (classOf r' = classOf r ∧ r.seq < r'.seq)

/-- The scheduler may act, and `r` is that record (R337, R341, R248, R438). -/
def Turns (s : State) (r : Record) : Prop :=
  s.ktBase.getLsbD 0 = true ∧ s.holding.length < 512 ∧ s.mg.power ∈ [Power.a0, .a1, .a2, .a3] ∧ s.mg.capHold = false ∧ First s r

/-- The record leaves its queue. -/
def Dequeued (s t : State) (r : Record) : Prop := (t.lqs.get {} r.lq).recs = (s.lqs.get {} r.lq).recs.filter fun e => decide (e ≠ r)

/-- A virtual address of a record's space reaches a byte of memory that can be copied (R343). -/
def Reads (s : State) (r : Record) (va : Word) (q : Nat) : Prop :=
  ∃ e a, Translates s va (recordWord r 4) e a ∧ e.testBit 7 = false ∧ field 46 2 e < 3 ∧ s.lostAt q = false ∧
    q = field 13 35 e * 2 ^ 13 + va.toNat % pageOf (field 2 2 e)

/-- The declared banks of a core as a task finds them: `.rodata` at the base of the lowest, over it the input copies, 0 elsewhere (R338, R343). -/
def BanksLoaded (s : State) (r : Record) (m : Image) (k k' : Core) : Prop :=
  ∀ o,
    (m.banks.testBit (o / 2 ^ 21) = false → k'.spad.get 0 o = k.spad.get 0 o) ∧
    (m.banks.testBit (o / 2 ^ 21) = true → o < 2 ^ 23 →
      (∀ i q, Covers r i o → (∀ j, i < j → ¬ Covers r j o) → Reads s r (recordWord r (6 + 2 * i) + wordOf (o - placeOf r i)) q →
        k'.spad.get 0 o = s.mem.get 0 q) ∧
      ((∀ i, ¬ Covers r i o) → ∀ low, Lowest m.banks low → s.lostAt (m.base + m.roOff) = false →
        k'.spad.get 0 o = if 2 ^ 21 * low ≤ o ∧ o < 2 ^ 21 * low + m.roLen then s.mem.get 0 (m.base + m.roOff + (o - 2 ^ 21 * low)) else 0))

/-- The maps of a core that a placement copies are in canonical form. -/
def Tidy (k : Core) : Prop := k.imem.wf 0 = true ∧ k.shadow.wf 0 = true ∧ k.spad.wf 0 = true

/-- The one task of a record without a group or a domain is placed (R343). -/
def Placed (s t : State) (r : Record) (m : Image) (p : Spot) : Prop :=
  let k := s.core p.core
  let k' := t.core p.core
  let w (i lo len : Nat) := field lo len (recordWord r i).toNat
  let served := ∃ q, k.pre = some q ∧ q.lq = r.lq ∧ q.seq = r.seq ∧ q.stale = false
  let start := p.tb + m.entry
  t.mem = s.mem ∧ t.holding = s.holding ∧ Dequeued s t r ∧ (∀ c, c ≠ p.core → t.core c = s.core c) ∧
  (∃ l n, t.launches.get none l = some { seq := r.seq, lq := r.lq, words := r.words, kid := w 0 52 12, cls := classOf r, img := m, tasks := [n], reruns := r.reruns } ∧
    t.tasks.get none n = some { launch := l, core := p.core, ctxs := p.ctxs, img := m, tiles := p.tiles, tb := p.tb, budget := w 2 0 48,
                                unlimited := decide (w 2 0 48 = 0), est := w 3 0 48, estAt := s.cycle, placedAt := n } ∧
    ∀ x ∈ p.ctxs, let y := t.cx p.core x
      y = ({ st := .loaded, step := (s.cx p.core x).step, sR := (s.cx p.core x).sR, pR := (s.cx p.core x).pR, ctl := y.ctl, readyAt := s.cycle,
             task := some n, f0 := start, f1 := start + 64, f2 := start + 128, f3 := start + 192 } : Ctx) ∧
      ∀ i, y.ctl.get 0 i = if i = 0x10 then 0xFF else if i = 0x11 then 1000000
        else if i = 0x12 then (match m.handler with | some o => wordOf (2 ^ 63 + p.tb + o) | none => 0) else 0) ∧
  (∀ x, x ∉ p.ctxs → k'.xroot.get 0 x = k.xroot.get 0 x) ∧
  (∀ x ∈ p.ctxs, ∀ b < 64, (k'.xroot.get 0 x).getLsbD b = ((recordWord r 4).getLsbD b && decide (b = 0 ∨ (13 ≤ b ∧ b < 48) ∨ 52 ≤ b))) ∧
  (∀ i, k'.sems.get 0 i = if m.semLo ≤ i ∧ i ≤ m.semHi then 0 else k.sems.get 0 i) ∧
  (∀ q ∈ p.tiles, (k'.tiles.get {} q).st = .free) ∧ (m.tiles ≠ 0 → k'.act = {} ∧ k'.shd = {}) ∧
  (∀ i, (i < p.tb ∨ p.tb + m.textLen ≤ i) → k'.imem.get 0 i = k.imem.get 0 i) ∧
  (served → k'.pre = none ∧ k'.spad = k.spad ∧ ∀ i < m.textLen, k'.imem.get 0 (p.tb + i) = k.shadow.get 0 i) ∧
  (¬ served → BanksLoaded s r m k k' ∧ ∀ i < m.textLen, k'.imem.get 0 (p.tb + i) = s.mem.get 0 (m.base + m.textOff + i))

/-- A task may be a victim of record `r` (R345). -/
def Candidate (s : State) (r : Record) (n : Nat) (k : Task) (l : Launch) : Prop :=
  (n, some k) ∈ s.tasks ∧ k.freed = false ∧ k.saved = false ∧ s.launches.get none k.launch = some l ∧ l.cls < classOf r ∧
  field 46 2 ((l.words[0]?).getD 0).toNat ≠ 2

/-- The first candidate by the keys of R345: the lowest class, the core that comes first from `f`, the task placed last. -/
def FirstVictim (s : State) (r : Record) (f n : Nat) (k : Task) (l : Launch) : Prop :=
  Candidate s r n k l ∧ k.core < 128 ∧ ∀ n' k' l', Candidate s r n' k' l' → n' ≠ n → k'.core < 128 ∧
    (l.cls < l'.cls ∨ (l.cls = l'.cls ∧ (Nearer f k.core k'.core ∨ (k.core = k'.core ∧ k'.placedAt < k.placedAt))))

/-- The contexts of a task have ended, and nothing is pending for those that are DONE (R347). -/
def Ended (s : State) (k : Task) : Prop :=
  k.saved = false ∧ ∀ x ∈ k.ctxs, let y := s.cx k.core x
    y.st = .cancelled ∨ (y.st = .done ∧ y.pend = [])

/-- The cause that a DONE context still holds: a deferred loss, or the first translation fault (R347). -/
def leftCause (y : Ctx) : Option Nat := if y.st ≠ .done then none else if y.dloss ≠ none then some 0x0D else (y.xfaults.head?).map (·.cause)

/-- How a launch ends (R346 to R348, R351, R379): none for a rerun, else STATUS and CAUSE. -/
def endingOf (l : Launch) (won : Bool) : Option (Nat × Nat) :=
  let w := ((l.words[0]?).getD 0).toNat
  let more := l.reruns < field 40 6 w
  if l.failed = true then (if l.retry = true ∧ more then none else some (1, 0))
  else if won = true then some (0, 0)
  else if l.status ≠ 0 then some (l.status, l.cause)
  else if l.killed = true then (if field 46 2 w = 0 ∧ more ∧ field 39 1 w = 0 then none else some (2, 0))
  else some (0, 0)

/-- The files of a context list registers that exist, in canonical form. -/
def Bounded (y : Ctx) : Prop :=
  y.s.wf {} = true ∧ y.v.wf {} = true ∧ (∀ e ∈ y.s, e.1 < 64) ∧ (∀ e ∈ y.v, e.1 < 64) ∧ (∀ e ∈ y.h, e.1 < 16) ∧ ∀ e ∈ y.y, e.1 < 32

/-- Nothing of a core or of the units beside it is under way, and no command of the task waits (R324). -/
def Still (s : State) (c n : Nat) : Prop :=
  s.accs = [] ∧ s.groups = [] ∧ s.lands = [] ∧ s.walks = [] ∧ s.migs = [] ∧ s.revokes = [] ∧ (s.core c).mq = [] ∧ (s.core c).pipe = [] ∧
  (s.core c).armed = [] ∧ ∀ q < 8, ∀ m ∈ cmdsOf s c q, m.task ≠ n

/-! ### Halyards, links and management -/

/-- The state of halyard `n` of a vault, by the codes of HSTATE (R225). -/
def halOf (s : State) (c n : Nat) : Nat := (s.core c).hal.get (if n < 16 then 0 else 5) n

/-- Halyards take states, each change reported, and the spares serve quarters as given (R226). -/
def HalMoves (s t : State) (c : Nat) (l : List (Nat × Nat)) (s16 s17 : Option Nat) : Prop :=
  t.mem = s.mem ∧ (∀ d, d ≠ c → halOf t d = halOf s d) ∧ (∀ e ∈ l, halOf t c e.1 = e.2) ∧ (∀ m, (∀ e ∈ l, e.1 ≠ m) → halOf t c m = halOf s c m) ∧
  (t.core c).sp16 = s16 ∧ (t.core c).sp17 = s17 ∧ s.escs.length + l.length ≤ t.escs.length

/-- The lowest-numbered IDLE spare. -/
def FreeSpare (s : State) (c sp : Nat) : Prop := (sp = 16 ∧ halOf s c 16 = 5) ∨ (sp = 17 ∧ halOf s c 16 ≠ 5 ∧ halOf s c 17 = 5)
def NoSpare (s : State) (c : Nat) : Prop := halOf s c 16 ≠ 5 ∧ halOf s c 17 ≠ 5

/-- A quarter of vault `c` is lost: LOSTQ and RETQ, and LOST in every handle register of a context whose frame meets it (R228). -/
def QuarterLost (s t : State) (c q : Nat) : Prop :=
  (∀ b < 16, ((t.core c).lostq.getLsbD b = true ↔ (s.core c).lostq.getLsbD b = true ∨ b = q)) ∧
  (∀ b < 16, ((t.core c).retq.getLsbD b = true ↔ (s.core c).retq.getLsbD b = true ∨ b = q)) ∧
  ∀ d x n, let h := (s.cx d x).h.get {} n
    field 46 2 h.frame = 0 → field 31 7 h.frame = c → h.valid = true → h.size = 0 → h.frame < 2 ^ 48 → h.frame % 2 ^ 13 = 0 →
      (t.cx d x).h.get {} n = if field 27 4 h.frame = q then { h with lost := true } else h

/-- A link, and its change: alone, or with the state change reported (R420). -/
def linkOf (s : State) (l : Nat) : Link := s.links.get {} l
def LinkTo (s t : State) (l : Nat) (v : Link) : Prop := linkOf t l = v ∧ (∀ j, j ≠ l → linkOf t j = linkOf s j) ∧ t = { s with links := t.links }
def LinkMoves (s t : State) (l : Nat) (v : Link) : Prop :=
  linkOf t l = v ∧ (∀ j, j ≠ l → linkOf t j = linkOf s j) ∧ t = { s with links := t.links, escs := t.escs, msix1 := s.msix1 + 1 } ∧
  t.escs.length = s.escs.length + 1

/-- A link that is FAILED or DOWN has lost the flits of its buffers (R421). -/
def cut (v : Link) (st : LState) : Link :=
  { v with st := st, width := 0, out := [], retry := [], rx := [], stopTx := 0, stopRx := 0, discarding := false, tries := 0 }

/-- UP or DEGRADED. -/
def Carries (v : Link) : Prop := v.st = .up ∨ v.st = .degraded

/-- STOP and GO of a channel after a flit has entered its buffer (R419). -/
def FlowOf (v w : Link) (vc : Nat) : Prop :=
  let free := 256 - (w.rx.get [] vc).length
  ∀ i < 3, w.stopTx.getLsbD i = if i = vc then (if free ≤ 96 then true else if 160 ≤ free then false else v.stopTx.getLsbD i) else v.stopTx.getLsbD i

/-- The code of a power state, and the operating points (R436). -/
def powerNumber : Power → Nat
  | .off => 0 | .standby => 1 | .idle => 2 | .a0 => 3 | .a1 => 4 | .a2 => 5 | .a3 => 6
def atPoint (p : Power) : Prop := p ∈ [Power.a0, .a1, .a2, .a3]

/-- Command `op` runs and nothing has been decided for it yet (R434, R435). -/
def Commanded (s : State) (op : Nat) : Prop := s.mg.mbst = 1 ∧ s.mg.outcome = none ∧ s.mg.moving = false ∧ s.mg.op = op

/-- The arguments lie within the table of R435. -/
def Arguments (op : Nat) (a b : Word) : Prop :=
  (op = 1 ∧ a.toNat ≤ 6 ∧ b = 0) ∨ (op = 2 ∧ a.toNat ≤ 2047 ∧ b = 0) ∨ (op = 3 ∧ b = 0) ∨ (op = 4 ∧ a.toNat < 4096 ∧ b = 0) ∨
  (op = 5 ∧ ((a = 0 ∧ b = 0) ∨ (a = 1 ∧ b.toNat < 128))) ∨ op = 6

/-- The command will end DONE with a RESULT, or REFUSED with a REASON. -/
def willBe (st reason result : Nat) (m : Mgmt) : Mgmt := { m with outcome := some (st, reason, result) }
def mgTo (f : Mgmt → Mgmt) (s : State) : State := { s with mg := f s.mg }
def counted (m : Mgmt) : Mgmt := { m with refusals := min (m.refusals + 1) (2 ^ 16 - 1) }

/-- An array of a crossbar bank after a reset (R279). -/
def comesUp (x y : XArr) : Prop :=
  y.cells = x.cells ∧ y.spare = x.spare ∧ y.rows = x.rows ∧ y.total = x.total ∧
  y.st = if x.st = .empty then .empty else if x.st = .retired then .retired else .programming

/-- What is left after the cores and memories have lost their power (R437, R444, R279, R420): nothing of memory, of contexts or of launches; the
crossbar levels and remap tables, the halyards and the retired lanes are kept. -/
def PowerLost (s t : State) : Prop :=
  t.mem = [] ∧ t.poison = [] ∧ t.empty = [] ∧ t.accs = [] ∧ t.msgs = [] ∧ t.tasks = [] ∧ t.launches = [] ∧ t.lqs = [] ∧ t.host = s.host ∧ t.cycle = s.cycle ∧
  (∀ c, (t.core c).ctx = [] ∧ (t.core c).spad = [] ∧ (t.core c).tiles = [] ∧ (t.core c).queues = [] ∧ halOf t c = halOf s c ∧
    (t.core c).lostq = (s.core c).lostq ∧ (t.core c).retq = (s.core c).retq ∧ ∀ a, comesUp (arrOf s c a) (arrOf t c a)) ∧
  ∀ l, (linkOf t l).retln = (linkOf s l).retln ∧ (linkOf t l).spused = (linkOf s l).spused

/-- One link of the measurement chain (R442). -/
def chained (m : BitVec 512) (image : List Byte) : BitVec 512 :=
  Config.shake256 (leBytes 64 m.toNat ++ leBytes 64 (Config.shake256 image).toNat)

/-- Statistics of a monitor point after a sample (R440). -/
def Sampled (p q : Mon) (x : Nat) : Prop :=
  let v := min x (2 ^ 32 - 1)
  q.cur = v ∧ q.min = min p.min v ∧ q.max = max p.max v ∧ q.edges = p.edges ∧ q.next = p.next ∧
  ∀ b, q.bins.get 0 b = if b = p.edges.countP (fun e => decide (e ≤ v)) then min (p.bins.get 0 b + 1) (2 ^ 32 - 1) else p.bins.get 0 b

/-! ### Bundles and the clock -/

/-- The slots that accept an opcode; none for one that is not assigned (R50, R65). -/
def homes (o : Nat) : List Nat :=
  if o = 0 ∨ (0x3C0 ≤ o ∧ o ≤ 0x3FF) then [0, 1, 2, 3, 4, 5, 6, 7]
  else if o ≤ 0x2F ∨ (0x40 ≤ o ∧ o ≤ 0x46) then [0]
  else if 0x80 ≤ o ∧ o ≤ 0xAA then [1, 2]
  else if 0x100 ≤ o ∧ o ≤ 0x10A then [3]
  else if 0x140 ≤ o ∧ o ≤ 0x148 then [4]
  else if 0x180 ≤ o ∧ o ≤ 0x18F then [5]
  else if 0x1C0 ≤ o ∧ o ≤ 0x1D1 then [6]
  else if 0x200 ≤ o ∧ o ≤ 0x221 then [7]
  else []

/-- The slot words of the bundle that context `x` of core `c` fetches next (R50, R51). -/
def slotWordOf (s : State) (c x n : Nat) : Word := wordOf (number 8 fun j => (s.core c).imem.get 0 ((s.cx c x).f0 + 8 * n + j))

/-- The word decodes to an instruction in the mode of the context; `syscall 0xFFFF` is the handler's return while HDL = 1 (R68, R318). -/
def DecodesTo (y : Ctx) (n : Nat) (w : Word) (g : Guard) (i : Instr) : Prop :=
  ∃ j, decodeSlot (y.mode && y.diag) n w = .ok (g, j) ∧ i = if j = .syscall 0xFFFF ∧ y.hdl = true then .handlerReturn else j

/-- The slots run in order, each with its number and its guard (R78). -/
def SlotsRun : List (Nat × Guard × Instr) → State → State → Prop
  | [], s, t => t = s
  | (n, g, i) :: r, s, t => ∃ u, exec i ({ s with iss := { s.iss with slot := n, guard := g } } : State) = .next u ∧ SlotsRun r u t

/-- Core `c` takes a bundle of context `x` in this turn: it can issue, no `step` is in progress, it picks the context, and nothing comes first
(R91, R92, R314). -/
def TakesBundle (s : State) (c x : Nat) : Prop :=
  s.canIssue c = true ∧ (s.core c).stepping = none ∧ (s.core c).pick s.cycle = some x ∧ s.dueFirst c x = none

/-- The fetch region of the context's mode holds its next bundle (R51, R312). -/
def Fetches (s : State) (c x : Nat) : Prop :=
  let y := s.cx c x
  if y.mode = true then 0x3C000 ≤ y.f0 ∧ y.f0 ≤ 0x3FFC0
  else ∃ n k, y.task = some n ∧ s.tasks.get none n = some k ∧ k.tb ≤ y.f0 ∧ y.f0 + 64 ≤ k.tb + k.img.textLen

/-- A cycle's length in units of 1/36 ns at an operating point (R25). -/
def cycleLength (p : Power) : Nat := match p with | .a0 => 45 | .a1 => 30 | .a2 => 24 | _ => 20

end Sys2Proof.Claims

open Sys2Proof Sys2Proof.Machine Sys2Proof.Claims

/-! ## The S slot -/

/-- R97, R94: sum, difference and product wrap, `mulh` and `mulhu` give the high half of the 128-bit product, minimum and maximum
compare signed or unsigned.
R97: the bitwise forms, on the words as numbers, and the shifts and the rotation, which take the low six bits of the second source.
R97, R99, R103, R104: the counts, the bit fields, the immediate forms and the long constants.
R98: the divider never traps. Division by zero gives all ones, or the dividend for a remainder, and sets ISAT; −2^63 by −1 gives
−2^63 and ISAT for `div` and remainder 0; in every other case the quotient is truncated towards zero.
R105, R106: the answer hash, and the slot and generation of a position of a KV map. -/
def Obligations.ScalarArithmetic : Prop :=
  (((Scalar2 .add 1 (fun a b => wordOf (a.toNat + b.toNat)) ∧
     Scalar2 .sub 1 (fun a b => wordOfInt (a.toInt - b.toInt)) ∧
     Scalar2 .mul 3 (fun a b => wordOf (a.toNat * b.toNat)) ∧
     Scalar2 .mulh 3 (fun a b => wordOfInt ((a.toInt * b.toInt).fdiv (2 ^ 64))) ∧
     Scalar2 .mulhu 3 (fun a b => wordOf (a.toNat * b.toNat / 2 ^ 64)) ∧
     Scalar2 .min 1 (fun a b => if a.toInt ≤ b.toInt then a else b) ∧
     Scalar2 .max 1 (fun a b => if a.toInt ≤ b.toInt then b else a) ∧
     Scalar2 .minu 1 (fun a b => if a.toNat ≤ b.toNat then a else b) ∧
     Scalar2 .maxu 1 (fun a b => if a.toNat ≤ b.toNat then b else a)) ∧
    (Scalar2 .and 1 (fun a b => wordOf (a.toNat &&& b.toNat)) ∧
     Scalar2 .or 1 (fun a b => wordOf (a.toNat ||| b.toNat)) ∧
     Scalar2 .xor 1 (fun a b => wordOf (a.toNat ^^^ b.toNat)) ∧
     Scalar2 .andn 1 (fun a b => wordOf (a.toNat &&& (2 ^ 64 - 1 - b.toNat))) ∧
     Scalar2 .shl 1 (fun a b => wordOf (a.toNat * 2 ^ (b.toNat % 64))) ∧
     Scalar2 .shr 1 (fun a b => wordOf (a.toNat / 2 ^ (b.toNat % 64))) ∧
     Scalar2 .sra 1 (fun a b => wordOfInt (a.toInt.fdiv (2 ^ (b.toNat % 64)))) ∧
     Scalar2 .rotl 1 (fun a b => wordOf (a.toNat * 2 ^ (b.toNat % 64) + a.toNat / 2 ^ (64 - b.toNat % 64))))) ∧
   (Scalar1 .clz (fun a => wordOf (((List.range 64).reverse.takeWhile fun i => !a.getLsbD i).length)) ∧
    Scalar1 .ctz (fun a => wordOf (((List.range 64).takeWhile fun i => !a.getLsbD i).length)) ∧
    Scalar1 .popc (fun a => wordOf ((List.range 64).countP fun i => a.getLsbD i)) ∧
    (∀ pos len, pos + len ≤ 64 → Scalar1 (.bext · · pos len) fun a => wordOf (a.toNat / 2 ^ pos % 2 ^ len)) ∧
    (∀ pos len, pos + len ≤ 64 → Scalar2 (.bins · · · pos len) 1 fun a b =>
      wordOf (b.toNat / 2 ^ (pos + len) * 2 ^ (pos + len) + a.toNat % 2 ^ len * 2 ^ pos + b.toNat % 2 ^ pos)) ∧
    (∀ w, 1 ≤ w → w ≤ 64 → Scalar1 (.sext · · w) fun a => (a.truncate w).signExtend 64) ∧
    (∀ imm, Scalar1 (.addi · · imm) fun a => wordOfInt (a.toInt + imm)) ∧
    (∀ imm, Scalar1 (.andi · · imm) fun a => a &&& wordOfInt imm) ∧
    (∀ imm, Scalar1 (.ori · · imm) fun a => a ||| wordOfInt imm) ∧
    (∀ imm, Scalar1 (.xori · · imm) fun a => a ^^^ wordOfInt imm) ∧
    (∀ n < 64, Scalar1 (.shli · · n) fun a => wordOf (a.toNat * 2 ^ n)) ∧
    (∀ n < 64, Scalar1 (.shri · · n) fun a => wordOf (a.toNat / 2 ^ n)) ∧
    (∀ n < 64, Scalar1 (.srai · · n) fun a => wordOfInt (a.toInt.fdiv (2 ^ n))) ∧
    (∀ (s : State) (d imm : Nat), imm < 2 ^ 16 → s.Issues (fun x => [x.sReg d]) →
      exec (.lih d imm) s = .next (s.done 0 fun t =>
        t.emitS d (wordOf (imm * 2 ^ 48 + (s.visible.rs d).val.toNat % 2 ^ 48)) 1 (s.visible.rs d).poison)) ∧
    (∀ (s : State) (d : Nat) (imm : Int), s.Issues (fun x => [x.sReg d]) →
      exec (.lim d imm) s = .next (s.done 0 fun t => t.emitS d (wordOfInt imm) 1)))) ∧
  ((Scalar2Flags .div 18
      (fun a b => if b = 0 then BitVec.allOnes 64 else if a.toInt = -2 ^ 63 ∧ b.toInt = -1 then a else wordOfInt (a.toInt.tdiv b.toInt))
      (fun a b => if b = 0 ∨ (a.toInt = -2 ^ 63 ∧ b.toInt = -1) then isat else 0) ∧
    Scalar2Flags .divu 18 (fun a b => if b = 0 then BitVec.allOnes 64 else wordOf (a.toNat / b.toNat)) (fun _ b => if b = 0 then isat else 0) ∧
    Scalar2Flags .rem 18 (fun a b => if b = 0 then a else wordOfInt (a.toInt.tmod b.toInt)) (fun _ b => if b = 0 then isat else 0) ∧
    Scalar2Flags .remu 18 (fun a b => if b = 0 then a else wordOf (a.toNat % b.toNat)) (fun _ b => if b = 0 then isat else 0)) ∧
   (Scalar2 .hmix 3 (fun h x =>
      let m := (h.toNat ^^^ x.toNat) * 0xA24BAED4963EE407 % 2 ^ 64
      wordOf (m * 2 ^ 29 % 2 ^ 64 + m / 2 ^ 35 + 0x9FB21C651E98DF25)) ∧
    Scalar2Flags .kvslot 18
      (fun p q =>
        let sink := q.toNat % 2 ^ 32
        let win := q.toNat / 2 ^ 32
        if p.toNat < sink then wordOf (2 ^ 63 + p.toNat)
        else if win = 0 then BitVec.allOnes 64
        else wordOf (min ((p.toNat - sink) / win) (2 ^ 31 - 1) * 2 ^ 32 + (p.toNat - sink) % win))
      (fun p q =>
        let sink := q.toNat % 2 ^ 32
        let win := q.toNat / 2 ^ 32
        if sink ≤ p.toNat ∧ (win = 0 ∨ 2 ^ 31 - 1 < (p.toNat - sink) / win) then isat else 0)))

/-- R100, R96: `cmp` and `cmpi` write the truth of the condition, and a poisoned source is an execution fault POISON_CONSUMED.
R101, R102: predicate logic, and the select, which takes the value and the poison bit of the source it selects. -/
def Obligations.ComparesAndSelect : Prop :=
  (∀ (s : State) (cc : CC) (d a b : Nat) (imm : Int), cc ≠ .ord → cc ≠ .uno →
     (s.Issues (fun x => [x.pReg d, x.sReg a, x.sReg b]) →
       let u := s.visible.rs a
       let v := s.visible.rs b
       (u.poison = false → v.poison = false →
         ∃ t, (t = true ↔ truth cc u.val v.val) ∧ exec (.cmp cc d a b) s = .next (s.done 0 fun k => k.emitP d t)) ∧
       (u.poison = true ∨ v.poison = true → exec (.cmp cc d a b) s = .next (s.faulted 0 0x10 none))) ∧
     (s.Issues (fun x => [x.pReg d, x.sReg a]) →
       let u := s.visible.rs a
       (u.poison = false →
         ∃ t, (t = true ↔ truth cc u.val (wordOfInt imm)) ∧ exec (.cmpi cc d a imm) s = .next (s.done 0 fun k => k.emitP d t)) ∧
       (u.poison = true → exec (.cmpi cc d a imm) s = .next (s.faulted 0 0x10 none)))) ∧
  (Predicate2 .pand (fun u v => u && v) ∧
   Predicate2 .por (fun u v => u || v) ∧
   Predicate2 .pxor (fun u v => u ^^ v) ∧
   Predicate2 .pandn (fun u v => u && !v) ∧
   ∀ (s : State) (d c a b : Nat), s.Issues (fun x => [x.sReg d, x.pReg c, x.sReg a, x.sReg b]) →
     (s.visible.me.readP c = true →
       exec (.sel d c a b) s = .next (s.done 0 fun t => t.emitS d (s.visible.rs a).val 1 (s.visible.rs a).poison)) ∧
     (s.visible.me.readP c = false →
       exec (.sel d c a b) s = .next (s.done 0 fun t => t.emitS d (s.visible.rs b).val 1 (s.visible.rs b).poison)))

/-- R62, R63, R107: `ctlr` writes the value of the control register as visible at its step, with the poison bit clear.
R62, R63, R66, R96, R107: a KERNEL write to a PRIV register traps at decode, a poisoned source and a KERNEL write that would change
DIAG trap at execution, a write to a register that is read-only in the mode is discarded, and every other write reaches the register
one step later with its RSV bits zero. R108, R344: the write of BUDGET reaches the task at that step and not before. -/
def Obligations.ControlRegisters : Prop :=
  (∀ (s : State) (d : Nat), s.Issues (fun x => [x.sReg d]) →
     let reads (num : Nat) (w : Word) := exec (.ctlr d num) s = .next (s.done 0 fun t => t.emitS d w 1)
     let x := s.visible.me
     (∃ w, reads 0x00 w ∧ w.toNat = 0x300 + (if x.canreq then 16 else 0) + (if x.diag then 8 else 0) + (if x.flush then 4 else 0) +
       (if x.mode then 1 else 0)) ∧
     reads 0x02 (wordOf x.f0) ∧
     reads 0x0B (wordOf (s.now / 36)) ∧
     reads 0x0C (wordOf s.iss.ctx) ∧
     reads 0x0D (wordOf s.iss.core) ∧
     (s.iss.core < 64 → reads 0x0E 0) ∧
     (64 ≤ s.iss.core → s.iss.core < 128 → reads 0x0E 1) ∧
     (∀ t, s.myTask = some t → reads 0x0F (match t.sib with | some n => wordOf n | none => BitVec.allOnes 64)) ∧
     (∀ t, s.visible.myTask = some t → reads 0x13 (wordOf t.budget)) ∧
     reads 0x15 (wordOf s.chip) ∧
     ∀ num ∈ [0x01, 0x03, 0x04, 0x05, 0x06, 0x07, 0x08, 0x09, 0x0A, 0x10, 0x11, 0x12, 0x14], reads num (x.ctl.get 0 num)) ∧
  (∀ (s : State) (num a : Nat),
     let x := s.visible.me
     let v := s.visible.rs a
     let discarded := exec (.ctlw num a) s = .next (s.done 0 id)
     let writes (w : Word) := exec (.ctlw num a) s = .next (s.done 0 fun t => t.emit (.ctl num) (.w w) 1)
     (s.iss.opened = false → x.mode = false → num ∈ [0x06, 0x07, 0x08, 0x09, 0x0A, 0x12] →
       exec (.ctlw num a) s = .next (s.faulted 0 4 none)) ∧
     (s.Issues (fun x => [x.sReg a]) →
       (x.mode = true ∨ num ∉ [0x06, 0x07, 0x08, 0x09, 0x0A, 0x12]) →
       (v.poison = true → exec (.ctlw num a) s = .next (s.faulted 0 0x10 none)) ∧
       (v.poison = false →
         (num = 0 → x.mode = false → v.val.getLsbD 3 ≠ x.diag → exec (.ctlw num a) s = .next (s.faulted 0 4 none)) ∧
         (num = 0 → (x.mode = true ∨ v.val.getLsbD 3 = x.diag) → writes v.val) ∧
         (num ∈ [0x02, 0x0B, 0x0C, 0x0D, 0x0E, 0x0F, 0x15] → discarded) ∧
         (num ∈ [0x10, 0x13, 0x14] → x.mode = false → discarded) ∧
         (num ∈ [0x01, 0x05] → writes (v.val &&& 0x1F)) ∧
         (num ∈ [0x03, 0x04, 0x11] → writes v.val) ∧
         (x.mode = true →
           (num ∈ [0x06, 0x07] → writes (v.val &&& 0xFF)) ∧
           (num ∈ [0x08, 0x09, 0x10, 0x13, 0x14] → writes v.val) ∧
           (num = 0x0A → writes (v.val &&& 1)) ∧
           (num = 0x12 → writes (v.val &&& 0x800000000003FFFF)))))) ∧
  ∀ (s : State) (r : Res) (w : Word) (n : Nat) (k : Task), s.me.inflight = [r] → r.reg = .ctl 0x13 → r.val = .w w → s.me.newBudget = none →
    s.me.task = some n → s.tasks.get none n = some k →
      s.visible.tasks.get none n = some (if r.due ≤ s.me.step then { k with budget := w.toNat } else k)

/-- R109, R112: the branches go to their targets, `call` and `callr` write PCX + 256 to s62, and a target that is not greater than the
branch's own address is a cancellation point. R96, R110: the target register is checked for poison and then for alignment. R111: `chk`
branches on a poison bit and leaves it.
R87: `loop` puts the new LC, EC and RRB and p8 under the new RRB in flight with latency 4, and branches while a pass follows.
R76, R86: a bundle that commits moves the fetch sequence on by one, and the bundle four steps later is the target of a taken branch,
else the one after the third delay bundle. R54: `nop` does nothing more.
R112, R373: a branch taken backwards under a pending request stops the context before its next bundle, outside a trap.
That the scoreboard counts s62 for the calls and `ret` is deduced (log entry 22). -/
def Obligations.BranchesAndLoop : Prop :=
  (∀ (s : State) (a : Nat) (off : Int),
     let pc := s.me.f0
     let rel := (wordOfInt ((pc : Int) + 64 * off)).toNat
     let bad (i : Instr) (n : Nat) :=
       ((s.visible.rs n).poison = true → exec i s = .next (s.faulted 0 0x10 none)) ∧
       ((s.visible.rs n).poison = false → (s.visible.rs n).val.toNat % 64 ≠ 0 →
         exec i s = .next (s.faulted 0 5 (some (s.visible.rs n).val)))
     let good (n : Nat) := (s.visible.rs n).poison = false ∧ (s.visible.rs n).val.toNat % 64 = 0
     let linked (t : State) := t.emitS 62 (wordOf (pc + 256)) 1
     (s.Issues (fun _ => []) → exec (.br off) s = .next (s.done 0 (redirect pc rel))) ∧
     (s.Issues (fun x => [x.sReg a]) →
       bad (.brr a) a ∧ (good a → exec (.brr a) s = .next (s.done 0 (redirect pc (s.visible.rs a).val.toNat)))) ∧
     (s.Issues (fun x => [x.sReg 62]) →
       exec (.call off) s = .next (s.done 0 fun t => redirect pc rel (linked t))) ∧
     (s.Issues (fun x => [x.sReg a, x.sReg 62]) →
       bad (.callr a) a ∧
       (good a → exec (.callr a) s = .next (s.done 0 fun t => redirect pc (s.visible.rs a).val.toNat (linked t)))) ∧
     (s.Issues (fun x => [x.sReg 62]) →
       bad .ret 62 ∧ (good 62 → exec .ret s = .next (s.done 0 (redirect pc (s.visible.rs 62).val.toNat)))) ∧
     (s.Issues (fun x => [x.sReg a]) →
       exec (.chk false a off) s = .next (s.done 0 (if (s.visible.rs a).poison then redirect pc rel else id))) ∧
     (s.Issues (fun x => [x.vReg a]) →
       exec (.chk true a off) s = .next (s.done 0 (if (s.visible.me.readV a).poison then redirect pc rel else id)))) ∧
  (∀ (s : State) (off : Int), s.Issues (fun _ => []) →
     let x := s.visible.me
     let lc := (x.ctl.get 0 3).toNat
     let ec := (x.ctl.get 0 4).toNat
     let rrb := ((x.ctl.get 0 5).toNat + 1) % 32
     let rel := (wordOfInt ((s.me.f0 : Int) + 64 * off)).toNat
     let closes (lc ec : Nat) (p8 : Bool) (t : State) :=
       (((t.emit (.ctl 3) (.w (wordOf lc)) 4).emit (.ctl 4) (.w (wordOf ec)) 4).emit (.ctl 5) (.w (wordOf rrb)) 4).emit
         (.p (8 + (40 - rrb) % 8)) (.b p8) 4
     (1 < lc → exec (.loop off) s = .next (s.done 0 fun t => redirect s.me.f0 rel (closes (lc - 1) ec true t))) ∧
     (lc ≤ 1 → 0 < ec → exec (.loop off) s = .next (s.done 0 fun t => redirect s.me.f0 rel (closes 0 (ec - 1) false t))) ∧
     (lc ≤ 1 → ec = 0 → exec (.loop off) s = .next (s.done 0 (closes 0 0 false)))) ∧
  (((∀ s : State, s.Issues (fun _ => []) → exec .nop s = .next (s.done 0 id)) ∧
    ∀ (s : State) (home : Nat), s.NoStep → s.me.canreq = false →
      (let y := (s.done home id).me
       y.step = s.me.step + 1 ∧ y.f0 = s.me.f1 ∧ y.f1 = s.me.f2 ∧ y.f2 = s.me.f3 ∧ y.f3 = (s.me.f3 + 64) % 2 ^ 64) ∧
      ∀ t, let y := (s.done home (redirect s.me.f0 t)).me
        y.step = s.me.step + 1 ∧ y.f0 = s.me.f1 ∧ y.f1 = s.me.f2 ∧ y.f2 = s.me.f3 ∧ y.f3 = t) ∧
   (∀ (s : State) (t : Nat), s.NoStep → s.me.stopNext = false →
      ((s.done 0 (redirect s.me.f0 t)).me.stopNext = true ↔
        t ≤ s.me.f0 ∧ s.me.canreq = true ∧ s.me.mode = false ∧ s.me.hdl = false ∧ s.iss.stepping = false)))

/-! ## The bundle -/

/-! ## The V slots -/

/-- R121, R123, R124: the arithmetic of integer lanes wraps, the saturating forms clamp and set ISAT, minimum and maximum compare in the
lane type, and the magnitude and the negation of the least value saturate.
R125: the logical forms take every lane type, the shifts the integer ones; a shift takes the low log2 w bits of its amount. -/
def Obligations.VectorIntegers : Prop :=
  (∀ e ∈ laneInts, ∀ md : Rnd,
     let ty := e.1
     let w := e.2.1
     let v := intOf w e.2.2
     Merges2 (.vadd ty md) w 3 (fun _ a b => ((a + b) % 2 ^ w, 0)) ∧
     Merges2 (.vsub ty md) w 3 (fun _ a b => ((a + 2 ^ w - b) % 2 ^ w, 0)) ∧
     Merges2 (.vmul ty md) w 5 (fun _ a b => (a * b % 2 ^ w, 0)) ∧
     Merges2 (.vmin ty) w 3 (fun _ a b => (if v a ≤ v b then a else b, 0)) ∧
     Merges2 (.vmax ty) w 3 (fun _ a b => (if v a ≤ v b then b else a, 0)) ∧
     Merges1 (.vabs ty) w 3 (fun _ a => clampTo w e.2.2 |v a|) ∧
     (e.2.2 = true → Merges1 (.vneg ty) w 3 (fun _ a => clampTo w e.2.2 (-v a))) ∧
     Merges2 (.vaddsat ty) w 3 (fun _ a b => clampTo w e.2.2 (v a + v b)) ∧
     Merges2 (.vsubsat ty) w 3 (fun _ a b => clampTo w e.2.2 (v a - v b)) ∧
     Merges3 (.vclamp ty) w 3 (fun _ a b c => (codeOf w (min (max (v a) (v b)) (v c)), 0))) ∧
  ((∀ e ∈ laneTypes,
     Merges2 (.vand e.1) e.2 3 (fun _ a b => (a &&& b, 0)) ∧
     Merges2 (.vor e.1) e.2 3 (fun _ a b => (a ||| b, 0)) ∧
     Merges2 (.vxor e.1) e.2 3 (fun _ a b => (a ^^^ b, 0))) ∧
   ∀ e ∈ laneInts,
     let w := e.2.1
     Merges2 (.vshl e.1) w 3 (fun _ a b => (a * 2 ^ (b % w) % 2 ^ w, 0)) ∧
     Merges2 (.vshr e.1) w 3 (fun _ a b => (a / 2 ^ (b % w), 0)) ∧
     Merges2 (.vsra e.1) w 3 (fun _ a b => (codeOf w ((intOf w true a).fdiv (2 ^ (b % w))), 0)))

/-- R30 to R32: the value of a code of FP32, FP16 and BF16 by its sign, exponent and fraction, a subnormal read as zero under FLUSH.
R33: RoundToFormat. Codes in order have magnitudes in order (`mag`). One code of the unbounded format stands for the rounded value:
the one just below or just above, or the nearest, an even one between two. FNX tells a loss, FUF one below 2^emin; a code above the largest finite
one gives an infinity or that finite one with FOF and FNX.
R32: under FLUSH a result that rounding leaves below 2^emin is a zero of its sign, with FUF and FNX; every other result stands. -/
def Obligations.FloatFormats : Prop :=
  (∀ e ∈ ([(fp32, 32, 24, 127), (fp16, 16, 11, 15), (fbf16, 16, 8, 127)] : List (FFmt × Nat × Nat × Nat)), ∀ (flush : Bool), ∀ c < 2 ^ e.2.1,
     let p : Nat := e.2.2.1
     let bias : Int := e.2.2.2
     let neg : Bool := decide (2 ^ (e.2.1 - 1) ≤ c)
     let ex : Nat := c / 2 ^ (p - 1) % 2 ^ (e.2.1 - p)
     let fr : Nat := c % 2 ^ (p - 1)
     let v := e.1.decode flush c
     (ex = 2 ^ (e.2.1 - p) - 1 → v = if fr = 0 then .inf neg else .nan (decide (fr < 2 ^ (p - 2))) neg) ∧
     (ex ≠ 2 ^ (e.2.1 - p) - 1 → ∃ n g, v = .fin neg n g ∧
       (n : ℚ) * (2 : ℚ) ^ g = if ex = 0 then (if flush then 0 else (fr : ℚ) * (2 : ℚ) ^ (2 - bias - p))
         else ((2 ^ (p - 1) + fr : Nat) : ℚ) * (2 : ℚ) ^ ((ex : Int) - bias - p + 1))) ∧
  ((∀ f ∈ [fp32, fp16, fbf16, fe4m3, fe5m2, fe2m3, fe2m1], ∀ (m : Rnd) (neg : Bool) (n d : Nat), 0 < n → 0 < d →
      let q : ℚ := n / d
      let mag := magnitude f
      let up : Bool := match m with | .rup => !neg | .rdn => neg | _ => false
      ∃ c : Nat,
        (m = .rne →
          q ≤ (mag c + mag (c + 1)) / 2 ∧ (0 < c → (mag (c - 1) + mag c) / 2 ≤ q) ∧
          (q = (mag c + mag (c + 1)) / 2 ∨ (0 < c ∧ q = (mag (c - 1) + mag c) / 2) → c % 2 = 0)) ∧
        (m ≠ .rne → up = true → 0 < c ∧ mag (c - 1) < q ∧ q ≤ mag c) ∧
        (m ≠ .rne → up = false → mag c ≤ q ∧ q < mag (c + 1)) ∧
        let lost := mag c ≠ q
        let r := f.round m false neg n d
        (r.2.getLsbD 3 = true ↔ lost ∨ f.maxCode < c) ∧ (r.2.getLsbD 2 = true ↔ lost ∧ q < (2 : ℚ) ^ f.emin) ∧
        (r.2.getLsbD 1 = true ↔ f.maxCode < c) ∧ r.2.getLsbD 0 = false ∧ r.2.getLsbD 4 = false ∧
        r.1 = f.sign neg (if f.maxCode < c then (if f.hasinf ∧ (m = .rne ∨ up = true) then f.maxCode + 1 else f.maxCode) else c)) ∧
   (∀ f ∈ [fp32, fp16, fbf16], ∀ (m : Rnd) (neg : Bool) (n d : Nat), 0 < n → 0 < d →
      let r := f.round m false neg n d
      let small := r.1 % 2 ^ (f.width - 1) ≠ 0 ∧ r.1 % 2 ^ (f.width - 1) < 2 ^ (f.p - 1)
      (small → f.round m true neg n d = (f.zero neg, fuf ||| fnx)) ∧ (¬ small → f.round m true neg n d = r)))

/-- R117, R121, R122: floating addition, subtraction, multiplication and the fused forms round the exact result once.
R123: minimum, maximum, magnitude, negation and clamp of floating lanes. -/
def Obligations.VectorFloats : Prop :=
  (∀ e ∈ laneFloats, ∀ md : Rnd,
     let ty := e.1
     let w := e.2.1
     let f := e.2.2
     Merges2 (.vadd ty md) w 5 (fun z a b => sumTo f md z (f.decode z a) (f.decode z b)) ∧
     Merges2 (.vsub ty md) w 5 (fun z a b => sumTo f md z (f.decode z a) (f.decode z b).negate) ∧
     Merges2 (.vmul ty md) w 5 (fun z a b => productTo f md z (f.decode z a) (f.decode z b)) ∧
     Merges3 (.vfma ty md) w 5 (fun z a b c => fusedTo f md z false false (f.decode z a) (f.decode z b) (f.decode z c)) ∧
     Merges3 (.vfms ty md) w 5 (fun z a b c => fusedTo f md z false true (f.decode z a) (f.decode z b) (f.decode z c)) ∧
     Merges3 (.vfnma ty md) w 5 (fun z a b c => fusedTo f md z true false (f.decode z a) (f.decode z b) (f.decode z c))) ∧
  (∀ e ∈ laneFloats,
     let ty := e.1
     let w := e.2.1
     let f := e.2.2
     Merges2 (.vmin ty) w 3 (extreme f false) ∧
     Merges2 (.vmax ty) w 3 (extreme f true) ∧
     Merges1 (.vabs ty) w 3 (signed f w false) ∧
     Merges1 (.vneg ty) w 3 (signed f w true) ∧
     Merges3 (.vclamp ty) w 3 (fun z a b c =>
       ((extreme f false z (extreme f true z a b).1 c).1, (extreme f true z a b).2 ||| (extreme f false z (extreme f true z a b).1 c).2)))

/-- R126: the special inputs, the reciprocal rounded once, the reciprocal root nearest to the exact one, and the powers and logarithms
that are exact. -/
def Obligations.VectorTranscendentals : Prop :=
  ∀ e ∈ laneFloats,
    let ty := e.1
    let w := e.2.1
    let f := e.2.2
    ∃ ex lg rc rs : Bool → Nat → Nat × FlagBits,
      Merges1 (.vexp2 ty) w 9 ex ∧ Merges1 (.vlog2 ty) w 9 lg ∧ Merges1 (.vrcp ty) w 9 rc ∧ Merges1 (.vrsq ty) w 9 rs ∧
      ∀ (z : Bool) (c : Nat), c < 2 ^ w →
        let v := f.decode z c
        (v.isNan = true → ∀ g ∈ [ex, lg, rc, rs], g z c = (f.nan, quietens v)) ∧
        (v = .inf false → ex z c = (f.inf false, 0) ∧ lg z c = (f.inf false, 0) ∧ rc z c = (f.zero false, 0) ∧ rs z c = (f.zero false, 0)) ∧
        (v = .inf true → ex z c = (f.zero false, 0) ∧ lg z c = (f.nan, fnv) ∧ rc z c = (f.zero true, 0) ∧ rs z c = (f.nan, fnv)) ∧
        ∀ neg n g, v = .fin neg n g →
          (n = 0 → ex z c = toFormat f .rne z 1 false ∧ lg z c = (f.inf true, 0) ∧ rc z c = (f.inf neg, 0) ∧ rs z c = (f.inf neg, 0)) ∧
          (n ≠ 0 → rc z c = toFormat f .rne z (1 / real v) neg) ∧
          (∀ i : Int, real v = i → ex z c = toFormat f .rne z ((2 : ℚ) ^ i) false) ∧
          (n ≠ 0 → neg = true → lg z c = (f.nan, fnv) ∧ rs z c = (f.nan, fnv)) ∧
          (∀ i : Int, real v = (2 : ℚ) ^ i → lg z c = toFormat f .rne z i false) ∧
          (n ≠ 0 → neg = false →
            let m := (rs z c).1
            (rs z c).2 = (if magnitude f m ^ 2 * real v = 1 then 0 else fnx) ∧
            ((magnitude f (m - 1) + magnitude f m) / 2) ^ 2 * real v < 1 ∧
            1 < ((magnitude f m + magnitude f (m + 1)) / 2) ^ 2 * real v)

/-- R57, R127: the lane compares of integer and floating types.
R128: mask logic on whole mask registers, and the count of the lanes that a mask makes active.
R129, R130, R131: lane movement copies bits and raises no flag.
The poison of `vsel` with a mask field is a reading of R116 (log entry 9). -/
def Obligations.VectorComparesAndMovement : Prop :=
  (((∀ e ∈ laneInts, ∀ cc, cc ≠ .ord → cc ≠ .uno → Compares cc e.1 e.2.1 (fun _ a b => truthI cc e.2.1 e.2.2 a b) (fun _ _ => false)) ∧
    ∀ e ∈ laneFloats, ∀ cc ∈ [CC.eq, .ne, .lt, .le, .gt, .ge, .ord, .uno],
      Compares cc e.1 e.2.1 (fun z a b => truthF cc (e.2.2.decode z a) (e.2.2.decode z b)) (fun z a => (e.2.2.decode z a).signalling)) ∧
   (∀ (s : State) (d a b : Nat),
      let m (n : Nat) : KWord := if n = 0 then BitVec.allOnes 256 else s.visible.me.k.get (BitVec.allOnes 256) n
      (s.Issues (fun _ => [.k d, .k a, .k b]) →
        exec (.kand d a b) s = .next (s.done 1 fun t => t.emitK d (m a &&& m b) 3) ∧
        exec (.kor d a b) s = .next (s.done 1 fun t => t.emitK d (m a ||| m b) 3) ∧
        exec (.kxor d a b) s = .next (s.done 1 fun t => t.emitK d (m a ^^^ m b) 3)) ∧
      (s.Issues (fun _ => [.k d, .k a]) → exec (.knot d a) s = .next (s.done 1 fun t => t.emitK d (~~~ m a) 3)) ∧
      ∀ e ∈ laneTypes, s.Issues (fun x => [x.sReg d, .k a]) →
        exec (.kpop e.1 d a) s = .next (s.done 1 fun t =>
          t.emitS d (wordOf ((List.range (2048 / e.2)).countP fun j => (m a).getLsbD (j * e.2 / 8))) 3))) ∧
  (∀ e ∈ laneTypes,
     let ty := e.1
     let w := e.2
     let n := 2048 / w
     let from_ (i : Instr) (d k : Nat) (vs ss : List Nat) (f : Ctx → Nat → Nat) := Merges i w 3 d k vs ss fun x j => (f x j, 0)
     let v (x : Ctx) (a j : Nat) := lane w (x.readV a).val j
     (∀ d a k, from_ (.vmov ty d a k) d k [a] [] fun x j => v x a j) ∧
     (∀ d a k, from_ (.vbcast ty d a k) d k [] [a] fun x _ => (x.readS a).val.toNat % 2 ^ w) ∧
     (∀ d a k, from_ (.viota ty d a k) d k [] [a] fun x j => ((x.readS a).val.toNat + j) % 2 ^ w) ∧
     (∀ d a b k, from_ (.vperm ty d a b k) d k [a, b] [] fun x j => v x a (v x b j % n)) ∧
     (∀ d a r k, r < n → from_ (.vrot ty d a r k) d k [a] [] fun x j => v x a ((j + r) % n)) ∧
     (∀ d a b k,
       from_ (.vshuf ty .ziplo d a b k) d k [a, b] [] (fun x j => if j % 2 = 0 then v x a (j / 2) else v x b (j / 2)) ∧
       from_ (.vshuf ty .ziphi d a b k) d k [a, b] [] (fun x j => if j % 2 = 0 then v x a (n / 2 + j / 2) else v x b (n / 2 + j / 2)) ∧
       from_ (.vshuf ty .evens d a b k) d k [a, b] [] (fun x j => if j < n / 2 then v x a (2 * j) else v x b (2 * (j - n / 2))) ∧
       from_ (.vshuf ty .odds d a b k) d k [a, b] [] (fun x j => if j < n / 2 then v x a (2 * j + 1) else v x b (2 * (j - n / 2) + 1)) ∧
       from_ (.vshuf ty .rev d a 0 k) d k [a] [] (fun x j => v x a (n - 1 - j)) ∧
       from_ (.vshuf ty .swap2 d a 0 k) d k [a] [] (fun x j => v x a (if j % 2 = 0 then j + 1 else j - 1))) ∧
     (∀ (s : State) (d a l : Nat), l < n → s.Issues (fun x => [x.vReg d, x.sReg a]) →
       let x := s.visible.me
       ∃ r : VWord, exec (.vins ty d a l) s = .next (s.done 1 fun t => t.emitV d r 3 ((x.readV d).poison || (x.readS a).poison)) ∧
         ∀ j < n, lane w r j = if j = l then (x.readS a).val.toNat % 2 ^ w else v x d j) ∧
     (∀ (s : State) (d a l : Nat), l < n → s.Issues (fun x => [x.sReg d, x.vReg a]) →
       exec (.vext ty d a l) s = .next (s.done 1 fun t =>
         t.emitS d (wordOfInt (intOf w (ty ∈ [Ty.i32, .i16, .i8]) (v s.visible.me a l))) 3 (s.visible.me.readV a).poison)) ∧
     (∀ (s : State) (d a b k : Nat), s.Issues (fun x => [x.vReg d, x.vReg a, x.vReg b, .k k]) →
       let x := s.visible.me
       ∃ (r : VWord) (po : Bool), exec (.vsel ty d a b k) s = .next (s.done 1 fun t => t.emitV d r 3 po) ∧
         ∀ j < n, lane w r j = if active x k w j then v x a j else v x b j))

/-- R44, R132, R133: the reductions and scans of floating lanes go by their fixed tree and chain; that R31 and R32 act on lane 0 of a scan is deduced
(log entry 19).
R132, R133: an integer sum is exact and saturates, once to INT32 for `vred` and at each step to the lane type for `vscan`; the minimum
and the maximum are those of the lanes that enter. -/
def Obligations.VectorReductions : Prop :=
  (∀ e ∈ laneFloats, ∀ op : RedOp,
     let w := e.2.1
     let f := e.2.2
     Replaces (.vred e.1 op) w (fun z act u r fl =>
       let x := entering act u (identF f op)
       (∀ j < 2048 / w, r j = tree (nodeF f op z) x (Nat.log2 (2048 / w)) 0) ∧
       FlagsOf fl fun g => ∃ l i, l < Nat.log2 (2048 / w) ∧ i < 2048 / w / 2 ^ (l + 1) ∧
         g = (nodeF f op z (tree (nodeF f op z) x l (2 * i)) (tree (nodeF f op z) x l (2 * i + 1))).2) ∧
     Replaces (.vscan e.1 op) w (fun z act u r fl =>
       let first := startF f z (entering act u (identF f op) 0)
       let x j := if j = 0 then first.1 else entering act u (identF f op) j
       (∀ j < 2048 / w, r j = chain (nodeF f op z) x j) ∧
       FlagsOf fl fun g => g = first.2 ∨ ∃ j, j + 1 < 2048 / w ∧ g = (nodeF f op z (chain (nodeF f op z) x j) (x (j + 1))).2)) ∧
  (∀ e ∈ laneInts,
     let w := e.2.1
     let v := intOf w e.2.2
     let least := codeOf w (leastOf w e.2.2)
     let most := codeOf w (mostOf w e.2.2)
     Replaces (.vred e.1 .sum) w (fun _ act u r fl =>
       let t := clampTo 32 true (((List.range (2048 / w)).map fun j => v (entering act u 0 j)).sum)
       (∀ j < 64, ∀ b < 32, (r ((32 * j + b) / w)).testBit ((32 * j + b) % w) = t.1.testBit b) ∧ FlagsOf fl fun g => g = t.2) ∧
     Replaces (.vred e.1 .min) w (fun _ act u r fl => ∃ c, (∀ j < 2048 / w, r j = c) ∧ (∃ i < 2048 / w, c = entering act u most i) ∧
       (∀ i < 2048 / w, v c ≤ v (entering act u most i)) ∧ FlagsOf fl fun _ => False) ∧
     Replaces (.vred e.1 .max) w (fun _ act u r fl => ∃ c, (∀ j < 2048 / w, r j = c) ∧ (∃ i < 2048 / w, c = entering act u least i) ∧
       (∀ i < 2048 / w, v (entering act u least i) ≤ v c) ∧ FlagsOf fl fun _ => False) ∧
     Replaces (.vscan e.1 .sum) w (fun _ act u r fl =>
       let f a b := clampTo w e.2.2 (v a + v b)
       (∀ j < 2048 / w, r j = chain f (entering act u 0) j) ∧
       FlagsOf fl fun g => ∃ j, j + 1 < 2048 / w ∧ g = (f (chain f (entering act u 0) j) (entering act u 0 (j + 1))).2) ∧
     Replaces (.vscan e.1 .min) w (fun _ act u r fl => (∀ j < 2048 / w, (∃ i ≤ j, r j = entering act u most i) ∧
       ∀ i ≤ j, v (r j) ≤ v (entering act u most i)) ∧ FlagsOf fl fun _ => False) ∧
     Replaces (.vscan e.1 .max) w (fun _ act u r fl => (∀ j < 2048 / w, (∃ i ≤ j, r j = entering act u least i) ∧
       ∀ i ≤ j, v (entering act u least i) ≤ v (r j)) ∧ FlagsOf fl fun _ => False))

/-- R34, R41, R134, R135: the accepted conversions, each rounded or clamped once.
That a zero element widens to +0 is deduced (log entry 7); that a floating zero keeps its sign is the model's choice (log entry 49). -/
def Obligations.VectorConversions : Prop :=
  (∀ e ∈ laneFloats, ∀ g ∈ laneFloats, e.1 ≠ g.1 → Converts e.1 g.1 e.2.1 g.2.1 fun m z c =>
    match e.2.2.decode z c with
    | .nan s n => (g.2.2.nan, quietens (.nan s n))
    | .inf n => (g.2.2.inf n, 0)
    | .fin n k x => toFormat g.2.2 m z (real (.fin n k x)) n) ∧
  (∀ e ∈ laneFloats, ∀ g ∈ laneInts, Converts e.1 g.1 e.2.1 g.2.1 fun m z c =>
    let r := integerOf m (leastOf g.2.1 g.2.2) (mostOf g.2.1 g.2.2) (e.2.2.decode z c)
    (codeOf g.2.1 r.1, r.2)) ∧
  (∀ e ∈ laneInts, ∀ g ∈ laneFloats, Converts e.1 g.1 e.2.1 g.2.1 fun m z c => toFormat g.2.2 m z (intOf e.2.1 e.2.2 c : ℤ) false) ∧
  (∀ e ∈ laneInts, ∀ g ∈ laneInts, e.1 ≠ g.1 → Converts e.1 g.1 e.2.1 g.2.1 fun _ _ c => clampTo g.2.1 g.2.2 (intOf e.2.1 e.2.2 c)) ∧
  (∀ g ∈ mxFloats, Converts .f32 g.1 32 g.2.1 fun m z c => toMx g.2.2 m (fp32.decode z c)) ∧
  ∀ e ∈ mxFloats, Converts e.1 .f32 e.2.1 32 fun _ _ c =>
    match e.2.2.decode false c with
    | .nan .. => (fp32.nan, 0)
    | .inf n => (fp32.inf n, 0)
    | .fin n k x => ((toFormat fp32 .rne false (real (.fin n k x)) false).1, 0)

/-- R42, R43, R136, R137: the block forms. The scale exponent is that of the largest magnitude less emax, within −127 to 127; each
element is rounded once; a NaN or an infinity anywhere gives the scale 0xFF and zero elements.
The zeros and the saturation of E5M2 are readings (log entries 7 and 8). -/
def Obligations.MxBlocks : Prop :=
  ∀ e ∈ [(Ty.mxi8, 8, 4, (0 : Int)), (.e4m3, 8, 4, 8), (.e5m2, 8, 4, 15), (.e2m3, 6, 5, 2), (.e2m1, 4, 8, 2)], ∀ (s : State) (d c a part : Nat),
    let ty := e.1
    let w := e.2.1
    part < e.2.2.1 →
    let x := s.visible.me
    let u := x.readV a
    let old := x.readV d
    let off := 64 * w * part
    (∀ md : Rnd, s.Issues (fun x => [x.vReg d, x.sReg c, x.vReg a]) →
      let vs (i : Nat) := fp32.decode x.flush (lane 32 u.val i)
      ∃ (r : VWord) (sc : Nat) (fl : FlagBits),
        exec (.vmxq ty md d c a part) s = .next (s.done 1 fun t =>
          (t.emitV d r 8 (u.poison || old.poison) (if u.poison then 0 else fl)).emitS c (wordOf sc) 8 u.poison) ∧
        (∀ b < 2048, (b < off ∨ off + 64 * w ≤ b) → r.getLsbD b = old.val.getLsbD b) ∧
        ((∃ i < 64, ∀ n k g, vs i ≠ .fin n k g) → sc = 0xFF ∧ (∀ i < 64, r.toNat / 2 ^ (off + w * i) % 2 ^ w = 0) ∧ fl = fnv) ∧
        ((∀ i < 64, ∃ n k g, vs i = .fin n k g) → ∃ ex : Int, sc = (ex + 127).toNat ∧
          ((∀ i < 64, real (vs i) = 0) → ex = -127) ∧
          (∀ i < 64, real (vs i) ≠ 0 → (∀ j < 64, |real (vs j)| ≤ |real (vs i)|) →
            ex = max (-127) (min 127 (Int.log 2 |real (vs i)| - e.2.2.2))) ∧
          ∃ q : Nat → Nat × FlagBits,
            (∀ i < 64, r.toNat / 2 ^ (off + w * i) % 2 ^ w = (q i).1) ∧ (FlagsOf fl.getLsbD fun g => ∃ i < 64, g = (q i).2) ∧
            ∀ i < 64, let y := real (vs i) / (2 : ℚ) ^ ex
              (ty = .mxi8 → q i = (codeOf 8 (toInteger md (-128) 127 (64 * y)).1, (toInteger md (-128) 127 (64 * y)).2)) ∧
              ∀ g ∈ mxFloats, g.1 = ty → ∀ n k h, vs i = .fin n k h →
                let z := toFormat g.2.2 md false y n
                q i = if g.2.2.hasinf = true ∧ z.1 = g.2.2.inf n then (g.2.2.max n, z.2) else z)) ∧
    (s.Issues (fun x => [x.vReg d, x.vReg a, x.sReg c]) →
      let po := u.poison || (x.readS c).poison
      let sc := (x.readS c).val.toNat % 256
      let el (i : Nat) := u.val.toNat / 2 ^ (off + w * i) % 2 ^ w
      ∃ (r : VWord) (fl : FlagBits) (q : Nat → Nat × FlagBits),
        exec (.vmxdq ty d a c part) s = .next (s.done 1 fun t => t.emitV d r 5 po (if po then 0 else fl)) ∧
        (∀ i < 64, lane 32 r i = (q i).1) ∧ (FlagsOf fl.getLsbD fun g => ∃ i < 64, g = (q i).2) ∧
        ∀ i < 64,
          (sc = 0xFF → q i = (fp32.nan, 0)) ∧
          (sc ≠ 0xFF → ty = .mxi8 → q i = toFormat fp32 .rne x.flush (intOf 8 true (el i) * (2 : ℚ) ^ ((sc : Int) - 133)) false) ∧
          ∀ g ∈ mxFloats, g.1 = ty → sc ≠ 0xFF → q i = match g.2.2.decode false (el i) with
            | .nan .. => (fp32.nan, 0)
            | .inf n => (fp32.inf n, 0)
            | .fin n k h => toFormat fp32 .rne x.flush (real (.fin n k h) * (2 : ℚ) ^ ((sc : Int) - 127)) false)

/-! ## The M slot and the matrix unit -/

/-- R140, R146 to R148, R158: allocation with its four answers, release, zeroing and clearing.
R40, R156: `tdrain` converts one row, or two for the 16-bit formats, and with ZR zeroes them; the anchor, INEXACT and OVF stay.
R157: the status word and the two PROG words of a tile, whoever holds it.
The answer 0 of `talloc` to a context that holds the planes already, and what `tfree` does with planes of another holder, are the model's
choices (log entry 48). -/
def Obligations.TileInstructions : Prop :=
  (∀ (s : State) (t p : Nat), Names s t p →
     let v := tileIn s p
     let other := v.st ≠ .free ∧ v.holder ≠ s.iss.ctx
     let planesElse := ∃ y, s.myCore.planeHolder = some y ∧ y ≠ s.iss.ctx
     (∀ (a : Nat) (pl : Bool), s.Issues (fun x => [x.sReg a]) →
       let answers (code : Nat) (f : State → State) := exec (.talloc t a pl) s = .next (s.done 3 fun u => (f u).emitS a (wordOf code) 3)
       let claim (u : State) := if pl then planesTo (some s.iss.ctx) u else u
       (other → answers 1 id) ∧
       (¬ other → pl = true ∧ planesElse → answers 2 id) ∧
       (v.st = .free → ¬ (pl = true ∧ planesElse) → answers 0 fun u => claim (tileTo p { st := .allocated, holder := s.iss.ctx } u)) ∧
       (Holds s p → ¬ (pl = true ∧ planesElse) → answers 3 claim)) ∧
     (s.Issues (fun _ => []) → s.Clear 3 [.tile t false] →
       (∀ pl : Bool, (pl = true → s.myCore.planeHolder = some s.iss.ctx → s.Clear 3 [.planes]) →
         (¬ Holds s p → exec (.tfree t pl) s = .next (s.faulted 3 3 none)) ∧
         (Holds s p → exec (.tfree t pl) s = .next (s.done 3 fun u =>
           if pl = true ∧ s.myCore.planeHolder = some s.iss.ctx then planesTo none (tileTo p {} u) else tileTo p {} u))) ∧
       (∀ anchor : Int,
         (¬ Holds s p → exec (.tzero t anchor) s = .next (s.faulted 3 3 none)) ∧
         (Holds s p → Broken s p → exec (.tzero t anchor) s = .next (s.faulted 3 0x11 none)) ∧
         (Holds s p → ¬ Broken s p →
           exec (.tzero t anchor) s = .next (s.done 3 (tileTo p { st := .allocated, holder := s.iss.ctx, anchor := anchor })))) ∧
       (s.me.mode = true ∨ s.me.hdl = true →
         (¬ Holds s p → exec (.tclr t) s = .next (s.faulted 3 3 none)) ∧
         (Holds s p → Broken s p → exec (.tclr t) s =
           .next (s.done 3 (tileTo p { v with st := .drainable, src := 0, next := 0, vr := false, loc := 0 }))) ∧
         (Holds s p → ¬ Broken s p → exec (.tclr t) s = .next (s.done 3 (tileTo p v))))) ∧
     (s.iss.opened = false → s.me.mode = false → s.me.hdl = false → exec (.tclr t) s = .next (s.faulted 3 4 none))) ∧
  ((∀ (s : State) (t p a row : Nat) (md : Rnd) (zr : Bool), Names s t p → Holds s p → ¬ Broken s p →
      ∀ e ∈ [(Ty.f32, 32, 1), (.f16, 16, 2), (.bf16, 16, 2), (.i32, 32, 1)], row + e.2.2 ≤ 64 →
        s.Issues (fun x => [x.vReg a]) → s.Clear 3 [.tile t false] →
        let v := tileIn s p
        let out (j : Nat) := readOut e.1 md s.visible.me.flush v.anchor (v.elems.get {} (64 * row + j))
        ∃ (r : VWord) (fl : FlagBits) (m : SMap Elem),
          exec (.tdrain e.1 md t a row zr) s = .next (s.done 3 fun u =>
            (if zr then tileTo p { v with elems := m } u else u).emitV a r 8 false fl) ∧
          (∀ j < 64 * e.2.2, lane e.2.1 r j = (out j).1) ∧
          (FlagsOf fl.getLsbD fun g => ∃ j < 64 * e.2.2, g = (out j).2) ∧
          ∀ i, m.get {} i = if 64 * row ≤ i ∧ i < 64 * (row + e.2.2) then {} else v.elems.get {} i) ∧
   (∀ (s : State) (t p a : Nat), Names s t p → s.Issues (fun x => [x.sReg a]) →
      let v := tileIn s p
      let k := s.myCore
      let bit (b : Bool) (n : Nat) := if b then 2 ^ n else 0
      (k.act.fmt ∈ none :: mxTypes.map some → k.shd.fmt ∈ none :: mxTypes.map some → v.holder < 4 → -2 ^ 15 ≤ v.anchor → v.anchor < 2 ^ 15 →
        exec (.tstat t a) s = .next (s.done 3 fun u => u.emitS a (wordOf (
          codeOf 16 v.anchor * 2 ^ 48 + formatCode k.act.fmt * 2 ^ 36 + formatCode k.shd.fmt * 2 ^ 32 + planeCode k.act.st * 2 ^ 14 +
          v.holder * 2 ^ 12 + bit (k.planeHolder == some s.iss.ctx) 11 + bit (v.elems.any fun e => e.2.nan) 10 + bit v.ovf 9 +
          bit v.inexact 8 + stateCode v.st)) 3)) ∧
      (v.ops < 2 ^ 32 → v.src < 4 → v.next < 128 →
        exec (.tprog t a 0) s = .next (s.done 3 fun u => u.emitS a (wordOf (v.ops * 2 ^ 32 + v.src * 2 ^ 14 + v.next)) 3)) ∧
      (v.loc < 2 ^ 23 → exec (.tprog t a 1) s = .next (s.done 3 fun u => u.emitS a (wordOf (bit v.vr 63 + v.loc)) 3))))

/-- R140, R143, R145, R150 to R155, R166: the operations that the matrix unit queues, and their faults in order. A `tload` reads its plane
for 33 cycles, 49 for E2M3, after the commit and after earlier loads. -/
def Obligations.MatrixQueue : Prop :=
  ∀ s : State,
    let planes := s.myCore.planeHolder = some s.iss.ctx
    (s.Issues (fun _ => []) → s.Clear 3 [.matrix] →
      (¬ planes → exec .tswap s = .next (s.faulted 3 3 none)) ∧
      (planes → exec .tswap s = .next (s.done 3 fun u => u.enqueue .tswap 0)) ∧
      ∀ (t p : Nat) (anchor : Int), Names s t p → s.Clear 3 [.tile t true] →
        (¬ Holds s p → exec (.tanchor t anchor) s = .next (s.faulted 3 3 none)) ∧
        (Holds s p → Broken s p → exec (.tanchor t anchor) s = .next (s.faulted 3 0x11 none)) ∧
        (Holds s p → ¬ Broken s p → exec (.tanchor t anchor) s = .next (s.done 3 fun u => u.enqueue (.tanchor p anchor) 0))) ∧
    (∀ ty ∈ mxTypes, ∀ a b : Nat, s.Issues (fun x => [x.sReg a, x.sReg b]) → s.Clear 3 (operandHolds s ty a b 64) →
      (¬ planes → exec (.tload ty a b) s = .next (s.faulted 3 3 none)) ∧
      (planes → RangeFaults s (.tload ty a b) ty a b 64) ∧
      (planes → RangesOk s ty a b 64 → ∃ due, s.cycle + (if ty = .e2m3 then 50 else 34) ≤ due ∧
        ((∀ o ∈ s.myCore.mq, ∀ f x y, o.kind ≠ .tload f x y) → due = s.cycle + (if ty = .e2m3 then 50 else 34)) ∧
        exec (.tload ty a b) s = .next (s.done 3 fun u =>
          u.enqueue (.tload ty (s.visible.rs a).val.toNat (s.visible.rs b).val.toNat) due))) ∧
    ∀ ty ∈ mxTypes, ∀ t p a b n row0 : Nat, 1 ≤ n → row0 + n ≤ 64 → Names s t p → s.Clear 3 [.tile t true] →
      let ready := Holds s p ∧ planes
      let fits := ∃ w, activeAfter s.myCore = some w ∧ blocksOf w = blocksOf ty
      (s.Issues (fun x => [x.sReg a, x.sReg b]) → s.Clear 3 (operandHolds s ty a b n) →
        let i : Instr := .tmm ty t false a b n row0
        (¬ ready → exec i s = .next (s.faulted 3 3 none)) ∧
        (ready → Broken s p → exec i s = .next (s.faulted 3 0x11 none)) ∧
        (ready → ¬ Broken s p → RangeFaults s i ty a b n) ∧
        (ready → ¬ Broken s p → RangesOk s ty a b n → ¬ fits → exec i s = .next (s.faulted 3 3 none)) ∧
        (ready → ¬ Broken s p → RangesOk s ty a b n → fits → exec i s = .next (s.done 3 fun u =>
          u.enqueue (.tmm ty p (s.visible.rs a).val.toNat (s.visible.rs b).val.toNat n row0) 0))) ∧
      (s.Issues (fun x => (List.range n).map fun i => x.vReg (a + i)) → s.Clear 3 [.matrix] →
        let i : Instr := .tmm ty t true a b n row0
        (¬ ready → exec i s = .next (s.faulted 3 3 none)) ∧
        (ready → Broken s p → exec i s = .next (s.faulted 3 0x11 none)) ∧
        (ready → ¬ Broken s p → ¬ fits → exec i s = .next (s.faulted 3 3 none)) ∧
        (ready → ¬ Broken s p → fits → ∃ rows : List (VVal × Nat), rows.map (·.1) = (List.range n).map (fun i => s.visible.me.readV (a + i)) ∧
          exec i s = .next (s.done 3 fun u => u.enqueue (.tmmV ty p rows n row0) 0)))

/-- R145, R149, R152, R161: the next row of the first operation with rows left enters, one per cycle, and is due 9 cycles later; behind a
`tswap` only a `tanchor` goes on.
R378: a row of a `tmm` counts its multiply-accumulates in the work of the task that holds the tile.
R38, R149, R152, R157, R159, R162, R164: a row applied at its cycle adds its contributions, in column and block order, or re-anchors
its elements; the last row counts one in OPS and sets the anchor; a poisoned row puts the tile into POISON and applies nothing. -/
def Obligations.MatrixRows : Prop :=
  (∀ (s : State) (c : Nat) (before after : List MOp) (o : MOp),
     let k := s.core c
     k.mq = before ++ o :: after → (∀ q ∈ before ++ after, q.id ≠ o.id) → (∀ q ∈ before, rowsOf q.kind ≤ q.entered) →
     ((∃ q ∈ before, q.kind = .tswap) → ∃ p b, o.kind = .tanchor p b) →
     o.entered < rowsOf o.kind → o.at_ < s.cycle → k.rowAt ≤ s.cycle →
       ∃ r : MRow,
         exec (.tileRowEnter c) s = .next (s.updCore c fun k =>
           { k with mq := before ++ { o with entered := o.entered + 1 } :: after, pipe := k.pipe ++ [r], rowAt := s.cycle + 1 }) ∧
         r.due = s.cycle + 9 ∧ r.op = o.id ∧ some r.tile = o.kind.tile ∧ (r.last = true ↔ o.entered + 1 = rowsOf o.kind) ∧
         (∀ p b, o.kind = .tanchor p b → r.anchor = some b ∧ r.row = o.entered ∧ r.poison = none) ∧
         (∀ ty p a b n row0, o.kind = .tmm ty p a b n row0 → r.anchor = none ∧ r.row = row0 + o.entered) ∧
         (∀ ty p rows n row0, o.kind = .tmmV ty p rows n row0 → r.anchor = none ∧ r.row = row0 + o.entered)) ∧
  (∀ (s : State) (c : Nat) (r : MRow) (rest : List MRow),
     let k := s.core c
     let v := k.tiles.get {} r.tile
     let holder := (k.ctx.get {} v.holder).st
     k.pipe = r :: rest → r.due ≤ s.cycle → v.st = .accumulating → holder ∉ [CState.done, .cancelled, .free] →
     (∀ i, -2 ^ 95 ≤ (v.elems.get {} i).acc ∧ (v.elems.get {} i).acc < 2 ^ 95) →
       ∃ (k' : Core) (tk : SMap (Option Task)), exec (.tileRowApply c) s = .next { s.setCore c k' with tasks := tk } ∧
         let v' := k'.tiles.get {} r.tile
         (∀ n t, (n, some t) ∈ s.tasks → t.core = c → t.saved = false → t.freed = false → r.tile ∈ t.tiles → s.tasks.get none n = some t →
           (∀ e ∈ s.tasks, ∀ u, e.2 = some u → u.core = c → u.saved = false → u.freed = false → r.tile ∈ u.tiles → e.1 = n) →
             tk.get none n = some (if r.poison = none then { t with cw1 := min (t.cw1 + 4096 * (r.adds.headD []).length) (2 ^ 64 - 1) } else t) ∧
             ∀ j, j ≠ n → tk.get none j = s.tasks.get none j) ∧
         v'.holder = v.holder ∧
         (r.poison = none →
           let out (j : Nat) : Elem × Bool × Bool :=
             match r.anchor with
             | some b => reanchor (v.anchor - b) (v.elems.get {} (64 * r.row + j))
             | none => ((r.adds[j]?).getD []).foldl (contribute v.anchor) (v.elems.get {} (64 * r.row + j), false, false)
           k'.pipe = rest ∧
           (∀ i, v'.elems.get {} i = if 64 * r.row ≤ i ∧ i < 64 * r.row + 64 then (out (i - 64 * r.row)).1 else v.elems.get {} i) ∧
           (v'.inexact = true ↔ v.inexact = true ∨ ∃ j < 64, (out j).2.1 = true) ∧
           (v'.ovf = true ↔ v.ovf = true ∨ ∃ j < 64, (out j).2.2 = true) ∧
           (r.last = false → v'.ops = v.ops ∧ v'.anchor = v.anchor ∧ v'.st = .accumulating) ∧
           (r.last = true → v'.ops = (v.ops + 1) % 2 ^ 32 ∧ v'.anchor = r.anchor.getD v.anchor ∧
             (∀ o, o ∈ k'.mq ↔ o ∈ k.mq ∧ o.id ≠ r.op) ∧
             (v'.st = .drainable ↔ v.xcmd = none ∧ ∀ o ∈ k.mq, o.id ≠ r.op → o.kind.tile ≠ some r.tile))) ∧
         (∀ src vr loc, r.poison = some (src, vr, loc) →
           v'.st = .poison ∧ v'.src = src ∧ v'.next = r.row ∧ v'.vr = vr ∧ v'.loc = loc ∧ v'.ops = v.ops ∧ v'.anchor = v.anchor ∧
           (∀ i, v'.elems.get {} i = v.elems.get {} i) ∧
           (∀ o ∈ k'.mq, o.kind.tile ≠ some r.tile) ∧ ∀ q ∈ k'.pipe, q.tile ≠ r.tile))

/-- R36 to R38, R142: the contributions of a row against the active plane: from scratchpad, with scales at the second address, or from a
register, with scales from byte 252. -/
def Obligations.MatrixContribution : Prop :=
  ∀ (k : Core) (cycle : Nat) (o : MOp) (tw : Ty), tw ∈ mxTypes → k.act.fmt = some tw → k.wrAt ≠ cycle →
    let weight (j m e : Nat) := element (mxWidth tw) (fun b => (k.act.elems.get 0 (j * rowBytes tw + b)).toNat) (64 * m + e)
    let scale (j m : Nat) := (k.act.scales.get 0 (j * blocksOf tw + m)).toNat
    (∀ ty ∈ mxTypes, blocksOf ty = blocksOf tw → ∀ p a b n row0, o.kind = .tmm ty p a b n row0 →
      let ea := a + o.entered * rowBytes ty
      ∀ j < 64, ∀ m < blocksOf ty, ∃ l x, (k.rowOf cycle o).adds[j]? = some l ∧ l[m]? = some x ∧
        IsContribution ty tw (fun e => element (mxWidth ty) (fun i => (k.spad.get 0 (ea + i)).toNat) (64 * m + e)) (weight j m)
          (k.spad.get 0 (b + o.entered * blocksOf ty + m)).toNat (scale j m) x) ∧
    (∀ ty ∈ mxTypes, blocksOf ty = blocksOf tw → ∀ p rows n row0 v reg, o.kind = .tmmV ty p rows n row0 → rows[o.entered]? = some (v, reg) →
      ∀ j < 64, ∀ m < blocksOf ty, ∃ l x, (k.rowOf cycle o).adds[j]? = some l ∧ l[m]? = some x ∧
        IsContribution ty tw (fun e => element (mxWidth ty) (fun i => v.val.toNat / 2 ^ (8 * i) % 256) (64 * m + e)) (weight j m)
          (v.val.toNat / 2 ^ (8 * (252 + m)) % 256) (scale j m) x)

/-- R141, R150, R151, R154, R164: a `tload` that has run its cycles fills the shadow plane, POISONED where a line of its operands is; a
`tswap` with no earlier `tload` and no earlier row to read exchanges the planes. -/
def Obligations.Planes : Prop :=
  ∀ (s : State) (c : Nat) (before after : List MOp) (o : MOp),
    let k := s.core c
    k.mq = before ++ o :: after → (∀ q ∈ before ++ after, q.id ≠ o.id) →
    (∀ ty ∈ mxTypes, ∀ a b, o.kind = .tload ty a b → (∀ q ∈ before, q.kind ≠ .tswap ∧ ∀ f x y, q.kind ≠ .tload f x y) →
      o.due ≤ s.cycle → k.wrAt ≠ s.cycle →
        ∃ k', exec (.tloadComplete c) s = .next (s.setCore c k') ∧ k'.mq = before ++ after ∧ k'.act = k.act ∧ k'.shd.fmt = some ty ∧
          (∀ i < 64 * rowBytes ty, k'.shd.elems.get 0 i = k.spad.get 0 (a + i)) ∧
          (∀ i < 64 * blocksOf ty, k'.shd.scales.get 0 i = k.spad.get 0 (b + i)) ∧
          (k'.shd.st = .poisoned ↔ (∃ w, k.spadPoison.get false w = true ∧ a < 8 * w + 8 ∧ 8 * w < a + 64 * rowBytes ty) ∨
            ∃ w, k.spadPoison.get false w = true ∧ b < 8 * w + 8 ∧ 8 * w < b + 64 * blocksOf ty) ∧
          (k'.shd.st ≠ .poisoned → k'.shd.st = .loaded)) ∧
    (o.kind = .tswap →
      (∀ q ∈ before, q.kind ≠ .tswap ∧ (∀ f x y, q.kind ≠ .tload f x y) ∧ ((∀ p b, q.kind ≠ .tanchor p b) → rowsOf q.kind ≤ q.entered)) →
        ∃ k', exec (.tswapTakeEffect c) s = .next (s.setCore c k') ∧ k'.act = k.shd ∧ k'.shd = k.act ∧
          k'.mq.map (·.id) = (before ++ after).map (·.id))

/-! ## Loads, stores, atomics and messages -/

/-- R169: the checks of an address in their order, with the cause and BADADDR of each, and the place where an access that passes goes. -/
def Obligations.AddressChecks : Prop :=
  ∀ (s : State) (ad : Addr) (n al : Nat) (kind : AccKind) (rlx : Bool), 0 < n → n ≤ 256 → 0 < al →
    let r := s.address ad n al kind rlx
    let u := s.rs ad.a
    let o := (u.val + wordOfInt ad.disp).toNat
    let hd := s.me.readH ad.h
    let va := hd.vpage + (u.val + wordOfInt ad.disp)
    let fails (c : Nat) (b : Word) := r = .error (c, some b)
    let perm := (kind ≠ .store → hd.r = true) ∧ (kind ≠ .load → hd.w = true) ∧ (hd.tier = 3 → n = 8 ∧ rlx = true ∧ kind ≠ .rmw)
    (u.poison = true → r = .error (0x10, none)) ∧
    (u.poison = false → ad.sp = true →
      (o % al ≠ 0 → fails 5 (wordOf o)) ∧
      (o % al = 0 → ((∀ i < n, allowed s (o + i)) → r = .ok (.spad o)) ∧ ((∃ i < n, ¬ allowed s (o + i)) → fails 0x30 (wordOf o)))) ∧
    (u.poison = false → ad.sp = false →
      (hd.valid = false → fails 0x0A va) ∧
      (hd.valid = true → hd.lost = true → fails 0x0D va) ∧
      (hd.valid = true → hd.lost = false → hd.tier = 2 → fails 0x0B va) ∧
      (hd.valid = true → hd.lost = false → hd.tier ≠ 2 →
        (o % al ≠ 0 → fails 5 va) ∧
        (o % al = 0 → 2 ^ (13 + 10 * hd.size) < o + n → fails 0x0A va) ∧
        (o % al = 0 → o + n ≤ 2 ^ (13 + 10 * hd.size) →
          (¬ perm → fails 9 va) ∧
          (perm → kind ≠ .load → hd.cow = true → fails 0x0C va) ∧
          (perm → (kind = .load ∨ hd.cow = false) → r = .ok (.home (hd.frame + o) hd va)))))

/-- R172, R173, R175, R176, R177: every load, with its size, alignment and latency.
R178: `roinv` takes its line, or every line, out of the core's read-only cache at its commit, and earlier misses of such a line install
nothing.
That `roinv` skips the tier-11 test is deduced (log entry 21). -/
def Obligations.LoadInstructions : Prop :=
  (∀ (h : Hint) (d k part : Nat) (ad : Addr),
     let scalar (_ : Ctx) : Dest := .scalar d
     let sReg (x : Ctx) := [x.sReg d]
     let vec (x : Ctx) : Dest := .vector d (if k = 0 then none else some (x.k.get (BitVec.allOnes 256) k))
     let vReg (x : Ctx) := [x.vReg d]
     let none_ (_ : Ctx) : List RegId := []
     let mask (_ : Ctx) : List RegId := [.k k]
     (∀ n ∈ [1, 2, 4, 8],
       (∀ ord ∈ [MemOrd.rlx, .acq], Loads (.ld n ord h d ad) ad n n 4 (decide (ord = .acq)) false false scalar sReg none_) ∧
       Loads (.ldS n h d ad) ad n n 4 false false true scalar sReg none_ ∧
       Loads (.ldro n h d ad) ad n n 4 false true false scalar sReg none_) ∧
     Loads (.vld h d ad k) ad 256 64 5 false false false vec vReg mask ∧
     Loads (.vldS h d ad k) ad 256 64 5 false false true vec vReg mask ∧
     Loads (.vldro h d ad k) ad 256 64 5 false true false vec vReg mask ∧
     (∀ e ∈ [(BlkW.w8, 8), (.w6, 6), (.w4, 4)],
       Loads (.vldb e.1 h d ad part) ad (8 * e.2) 16 5 false false false (fun _ => .block d part e.2) vReg none_) ∧
     ∀ ord ∈ [MemOrd.rlx, .acq], Loads (.ldx ord h d ad) ad 32 32 4 (decide (ord = .acq)) false false (fun _ => .quad d)
       (fun x => [x.sReg d, x.sReg (d + 1), x.sReg (d + 2), x.sReg (d + 3)]) none_) ∧
  (∀ s : State,
     let gone (hit : Nat → Prop) (i : Instr) := ∃ f : State → State, exec i s = .next (s.done 4 f) ∧ ∀ t : State, t.iss.core = s.iss.core →
       (f t).mem = t.mem ∧
       (∀ l, l ∈ ((f t).core s.iss.core).roc ↔ l ∈ (t.core s.iss.core).roc ∧ ¬ hit l.addr) ∧
       (∀ c, c ≠ s.iss.core → ((f t).core c).roc = (t.core c).roc) ∧
       (f t).accs.map (·.id) = t.accs.map (·.id) ∧
       ∀ e ∈ (f t).accs, e.core = s.iss.core → ∀ p, e.place = .phys p → hit (p / 64 * 64) → e.op ≠ .ro true
     (s.Issues (fun _ => []) → gone (fun _ => True) .roinvAll) ∧
     ∀ (h a : Nat) (disp : Int), s.Issues (fun x => [x.sReg a, .h h]) → handleOk s ⟨false, h, a, disp⟩ →
       let u := s.visible.rs a
       let hd := s.visible.me.readH h
       let o := u.val + wordOfInt disp
       let i : Instr := .roinvAddr h a disp
       (u.poison = true → exec i s = .next (s.faulted 4 0x10 none)) ∧
       (u.poison = false → (hd.valid = false ∨ (hd.lost = false ∧ hd.tier ≠ 2 ∧ 2 ^ (13 + 10 * hd.size) < o.toNat + 1)) →
         exec i s = .next (s.faulted 4 0x0A (some (hd.vpage + o)))) ∧
       (u.poison = false → hd.valid = true → hd.lost = true → exec i s = .next (s.faulted 4 0x0D (some (hd.vpage + o)))) ∧
       (u.poison = false → hd.valid = true → hd.lost = false → hd.tier = 2 → exec i s = .next (s.faulted 4 0x0B (some (hd.vpage + o)))) ∧
       (u.poison = false → hd.valid = true → hd.lost = false → hd.tier ≠ 2 → o.toNat + 1 ≤ 2 ^ (13 + 10 * hd.size) →
         gone (fun l => l = (hd.frame + o.toNat) / 64 * 64) i))

/-- R172, R174, R175: every store, with its size, alignment and data.
R181, R182: a message leaves for the scratchpad of a core of the launch; tagged, it waits for the releases of the sender's arrivals.
R171, R173, R182, R191, R204: a message writes its active bytes into the target's scratchpad in one cycle and no other byte. -/
def Obligations.StoresAndMessages : Prop :=
  (∀ (h : Hint) (d k part : Nat) (ad : Addr),
     (∀ ord ∈ [MemOrd.rlx, .rel],
       (∀ n ∈ [1, 2, 4, 8], Stores (.st n ord h d ad) ad n n (decide (ord = .rel)) (fun x => [x.sReg d]) (fun x => (x.readS d).poison)
         (fun x b => some (scalarByte (x.readS d).val b))) ∧
       Stores (.stx ord h d ad) ad 32 32 (decide (ord = .rel)) (fun x => [x.sReg d, x.sReg (d + 1), x.sReg (d + 2), x.sReg (d + 3)])
         (fun x => (x.readS d).poison || (x.readS (d + 1)).poison || (x.readS (d + 2)).poison || (x.readS (d + 3)).poison)
         (fun x b => some (scalarByte (x.readS (d + b / 8)).val (b % 8)))) ∧
     Stores (.vst h d ad k) ad 256 64 false (fun x => [x.vReg d, .k k]) (fun x => (x.readV d).poison)
       (fun x b => if (x.readK k).getLsbD b then some (vectorByte (x.readV d).val b) else none) ∧
     ∀ e ∈ [(BlkW.w8, 8), (.w6, 6), (.w4, 4)],
       Stores (.vstb e.1 h d ad part) ad (8 * e.2) 16 false (fun x => [x.vReg d]) (fun x => (x.readV d).poison)
         (fun x b => some (vectorByte (x.readV d).val (8 * e.2 * part + b)))) ∧
  ((∀ (s : State) (vec : Bool) (ord : MemOrd) (d a k : Nat) (disp : Int), ord = .rlx ∨ ord = .rel →
      s.Issues (fun x => (if vec then [x.vReg d, .k k] else [x.sReg d]) ++ [x.sReg a]) →
      s.Clear 5 (.sends :: .acquire :: if ord = .rel then [.earlier false] else []) →
      let x := s.visible.me
      let u := s.visible.rs a
      let w := u.val.toNat
      let n := if vec then 256 else 8
      let al := if vec then 64 else 8
      let t : Int := (w % 2 ^ 23 : Nat) + disp
      let core := w / 2 ^ 32 % 2 ^ 7
      let placed := ∃ k, s.myTask = some k ∧ ∃ e ∈ s.tasks, ∃ j, e.2 = some j ∧ j.launch = k.launch ∧ j.core = core
      let good := w / 2 ^ 23 % 2 ^ 9 = 0 ∧ w / 2 ^ 39 % 2 ^ 24 = 0 ∧ 0 ≤ t ∧ t.toNat % al = 0 ∧ (∀ i < n, allowed s (t.toNat + i)) ∧ placed
      let i : Instr := .send vec ord d a disp k
      let po := if vec then (x.readV d).poison else (x.readS d).poison
      (u.poison = true → exec i s = .next (s.faulted 5 0x10 none)) ∧
      (u.poison = false → ¬ good → exec i s = .next (s.faulted 5 0x30 (some (u.val + wordOfInt disp)))) ∧
      (u.poison = false → good → po = true → exec i s = .next (s.faulted 5 0x12 none)) ∧
      (u.poison = false → good → po = false → ∃ held, (∀ e, e ∈ held ↔ 2 ^ 63 ≤ w ∧ ∃ r ∈ x.arr, r.2.released = false ∧ e = (r.2.bar, r.2.phase)) ∧
        exec i s = .next (s.done 5 fun z =>
          { z with ids := z.ids + 1,
                   accs := z.accs ++ [{ id := z.ids, core := z.iss.core, ctx := z.iss.ctx, step := z.me.step,
                                        op := .store ((List.range n).map fun b =>
                                          if vec then (if (x.readK k).getLsbD b then some (vectorByte (x.readV d).val b) else none)
                                          else some (scalarByte (x.readS d).val b)),
                                        place := .spad core t.toNat, n := n, send := true, tagged := decide (2 ^ 63 ≤ w), heldFor := held }] }))) ∧
   (∀ (s : State) (id c o : Nat) (a : Access) (data : List (Option Byte)), s.accs.find? (fun e => decide (e.id = id)) = some a → s.running = true →
      s.canPerform a = true → a.place = .spad c o → a.op = .store data → (s.core c).wrAt ≠ s.cycle →
        ∃ t, exec (.accessPerform id) s = .next t ∧ t.mem = s.mem ∧ (∀ e, e ∈ t.accs ↔ e ∈ s.accs ∧ e.id ≠ id) ∧
          (∀ d, d ≠ c → (t.core d).spad = (s.core d).spad) ∧
          (∀ x, (t.core c).spad.get 0 x =
            if o ≤ x ∧ x < o + data.length then ((data[x - o]?).bind fun b => b).getD ((s.core c).spad.get 0 x) else (s.core c).spad.get 0 x) ∧
          ∀ w, (t.core c).spadPoison.get false w = true ↔ (s.core c).spadPoison.get false w = true ∧
            ¬ (o ≤ 8 * w ∧ 8 * w + 8 ≤ o + data.length ∧ ∀ i < 8, ∃ b, data[8 * w + i - o]? = some (some b))))

/-- R183, R184: every atomic; `amo.fadd` takes its size from its type, and only `amo.cas` has a compare operand.
R45, R183, R184: what a home writes for an atomic whose word holds `old`, and that it writes nothing in a poisoned word or where the
comparison fails. -/
def Obligations.AtomicInstructions : Prop :=
  (∀ (h : Hint) (ord : MemOrd) (d b c : Nat) (ad : Addr),
     (∀ n ∈ [4, 8],
       Atomics (.amoAdd n ord h d ad b) .add n ord d ad b 0 ∧ Atomics (.amoMin n ord h d ad b) .min n ord d ad b 0 ∧
       Atomics (.amoMax n ord h d ad b) .max n ord d ad b 0 ∧ Atomics (.amoMinu n ord h d ad b) .minu n ord d ad b 0 ∧
       Atomics (.amoMaxu n ord h d ad b) .maxu n ord d ad b 0 ∧ Atomics (.amoAnd n ord h d ad b) .and n ord d ad b 0 ∧
       Atomics (.amoOr n ord h d ad b) .or n ord d ad b 0 ∧ Atomics (.amoXor n ord h d ad b) .xor n ord d ad b 0 ∧
       Atomics (.amoSwap n ord h d ad b) .swap n ord d ad b 0 ∧ Atomics (.amoCas n ord h d ad b c) .cas n ord d ad b c) ∧
     Atomics (.amoFadd .f32 ord h d ad b) (.fadd .f32) 4 ord d ad b 0 ∧
     ∀ ty ∈ [Ty.f16, .bf16], Atomics (.amoFadd ty ord h d ad b) (.fadd ty) 2 ord d ad b 0) ∧
  (∀ n ∈ [2, 4, 8], ∀ old b c : Nat, old < 2 ^ (8 * n) → b < 2 ^ (8 * n) → c < 2 ^ (8 * n) →
     let v := intOf (8 * n) true
     let gives (op : AmoOp) (w : Option Nat) := (amoAt op n old b c false).1 = old ∧ (amoAt op n old b c false).2.1 = w
     gives .add (some ((old + b) % 2 ^ (8 * n))) ∧ gives .min (some (if v b < v old then b else old)) ∧
     gives .max (some (if v old < v b then b else old)) ∧ gives .minu (some (min old b)) ∧ gives .maxu (some (max old b)) ∧
     gives .and (some (old &&& b)) ∧ gives .or (some (old ||| b)) ∧ gives .xor (some (old ^^^ b)) ∧ gives .swap (some b) ∧
     gives .cas (if old = c then some b else none) ∧
     (∀ e ∈ laneFloats, e.2.1 = 8 * n → gives (.fadd e.1) (some (sumTo e.2.2 .rne false (e.2.2.decode false old) (e.2.2.decode false b)).1)) ∧
     ∀ op, (amoAt op n old b c true).1 = 0 ∧ (amoAt op n old b c true).2.1 = none)

/-! ## Accesses at their homes -/

/-- R173, R174, R184, R185, R189, R414: an access that may perform, at a vault or HBM byte that is not lost: a load takes the bytes to its
group and changes no memory; a store writes its bytes, leaves every other byte, makes its words FULL and, where it covers its line and is the
last of its pieces there, clears the line's poison; an atomic reads and writes at once. The access is then gone.
R191, R85, R355, R414: an access does not perform before an earlier one of its context that it must follow, before the releases it waits
for, or at an EMPTY word. R185: at a lost quarter it delivers a poisoned 0, writes nothing and sets the latch. R203: a hit of the read-only
path takes the cached bytes.
R81 to R83, R173: the registers of a load receive its bytes together when all its pieces have come back and every earlier result of
theirs has become visible; a single result likewise. The marks clear.
The instant at which a read-only hit is decided, and `snapT`, are readings (log entries 24 and 42). -/
def Obligations.AccessesAndResults : Prop :=
  ((∀ (s : State) (id p : Nat) (a : Access), s.accs.find? (fun e => decide (e.id = id)) = some a → s.running = true →
      s.canPerform a = true → s.roHit a = none → a.place = .phys p → tierOf p ≠ 3 → s.lostAt p = false → 0 < a.n → a.n ≤ 64 →
        ∃ t : State, exec (.accessPerform id) s = .next t ∧
          (∀ e, e ∈ t.accs ↔ e ∈ s.accs ∧ e.id ≠ id) ∧ t.host = s.host ∧
          let comes (bs : Nat → Byte) (po : Bool) := ∀ k, a.grp = some k → ∀ g ∈ s.groups, g.id = k → ∃ h ∈ t.groups,
            h.id = k ∧ h.left = g.left - 1 ∧ h.dest = g.dest ∧ h.regs = g.regs ∧ h.n = g.n ∧
            (∀ b, h.got.get 0 b = if a.off ≤ b ∧ b < a.off + a.n then bs (b - a.off) else g.got.get 0 b) ∧
            ∀ w, w ∈ h.poison ↔ w ∈ g.poison ∨ (po = true ∧ a.off / 8 ≤ w ∧ w < a.off / 8 + (a.n + 7) / 8)
          let byte (i : Nat) := s.mem.get 0 (p + i)
          (a.op = .load → (∀ x, t.mem.get 0 x = s.mem.get 0 x) ∧ t.poison = s.poison ∧ comes byte (s.poisoned p a.n)) ∧
          (∀ fill, a.op = .ro fill → (∀ x, t.mem.get 0 x = s.mem.get 0 x) ∧ t.poison = s.poison ∧ comes byte (s.poisoned p a.n) ∧
            (fill = false ∨ s.poisoned p a.n = true → ∀ c, (t.core c).roc = (s.core c).roc) ∧
            (fill = true → s.poisoned p a.n = false → (t.core a.core).roLine (p / 64 * 64) = some (readBytes s.mem (p / 64 * 64) 64))) ∧
          (∀ data, a.op = .store data → data.length = a.n →
            (∀ x, t.mem.get 0 x = if p ≤ x ∧ x < p + a.n then ((data[x - p]?).bind fun b => b).getD (s.mem.get 0 x) else s.mem.get 0 x) ∧
            (∀ l, t.poison.get false l = true → s.poison.get false l = true) ∧
            (∀ l, l ≠ p / 64 → t.poison.get false l = s.poison.get false l) ∧
            (a.full = false → t.poison = s.poison) ∧
            (a.full = true → (∀ e ∈ s.accs, e.id = id ∨ e.core ≠ a.core ∨ e.ctx ≠ a.ctx ∨ e.step ≠ a.step) → t.poison.get false (p / 64) = false) ∧
            ∀ w, t.empty.get false w = true ↔ s.empty.get false w = true ∧ (8 * w + 8 ≤ p ∨ p + a.n ≤ 8 * w)) ∧
          ∀ op b c, a.op = .amo op b c →
            let r := amoAt op a.n (number a.n byte) b c (s.poisoned p a.n)
            (∀ v, r.2.1 = some v → ∀ x, t.mem.get 0 x = if p ≤ x ∧ x < p + a.n then BitVec.ofNat 8 (v / 256 ^ (x - p)) else s.mem.get 0 x) ∧
            (r.2.1 = none → ∀ x, t.mem.get 0 x = s.mem.get 0 x) ∧
            comes (fun i => BitVec.ofNat 8 (r.1 / 256 ^ i)) (s.poisoned p a.n)) ∧
   (∀ (s : State) (id p : Nat) (a : Access), s.accs.find? (fun e => decide (e.id = id)) = some a → a.id = id → a.place = .phys p →
      let waits := exec (.accessPerform id) s = .next s
      (s.roHit a = none → ∀ e ∈ s.accs, ∀ q, e.id ≠ id → e.core = a.core → e.ctx = a.ctx → e.place = .phys q → s.roHit e = none →
        let shares := q / 8 < (p + a.n + 7) / 8 ∧ p / 8 < (q + e.n + 7) / 8
        (e.step < a.step → ((e.near = true ∧ a.near = true) ∨ shares ∨ (tierOf q = 3 ∧ tierOf p = 3)) → waits) ∧
        (e.step = a.step → (e.op = .load ∨ ∃ f, e.op = .ro f) → ((∃ d, a.op = .store d) ∨ ∃ o b c, a.op = .amo o b c) → shares → waits)) ∧
      (s.roHit a = none → a.acq = false → (∃ e ∈ s.accs, e.id ≠ id ∧ e.core = a.core ∧ e.ctx = a.ctx ∧ e.step = a.step ∧ e.acq = true ∧
        e.grp ≠ a.grp ∧ (e.op = .load ∨ (∃ d, a.op = .store d) ∨ ∃ o b c, a.op = .amo o b c)) → waits) ∧
      (s.roHit a = none → (∃ l ∈ s.lands, l.acq = true ∧ l.core = a.core ∧ l.ctx = a.ctx ∧ l.step = a.step) → waits) ∧
      (s.roHit a = none → a.heldFor ≠ [] → waits) ∧
      (s.roHit a = none → (∀ d, a.op ≠ .store d) → (∃ w, s.empty.get false w = true ∧ p < 8 * w + 8 ∧ 8 * w < p + a.n) → waits) ∧
      (s.running = true → s.canPerform a = true → s.roHit a = none → tierOf p ≠ 3 → s.lostAt p = true →
        ∃ t, exec (.accessPerform id) s = .next t ∧ t.mem = s.mem ∧
          (t.cx a.core a.ctx).dloss = some ((s.cx a.core a.ctx).dloss.getD a.vaddr) ∧
          ∀ g ∈ t.groups, a.grp = some g.id → (∀ b, a.off ≤ b → b < a.off + a.n → g.got.get 0 b = 0) ∧ (0 < a.n → a.off / 8 ∈ g.poison)) ∧
      (s.running = true → ∀ bs, s.roHit a = some bs → ∃ t, exec (.accessPerform id) s = .next t ∧ t.mem = s.mem ∧ t.cores = s.cores ∧
        ∀ g ∈ t.groups, a.grp = some g.id → ∀ i < bs.length, g.got.get 0 (a.off + i) = bs[i]?.getD 0))) ∧
  (∀ (s : State) (id : Nat),
     (∀ g, s.groups.find? (fun e => decide (e.id = id)) = some g →
       let x := s.cx g.core g.ctx
       let early := ∃ r ∈ g.regs, ∃ e ∈ x.inflight ++ x.snap ++ x.snapT, e.reg = r ∧ e.seq < g.step
       (g.left ≠ 0 ∨ early → exec (.resultLand id) s = .next s) ∧
       let sized := (match g.dest with | .scalar _ => True | .quad _ => g.n = 32 | .vector .. => g.n = 256 | .block _ _ w => g.n = 8 * w) ∧
         ∀ w ∈ g.poison, w < (g.n + 7) / 8
       (g.left = 0 → ¬ early → sized → ∃ (t : State) (out : List (RegId × RVal × Bool)), exec (.resultLand id) s = .next t ∧
         Delivers g.dest g.regs x g.n (fun b => g.got.get 0 b) (fun w => match g.dest with | .scalar _ => g.poison ≠ [] | _ => w ∈ g.poison) out ∧
         t.groups = s.groups.filter (fun e => decide (e.id ≠ id)) ∧ t.mem = s.mem ∧
         (∀ e, e ∈ (t.cx g.core g.ctx).pend ↔ e ∈ x.pend ∧ ¬ (e.1 ∈ g.regs ∧ e.2 = g.step)) ∧
         ∀ r v po, (r, v, po) ∈ out → g.regs = [r] →
           (t.cx g.core g.ctx).s = (x.write r v po).s ∧ (t.cx g.core g.ctx).v = (x.write r v po).v)) ∧
     ∀ l, s.groups.find? (fun e => decide (e.id = id)) = none → s.lands.find? (fun e => decide (e.id = id)) = some l →
       let x := s.cx l.core l.ctx
       let early := ∃ e ∈ x.inflight ++ x.snap ++ x.snapT, e.reg = l.reg ∧ e.seq < l.step
       (early → exec (.resultLand id) s = .next s) ∧
       (¬ early → ∀ v, l.val = .val v → exec (.resultLand id) s = .next
         { s.updCx l.core l.ctx fun y => (y.write l.reg v false).unmark l.reg l.step with lands := s.lands.filter fun e => decide (e.id ≠ id) }))

/-- R6, R7, R212, R213, R244, R246, R322, R337, R374, R425, R434: a write of a device-control register keeps the fields that its access codes
protect; the host alone reaches the management registers. No memory changes.
R425, R414: the host's window reaches the vaults and HBM: a write changes its bytes and no other, a read takes the bytes as they stand and
waits for EMPTY words; anything else is an unsupported request, which changes no memory.
That nothing is brought by an unsupported request is the window's form (log entry 44). -/
def Obligations.HostSide : Prop :=
  (∀ (s : State) (ag : RegAgent) (w : Word), s.mg.power ≠ .off →
     let n := w.toNat
     let after (b : Block) (off : Nat) (v : Word) := ∃ t, exec (.registerWrite ag b off w) s = .next t ∧ t.readReg ag b off = v ∧ t.mem = s.mem
     let field (lo len : Nat) := n / 2 ^ lo % 2 ^ len * 2 ^ lo
     (∀ c < 128, ∀ x < 4,
       after (.core c) (0x400 + 8 * x) (wordOf (field 52 12 + field 13 35 + field 0 1)) ∧
       after (.core c) (0x420 + 8 * x) (if 2 ^ 63 ≤ n then insField ((s.core c).xfault.get 0 x) 63 1 0 else (s.core c).xfault.get 0 x) ∧
       after (.core c) (0x480 + 8 * x) (wordOf (field 16 32 + field 0 1)) ∧
       exec (.registerWrite ag (.core c) (0x500 + 16 * x) w) s = .next s) ∧
     (∀ q < 32,
       after .io (0x2000 + 0x20 * q) (wordOf (field 1 1 + if s.mg.runtimeOk then field 0 1 else 0)) ∧
       ((s.lq q).thr.length = 8 → after .io (0x2008 + 0x20 * q) (wordOf (field 0 9 + field 16 9 + field 32 9 + field 48 9)) ∧
         after .io (0x2010 + 0x20 * q) (wordOf (field 0 9 + field 16 9 + field 32 9 + field 48 9)))) ∧
     after .io 0x3000 (wordOf (field 12 52)) ∧ after .io 0x3008 (wordOf (field 8 1 + field 0 5)) ∧ after .io 0x3018 (wordOf (field 0 32)) ∧
     after .io 0x3100 (wordOf (field 13 35 + field 0 1)) ∧ after .io 0x3108 (wordOf (field 62 2 + field 0 48)) ∧
     after .io 0x3110 (wordOf (field 0 32)) ∧ after .io 0x3200 (wordOf (field 34 14)) ∧ after .io 0x3600 w ∧ after .io 0x3608 (wordOf (field 0 4)) ∧
     (ag = .host → after .io 0xC008 w ∧ after .io 0xC010 w) ∧
     (ag = .device → ∀ off, 0xC000 ≤ off → off < 0x16000 → exec (.registerWrite ag .io off w) s = .next s ∧ s.readReg ag .io off = 0)) ∧
  (∀ (s : State) (off n : Nat) (data : List Byte), data.length = n → 0 < n →
     let a := s.hwBase.toNat + off
     let ok := s.counts = true ∧ off + n ≤ 2 ^ 34 ∧
       ((a / 2 ^ 46 % 4 = 0 ∧ a / 2 ^ 38 % 2 ^ 8 = 0 ∧ a + n ≤ 2 ^ 38) ∨ (a / 2 ^ 46 % 4 = 1 ∧ a / 2 ^ 39 % 2 ^ 7 = 0 ∧ a % 2 ^ 39 + n ≤ 0x6000000000))
     (¬ ok → ∀ w, ∃ t, exec (.hostMemoryAccess w off n data) s = .next t ∧ t.mem = s.mem ∧ t.hostRead = []) ∧
     (ok → (∀ v q, s.quarterLost v q = false) →
       (∃ t, exec (.hostMemoryAccess true off n data) s = .next t ∧
         ∀ x, t.mem.get 0 x = if a ≤ x ∧ x < a + n then data[x - a]?.getD 0 else s.mem.get 0 x) ∧
       ((∃ w, s.empty.get false w = true ∧ a < 8 * w + 8 ∧ 8 * w < a + n) → exec (.hostMemoryAccess false off n data) s = .next s) ∧
       ((∀ w, s.empty.get false w = true → 8 * w + 8 ≤ a ∨ a + n ≤ 8 * w) → ∃ t, exec (.hostMemoryAccess false off n data) s = .next t ∧
         t.mem = s.mem ∧ t.hostRead = (List.range n).map fun i => s.mem.get 0 (a + i))))

/-! ## Translation -/

/-- R215, R218: `xlat` and `xlat.s` on a first-level hit and on a miss, and their faults, which `xlat.s` turns into an invalid handle.
R216, R220: the two words of `hinfo`, and `hrel`. -/
def Obligations.Handles : Prop :=
  (∀ (s : State) (n a intent : Nat), s.Issues (fun x => [.h n, x.sReg a]) → handleIn s n →
     let x := s.visible.me
     let u := s.visible.rs a
     let va := u.val
     let xr := s.myCore.xroot.get 0 s.iss.ctx
     let sp := field 52 12 xr.toNat
     let gen := (x.gen + 1) % 2 ^ 16
     let counted (t : State) := t.updMe fun y => { y with gen := gen }
     let fails (c : Nat) (b : Option Word) :=
       exec (.xlat n a intent) s = .next (s.faulted 6 c b) ∧
       exec (.xlatS n a intent) s = .next (s.done 6 fun t => (counted t).emit (.h n) (.h { gen := gen, cause := c }) 12)
     let enabled := isCanonical va.toNat ∧ xr.getLsbD 0 = true
     (u.poison = true → fails 0x10 none) ∧
     (u.poison = false → ¬ enabled → fails 8 (some va)) ∧
     (u.poison = false → enabled →
       (∀ (before after : List TlbEntry) (t : TlbEntry), s.myCore.tlb1 = before ++ t :: after → (∀ q ∈ before, ¬ Matches q sp va) → Matches t sp va →
         (Refuses t.leaf.toNat intent x.mode → fails 9 (some va)) ∧
         (¬ Refuses t.leaf.toNat intent x.mode → ∃ h, IsHandle h va t.leaf.toNat gen ∧
           exec (.xlat n a intent) s = .next (s.done 6 fun t => (counted t).emit (.h n) (.h h) 12) ∧
           exec (.xlatS n a intent) s = .next (s.done 6 fun t => (counted t).emit (.h n) (.h h) 12))) ∧
       ((∀ q ∈ s.myCore.tlb1, ¬ Matches q sp va) →
         let walks (spec : Bool) (t : State) : State :=
           ({ counted t with
               ids := t.ids + 1
               walks := t.walks ++ [{ id := t.ids, core := t.iss.core, ctx := t.iss.ctx, step := x.step, va := va, intent := intent, spec := spec,
                                      hreg := n, gen := gen, xpc := x.f0, runtime := x.mode, xroot := xr }] } : State).mark [.h n]
         exec (.xlat n a intent) s = .next (s.done 6 (walks false)) ∧ exec (.xlatS n a intent) s = .next (s.done 6 (walks true))))) ∧
  (∀ (s : State) (n b : Nat), handleIn s n →
     let h := s.visible.me.readH n
     (s.Issues (fun x => [.h n, x.sReg b]) →
       (∃ w, exec (.hinfo b n 0) s = .next (s.done 6 fun t => t.emitS b w 3) ∧
         let is (lo len v : Nat) := field lo len w.toNat = v
         let flag (i : Nat) (f : Bool) := w.getLsbD i = f
         is 32 16 (h.gen % 2 ^ 16) ∧ is 16 8 (h.cause % 2 ^ 8) ∧ is 48 2 0 ∧ is 12 3 0 ∧
         (h.valid = false → is 50 14 0 ∧ is 24 8 0 ∧ is 0 16 0) ∧
         (h.valid = true → h.frame < 2 ^ 48 →
           let tier := field 46 2 h.frame
           flag 63 true ∧ flag 62 (!decide (tier = 0 ∧ field 31 7 h.frame = s.iss.core)) ∧ flag 61 h.lost ∧ flag 60 (decide (tier = 2)) ∧
           is 58 2 tier ∧ is 56 2 (h.size % 4) ∧ flag 55 h.r ∧ flag 54 h.w ∧ flag 53 h.cow ∧ flag 52 h.rop ∧ flag 51 h.mig ∧ flag 50 h.unc ∧
           is 24 8 (match tier with
             | 0 => field 31 7 h.frame
             | 1 => field 13 3 h.frame ^^^ field 16 3 h.frame
             | 2 => field 42 4 h.frame
             | _ => 0) ∧
           flag 15 (decide (tier = 1 ∧ h.size ≠ 0)) ∧ is 0 12 (h.space % 2 ^ 12))) ∧
       exec (.hinfo b n 1) s = .next (s.done 6 fun t => t.emitS b (if h.valid then h.vpage else 0) 3)) ∧
     (s.Issues (fun _ => [.h n]) → exec (.hrel n) s = .next (s.done 6 fun t => t.emit (.h n) (.h { gen := h.gen }) 1)))

/-- R206 to R209, R211: the tables decide what a walk finds: the leaf that the four levels reach, the same leaf while it is BUSY, or a
failure, which a poisoned entry causes alone.
R209, R213, R214, R218, R219, R445: a walk reads one entry at a time; at its end the handle of the leaf, which enters both TLB levels, or an
invalid handle with the cause, and for `xlat` XFAULT and a fault that waits for the context's next bundle; a BUSY leaf makes it wait and start
again. That a walk of the control plane reads its entries at one time, and that a bad root fails as a bad entry does, are readings (log entries
12 and 20). -/
def Obligations.PageWalks : Prop :=
  (∀ (s : State) (va xroot : Word),
     (∀ e a, Translates s va xroot e a → s.walk va xroot = if e.testBit 7 then .busy a else .leaf e a) ∧
     ((∀ e a, ¬ Translates s va xroot e a) → ∃ p, s.walk va xroot = .fail p ∧ ∀ a, p = some a → s.poisoned a 8 = true)) ∧
  (∀ (s : State) (id : Nat) (w : Walk), s.walks.find? (fun v => decide (v.id = id)) = some w →
     let x := s.cx w.core w.ctx
     let sp := field 52 12 w.xroot.toNat
     let early := ∃ e ∈ x.inflight ++ x.snap ++ x.snapT, e.reg = .h w.hreg ∧ e.seq < w.step
     let lands (t : State) (h : Handle) :=
       exec (.walkComplete id) s = .next t ∧ t.mem = s.mem ∧ t.walks = s.walks.filter (fun v => decide (v.id ≠ id)) ∧
       (t.cx w.core w.ctx).h.get {} w.hreg = h ∧ (∀ m, m ≠ w.hreg → (t.cx w.core w.ctx).h.get {} m = x.h.get {} m) ∧
       ∀ e, e ∈ (t.cx w.core w.ctx).pend ↔ e ∈ x.pend ∧ e ≠ (.h w.hreg, w.step)
     let fails (c : Nat) (po : Bool) := ∃ t, lands t { gen := w.gen, cause := c } ∧
       (t.cx w.core w.ctx).xfaults = x.xfaults ++ (if w.spec then [] else [⟨w.hreg, c, po, w.xpc, w.va⟩]) ∧
       (w.spec = false → let f := ((t.core w.core).xfault.get 0 w.ctx).toNat
         f.testBit 63 = true ∧ field 48 4 f = w.hreg % 16 ∧ field 40 8 f = c ∧ (f.testBit 39 = true ↔ po = true) ∧ field 0 18 f = w.xpc % 2 ^ 18) ∧
       t.escs.length = s.escs.length + (if po then 1 else 0)
     let leaf (e : Nat) :=
       (¬ Refuses e w.intent w.runtime → ∃ t h, IsHandle h w.va e w.gen ∧ lands t h ∧ (t.cx w.core w.ctx).xfaults = x.xfaults ∧ t.escs = s.escs ∧
         (∃ q ∈ (t.core w.core).tlb1, Matches q sp w.va ∧ q.leaf = wordOf e) ∧ ∃ q ∈ (t.core w.core).tlb2, Matches q sp w.va ∧ q.leaf = wordOf e) ∧
       (Refuses e w.intent w.runtime → fails 9 false)
     let cursor (i : Instr) (c : Cursor) := exec i s = .next { s with walks := s.walks.map fun v => if v.id = id then { v with cur := c } else v }
     (w.cur.busy ≠ none ∨ early → exec (.walkComplete id) s = .next s) ∧
     (s.running = true → w.cur.busy = none → ¬ early →
       (w.cur.next = none → ∀ (before after : List TlbEntry) (q : TlbEntry), (s.core w.core).tlb2 = before ++ q :: after →
         (∀ r ∈ before, ¬ Matches r sp w.va) → Matches q sp w.va → field 2 2 q.leaf.toNat = q.size → leaf q.leaf.toNat) ∧
       ((w.cur.next = none → ∀ r ∈ (s.core w.core).tlb2, ¬ Matches r sp w.va) →
         (w.cur.next = none → ¬ RootOk s w.va w.xroot → fails 8 false) ∧
         ∀ lvl t, ReadsAt s w.va w.xroot w.cur.next lvl t →
           let a := slotOf w.va lvl t
           let e := entryAt s a
           (s.poisoned a 8 = true → fails 8 true) ∧
           (s.poisoned a 8 = false →
             (GoodLeaf s lvl sp e → e.testBit 7 = false → leaf e) ∧
             (GoodLeaf s lvl sp e → e.testBit 7 = true → cursor (.walkComplete id) { busy := some a }) ∧
             (GoodPointer s lvl e → cursor (.walkComplete id) { next := some (lvl - 1, field 13 35 e * 2 ^ 13) }) ∧
             (¬ GoodLeaf s lvl sp e → ¬ GoodPointer s lvl e → fails 8 false)))) ∧
     (∀ a, w.cur.busy = some a →
       (s.running = true → (s.poisoned a 8 = true ∨ (entryAt s a).testBit 7 = false) → cursor (.walkBusyRestart id) {}) ∧
       (s.poisoned a 8 = false → (entryAt s a).testBit 7 = true → exec (.walkBusyRestart id) s = .next s)) ∧
     (w.cur.busy = none → exec (.walkBusyRestart id) s = .next s))

/-- R66, R221 to R223: `tlbinv` and `pgmig` start a revocation and a migration in RUNTIME mode; the clear of a revocation takes the selected
entries out of the TLBs and clears the selected handles of the cores in scope; `tlbinv` writes its predicate when nothing is left to wait for.
R222, R445, R447: the walk of a migration reads one entry at a time and ends with a status, or sets BUSY and revokes the page; the move then
copies line by line, writes the leaf, and reports.
That the clear reaches handles in flight is deduced (log entry 13); that a link that is down loses the source is a reading (log entry 50). -/
def Obligations.RevocationAndMigration : Prop :=
  ((∀ (s : State) (pd a b mode : Nat) (dev : Bool), s.Issues (fun x => [x.pReg pd, x.sReg a, x.sReg b]) →
     let u := s.visible.rs a
     let v := s.visible.rs b
     let i : Instr := .tlbinv pd a b mode dev
     let p := s.visible.me.pReg pd
     (s.me.mode = false → exec i s = .next (s.faulted 6 4 none)) ∧
     (s.me.mode = true → (u.poison = true ∨ v.poison = true) → exec i s = .next (s.faulted 6 0x10 none)) ∧
     (s.me.mode = true → u.poison = false → v.poison = false → exec i s = .next (s.done 6 fun t =>
       ({ t with ids := t.ids + 1,
                 revokes := t.revokes ++ [{ id := t.ids, core := t.iss.core, ctx := t.iss.ctx, step := t.me.step, mode := mode, va := u.val,
                                            space := field 0 12 v.val.toNat, dev := dev, pd := some p }] } : State).mark [p]))) ∧
   (∀ (s : State) (a b : Nat), s.Issues (fun x => [x.sReg a, x.sReg b]) →
     let u := s.visible.rs a
     let v := s.visible.rs b
     let i : Instr := .pgmig a b
     let r := s.visible.me.sReg b
     (s.me.mode = false → exec i s = .next (s.faulted 6 4 none)) ∧
     (s.me.mode = true → (u.poison = true ∨ v.poison = true) → exec i s = .next (s.faulted 6 0x10 none)) ∧
     (s.me.mode = true → u.poison = false → v.poison = false → 2 ^ 48 ≤ v.val.toNat → exec i s = .next (s.faulted 6 3 none)) ∧
     (s.me.mode = true → u.poison = false → v.poison = false → v.val.toNat < 2 ^ 48 → exec i s = .next (s.done 6 fun t =>
       ({ t with ids := t.ids + 1,
                 migs := t.migs ++ [{ id := t.ids, core := t.iss.core, ctx := t.iss.ctx, step := t.me.step, va := u.val, dst := v.val.toNat,
                                      reg := some r, xroot := s.myCore.xroot.get 0 s.iss.ctx }] } : State).mark [r]))) ∧
   ∀ (s : State) (id : Nat) (r : Revoke), s.revokes.find? (fun v => decide (v.id = id)) = some r → r.mode ≤ 2 →
     (r.cleared = false → ∃ t, exec (.revocationComplete id) s = .next t ∧ t.mem = s.mem ∧ (∀ q ∈ t.revokes, q.id = id → q.cleared = true) ∧
       ∀ c,
         (r.dev = false ∧ c ≠ r.core → t.core c = s.core c) ∧
         (r.dev = true ∨ c = r.core →
           (∀ q, q ∈ (t.core c).tlb1 ↔ q ∈ (s.core c).tlb1 ∧ ¬ Selects r q.space (wordOf (q.vpn * pageOf q.size)) q.size) ∧
           (∀ q, q ∈ (t.core c).tlb2 ↔ q ∈ (s.core c).tlb2 ∧ ¬ Selects r q.space (wordOf (q.vpn * pageOf q.size)) q.size) ∧
           ∀ x n, Revoked r ((s.cx c x).h.get {} n) ((t.cx c x).h.get {} n))) ∧
     (r.cleared = true → (∃ a ∈ s.accs, a.id ∈ r.accs) → exec (.revocationComplete id) s = .next s) ∧
     (r.cleared = true → (∀ a ∈ s.accs, a.id ∉ r.accs) → r.cmds = [] → r.calls = [] → r.mig = none → ∀ p, r.pd = some p →
       ∃ t, exec (.revocationComplete id) s = .next t ∧ t.mem = s.mem ∧ t.cores = s.cores ∧
         t.revokes = s.revokes.filter (fun q => decide (q.id ≠ id)) ∧
         ∃ l ∈ t.lands, l.core = r.core ∧ l.ctx = r.ctx ∧ l.step = r.step ∧ l.reg = p ∧ l.val = .val (.b true))) ∧
  (∀ (s : State) (id : Nat) (m : Mig), s.migs.find? (fun v => decide (v.id = id)) = some m →
     let ends (i : Instr) (status : Nat) := ∃ t, exec i s = .next t ∧ t.migs = s.migs.filter (fun v => decide (v.id ≠ id)) ∧
       ∀ r, m.reg = some r →
         ∃ l ∈ t.lands, l.core = m.core ∧ l.ctx = m.ctx ∧ l.step = m.step ∧ l.reg = r ∧ l.val = .val (.w (wordOf status))
     let cursor (i : Instr) (c : Cursor) := exec i s = .next { s with migs := s.migs.map fun v => if v.id = id then { v with cur := c } else v }
     (m.stage = 0 → (∀ w ∈ s.walks, w.id ≠ id) → s.running = true → m.cur.busy = none →
       (m.cur.next = none → ¬ RootOk s m.va m.xroot → ends (.walkComplete id) 1) ∧
       ∀ lvl t, ReadsAt s m.va m.xroot m.cur.next lvl t →
         let sp := field 52 12 m.xroot.toNat
         let a := slotOf m.va lvl t
         let e := entryAt s a
         (s.poisoned a 8 = true → ends (.walkComplete id) 1) ∧
         (s.poisoned a 8 = false → ¬ GoodLeaf s lvl sp e → ¬ GoodPointer s lvl e → ends (.walkComplete id) 1) ∧
         (s.poisoned a 8 = false → GoodPointer s lvl e → cursor (.walkComplete id) { next := some (lvl - 1, field 13 35 e * 2 ^ 13) }) ∧
         (s.poisoned a 8 = false → GoodLeaf s lvl sp e →
         let n := pageOf (field 2 2 e)
         let src := field 13 35 e * 2 ^ 13
         let badDst := 2 ≤ field 46 2 m.dst ∨ m.dst % n ≠ 0 ∨ s.badRange m.dst n false = true ∨
           ∃ v q, anyQuarter m.dst n (fun a b => decide (a = v ∧ b = q)) = true ∧ (s.core v).hal.get 0 q = 2
         let lostSrc := e.testBit 51 = true ∨ anyQuarter src n s.quarterLost = true
         (e.testBit 7 = true → cursor (.walkComplete id) { busy := some a }) ∧
         (e.testBit 7 = false → e.testBit 48 = false → ends (.walkComplete id) 2) ∧
         (e.testBit 7 = false → e.testBit 48 = true → badDst → ends (.walkComplete id) 3) ∧
         (e.testBit 7 = false → e.testBit 48 = true → ¬ badDst → lostSrc → ends (.walkComplete id) 4) ∧
         (e.testBit 7 = false → e.testBit 48 = true → ¬ badDst → ¬ lostSrc → ∃ t, exec (.walkComplete id) s = .next t ∧
           entryAt t a = e + 2 ^ 7 ∧ (∀ b, (b < a ∨ a + 8 ≤ b) → t.mem.get 0 b = s.mem.get 0 b) ∧
           (∀ g ∈ t.migs, g.id = id → g.stage = 1 ∧ g.src = src ∧ g.size = field 2 2 e ∧ g.leafAt = a) ∧
           ∃ r ∈ t.revokes, r.mig = some id ∧ r.mode = 0 ∧ r.va = m.va ∧ r.space = field 52 12 e ∧ r.dev = true ∧ r.cleared = false))) ∧
     ((m.stage ≠ 2 ∨ s.routeStalled m.src = true) → exec (.pgmigMove id) s = .next s) ∧
     (m.stage = 2 → s.running = true → s.routeStalled m.src = false →
       let n := pageOf m.size
       let leaf := entryAt s m.leafAt
       let gone := anyQuarter m.src n s.quarterLost = true ∨ s.routeLost m.src = true
       let keeps (t : State) (lo len : Nat) := ∀ b, (b < lo ∨ lo + len ≤ b) → t.mem.get 0 b = s.mem.get 0 b
       let writes (status : Nat) (P : Nat → Prop) := ends (.pgmigMove id) status ∧
         ∀ t, exec (.pgmigMove id) s = .next t → keeps t m.leafAt 8 ∧ P (entryAt t m.leafAt)
       (gone → writes 4 fun e => ∀ k < 64, e.testBit k = (decide (k ≠ 7) && leaf.testBit k)) ∧
       (¬ gone → 64 * m.line < n → m.src % 64 = 0 → m.dst % 64 = 0 →
         let a := m.src + 64 * m.line
         let b := m.dst + 64 * m.line
         ∃ t, exec (.pgmigMove id) s = .next t ∧ keeps t b 64 ∧ (∀ i < 64, t.mem.get 0 (b + i) = s.mem.get 0 (a + i)) ∧
           (∀ l, t.poison.get false l = s.poison.get false (if l = b / 64 then a / 64 else l)) ∧
           t.migs = s.migs.map fun g => if g.id = id then { g with line := g.line + 1, po := g.po || s.poison.get false (a / 64) } else g) ∧
       (¬ gone → n ≤ 64 * m.line → writes (if m.po then 5 else 0) fun e =>
         e.testBit 7 = false ∧ e.testBit 50 = false ∧ field 13 35 e = field 13 35 m.dst ∧
         ∀ k < 64, k ≠ 7 → k ≠ 50 → (k < 13 ∨ 48 ≤ k) → e.testBit k = leaf.testBit k)))

/-! ## Queues, semaphores and copies -/

/-- R230, R232 to R234, R255: `push` in its cases. A full queue is left as it is, and the predicate tells. -/
def Obligations.Push : Prop :=
  ∀ (s : State) (q a pd : Nat), q < 8 → s.Issues (fun x => [x.sReg a, x.sReg (a + 1), x.sReg (a + 2), x.sReg (a + 3), x.pReg pd]) →
    s.Clear 6 [.acquire] →
    let x := s.visible.me
    let w (i : Nat) := (s.visible.rs (a + i)).val
    let clean := ∀ i < 4, (s.visible.rs (a + i)).poison = false
    let i : Instr := .push q a pd
    let c := s.iss.core
    (¬ queueIn s q → exec i s = .next (s.faulted 6 0x31 none)) ∧
    (queueIn s q → ¬ clean → exec i s = .next (s.faulted 6 0x10 none)) ∧
    (queueIn s q → clean → ¬ HeaderOk s q (w 0) → exec i s = .next (s.faulted 6 3 (some (w 0)))) ∧
    (queueIn s q → clean → HeaderOk s q (w 0) →
      (depthOf q ≤ (cmdsOf s c q).length → exec i s = .next (s.done 6 fun t => (t.emitP pd false).cancelPoint)) ∧
      ((cmdsOf s c q).length < depthOf q → (∀ u ∈ cmdsOf s c q, u.id ≠ s.ids) →
        ∃ (t : State) (m : Cmd), exec i s = .next (s.done 6 fun _ => (t.emitP pd true).cancelPoint) ∧ t.mem = s.mem ∧
          cmdsOf t c q = cmdsOf s c q ++ [m] ∧ (∀ r, r ≠ q → cmdsOf t c r = cmdsOf s c r) ∧ (∀ d, d ≠ c → t.core d = s.core d) ∧
          m.w0 = w 0 ∧ m.w1 = w 1 ∧ m.w2 = w 2 ∧ m.w3 = w 3 ∧ m.ctx = s.iss.ctx ∧ m.task = x.task.getD 0 ∧ m.st = 0 ∧ m.granted = false ∧
          (∀ h, NamesHandle q (w 1).toNat (w 2).toNat (w 3).toNat h → m.snaps.get {} h = x.readH h) ∧
          ∀ h n, (h, n) ∈ m.waits ↔ NamesHandle q (w 1).toNat (w 2).toNat (w 3).toNat h ∧ (.h h, n) ∈ x.pend ∧ n < x.step))

/-- R237 to R240: the semaphore instructions and `qlevel`. A wait that is not satisfied blocks; the decrement of a granted wait has left the
semaphore already.
R238, R239: the sweep, once in a cycle, grants the oldest armed wait whose test holds, which reserves its decrement, and grants nothing
below a threshold.
When a queued command is granted is a reading (log entry 28). -/
def Obligations.Semaphores : Prop :=
  (∀ (s : State) (n : Nat),
     let c := s.iss.core
     let v := semOf s c n
     let x := s.visible.me
     (¬ semIn s n → s.iss.opened = false → ∀ (k a pd : Nat) (ord : MemOrd) (dec : Bool),
       ∀ i ∈ [Instr.semwait n k ord dec, .semsig n k ord, .semset n a ord, .semget n a ord, .semtry n k pd ord dec],
         exec i s = .next (s.faulted 7 3 none)) ∧
     (semIn s n → ∀ (k : Nat) (ord : MemOrd), (ord = .rel ∨ ord = .ar → s.Clear 7 [.earlier false]) →
       (s.Issues (fun _ => []) → ∀ dec : Bool,
         (x.resv = none → (∀ w ∈ s.myCore.armed, w.que = true ∨ w.who ≠ s.iss.ctx) → k ≤ v →
           exec (.semwait n k ord dec) s = .next (s.done 7 (if dec then semTo n (v - k) else id))) ∧
         (x.resv ≠ none → exec (.semwait n k ord dec) s = .next (s.done 7 id)) ∧
         (x.resv = none → v < k → exec (.semwait n k ord dec) s = .next (s.blocked [.sem n k dec]))) ∧
       (s.Issues (fun _ => []) →
         (v + k < 2 ^ 32 → exec (.semsig n k ord) s = .next (s.done 7 (semTo n (v + k)))) ∧
         (2 ^ 32 ≤ v + k → exec (.semsig n k ord) s = .next (s.done 7 fun t => (semTo n (2 ^ 32 - 1) t).emitFlags isat))) ∧
       (∀ a : Nat, s.Issues (fun x => [x.sReg a]) →
         let u := s.visible.rs a
         (u.poison = true → exec (.semset n a ord) s = .next (s.faulted 7 0x10 none)) ∧
         (u.poison = false → exec (.semset n a ord) s = .next (s.done 7 (semTo n (u.val.toNat % 2 ^ 32)))) ∧
         exec (.semget n a ord) s = .next (s.done 7 fun t => (t.emitS a (wordOf v) 3).updMyCore fun k =>
           { k with sget := some (s.iss.ctx, x.step, x.sReg a, n) })) ∧
       ∀ (pd : Nat) (dec : Bool), s.Issues (fun x => [x.pReg pd]) →
         (k ≤ v → exec (.semtry n k pd ord dec) s = .next (s.done 7 fun t => (if dec then semTo n (v - k) t else t).emitP pd true)) ∧
         (v < k → exec (.semtry n k pd ord dec) s = .next (s.done 7 fun t => t.emitP pd false))) ∧
     ∀ (q min a pd : Nat), q < 8 → s.Issues (fun x => [x.sReg a, x.pReg pd]) →
       let l := cmdsOf s c q
       (¬ queueIn s q → exec (.qlevel q min a pd) s = .next (s.faulted 7 0x31 none)) ∧
       (queueIn s q → l.length ≤ depthOf q → ∃ w, exec (.qlevel q min a pd) s = .next (s.done 7 fun t =>
           (t.emitS a w 3).emitP pd (decide (min + l.length ≤ depthOf q))) ∧
         field 0 8 w.toNat = depthOf q - l.length ∧ field 8 8 w.toNat = l.countP (fun m => decide (m.st = 0)) ∧
         field 16 8 w.toNat = l.countP (fun m => decide (m.st = 1)) ∧ field 24 8 w.toNat = depthOf q ∧
         field 32 8 w.toNat = (s.myCore.queues.get {} q).last % 256 ∧ field 40 24 w.toNat = 0)) ∧
  (∀ (s : State) (c : Nat),
     let k := s.core c
     (k.swept = true → exec (.semaphoreGrant c) s = .next s) ∧
     (k.swept = false → ∃ t, exec (.semaphoreGrant c) s = .next t ∧ (t.core c).swept = true ∧ t.mem = s.mem ∧ (∀ d, d ≠ c → t.core d = s.core d) ∧
       ((∀ a ∈ k.armed, semOf s c a.idx < a.thr) → (∀ n, semOf t c n = semOf s c n) ∧ (t.core c).armed = k.armed ∧ ∀ x, t.cx c x = s.cx c x) ∧
       ∀ (a : Armed) (rest : List Armed), k.armed = a :: rest → a.que = false → (∀ b ∈ rest, b.que = true ∨ b.who ≠ a.who) →
         (s.cx c a.who).st ≠ .frozen → (s.cx c a.who).held = false → a.thr ≤ semOf s c a.idx →
           a ∉ (t.core c).armed ∧ (t.cx c a.who).resv = some (a.idx, if a.dec then a.thr else 0) ∧
           ((∀ b ∈ rest, semOf s c b.idx < b.thr) → (t.core c).armed = rest ∧
             ∀ n, semOf t c n = if n = a.idx ∧ a.dec = true then semOf s c n - a.thr else semOf s c n)) ∧
     (k.swept = false → ∀ (a : Armed) (before after : List Cmd) (m : Cmd), k.armed = [a] → a.que = true → a.who < 4 → a.thr ≤ semOf s c a.idx →
       FirstUnstarted s c a.who before after m → Unheld m → m.again = false → (before ++ after).countP (fun u => decide (u.st = 1)) < 8 →
         ∃ t m', exec (.semaphoreGrant c) s = .next t ∧ cmdsOf t c a.who = before ++ m' :: after ∧ m'.id = m.id ∧ m'.st = 1 ∧ m'.startAt = s.cycle ∧
           ∀ n, semOf t c n = if n = a.idx ∧ a.dec = true then semOf s c n - a.thr else semOf s c n))

/-- R231, R235, R236, R249: the end of a command. Its status and record come first, the signal in a later cycle, and then the entry is free; a
host-notify command waits for the earlier accesses of its context and puts its note into the holding buffer. -/
def Obligations.CommandEnds : Prop :=
  (∀ (s : State) (c q id : Nat) (m : Cmd), (cmdsOf s c q).find? (fun u => decide (u.id = id)) = some m →
    let sta := field 41 20 m.w0.toNat
    let sig := field 33 8 m.w0.toNat
    let inc := field 25 8 m.w0.toNat
    (m.st = 3 → (s.cycle ≤ m.endAt ∨ (s.core c).swept = true) → exec (.commandEnd c q id) s = .next s) ∧
    (m.st = 3 → m.endAt < s.cycle → (s.core c).swept = false → ∃ t, exec (.commandEnd c q id) s = .next t ∧ t.mem = s.mem ∧
      cmdsOf t c q = (cmdsOf s c q).filter (fun u => decide (u.id ≠ id)) ∧
      ∀ n, semOf t c n = if n = sig ∧ inc ≠ 0 then min (semOf s c n + inc) (2 ^ 32 - 1) else semOf s c n) ∧
    (m.st = 2 → ¬ RecordTaken s c sta → exec (.commandEnd c q id) s = .next s) ∧
    (m.st = 2 → RecordTaken s c sta → (q ∈ [4, 5] → m.lastAt < s.cycle) →
      m.status < 2 ^ 8 → m.detail < 2 ^ 7 → m.prog < 2 ^ 48 → (s.core c).wrAt ≠ s.cycle → ∃ t, exec (.commandEnd c q id) s = .next t ∧
      t.mem = s.mem ∧ (∀ u ∈ cmdsOf t c q, u.id = id → u.st = 3 ∧ u.endAt = s.cycle) ∧ (∀ n, semOf t c n = semOf s c n) ∧
      (sta = 0 → ∀ i, (t.core c).spad.get 0 i = (s.core c).spad.get 0 i) ∧
      (sta ≠ 0 → number 8 (fun i => (t.core c).spad.get 0 (8 * sta + i)) = m.status * 2 ^ 56 + m.detail * 2 ^ 48 + m.prog ∧
        ∀ i, (i < 8 * sta ∨ 8 * sta + 8 ≤ i) → (t.core c).spad.get 0 i = (s.core c).spad.get 0 i)) ∧
    (m.st = 1 → q < 4 → (∃ b ∈ s.beats, b.cmd = id) → exec (.commandEnd c q id) s = .next s) ∧
    (m.st = 1 → q < 4 → m.unchecked = false → (∀ b ∈ s.beats, b.cmd ≠ id) → field 55 9 m.w3.toNat = 0 → m.revoked = [] → m.wm = false →
      m.stale = false → m.stopping = false → m.lost = false → m.status = 0 → m.startAt ≤ s.cycle → m.lastAt ≤ s.cycle →
      field 0 22 m.w3.toNat ≤ m.items → ∃ t, exec (.commandEnd c q id) s = .next t ∧ t.mem = s.mem ∧
        ((t.core c).queues.get {} q).last = 0 ∧ ∀ u ∈ cmdsOf t c q, u.id = id → u.status = 0 ∧
          u.prog = m.items % 2 ^ 24 * 2 ^ 24 + (m.compBase + m.comp) % 2 ^ 24 ∧ (u.st = 3 ↔ RecordTaken s c sta) ∧ (u.st = 2 ∨ u.st = 3))) ∧
  ∀ (s : State) (c : Nat),
    (∀ (before after : List Cmd) (m : Cmd), cmdsOf s c 7 = before ++ m :: after → m.st = 1 → m.unchecked = false → m.note = false → (∀ u ∈ before, u.st ≠ 1 ∨ u.note = true) →
      (∀ a ∈ s.accs, a.core ≠ c ∨ a.ctx ≠ m.ctx ∨ m.step ≤ a.step) → s.holding.length < 512 →
      ∀ k l, s.tasks.get none m.task = some k → s.launches.get none k.launch = some l → l.lq < 32 → l.seq < 2 ^ 32 →
        ∃ t, exec (.hostNotifyCommand c) s = .next t ∧ t.mem = s.mem ∧ t.holding = s.holding ++
          [{ words := [wordOf (2 ^ 62 + l.lq * 2 ^ 32 + l.seq), m.w1, m.w2, m.w3] ++ List.replicate 12 0, cmd := some (c, m.id) }] ∧
          ∀ u ∈ cmdsOf t c 7, u.id = m.id → u.note = true) ∧
    ∀ before after m, FirstUnstarted s c 7 before after m → Startable s m → (∀ u ∈ before ++ after, u.st = 1 → u.note = true) →
      ∃ t m', exec (.hostNotifyCommand c) s = .next t ∧ t.mem = s.mem ∧ t.holding = s.holding ∧ cmdsOf t c 7 = before ++ m' :: after ∧ m'.st = 1 ∧
        m'.w1 = m.w1 ∧ m'.w2 = m.w2 ∧ m'.w3 = m.w3

/-- R231, R251, R256, R259, R260, R448: a copy between two pages with no stage: the checks at its start in their order; then it takes the
elements of its next line in hand, reads their bytes with their poison, line by line, and issues the beats that write them, which perform later.
R271, R273: the watermark of a channel, its word, and the progress of the oldest started command.
Beats of staged items, poisoned indices and the empty watermark are readings (log entries 14, 25, 26, 43 and 45). -/
def Obligations.Copies : Prop :=
  ((∀ (s : State) (c q : Nat) (before after : List Cmd) (m : Cmd) (a b : Handle) (so do_ n start e : Nat), q < 4 →
     FirstUnstarted s c q before after m → Startable s m → m.revoked = [] → m.comp = 0 → m.compBase = 0 → (before.countP fun u => decide (u.st = 1)) < 8 →
     (∀ u ∈ after, u.st ≠ 1) → Plain m a b so do_ n start e →
     let fails (d : Nat) := ∃ t m', exec (.copyCommand c q) s = .next t ∧ t.mem = s.mem ∧ cmdsOf t c q = before ++ m' :: after ∧
       m'.st = 2 ∧ m'.status = 1 ∧ m'.detail = d ∧ m'.prog = start * 2 ^ 24
     let valid := a.valid = true ∧ b.valid = true
     let there := a.lost = false ∧ b.lost = false
     let may := a.r = true ∧ field 46 2 a.frame ≠ 3 ∧ b.w = true ∧ field 46 2 b.frame ≠ 3
     let fits := n = 0 ∨ (so + n * e ≤ pageOf a.size ∧ do_ + n * e ≤ pageOf b.size)
     let apart := a.frame + so + n * e ≤ b.frame + do_ ∨ b.frame + do_ + n * e ≤ a.frame + so
     (¬ valid → fails 0x0A) ∧
     (valid → ¬ there → fails 0x0D) ∧
     (valid → there → ¬ may → fails 9) ∧
     (valid → there → may → b.cow = true → fails 0x0C) ∧
     (valid → there → may → b.cow = false → ¬ fits → fails 0x0A) ∧
     (valid → there → may → b.cow = false → fits → ¬ apart → fails 3) ∧
     (valid → there → may → b.cow = false → fits → apart → ∃ t m', exec (.copyCommand c q) s = .next t ∧ t.mem = s.mem ∧
       cmdsOf t c q = before ++ m' :: after ∧ m'.st = 1 ∧ m'.items = start ∧ m'.snaps = m.snaps)) ∧
   (∀ (s : State) (c q id : Nat) (m : Cmd) (a b : Handle) (so do_ n start e : Nat), q < 4 → (cmdsOf s c q).find? (fun u => decide (u.id = id)) = some m →
     Plain m a b so do_ n start e → Moving s c q n m → InMemory a → InMemory b →
     let moves (P : State → Cmd → Prop) := ∃ t, exec (.copyItem c q id) s = .next t ∧ t.mem = s.mem ∧ t.poison = s.poison ∧
       ∀ u ∈ cmdsOf t c q, u.id = id → P t u
     let off := do_ + m.items * e
     (m.batch = none → moves fun t u => t.beats = s.beats ∧ u.items = m.items ∧ ∃ k : Batch, u.batch = some k ∧ 1 ≤ k.n ∧ m.items + k.n ≤ n ∧
       k.h = field 60 4 m.w1.toNat ∧ k.off = so + m.items * e ∧ k.len = k.n * e ∧ k.got = [] ∧ k.ready = false ∧
       (k.n = 1 ∨ (b.frame + off) % 64 + k.len ≤ 64)) ∧
     (∀ k : Batch, m.batch = some k → k.h = field 60 4 m.w1.toNat → k.ready = false → k.got.length < k.len →
       let lo := a.frame + k.off + k.got.length
       let l := min (k.len - k.got.length) (64 - lo % 64)
       s.lostAt lo = false → s.lostAt (lo + l - 1) = false →
         moves fun t u => t.beats = s.beats ∧ u.items = m.items ∧ ∃ k' : Batch, u.batch = some k' ∧ k'.n = k.n ∧
           k'.got = k.got ++ (List.range l).map (fun i => (s.mem.get 0 (lo + i), s.poisoned (lo + i) 1)) ∧
           (k'.ready = true ↔ k.len ≤ k.got.length + l) ∧
           (k'.ready = true → ∀ i < k'.got.length, ∃ p ∈ k'.out, p.1 ≤ off + i ∧ p.2[off + i - p.1]? = k'.got[i]?)) ∧
     ∀ (k : Batch) (o : Nat) (data : List (Byte × Bool)) (r : List (Nat × List (Byte × Bool))),
       m.batch = some k → k.h = field 60 4 m.w1.toNat → k.ready = true → k.out = (o, data) :: r →
         moves fun t u =>
           t.beats = s.beats ++ [{ id := s.ids, core := c, q := q, cmd := m.id, dst := none, lo := b.frame + o, data := data }] ∧
           (r = [] → u.items = m.items + k.n ∧ u.batch = none) ∧ (r ≠ [] → u.items = m.items ∧ u.batch = some { k with out := r, part := true })) ∧
   ∀ (s : State) (id : Nat) (bt : Beat) (m : Cmd), (∀ e ∈ s.accs, e.id ≠ id) → (∀ e ∈ s.callStores, e.id ≠ id) →
     s.beats.find? (fun e => decide (e.id = id)) = some bt → bt.dst = none → field 46 2 bt.lo < 2 → s.lostAt bt.lo = false → s.running = true →
     bt.data ≠ [] → (cmdsOf s bt.core bt.q).find? (fun u => decide (u.id = bt.cmd)) = some m →
       ∃ t, exec (.accessPerform id) s = .next t ∧ t.beats = s.beats.filter (fun e => decide (e.id ≠ id)) ∧
         let len := bt.data.length
         (∀ x, t.mem.get 0 x = if bt.lo ≤ x ∧ x < bt.lo + len then ((bt.data[x - bt.lo]?).getD (0, false)).1 else s.mem.get 0 x) ∧
         (∀ l, t.poison.get false l = true ↔ (∃ i < len, ((bt.data[i]?).getD (0, false)).2 = true ∧ (bt.lo + i) / 64 = l) ∨
           (s.poison.get false l = true ∧ ¬ (bt.lo ≤ 64 * l ∧ 64 * l + 64 ≤ bt.lo + len))) ∧
         ∀ u ∈ cmdsOf t bt.core bt.q, u.id = bt.cmd → u.lastAt = s.cycle) ∧
  (∀ (s : State) (q : Nat), q < 4 →
     let m := s.myCore.wms.get {} q
     let setTo (w : WMark) (t : State) := t.updMyCore fun k => { k with wms := k.wms.put {} q w }
     (∀ pd a b : Nat, s.Issues (fun x => [x.pReg pd, x.sReg a, x.sReg b]) →
       let u := s.visible.rs a
       let v := s.visible.rs b
       let wb := u.val.toNat
       let n := v.val.toNat
       let i : Instr := .cpwm pd q a b
       let clean := u.poison = false ∧ v.poison = false
       (¬ queueIn s q → exec i s = .next (s.faulted 6 0x31 none)) ∧
       (queueIn s q → n = 0 →
         (m.st = 2 → exec i s = .next (s.done 6 fun t => t.emitP pd false)) ∧ (m.st ≠ 2 → exec i s = .next (s.done 6 fun t => (setTo { m with st := 0, done := [] } t).emitP pd true))) ∧
       (queueIn s q → n ≠ 0 → ¬ clean → exec i s = .next (s.faulted 6 0x10 none)) ∧
       (queueIn s q → n ≠ 0 → clean → wb % 64 ≠ 0 → exec i s = .next (s.faulted 6 5 (some u.val))) ∧
       (queueIn s q → n ≠ 0 → clean → wb % 64 = 0 → n % 64 ≠ 0 → exec i s = .next (s.faulted 6 5 (some v.val))) ∧
       (queueIn s q → n ≠ 0 → clean → wb % 64 = 0 → n % 64 = 0 → (∃ o < n, ¬ allowed s (wb % 2 ^ 23 + o)) →
         ∃ d, exec i s = .next (s.faulted 6 0x30 d)) ∧
       (queueIn s q → n ≠ 0 → clean → wb % 64 = 0 → n % 64 = 0 → (∀ o < n, allowed s (wb % 2 ^ 23 + o)) →
         (m.st = 0 → exec i s = .next (s.done 6 fun t =>
           (setTo { st := 1, wb := wb % 2 ^ 23, we := wb % 2 ^ 23 + n, wk := wb % 2 ^ 23, old := wb % 2 ^ 23 } t).emitP pd true)) ∧
         (m.st ≠ 0 → exec i s = .next (s.done 6 fun t => t.emitP pd false)))) ∧
     ∀ b : Nat, s.Issues (fun x => [x.sReg b]) →
       (¬ queueIn s q → exec (.cpwmq b q) s = .next (s.faulted 6 0x31 none) ∧ ∀ sel, exec (.cpprog b q sel) s = .next (s.faulted 6 0x31 none)) ∧
       (queueIn s q →
         exec (.cpwmq b q) s = .next (s.done 6 fun t => t.emitS b (wordOf (m.st * 2 ^ 62 + m.we * 2 ^ 24 + m.wk)) 3) ∧
         ((∀ u ∈ cmdsOf s s.iss.core q, u.st ≠ 1) → ∀ sel, exec (.cpprog b q sel) s = .next (s.done 6 fun t => t.emitS b 0 3)) ∧
         ∀ (before after : List Cmd) (u : Cmd), cmdsOf s s.iss.core q = before ++ u :: after → u.st = 1 → (∀ r ∈ before, r.st ≠ 1) →
           exec (.cpprog b q 0) s = .next (s.done 6 fun t => t.emitS b (wordOf (2 ^ 63 + u.items % 2 ^ 24 * 2 ^ 24 + (u.compBase + u.comp) % 2 ^ 24)) 3) ∧
           ∃ w, exec (.cpprog b q 1) s = .next (s.done 6 fun t => t.emitS b w 3) ∧
             let h (v : Word) : Handle := if v.getLsbD 59 then {} else u.snaps.get {} (field 60 4 v.toNat)
             w.getLsbD 63 = (h u.w1).valid ∧ w.getLsbD 62 = (h u.w2).valid ∧ field 48 14 w.toNat = 0 ∧ field 0 16 w.toNat = 0 ∧
             field 32 16 w.toNat = (h u.w1).gen % 2 ^ 16 ∧ field 16 16 w.toNat = (h u.w2).gen % 2 ^ 16))

/-! ## The crossbar bank -/

/-- R294 to R301: the crossbar instructions, their faults and refusals.
R280, R295, R300: an accepted swap and an accepted retirement take effect in a later cycle in which no command runs; a swap whose condition
no longer holds is dropped. -/
def Obligations.CrossbarInstructions : Prop :=
  (∀ (s : State) (pd a b d : Nat),
     let c := s.iss.core
     let u := (s.visible.rs a).val.toNat
     let v := (s.visible.rs b).val.toNat
     let n := u % 32
     let x := arrOf s c n
     let y := arrOf s c (mate n)
     let plain (w : Nat) := w < 32
     let any (_ : Nat) := True
     let posn (w : Nat) := field 18 46 w = 0 ∧ field 5 3 w = 0
     let col (w : Nat) := posn w ∧ field 8 10 w < 512
     let spare (w : Nat) := w < 32 ∨ w = 63
     let conf (w : Nat) := field 32 32 w = 0 ∧ field 1 15 w = 0
     let word (w : Nat) := w < 2 ^ 32
     let answers (i : Instr) (ok : Prop) (f : XArr → XArr) :=
       (ok → exec i s = .next (s.done 6 fun t => (arrTo n f t).emitP pd true)) ∧ (¬ ok → exec i s = .next (s.done 6 fun t => t.emitP pd false))
     let busy (r : Nat) := (s.core c).arrayBusy r = true
     (s.Issues (fun x => [x.pReg pd, x.sReg a]) →
       XbFaults s (.xbswap pd a) a 0 plain any true ∧
       (XbPasses s a 0 plain any true → answers (.xbswap pd a) (¬ Waits x ∧ (isPaired s c n → ¬ Waits y) ∧ ∃ l, Swaps s c n l)
         fun r => { r with swapPend := true, pendAt := s.cycle }) ∧
       (s.me.mode = false → exec (.xbretire pd a) s = .next (s.faulted 6 4 none)) ∧
       (s.me.mode = true → XbFaults s (.xbretire pd a) a 0 plain any false ∧
         (XbPasses s a 0 plain any false → answers (.xbretire pd a)
           (x.st ≠ .retired ∧ ¬ Waits x ∧ (isPaired s c n → y.swapPend = false)) fun r => { r with retPend := true, pendAt := s.cycle }))) ∧
     (s.Issues (fun x => [x.pReg pd, x.sReg a, x.sReg b]) →
       XbFaults s (.xbremap pd a b) a b posn spare true ∧
       (XbPasses s a b posn spare true →
         let pos := field 8 10 u
         let mapped := ∃ e ∈ x.spare, e.2 = pos + 1
         answers (.xbremap pd a b)
           (x.st ∉ [XState.active, .drifting, .retired] ∧ ¬ busy n ∧ (v = 63 → mapped) ∧ (v < 32 → ¬ mapped ∧ x.spare.get 0 v = 0))
           fun r => { r with cal := false, st := if r.st = .verified ∨ r.st = .shadow then .programming else r.st,
                             spare := if v = 63 then r.spare.filter (fun e => decide (e.2 ≠ pos + 1)) else r.spare.put 0 v (pos + 1) }) ∧
       XbFaults s (.xbcfg pd a b) a b plain conf true ∧
       (XbPasses s a b plain conf true →
         (v.testBit 0 = true → ¬ arrIn s (mate n) → exec (.xbcfg pd a b) s = .next (s.faulted 6 0x38 (some (s.visible.rs a).val))) ∧
         ((v.testBit 0 = true → arrIn s (mate n)) → answers (.xbcfg pd a b)
           (field 16 8 v ≤ field 24 8 v ∧ (n % 2 = 1 → v.testBit 0 = false) ∧
             (n % 2 = 0 → v.testBit 0 ≠ x.pair →
               ¬ Serves x ∧ ¬ Serves y ∧ ¬ busy n ∧ ¬ busy (mate n) ∧ x.swapPend = false ∧ y.swapPend = false ∧ arrIn s (mate n)))
           fun r => { r with dhard := field 24 8 v, dthr := field 16 8 v, pair := if n % 2 = 0 then v.testBit 0 else r.pair })) ∧
       XbFaults s (.xbcolSet pd a b) a b col word true ∧
       (XbPasses s a b col word true → answers (.xbcolSet pd a b) (¬ busy n) fun r =>
         { r with coef := r.coef.put (0, 0x4000) (field 8 10 u) (intOf 16 true (field 16 16 v), field 0 16 v), cal := false,
                  parity := r.parity.put false (field 8 10 u) false })) ∧
     (s.Issues (fun x => [x.sReg d, x.sReg a]) →
       (∀ i ∈ [Instr.xbcolCoef d a, .xbcolClip d a, .xbcolClipclr d a], XbFaults s i a 0 col any true) ∧
       (XbPasses s a 0 col any true →
         let q := field 8 10 u
         let co := x.coef.get (0, 0x4000) q
         let cl := x.clip.get (false, 0) q
         let clip := wordOf ((if cl.1 then 2 ^ 63 else 0) + cl.2 % 2 ^ 32)
         exec (.xbcolCoef d a) s = .next (s.done 6 fun t => t.emitS d (wordOf (codeOf 16 co.1 * 2 ^ 16 + co.2 % 2 ^ 16)) 3) ∧
         exec (.xbcolClip d a) s = .next (s.done 6 fun t => t.emitS d clip 3) ∧
         exec (.xbcolClipclr d a) s = .next (s.done 6 fun t =>
           arrTo n (fun r => { r with clip := r.clip.put (false, 0) q (false, 0), swdrop := if q = 0 then false else r.swdrop }) (t.emitS d clip 3))) ∧
       (∀ sel, XbFaults s (.xbstat d a sel) a 0 plain any true) ∧
       (XbPasses s a 0 plain any true → x.rows.wf 0 = true → x.spare.wf 0 = true → (∀ e ∈ x.spare, e.1 < 32) → ∃ w : Nat → Word,
         (∀ sel < 4, exec (.xbstat d a sel) s = .next (s.done 6 fun t => t.emitS d (w sel) 3)) ∧
         let f (sel lo len : Nat) := field lo len (w sel).toNat
         f 0 60 4 = (match x.st with
           | .empty => 0 | .programming => 1 | .verified => 2 | .active => 3 | .shadow => 4 | .drifting => 5 | .degraded => 6 | .retired => 7) ∧
         (f 0 59 1 = 1 ↔ x.cal = true) ∧ (f 0 58 1 = 1 ↔ isPaired s c n) ∧ (f 0 57 1 = 1 ↔ busy n) ∧
         (f 0 56 1 = 1 ↔ ∃ r, 10000 < x.rows.get 0 r) ∧ f 0 53 3 = x.kcal % 8 ∧ (f 0 52 1 = 1 ↔ x.swdrop = true) ∧ f 0 48 4 = 0 ∧
         f 0 32 16 = x.pgm.toNat ∧ f 0 24 8 = x.dhard % 256 ∧ f 0 16 8 = x.dthr % 256 ∧ f 0 6 10 = 0 ∧ f 0 0 6 = x.spare.length ∧
         (x.total < 2 ^ 32 → f 1 0 32 = x.total ∧ (∀ r, x.rows.get 0 r < 2 ^ 32 → x.rows.get 0 r ≤ f 1 32 32) ∧
           ((∀ r, x.rows.get 0 r < 2 ^ 32) → ∃ r, f 1 32 32 = x.rows.get 0 r)) ∧
         f 2 48 16 = x.d % 2 ^ 16 ∧ f 2 38 10 = x.qmax % 2 ^ 10 ∧ f 2 32 6 = 0 ∧ f 2 0 32 = field 16 32 x.tprobe ∧
         f 3 32 32 = 0 ∧ ∀ i < 32, (w 3).getLsbD i = true ↔ x.spare.get 0 i ≠ 0))) ∧
  (∀ (s : State) (c a : Nat),
     let x := arrOf s c a
     let same (t : State) (l : List Nat) := t.mem = s.mem ∧ ∀ n, n ∉ l → arrOf t c n = arrOf s c n
     (x.swapPend = false ∨ s.cycle ≤ x.pendAt ∨ (s.core c).arrayBusy a = true → exec (.xbswapTakeEffect c a) s = .next s) ∧
     (x.retPend = false ∨ s.cycle ≤ x.pendAt ∨ (s.core c).arrayBusy a = true → exec (.xbretireTakeEffect c a) s = .next s) ∧
     (quietX s c → x.pendAt < s.cycle → x.freed ≤ s.cycle → (arrOf s c (mate a)).freed ≤ s.cycle →
       (x.swapPend = true →
         (∀ l, Swaps s c a l → ∃ t, exec (.xbswapTakeEffect c a) s = .next t ∧ same t [a, mate a] ∧ (arrOf t c a).swapPend = false ∧
           ∀ e ∈ l, (arrOf t c e.1).st = e.2) ∧
         ((∀ l, ¬ Swaps s c a l) → ∃ t, exec (.xbswapTakeEffect c a) s = .next t ∧ same t [a] ∧
           arrOf t c a = { x with swapPend := false, swdrop := true })) ∧
       (x.retPend = true → ∃ t, exec (.xbretireTakeEffect c a) s = .next t ∧ same t [a, mate a] ∧ (arrOf t c a).st = .retired ∧
         (arrOf t c a).retPend = false ∧ ¬ isPaired t c a ∧ t.escs.length = s.escs.length + 1 ∧ t.msix1 = s.msix1 + 1)))

/-- R280, R281, R283, R284, R290, R292: the start of a crossbar command in its cycle, by its operation: the first check that fails ends it with
FAULT; XBPROG moves its array to PROGRAMMING; XBMVM takes the array that serves, or ends XB_NOT_ACTIVE.
R46 to R48, R277, R284, R286, R289 to R292, R302: one row of XBPROG and of XBVERIFY, the read of a vector and its delivery. Levels after
pulses and codes of converters are free, inside the guarantee of R302 within its bound.
R280, R286 to R288, R291, R293: the ends of crossbar commands and what they do to the state of the array.
Readings of the analog parts are free within their guarantee (log entry 29). -/
def Obligations.CrossbarCommands : Prop :=
  (∀ (s : State) (c q t0 : Nat) (before after : List Cmd) (m : Cmd), q ∈ [4, 5] → FirstUnstarted s c q before after m →
     (∀ u ∈ before ++ after, u.st ≠ 1) → m.taken = some t0 → (if t0 = m.pushed then t0 + 4 else t0 + 2) ≤ s.cycle → s.running = true →
     Unheld m → m.revoked = [] → m.unchecked = false →
     (∀ n, n = xarr m ∨ (xop m = 4 ∧ isPaired s c (xarr m) ∧ n = mate (xarr m)) → FreeX s c n) → (∀ p ∈ (s.core c).tiles, p.2.xcmd ≠ some m.id) →
     let i : Instr := match xop m with
       | 1 => .xbverify c q
       | 2 => .xbcal c q
       | 3 => .xbprobe c q
       | 4 => .xbmvm c q
       | _ => .xbprog c q
     let gives (t : State) (m' : Cmd) := exec i s = .next t ∧ t.mem = s.mem ∧ cmdsOf t c q = before ++ m' :: after ∧ m'.w1 = m.w1 ∧ m'.w2 = m.w2
     let x := arrOf s c (xarr m)
     (∀ d, xbFirst s c m = some d → ∃ t m', gives t m' ∧ m'.st = 2 ∧ m'.status = 1 ∧ m'.detail = d ∧ m'.prog = 0 ∧ ∀ n, arrOf t c n = arrOf s c n) ∧
     (xbFirst s c m = none →
       (xop m = 0 → ∃ t m', gives t m' ∧ m'.st = 1 ∧ m'.items = 0 ∧ m'.startAt = s.cycle ∧ m'.tAt = s.now ∧
         (∀ n, n ≠ xarr m → arrOf t c n = arrOf s c n) ∧
         (let y := arrOf t c (xarr m)
          y.st = .programming ∧ y.cal = false ∧ y.cells = x.cells ∧ y.rows = x.rows ∧
          ∀ g < 16, y.pgm.getLsbD g = true ↔ x.pgm.getLsbD g = true ∨ (w2 m 54 10 < 64 * g + 64 ∧ 64 * g < w2 m 54 10 + w2 m 43 11)) ∧
         (m'.refRow < 1024 ↔ x.st = .empty ∧ w2 m 43 11 < 1024)) ∧
       (1 ≤ xop m → xop m ≤ 3 → ∃ t m', gives t m' ∧ m'.st = 1 ∧ m'.items = 0 ∧ m'.lims = (x.dthr, x.dhard) ∧
         m'.tAt = s.now + 36 * (32 + if xop m = 2 then 4096 else if xop m = 3 then 8192 else 0) ∧ ∀ n, arrOf t c n = arrOf s c n) ∧
       (xop m = 4 →
         let arrays := if (arrOf s c (xarr m / 2 * 2)).pair then [xarr m, mate (xarr m)] else [xarr m]
         ((∀ n ∈ arrays, ¬ Serves (arrOf s c n)) → ∃ t m', gives t m' ∧ m'.st = 2 ∧ m'.status = 6 ∧ ∀ n, arrOf t c n = arrOf s c n) ∧
         ((∃ n ∈ arrays, Serves (arrOf s c n)) → ∃ t m', gives t m' ∧ m'.st = 1 ∧ m'.items = 0 ∧ m'.tAt = s.now + 36 * 32 ∧ m'.arr ∈ arrays ∧
           Serves (arrOf s c m'.arr) ∧ ∀ n, arrOf t c n = arrOf s c n)))) ∧
  (∀ (s : State) (c q id : Nat) (m : Cmd) (x : XArr), q ∈ [4, 5] → (cmdsOf s c q).find? (fun u => decide (u.id = id)) = some m → m.st = 1 →
     m.stopping = false → m.hold = false → m.revoked = [] → m.w1.getLsbD 51 = true → s.running = true →
     (∀ u ∈ cmdsOf s c q, u.st = 1 ∨ u.id = id → u = m) → arrOf s c m.arr = x →
     let io := field 0 33 m.w1.toNat
     let spad (o : Nat) := (s.core c).spad.get 0 o
     let clean (o n : Nat) := (s.core c).spadPoisoned o n = false ∧ (s.core c).wrAt ≠ s.cycle
     let alone (t : State) := t.mem = s.mem ∧ ∀ n, n ≠ m.arr → arrOf t c n = arrOf s c n
     let now (t : State) (P : Cmd → Prop) := ∀ u ∈ cmdsOf t c q, u.id = id → u.st = 1 ∧ P u
     let bytes (o n : Nat) := (List.range n).map fun i => spad (o + i)
     let taken (b : Input) (at_ due : Nat) (l : List Byte) := b.bytes = l ∧ b.poison = false ∧ b.at_ = at_ ∧ b.due = due
     let port (o n : Nat) := (s.core c).portFree s.cycle o n = true
     (xop m = 0 → m.refRow = 1024 → m.buf = [] → m.items < w2 m 43 11 → m.tAt ≤ s.now → clean (io + 256 * m.items) 256 →
       (w2 m 0 23 = 0 ∨ port (w2 m 0 23 + 136 * m.items) 136) →
       ∃ t, exec (.xbprogRow c q id) s = .next t ∧ alone t ∧ arrOf t c m.arr = x ∧ now t fun u => u.items = m.items ∧ ∃ b it, it ≤ w2 m 37 6 ∧
         u.buf = [b] ∧ taken b m.tAt (m.tAt + 36 * (200 + 400 * it)) (bytes (io + 256 * m.items) 256) ∧ u.tAt = b.due) ∧
     (∀ (b : Input) (rest : List Input), xop m = 0 → m.arr = xarr m → m.refRow = 1024 → m.buf = b :: rest → b.poison = false → b.due ≤ s.now →
       (w2 m 0 23 = 0 ∨ port (w2 m 0 23 + 136 * m.items) 136) → x.spare = [] →
       let r := w2 m 54 10 + m.items
       let weight (j : Nat) : Int := intOf 8 true ((b.bytes[j]?).getD 0).toNat
       ∃ t, exec (.xbprogRow c q id) s = .next t ∧ alone t ∧
         let y := arrOf t c m.arr
         let stuck := (List.range 1024).countP (fun p => decide (levelOf y r p ≠ targetOf (weight (p / 4)) p)) +
           (List.range 8).countP fun n => decide (SMap.get 0 (y.cells.get [] r) (1056 + n) ≠ refTarget n)
         y.rows.get 0 r = x.rows.get 0 r + 1 ∧ y.total = min (x.total + 1) (2 ^ 32 - 1) ∧ y.st = x.st ∧
         (∀ k, k ≠ r → y.cells.get [] k = x.cells.get [] k) ∧ now t fun u => u.items = m.items + 1 ∧ u.cnt = m.cnt + stuck ∧ u.buf = rest) ∧
     (xop m = 1 → m.buf = [] → m.items < w2 m 43 11 → m.tAt ≤ s.now → clean (io + 256 * m.items) 256 →
       ∃ t, exec (.xbverify c q) s = .next t ∧ alone t ∧ arrOf t c m.arr = x ∧ now t fun u => u.items = m.items ∧ ∃ b, u.buf = [b] ∧
         taken b m.tAt (m.tAt + 36 * 20) (bytes (io + 256 * m.items) 256) ∧ u.tAt = b.due) ∧
     (∀ (b : Input) (rest : List Input), xop m = 1 → m.buf = b :: rest → b.poison = false → b.due ≤ s.now →
       ∃ t, exec (.xbverify c q) s = .next t ∧ alone t ∧ arrOf t c m.arr = x ∧
         now t fun u => u.items = m.items + 1 ∧ m.cnt ≤ u.cnt ∧ u.cnt ≤ m.cnt + 512 ∧ u.buf = rest) ∧
     (xop m = 4 → (∀ e ∈ m.buf, e.poison = false) →
       let depth := 64 * w2 m 27 5
       let n := m.items + m.buf.length
       n < w2 m 47 7 → m.tAt ≤ s.now → clean (io + n * depth) depth →
       ∃ t, exec (.xbmvm c q) s = .next t ∧ alone t ∧ arrOf t c m.arr = x ∧
         now t fun u => u.items = m.items ∧ ∃ b, u.buf = m.buf ++ [b] ∧
           taken b m.tAt (m.tAt + 36 * (16 * w2 m 36 4)) (bytes (io + n * depth) depth) ∧ u.tAt = b.due) ∧
     (∀ (o : Nat × List Byte) (r : List (Nat × List Byte)), xop m = 4 → m.w2.getLsbD 63 = false → m.out = o :: r →
       (m.lastAt = 0 ∨ m.lastAt < s.cycle) → (s.core c).wrAt ≠ s.cycle → port o.1 64 →
       ∃ t, exec (.xbmvmVectorDelivery c q id) s = .next t ∧ alone t ∧ arrOf t c m.arr = x ∧
         (∀ i, (t.core c).spad.get 0 i = if o.1 ≤ i ∧ i < o.1 + o.2.length then (o.2[i - o.1]?).getD 0 else spad i) ∧
         now t fun u => u.out = r ∧ u.lastAt = s.cycle ∧ u.items = m.items + if r = [] then 1 else 0) ∧
     (∀ (b : Input) (rest : List Input), xop m = 4 → m.buf = b :: rest → m.out = [] → b.poison = false → x.parity = [] →
       b.due + 36 * 24 ≤ s.now → (m.lastAt = 0 ∨ m.lastAt < s.cycle) → (s.core c).wrAt ≠ s.cycle → selected m ≠ [] →
       (if m.w2.getLsbD 63 then ∀ p, (s.core c).tileOf m = some p → ∀ o ∈ (s.core c).mq, o.kind.tile ≠ some p
        else port (w2 m 0 23 + m.items * (256 * (selected m).length)) 64) →
       let depth := 64 * w2 m 27 5
       let k := w2 m 40 3
       let act (r : Nat) := ((b.bytes[r]?).getD 0).toNat
       let coef (j h : Nat) := x.coef.get (0, 0x4000) (2 * j + h)
       let row := 256 * (selected m).length
       ∃ (t : State) (code : Nat → Nat → Nat), exec (.xbmvmVectorDelivery c q id) s = .next t ∧ t.mem = s.mem ∧
         (∀ p f, code p f < 1024) ∧
         (s.guaranteed c m.arr k ((List.range depth).map fun r => 64 * w2 m 32 4 + r) = true → ∀ p f,
           let g := x.coef.get (0, 0x4000) f
           let fits (n : Nat) := |corr g.1 g.2 n - 16 * (idealOf x k (64 * w2 m 32 4) depth act p f - 512)| ≤ 24
           2 ≤ idealOf x k (64 * w2 m 32 4) depth act p f → idealOf x k (64 * w2 m 32 4) depth act p f ≤ 1021 →
             (∃ n < 1024, fits n) → fits (code p f)) ∧
         (now t fun u => u.buf = rest ∧ m.cnt ≤ u.cnt ∧ u.lastAt = s.cycle ∧ u.items = m.items + if m.w2.getLsbD 63 then 1 else 0) ∧
         let value (j : Nat) := columnOf (w2 m 36 4) k (coef j) fun p h => code p (2 * j + h)
         (m.w2.getLsbD 63 = false →
           let base := w2 m 0 23 + m.items * row
           let word (g j : Nat) := codeOf 32 (max (-2 ^ 31) (min (2 ^ 31 - 1) (value (64 * g + j))))
           (∀ w g, (selected m)[w / 64]? = some g →
             (w < 16 → number 4 (fun i => (t.core c).spad.get 0 (base + 4 * w + i)) = word g (w % 64)) ∧
             (16 ≤ w → now t fun u => ∃ l, u.out[w / 16 - 1]? = some (base + 64 * (w / 16), l) ∧
               number 4 (fun i => (l[4 * (w % 16) + i]?).getD 0) = word g (w % 64))) ∧
           ∀ o, (o < base ∨ base + 64 ≤ o) → (t.core c).spad.get 0 o = spad o) ∧
         (m.w2.getLsbD 63 = true → ∀ g, selected m = [g] → ∀ p tl, (s.core c).tileOf m = some p → (s.core c).tiles.get {} p = tl → tl.st = .accumulating →
           ∀ j < 64, ((t.core c).tiles.get {} p).elems.get {} (64 * (w2 m 54 6 + m.items) + j) =
             (contribute tl.anchor (tl.elems.get {} (64 * (w2 m 54 6 + m.items) + j), false, false) (some (value (64 * g + j), 0))).1))) ∧
  (∀ (s : State) (c q id : Nat) (m : Cmd) (x : XArr), q ∈ [4, 5] → (cmdsOf s c q).find? (fun u => decide (u.id = id)) = some m → m.st = 1 →
     (∀ p ∈ (s.core c).tiles, p.2.xcmd ≠ some id) → m.lastAt < s.cycle → m.refRow = 1024 → m.buf = [] → m.out = [] → m.unchecked = false →
     (xbReport m = 0 ∨ (s.core c).portFree s.cycle (w2 m 0 23) (xbReport m) = true) → arrOf s c m.arr = x → m.arr = xarr m ∨ xop m = 4 →
     let ends (status detail : Nat) (A : XArr → Prop) := ∃ t, exec (.commandEnd c q id) s = .next t ∧ t.mem = s.mem ∧ A (arrOf t c m.arr) ∧
       (∀ n, n ≠ m.arr → arrOf t c n = arrOf s c n) ∧ ∀ u ∈ cmdsOf t c q, u.id = id → u.status = status ∧ u.detail = detail ∧
         (u.st = 2 ∨ u.st = 3) ∧ (w2 m 0 23 = 0 ∨ xop m = 0 ∨ xop m = 4 → (u.st = 3 ↔ RecordTaken s c (field 41 20 m.w0.toNat)))
     let went := m.revoked = [] ∧ m.stopping = false ∧ x.parity = []
     let bit (b : Bool) (n : Nat) := if b then n else 0
     (m.revoked ≠ [] → xop m ≤ 3 → ends 5 0 fun y => y = x) ∧
     (m.revoked = [] → m.stopping = true → xop m ≤ 3 → ends 2 0 fun y => y = x) ∧
     (went → xop m = 0 → m.items = w2 m 43 11 → ends 0 0 fun y => y = x) ∧
     (went → xop m = 1 → m.items = w2 m 43 11 → ends 0 0 fun y => y.cells = x.cells ∧ y.coef = x.coef ∧
       (m.cnt = 0 → y.cal = x.cal ∧ (x.st ≠ .programming → y.st = x.st) ∧ (x.st = .programming →
         (y.st = .verified ↔ ∀ g < 16, x.pgm.getLsbD g = true → w2 m 54 10 ≤ 64 * g ∧ 64 * g + 64 ≤ w2 m 54 10 + w2 m 43 11) ∧
         (y.st = .verified ∨ y.st = .programming))) ∧
       (m.cnt ≠ 0 → (x.st ∈ [XState.verified, .shadow, .active, .drifting] → y.st = .degraded ∧ y.cal = false) ∧
         (x.st ∉ [XState.verified, .shadow, .active, .drifting] → y = x))) ∧
     (went → xop m = 2 → m.tAt ≤ s.now →
       (ends 0 0 fun y => y.cal = true ∧ y.kcal = w2 m 61 3 ∧ y.d = 0 ∧ y.tprobe = s.now / 36 ∧ y.st = if x.st = .drifting then .active else x.st) ∨
       (ends 0 1 fun y => y.cal = false ∧ y.st = .degraded ∧ y.kcal = x.kcal)) ∧
     (went → xop m = 3 → m.tAt ≤ s.now → ∃ d,
       ends 0 (bit (decide (m.lims.1 < d)) 1 + bit (decide (m.lims.2 < d)) 2) fun y => y.d = min d 0xFFFF ∧ y.tprobe = s.now / 36 ∧
         (d ≤ m.lims.1 → y.st = x.st ∧ y.cal = x.cal) ∧
         (m.lims.1 < d → d ≤ m.lims.2 → (x.st = .active → y.st = .drifting ∧ y.cal = x.cal) ∧
           (x.st = .verified ∨ x.st = .shadow → y.st = x.st ∧ y.cal = false)) ∧
         (m.lims.1 < d → m.lims.2 < d → x.st ∈ [XState.verified, .shadow, .active, .drifting] → y.st = .degraded ∧ y.cal = false)) ∧
     (xop m = 4 → m.items = w2 m 47 7 ∨ m.stopping = true ∨ m.revoked ≠ [] →
       ends (if m.revoked ≠ [] then 5 else if m.stopping then 2 else if m.cnt = 0 then 0 else 7)
         (bit m.sat 1 + bit (decide (x.st = .drifting)) 2 + bit (!x.cal || decide (w2 m 40 3 ≠ x.kcal)) 4) fun y => y = x))

/-! ## Barriers and domains -/

/-- R352, R354, R355, R358 to R361: the barrier instructions. A context that is no member faults; an arrival that is registered and not released
holds the bundle; otherwise `barrive` registers the arrival, `bsync` also holds what follows, `bwait` tells how its phase was completed, and
`bstat` gives the status word.
R353 to R357: an arrival is counted when the earlier accesses of its context have performed, and the last one starts the delivery; the
barrier is released when every covered copy has ended, and the release reaches each member's arrival and the writes it held.
Members of other chips are a free draw, and permanent arrivals follow a reading (log entries 34 and 35). -/
def Obligations.Barriers : Prop :=
  (∀ (s : State) (n pd a : Nat),
     let c := s.iss.core
     let key := 4 * c + s.iss.ctx
     let outside (i : Instr) := exec i s = .next (s.faulted 7 3 (some (wordOf n)))
     (s.Issues (fun _ => []) →
       (Arrived s n → ∀ i ∈ [Instr.barrive n, .bsync n], exec i s = .next (s.blocked [.release n])) ∧
       (¬ Arrived s n → ¬ MemberOf s n → outside (.barrive n) ∧ outside (.bsync n)) ∧
       (¬ Arrived s n → MemberOf s n → ∀ bar b, BarrierOf s n bar b → ∃ (t : State) (ids : List Nat),
         exec (.barrive n) s = .next (s.done 7 fun _ => t) ∧
         exec (.bsync n) s = .next (s.done 7 fun _ => t.updMe fun y => { y with syncHold := some n }) ∧
         let phase := if key ∈ b.members ∧ b.st ≠ .delivering ∧ key ∉ b.arrived then b.phase else (b.phase + 1) % 2 ^ 32
         t.mem = s.mem ∧ t.bars = s.bars ∧ t.ids = s.ids + 1 ∧ t.msgs = s.msgs ++ [⟨s.ids, s.cycle, .arrival bar key s.me.step ids⟩] ∧
         (∀ m, t.me.arr.get ⟨0, 0, true, false⟩ m = if m = n then ⟨bar, phase, false, false⟩ else s.me.arr.get ⟨0, 0, true, false⟩ m) ∧
         (∀ id, id ∈ ids ↔ ∃ q < 4, ∃ m ∈ cmdsOf s c q, m.id = id ∧ m.ctx = s.iss.ctx ∧ m.st < 2 ∧ m.step < s.me.step ∧ m.w2.getLsbD 51 = true ∧
           m.covered = false) ∧
         ∀ q, cmdsOf t c q = (cmdsOf s c q).map fun m => if m.id ∈ ids then { m with covered := true } else m)) ∧
     (s.Issues (fun x => [x.pReg pd]) →
       (Arrived s n → exec (.bwait n pd) s = .next (s.blocked [.release n])) ∧
       (¬ Arrived s n → ¬ MemberOf s n → outside (.bwait n pd)) ∧
       (¬ Arrived s n → MemberOf s n →
         exec (.bwait n pd) s = .next (s.done 7 fun t => t.emitP pd (s.me.arr.get ⟨0, 0, true, false⟩ n).full))) ∧
     (s.Issues (fun x => [x.sReg a]) →
       (¬ MemberOf s n → outside (.bstat n a)) ∧
       (MemberOf s n → ∃ w, exec (.bstat n a) s = .next (s.done 7 fun t => t.emitS a w 3) ∧
         ∀ bar b, BarrierOf s n bar b → b.phase < 2 ^ 32 → b.arrived.length < 2 ^ 10 → b.members.length < 2 ^ 10 →
           let f (lo len : Nat) := field lo len w.toNat
           let r := s.me.arr.get ⟨0, 0, true, false⟩ n
           f 32 32 = b.phase ∧ f 30 2 = (match b.st with | .compute => 0 | .arriving => 1 | .delivering => 2) ∧
           (f 29 1 = 1 ↔ ∃ k ∈ b.members, k ∉ b.arrived ∧
             let y := s.cx (k / 4) (k % 4)
             1024 ≤ k ∨ y.mode = true ∨ y.hdl = true ∨ y.st ∈ [CState.trapped, .frozen]) ∧
           (f 28 1 = 1 ↔ r.released = false ∧ r.bar = bar ∧ r.phase = b.phase) ∧ f 26 2 = 0 ∧ f 16 10 = b.arrived.length ∧ f 10 6 = 0 ∧
           f 0 10 = b.members.length))) ∧
  ((∀ (s : State) (id bar key step : Nat) (cmds : List Nat) (b : Barrier), MessageIs s id (.arrival bar key step cmds) → s.bars.get none bar = some b →
     let waits := b.st = .delivering ∨ key ∉ b.members ∨ key ∈ b.arrived ∨
       (key < 1024 ∧ ∃ e ∈ s.accs, e.core = key / 4 ∧ e.ctx = key % 4 ∧ e.step < step)
     let wide := bar < 64 ∧ ∃ i < 16, i ≠ s.chip ∧ (s.doms.get {} bar).chips.testBit i = true
     (waits → exec (.barrierArrivalCounted id) s = .next s) ∧
     (¬ waits → ∃ lk, (¬ wide → lk = s.links) ∧ exec (.barrierArrivalCounted id) s = .next
       { without id s with
         links := lk
         bars := s.bars.put none bar (some { b with
           st := if b.arrived.length + 1 < b.members.length then .arriving else .delivering
           arrived := b.arrived ++ [key], covered := b.covered ++ cmds }) })) ∧
   (∀ (s : State) (bar : Nat) (b : Barrier), s.bars.get none bar = some b →
     let still (id : Nat) := (∃ k ∈ s.cores, ∃ q ∈ k.2.queues, ∃ m ∈ q.2.cmds, m.id = id ∧ m.st < 2) ∨
       ∃ e ∈ s.tasks, ∃ k, e.2 = some k ∧ ∃ m ∈ k.cmds, m.2.id = id
     let wide := bar < 64 ∧ ∃ i < 16, i ≠ s.chip ∧ (s.doms.get {} bar).chips.testBit i = true
     let ms := b.newMembers.getD b.members
     let gone (k : Nat) := k ∈ b.perm ∨ (k < 512 ∧ (s.cx (k / 4) (k % 4)).st = .cancelled)
     (b.st ≠ .delivering ∨ (∃ id ∈ b.covered, still id) → exec (.barrierRelease bar) s = .next s) ∧
     (b.st = .delivering → (∀ id ∈ b.covered, ¬ still id) → ((s.doms.get {} bar).valid = true ∨ 64 ≤ bar ∨ b.newMembers ≠ some []) →
          ∃ t, exec (.barrierRelease bar) s = .next t ∧ t.mem = s.mem ∧ t.cores = s.cores ∧
       ((wide ∧ t.bars = s.bars ∧ t.msgs = s.msgs) ∨
         (t.msgs.map (·.msg) = s.msgs.map (·.msg) ++ b.members.map (fun k => .release bar k b.phase (!b.anyPerm)) ∧
         ∃ perm came : List Nat, (∀ k, k ∈ perm ↔ k ∈ ms ∧ gone k) ∧
           (∀ k, k ∈ came ↔ k ∈ perm ∧ ∀ m ∈ s.msgs, ∀ n l, m.msg ≠ .arrival bar k n l) ∧
           t.bars = s.bars.put none bar (some
             { phase := (b.phase + 1) % 2 ^ 32, st := .compute, members := ms, arrived := came, perm := perm, anyPerm := !came.isEmpty }))))) ∧
   ∀ (s : State) (id bar key phase : Nat) (full : Bool), MessageIs s id (.release bar key phase full) → key < 1024 →
     let c := key / 4
     let x := key % 4
     let free (l : List (Nat × Nat)) := l.filter fun e => decide (e ≠ (bar, phase))
     ∃ t, exec (.barrierReleaseArrive id) s = .next t ∧ t.mem = s.mem ∧ t.msgs = (without id s).msgs ∧ t.bars = s.bars ∧
       (t.cx c x).arr = (s.cx c x).arr.map (fun e =>
         (e.1, if e.2.bar = bar ∧ e.2.phase = phase then { e.2 with released := true, full := full } else e.2)) ∧
       (∀ n, (t.cx c x).syncHold = some n ↔
         (s.cx c x).syncHold = some n ∧ ((t.cx c x).arr.get ⟨0, 0, true, false⟩ n).released = false) ∧
       t.accs = s.accs.map (fun e => if e.core = c ∧ e.ctx = x then { e with heldFor := free e.heldFor } else e) ∧
       ∀ q, cmdsOf t c q = (cmdsOf s c q).map fun m => if m.ctx = x then { m with heldFor := free m.heldFor } else m)

/-- R357, R363, R365, R386, R387, R389: `domset` changes a custom domain by its operation word, and with it the membership of its barrier, at
once where nothing has arrived and otherwise at the next release; `domget` gives the words of a domain.
What becomes of dropped arrivals is deduced (log entry 35). -/
def Obligations.Domains : Prop :=
  (∀ (s : State) (n a : Nat), n < 64 →
    let u := s.visible.rs a
    let d := s.doms.get {} n
    (s.iss.opened = false → s.me.mode = false → exec (.domset n a) s = .next (s.faulted 7 4 none)) ∧
    (s.me.mode = true → s.Issues (fun x => [x.sReg a]) →
      (u.poison = true → exec (.domset n a) s = .next (s.faulted 7 0x10 none)) ∧
      (u.poison = false → BadOperation u.val → exec (.domset n a) s = .next (s.faulted 7 3 (some u.val))) ∧
      (u.poison = false → ¬ BadOperation u.val → ∃ t, exec (.domset n a) s = .next (s.done 7 fun _ => t) ∧ t.mem = s.mem ∧
        (∀ m, m ≠ n → t.doms.get {} m = s.doms.get {} m ∧ t.bars.get none m = s.bars.get none m) ∧
        let e := t.doms.get {} n
        let same := ∀ c < 128, ∀ x < 4, InMasks e c x ↔ InMasks d c x
        let made (b : Barrier) := ∀ k, k ∈ b.members ↔ k < 512 ∧ InMasks e (k / 4) (k % 4)
        let new := t.bars.get none n
        Operated u.val d e ∧
        (s.bars.get none n = none →
          (e.valid = false → new = none) ∧
          (e.valid = true → ∃ b, new = some b ∧ made b ∧ b.phase = 0 ∧ b.st = .compute ∧ b.newMembers = none ∧ b.arrived = b.perm ∧
            ∀ k, k ∈ b.perm ↔ k ∈ b.members ∧ (s.cx (k / 4) (k % 4)).st = .cancelled)) ∧
        ∀ b, s.bars.get none n = some b →
          (e.valid = false → new = if b.arrived = [] then none else some { b with newMembers := some [] }) ∧
          (e.valid = true → d.valid = true → same → new = some b) ∧
          (e.valid = true → ¬ (d.valid = true ∧ same) → (∀ k ∈ b.members, k < 1024) → ∃ b', new = some b' ∧ b'.phase = b.phase ∧
            (b.arrived = [] → made b' ∧ b'.newMembers = none) ∧
            (b.arrived ≠ [] → ∃ ms, b' = { b with newMembers := some ms } ∧ made { b with members := ms }))))) ∧
  (∀ (s : State) (n a sel : Nat), s.Issues (fun x => [x.sReg a]) →
    let checked := 64 ≤ n ∨ (s.doms.get {} n).valid = true
    (checked → ¬ MemberOf s n → exec (.domget n a sel) s = .next (s.faulted 7 3 (some (wordOf n)))) ∧
    (checked → MemberOf s n ∨ ¬ checked → exec (.domget n a sel) s = .next (s.done 7 fun t =>
      (t.addLand t.iss.core t.iss.ctx t.me.step (t.me.sReg a) (.domget n sel)).mark [t.me.sReg a]))) ∧
  (∀ (s : State) (id n sel : Nat) (l : Land), l.val = .domget n sel → CanLand s id l → n < 64 →
    let d := s.doms.get {} n
    let inside (k : Nat) := k < 512 ∧ InMasks d (k / 4) (k % 4)
    ∃ w, LandsAs s id l w ∧ (d.valid = false → w = 0) ∧ (d.valid = true →
      let f (lo len : Nat) := field lo len w.toNat
      (sel = 0 → f 63 1 = 1 ∧ (f 62 1 = 1 ↔ d.launch = true) ∧
        (f 60 2 = 0 ↔ ∀ j k, inside j → inside k → j / 4 = k / 4) ∧ (f 60 2 ≤ 1 ↔ ∀ j k, inside j → inside k → cluster (j / 4) = cluster (k / 4)) ∧
        (f 60 2 ≤ 2 ↔ ∀ j k, inside j → inside k → j / 256 = k / 256) ∧
        (f 59 1 = 1 ↔ ∃ i < 16, i ≠ s.chip ∧ d.chips.testBit i = true) ∧ f 48 11 = 0 ∧ f 32 16 = d.chips % 2 ^ 16 ∧ f 10 22 = 0 ∧
        ∃ ks : List Nat, ks.Nodup ∧ (∀ k, k ∈ ks ↔ inside k) ∧ f 0 10 = ks.length) ∧
      (sel = 1 → ∀ i < 64, w.getLsbD i = d.cores.getLsbD i) ∧ (sel = 2 → ∀ i < 64, w.getLsbD i = d.cores.getLsbD (64 + i)) ∧
      (sel = 3 → ∀ i < 4, w.getLsbD i = (d.ctxs.get 0 l.core).testBit i))) ∧
  ∀ (s : State) (id n : Nat) (l : Land) (k : Task), l.val = .domget n 0 → CanLand s id l → n ∈ [0x80, 0x81, 0x82, 0x83] →
    s.taskOf l.core l.ctx = some k → s.chip < 16 →
    ∃ w, LandsAs s id l w ∧ field 62 2 w.toNat = 3 ∧ field 60 2 w.toNat = n - 0x80 ∧ field 59 1 w.toNat = 0 ∧ field 32 16 w.toNat = 2 ^ s.chip

/-! ## Sibling groups -/

/-- R382 to R384, R388, R389: `bpost`, `bread` and `gcancel` send to the slot of the context's group, and fault outside a group or on a poisoned
source.
R380, R381, R388: a word of a slot as `bread` delivers it.
R368 to R372, R384: the ballot unit takes posts, cancellation requests and end notices. A post is late, a duplicate, or counted; the vote
that reaches the quorum decides and sends the pennant. R370: the EXHAUSTED test. R369: a closed slot is freed.
What ABST counts and the order within a cycle are readings (log entry 36). -/
def Obligations.Groups : Prop :=
  ((∀ (s : State) (a pd sel : Nat) (ord : MemOrd),
     let u := s.visible.rs a
     let stop (i : Instr) := exec i s = .next (s.faulted 7 3 (some (BitVec.allOnes 64)))
     let alone := ∀ slot sib, ¬ InGroup s slot sib
     (s.Issues (fun x => [x.sReg a, x.pReg pd]) →
       ((∃ e ∈ s.accs, e.core = s.iss.core ∧ e.ctx = s.iss.ctx ∧ e.step < s.me.step) → exec (.bpost a pd) s = .next (s.blocked [.earlier false])) ∧
       (s.Clear 7 [.earlier false] →
         (u.poison = true → exec (.bpost a pd) s = .next (s.faulted 7 0x10 none)) ∧
         (u.poison = false → alone → stop (.bpost a pd)) ∧
         ∀ slot sib, u.poison = false → InGroup s slot sib → exec (.bpost a pd) s = .next (s.done 7 fun t =>
           (t.sendMsg (.post slot sib u.val t.iss.core t.iss.ctx t.me.step (some (t.me.pReg pd)))).mark [t.me.pReg pd]))) ∧
     (s.Issues (fun x => [x.sReg a]) →
       (alone → stop (.bread ord a sel)) ∧
       (∀ slot sib, InGroup s slot sib → exec (.bread ord a sel) s = .next (s.done 7 fun t =>
         (t.addLand t.iss.core t.iss.ctx t.me.step (t.me.sReg a) (.bread slot sel) (decide (ord = .acq ∨ ord = .ar))).mark [t.me.sReg a])) ∧
       (u.poison = true → exec (.gcancel a) s = .next (s.faulted 7 0x10 none)) ∧
       (u.poison = false → alone → stop (.gcancel a)) ∧
       ∀ slot sib, u.poison = false → InGroup s slot sib → exec (.gcancel a) s = .next (s.done 7 fun t => t.sendMsg (.gcancel slot t.iss.core u.val)))) ∧
   ∀ (s : State) (id slot sel : Nat) (l : Land), l.val = .bread slot sel → CanLand s id l →
     (s.ballots.get none slot = none → LandsAs s id l 0) ∧
     ∀ b, s.ballots.get none slot = some b → (∀ v ∈ [b.winsib, b.q, b.n, b.posted.length, b.winvotes, b.cancelled.length, b.reclaimed.length], v < 2 ^ 8) →
       (∀ v ∈ [b.other, b.late, b.dup, b.abst], v < 2 ^ 16) → (∀ v ∈ b.cw, v < 2 ^ 64) → b.cw.length = 5 →
       (∀ h ∈ b.hashes, h.first < 2 ^ 8 ∧ h.votes < 2 ^ 8) → ∃ w, LandsAs s id l w ∧
         let f (lo len : Nat) := field lo len w.toNat
         (sel = 0 → f 61 3 = (match b.st with | .open => 0 | .voting => 1 | .decided => 2 | .exhausted => 3 | .closed => 4) ∧
           (f 60 1 = 1 ↔ b.tie = true) ∧ (f 59 1 = 1 ↔ b.nowin = true) ∧ (f 58 1 = 1 ↔ b.poolovf = true) ∧ (f 57 1 = 1 ↔ b.rcerr = true) ∧
           f 56 1 = 0 ∧ f 48 8 = b.winsib ∧ f 40 8 = b.q ∧ f 32 8 = b.n ∧ f 24 8 = b.posted.length ∧ f 16 8 = b.winvotes ∧
           f 8 8 = b.cancelled.length ∧ f 0 8 = b.reclaimed.length) ∧
         (sel = 1 → w = b.winner) ∧ (∀ i v, i < 5 → sel = 2 + i → b.cw[i]? = some v → w.toNat = v) ∧
         (sel = 7 → f 48 16 = b.other ∧ f 32 16 = b.late ∧ f 16 16 = b.dup ∧ f 0 16 = b.abst) ∧
         ∀ i < 16, (b.hashes.length ≤ i → sel = 16 + i ∨ sel = 32 + i → w = 0) ∧
           ∀ h, b.hashes[i]? = some h → (sel = 16 + i → w = h.x) ∧ (sel = 32 + i → w.toNat = h.first * 2 ^ 8 + h.votes)) ∧
  ((∀ (s : State) (id slot sib : Nat) (x : Word) (c cx step : Nat) (reg : Option RegId), MessageIs s id (.post slot sib x c cx step reg) →
     let answer (n : Nat) (r : Bool) := reg.toList.map fun g => (⟨n, c, cx, step, g, .val (.b r), false⟩ : Land)
     (s.ballots.get none slot = none → ∃ t, exec (.ballotPostArrive id) s = .next t ∧
       t = { without id s with ids := t.ids, lands := s.lands ++ answer s.ids false }) ∧
     ∀ b, s.ballots.get none slot = some b →
       (TooLate s b sib → exec (.ballotPostArrive id) s = .next s) ∧
       (¬ TooLate s b sib →
         let b := { b with at_ := s.cycle, place := sib }
         let late := b.st = .decided ∨ b.st = .exhausted ∨ b.st = .closed ∨ sib ∈ b.cancelled
         let replies (r : Bool) (b' : Ballot) (P : List Land → State → Prop) := ∃ t n, exec (.ballotPostArrive id) s = .next t ∧ t.mem = s.mem ∧
           t.ballots.get none slot = some b' ∧ (∀ m, m ≠ slot → t.ballots.get none m = s.ballots.get none m) ∧
           (∃ old, t.lands = old ++ answer n r ∧ P old t)
         let counted := { b with posted := b.posted ++ [sib], st := .voting }
         let votes (h : Hash) := { counted with hashes := b.hashes.map fun g => if g.x = x then { h with votes := h.votes + 1, low := min h.low sib } else g }
         let fresh := { counted with hashes := b.hashes ++ [⟨x, 1, sib, sib⟩] }
         let wins (v : Ballot) (low n : Nat) := replies true
           { v with st := .decided, winner := x, winsib := low, winvotes := n, cancelled := b.cancelled ++ pendingOf counted }
           fun old t => PennantTo s t b.launch (pendingOf counted) ∧ old = s.lands.map (readBefore s slot)
         let quiet (old : List Land) (t : State) := old = s.lands ∧ t.tasks = s.tasks ∧ t.msgs = (without id s).msgs
         (late → replies false { b with late := min (b.late + 1) (2 ^ 16 - 1) } quiet) ∧
         (¬ late → sib ∈ b.posted → replies false { b with dup := min (b.dup + 1) (2 ^ 16 - 1) } quiet) ∧
         (¬ late → sib ∉ b.posted →
           (∀ h, b.hashes.find? (fun g => decide (g.x = x)) = some h →
             (h.votes + 1 ≠ b.q → replies true (votes h) quiet) ∧ (h.votes + 1 = b.q → wins (votes h) (min h.low sib) b.q)) ∧
           ((∀ g ∈ b.hashes, g.x ≠ x) → b.hashes.length < 16 → (b.q ≠ 1 → replies true fresh quiet) ∧ (b.q = 1 → wins fresh sib 1)) ∧
           ((∀ g ∈ b.hashes, g.x ≠ x) → 16 ≤ b.hashes.length → replies true { counted with other := min (b.other + 1) (2 ^ 16 - 1) } quiet)))) ∧
   (∀ (s : State) (id slot : Nat) (mask : Word), ∀ core, MessageIs s id (.gcancel slot core mask) →
     (s.ballots.get none slot = none → exec (.gcancelRequestArrive id) s = .next (without id s)) ∧
     ∀ b, s.ballots.get none slot = some b → b.abst < 2 ^ 16 →
       (TooLate s b 64 → exec (.gcancelRequestArrive id) s = .next s) ∧
       (¬ TooLate s b 64 →
         let l := (List.range b.n).filter fun i => mask.getLsbD i = true ∧ i ∉ b.ended ∧ i ∉ b.cancelled
         ∃ t, exec (.gcancelRequestArrive id) s = .next t ∧ t.mem = s.mem ∧ PennantTo s t b.launch l ∧
           t.ballots.get none slot = some { b with at_ := s.cycle, place := 64, cancelled := b.cancelled ++ l,
                                                   abst := min (b.abst + l.countP fun i => i ∉ b.posted) (2 ^ 16 - 1) })) ∧
   (∀ (s : State) (id slot sib : Nat), MessageIs s id (.endNotice slot sib) →
     (s.ballots.get none slot = none → exec (.endNoticeArrive id) s = .next (without id s)) ∧
     ∀ b, s.ballots.get none slot = some b →
       let posts := ∃ e ∈ s.msgs, ∃ x c cx step reg, e.msg = .post slot sib x c cx step reg
       (TooLate s b 65 ∨ posts → exec (.endNoticeArrive id) s = .next s) ∧
       (¬ TooLate s b 65 → ¬ posts →
         let b := { b with at_ := s.cycle, place := 65 }
         let missed := (b.st = .open ∨ b.st = .voting) ∧ sib ∉ b.posted ∧ sib ∉ b.cancelled
         exec (.endNoticeArrive id) s = .next { without id s with ballots := s.ballots.put none slot (some
           (if sib ∈ b.ended then b
            else closed { b with ended := b.ended ++ [sib], abst := if missed then min (b.abst + 1) (2 ^ 16 - 1) else b.abst })) })) ∧
   (∀ b : Ballot,
     let allIn := (b.st = .open ∨ b.st = .voting) ∧ ∀ i < b.n, i ∈ b.posted ∨ i ∈ b.cancelled ∨ i ∈ b.ended
     (¬ allIn → b.exhaust = b) ∧
     (allIn → b.hashes = [] → b.exhaust = closed { b with st := .exhausted, nowin := true }) ∧
     (allIn → (b.hashes.map (·.x)).Nodup → b.hashes ≠ [] → ∃ h ∈ b.hashes,
       (∀ g ∈ b.hashes, g.votes < h.votes ∨ (g.votes = h.votes ∧ h.x.toNat ≤ g.x.toNat)) ∧ ∃ tie : Bool,
         (tie = true ↔ ∃ g ∈ b.hashes, g.x ≠ h.x ∧ g.votes = h.votes) ∧
         b.exhaust = closed { b with st := .exhausted, winner := h.x, winsib := h.low, winvotes := h.votes, tie := tie })) ∧
   ∀ (s : State) (slot : Nat),
     (s.ballots.get none slot = none → exec (.ballotSlotFree slot) s = .next s) ∧
     ∀ b, s.ballots.get none slot = some b →
       let free := b.st = .closed ∧ s.launches.get none b.launch = none ∧ ∀ r ∈ s.holding, r.slot ≠ some slot
       (free → exec (.ballotSlotFree slot) s = .next { s with ballots := s.ballots.put none slot none }) ∧
       (¬ free → exec (.ballotSlotFree slot) s = .next s))

/-- R376 to R378: a cancelled sibling is reclaimed once, when it has come to rest: its work is added, the counts of its pages fall by one, and a
page whose count reaches zero enters the pool.
What a poisoned, lost or BUSY entry does to a reclaim is deduced (log entry 36). -/
def Obligations.GroupReclaims : Prop :=
  ∀ (s : State) (slot sib tid : Nat) (b : Ballot) (k : Task) (l : Launch), s.ballots.get none slot = some b →
    s.sibling b.launch sib = some (tid, k) → s.launches.get none b.launch = some l →
    let aff := (l.words[1]?).getD 0
    let xr := (l.words[4]?).getD 0
    let ready := sib ∈ b.cancelled ∧ sib ∉ b.reclaimed ∧ k.freed = true ∧ s.callsOpen tid = false
    let gives (b' : Ballot) (P : State → Prop) := ∃ t, exec (.groupReclaim slot sib) s = .next t ∧ t.ballots.get none slot = some (accounted b' sib k) ∧ P t
    let kept (t : State) := t.mem = s.mem
    (¬ ready → exec (.groupReclaim slot sib) s = .next s) ∧
    (ready →
      (aff = 0 → gives b kept) ∧
      (aff ≠ 0 → aff.toNat % 64 ≠ 0 → gives { b with rcerr := true } kept) ∧
      (aff ≠ 0 → aff.toNat % 64 = 0 → (∀ e a, ¬ Translates s aff xr e a) → gives { b with rcerr := true } kept) ∧
      ∀ d h p p' e e' q r, aff ≠ 0 → aff.toNat % 64 = 0 → At s aff xr d →
        (∀ i < 8, s.poisoned (d + 8 * i) 8 = false ∧ s.lostAt (d + 8 * i) = false ∧ (2 ≤ i → entryAt s (d + 8 * i) = 0)) →
        let set := wordOf (entryAt s d + 0x4000 * sib)
        let pool := wordOf (entryAt s (d + 8))
        At s set xr h → At s pool xr p → s.poisoned h 8 = false →
        (field 10 54 (entryAt s h) ≠ 0 → gives { b with rcerr := true } kept) ∧
        (entryAt s h = 0 → gives b kept) ∧
        (entryAt s h = 1 → At s (set + 16) xr e → At s (set + 24) xr e' → s.poisoned e 8 = false → s.poisoned e' 8 = false →
          let pg := entryAt s e
          let rc := entryAt s e'
          (pg % 2 ^ 13 ≠ 0 ∨ rc % 4 ≠ 0 → gives { b with rcerr := true } kept) ∧
          (pg % 2 ^ 13 = 0 → rc % 4 = 0 → At s (wordOf pg) xr q → At s (wordOf rc) xr r → s.poisoned r 4 = false →
            let old := number 4 fun i => s.mem.get 0 (r + i)
            (old = 0 → gives { b with rcerr := true } kept) ∧
            (2 ≤ old → gives b fun t => ∀ x, t.mem.get 0 x = if r ≤ x ∧ x < r + 4 then BitVec.ofNat 8 ((old - 1) / 256 ^ (x - r)) else s.mem.get 0 x) ∧
            (old = 1 → At s (pool + 8) xr p' → s.poisoned p 8 = false → s.poisoned p' 8 = false →
              (r + 4 ≤ p ∨ p + 8 ≤ r) → (r + 4 ≤ p' ∨ p' + 8 ≤ r) →
              (∀ m : SMap Byte, (∀ x, (x < r ∨ r + 4 ≤ x) → (x < p ∨ p + 8 ≤ x) → m.get 0 x = s.mem.get 0 x) →
                ∀ va z, At s va xr z → At { s with mem := m } va xr z) →
              let n := entryAt s p
              (entryAt s p' ≤ n → gives { b with poolovf := true } fun t =>
                ∀ x, t.mem.get 0 x = if r ≤ x ∧ x < r + 4 then 0 else s.mem.get 0 x) ∧
              (n < entryAt s p' → ∀ z, At s (pool + 16 + wordOf (8 * n)) xr z → (z + 8 ≤ r ∨ r + 4 ≤ z) → (z + 8 ≤ p ∨ p + 8 ≤ z) →
                gives b fun t => ∀ x, t.mem.get 0 x =
                  if r ≤ x ∧ x < r + 4 then 0
                  else if p ≤ x ∧ x < p + 8 then BitVec.ofNat 8 ((n + 1) / 256 ^ (x - p))
                  else if z ≤ x ∧ x < z + 8 then BitVec.ofNat 8 (pg / 256 ^ (x - z)) else s.mem.get 0 x)))))

/-- R371, R373 to R375: the pennant sets CANREQ and starts the grace count; a context stops at a cancellation point outside a trap, and when its
grace has run out even in one. -/
def Obligations.Cancellation : Prop :=
  ∀ (s : State) (c x : Nat),
    let y := s.cx c x
    (∀ id n tid, s.msgs.find? (fun m => match m.msg with | .pennant c' x' _ => decide (c' = c ∧ x' = x) | _ => false) = some ⟨id, n, .pennant c x tid⟩ →
      let meant := y.task = some tid ∧ y.st ∉ [CState.done, .cancelled, .free] ∧ y.canreq = false
      ∃ t, exec (.pennantArrive c x) s = .next t ∧ t.mem = s.mem ∧ t.msgs = (without id s).msgs ∧
        t.cx c x = if meant then { y with canreq := true, grace := 0 } else y) ∧
    (let due := Live y ∧ (y.killNext = true ∨ (y.canreq = true ∧ Outside y ∧ (y.stopNext = true ∨ y.st = .blocked)))
     (due → ∃ t, exec (.cancellationStop c x) s = .next t ∧ Stopped s t c x) ∧ (¬ due → exec (.cancellationStop c x) s = .next s)) ∧
    (let due := Live y ∧ y.canreq = true ∧ s.grace ≤ y.grace
     (due → ∃ t, exec (.graceExpiry c x) s = .next t ∧ Stopped s t c x) ∧ (¬ due → exec (.graceExpiry c x) s = .next s))

/-! ## Remote calls -/

/-- R396 to R398, R410, R411: `rcall` checks its operands in their order, takes the reply slot and sends the message to the executor of the
addressed byte; `rwait` collects a reply, blocks for it, or traps on it; `rpoll` looks at it.
R399, R401, R404, R408: a call message waits in its executor's buffer, once; a free slot starts the oldest one that has time left; a reply and
a completion notice reach the slot with their SEQ; a slot whose deadline has come is LOST; a callee's store performs.
The first value of SEQ is deduced (log entry 31). -/
def Obligations.Calls : Prop :=
  ((∀ (s : State) (y h a fn smask nx xa xb : Nat) (rel : Bool) (k : Task), nx ≤ 2 → s.myTask = some k → s.myCore.ctx.wf {} = true →
      s.Issues (fun x => x.sReg a :: (((List.range 8).filter fun i => smask.testBit i).map (fun i => x.sReg (i + 1)) ++ (named h nx xa xb).map .h)) →
      (∀ n ∈ named h nx xa xb, handleIn s n) → s.Clear 6 (.acquire :: if rel then [.earlier false] else []) →
      let c := s.iss.core
      let x := s.visible.me
      let o := s.visible.rs a
      let hd := x.readH h
      let pa := hd.frame + o.val.toNat
      let va := some (hd.vpage + o.val)
      let i : Instr := .rcall y h a fn smask rel nx xa xb
      let stop (cause : Nat) (bad : Option Word) := exec i s = .next (s.faulted 6 cause bad)
      let c1 := o.poison = true
      let c2 := ∀ off, ¬ HasEntry s k.img fn off
      let c3 := (s.me.y.get {} y).st = 1
      let c4 := hd.valid = false ∨ pageOf hd.size ≤ o.val.toNat
      let c5 := hd.lost = true
      let c6 := field 46 2 pa = 3
      let extra := ((named h nx xa xb).drop 1).map x.readH
      (32 ≤ s.myCore.waitingCalls → exec i s = .next (s.blocked [.calls])) ∧
      (s.myCore.waitingCalls < 32 →
        (c1 → stop 0x10 none) ∧ (¬ c1 → c2 → stop 3 (some (wordOf fn))) ∧ (¬ c1 → ¬ c2 → c3 → stop 3 (some (wordOf y))) ∧
        (¬ c1 → ¬ c2 → ¬ c3 → c4 → stop 0x0A va) ∧ (¬ c1 → ¬ c2 → ¬ c3 → ¬ c4 → c5 → stop 0x0D va) ∧
        (¬ c1 → ¬ c2 → ¬ c3 → ¬ c4 → ¬ c5 → c6 → stop 9 va) ∧
        (¬ c1 → ¬ c2 → ¬ c3 → ¬ c4 → ¬ c5 → ¬ c6 → ∀ before e after, extra = before ++ e :: after → (∀ b ∈ before, b.valid = true) →
          e.valid = false → stop 0x0A (some e.vpage)) ∧
        (¬ c1 → ¬ c2 → ¬ c3 → ¬ c4 → ¬ c5 → ¬ c6 → (∀ e ∈ extra, e.valid = true) →
          let m : CallMsg :=
            { fn := fn, off := o.val, args := (List.range 8).map (fun j => if smask.testBit j then x.readS (j + 1) else {}), target := hd
              extra1 := if 1 ≤ nx then some (x.readH xa) else none
              extra2 := if 2 ≤ nx then some (x.readH xb) else none
              seq := s.myCore.seq % 2 ^ 16, nth := s.myCore.seq, chip := s.chip, core := c, ctx := s.iss.ctx, slot := y
              deadline := s.now / 36 + max (x.ctl.get 0 0x11).toNat 1000, task := x.task.getD 0, img := k.img }
          ∃ t : State, exec i s = .next (s.done 6 fun _ => t.cancelPoint) ∧ t.mem = s.mem ∧ t.accs = s.accs ∧ t.myCore.seq = s.myCore.seq + 1 ∧
            (∀ n, t.me.y.get {} n = if n = y then { st := 1, fn := fn, seq := m.seq, deadline := m.deadline } else s.me.y.get {} n) ∧
            (∀ e, Beside pa e → t.msgs = s.msgs ++ [⟨s.ids, s.cycle, .call e m⟩]) ∧ (field 46 2 pa = 2 → t.msgs = s.msgs ∧ t.away = s.away ++ [(s.ids, m)])))) ∧
   ∀ (s : State) (y d pd a : Nat), ∃ w, ReplyWord (s.me.y.get {} y) w ∧
     let r := s.me.y.get {} y
     let x := s.me
     (∀ (ord : MemOrd) (trap : Bool), s.Issues (fun x => (List.range 5).map (fun i => x.sReg (d + i)) ++ [x.pReg pd]) →
       let i : Instr := .rwait ord y d pd trap
       let holds := (ord = .acq ∨ ord = .ar) ∧ r.pend = true
       let puts (w : Word) (val : Nat → SVal) := emits 3 ((x.sReg d, .w w, false) ::
         (List.range 4).map fun j => (x.sReg (d + 1 + j), .w (val j).val, (val j).poison))
       (r.st = 1 → exec i s = .next (s.blocked [.reply y])) ∧
       (r.st = 0 → exec i s = .next (s.done 7 fun t => (puts 0 (fun _ => {}) t).emitP pd false)) ∧
       (r.st = 2 → holds → exec i s = .next (s.blocked [.replyPend y])) ∧
       (r.st = 2 → ¬ holds → trap = true → r.status = 1 → exec i s = .next (s.faulted 7 0x20 (some w))) ∧
       (r.st = 2 → ¬ holds → trap = true → r.status = 4 → exec i s = .next (s.faulted 7 0x21 (some w))) ∧
       (r.st = 2 → ¬ holds → (trap = false ∨ (r.status ≠ 1 ∧ r.status ≠ 4)) → exec i s = .next (s.done 7 fun t =>
         ((puts w (fun j => (r.vals[j]?).getD {}) t).emitP pd (decide (r.status = 0))).updMe fun z => { z with y := z.y.put {} y {} }))) ∧
     (s.Issues (fun x => [x.sReg a, x.pReg pd]) →
       exec (.rpoll y a pd) s = .next (s.done 7 fun t => (t.emitS a w 3).emitP pd (decide (r.st = 2))))) ∧
  ((∀ (s : State) (id : Nat) (e : ExecId) (m : CallMsg), MessageIs s id (.call e m) →
      let x := execOf s e
      let seen := m.cmd = none ∧ ∃ n ∈ x.seen, n.1 = m.chip ∧ n.2.1 = m.core ∧ n.2.2 = m.nth
      (seen → exec (.callMessageArrive id) s = .next (without id s)) ∧
      (¬ seen → ∃ t, exec (.callMessageArrive id) s = .next t ∧ t.mem = s.mem ∧ t.msgs = (without id s).msgs ∧
        (execOf t e).buf = x.buf ++ [(id, m)] ∧ (execOf t e).slots = x.slots ∧ (m.chip, m.core, m.nth) ∈ (execOf t e).seen ∧
        ∀ n ∈ x.seen, (n.1 ≠ m.chip ∨ n.2.1 ≠ m.core ∨ m.nth < n.2.2 + 2 ^ 15) → n ∈ (execOf t e).seen)) ∧
   (∀ (s : State) (e : ExecId),
      let x := execOf s e
      let taken (n : Nat) := ∃ z ∈ x.slots, z.1 = n
      (x.buf = [] ∨ (∀ n < slotsOf e, taken n) → exec (.callStart e) s = .next s) ∧
      ∀ id m rest n, x.buf = (id, m) :: rest → n < slotsOf e → ¬ taken n → (∀ j < n, taken j) →
        let late := m.cmd = none ∧ m.deadline ≤ s.now / 36
        let revoked := m.target.valid = false ∨ (∃ h, m.extra1 = some h ∧ h.valid = false) ∨ ∃ h, m.extra2 = some h ∧ h.valid = false
        ∃ t, exec (.callStart e) s = .next t ∧ t.mem = s.mem ∧ (execOf t e).buf = rest ∧
          (late → t.msgs = s.msgs ∧ (execOf t e).slots = x.slots) ∧
          (¬ late → revoked → (execOf t e).slots = x.slots ∧
            (m.cmd = none → m.chip = s.chip → ∃ p, t.msgs = s.msgs ++ [⟨s.ids, s.cycle, .reply m id 1 0x0A [] p⟩]) ∧
            ∀ q, m.cmd = some q → t.msgs = s.msgs ∧ ∀ u ∈ cmdsOf t m.core 6, u.id = q → u.note = true ∧ u.status = 5) ∧
          (¬ late → ¬ revoked → t.msgs = s.msgs ∧ ∃ z, (execOf t e).slot n = some z ∧ z.id = id ∧ z.msg = m ∧ z.word = 0 ∧ z.words = 0 ∧ z.part = none ∧
            (∀ off, HasEntry s m.img m.fn off → z.pc = off) ∧ (∀ r, calleeP z r = decide (r = 0)) ∧
            (m.args.length = 8 → ∀ r, calleeS z r = if r = 9 then ⟨m.off, false⟩ else if 1 ≤ r ∧ r ≤ 8 then (m.args[r - 1]?).getD {} else {}))) ∧
   (∀ (s : State) (id : Nat) (m : CallMsg) (k status cause : Nat) (vals : List SVal) (pend : Bool), MessageIs s id (.reply m k status cause vals pend) →
      let x := s.cx m.core m.ctx
      let r := x.y.get {} m.slot
      let meant := x.st ≠ .cancelled ∧ x.st ≠ .free ∧ r.st = 1 ∧ r.seq = m.seq
      (¬ meant → exec (.callReplyArrive id) s = .next (cameBack m.core m.ctx m.slot m.seq (without id s))) ∧
      (meant → exec (.callReplyArrive id) s = .next ((cameBack m.core m.ctx m.slot m.seq (without id s)).updCx m.core m.ctx fun z =>
        { z with y := z.y.put {} m.slot { r with st := 2, pend := pend, status := status, cause := cause, nv := vals.length, vals := vals } }))) ∧
   (∀ (s : State) (id : Nat) (m : CallMsg), s.pendCalls.find? (fun e => decide (e.1 = id)) = some (id, m) →
      ((∃ z ∈ s.callStores, z.call = id) → exec (.completionNoticeSend id) s = .next s) ∧
      ((∀ z ∈ s.callStores, z.call ≠ id) → m.chip = s.chip → exec (.completionNoticeSend id) s = .next
        { s with pendCalls := s.pendCalls.filter (fun e => decide (e.1 ≠ id)), msgs := s.msgs ++ [⟨s.ids, s.cycle, .notice m⟩], ids := s.ids + 1 })) ∧
   (∀ (s : State) (id : Nat) (m : CallMsg), MessageIs s id (.notice m) →
      let r := (s.cx m.core m.ctx).y.get {} m.slot
      (¬ (r.st = 2 ∧ r.seq = m.seq) → exec (.completionNoticeArrive id) s = .next (without id s)) ∧
      (r.st = 2 → r.seq = m.seq → exec (.completionNoticeArrive id) s = .next
        ((without id s).updCx m.core m.ctx fun z => { z with y := z.y.put {} m.slot { r with pend := false } }))) ∧
   (∀ (s : State) (c x y : Nat),
      let r := (s.cx c x).y.get {} y
      (r.st ≠ 1 ∨ s.now / 36 < r.deadline → exec (.callDeadline c x y) s = .next s) ∧
      (r.st = 1 → r.deadline ≤ s.now / 36 → exec (.callDeadline c x y) s = .next ((cameBack c x y r.seq s).updCx c x fun z =>
        { z with y := z.y.put {} y { r with st := 2, status := 4, nv := 0, pend := false, vals := [] } }))) ∧
   ∀ (s : State) (id : Nat) (z : CallStore), (∀ a ∈ s.accs, a.id ≠ id) → s.callStores.find? (fun e => decide (e.id = id)) = some z →
     s.running = true → field 46 2 z.addr < 2 → s.lostAt z.addr = false → (∀ u ∈ s.callStores, u.call = z.call → z.id ≤ u.id) →
       ∃ t, exec (.accessPerform id) s = .next t ∧ (∀ e, e ∈ t.callStores ↔ e ∈ s.callStores ∧ e.id ≠ id) ∧
         ∀ x, t.mem.get 0 x = if z.addr ≤ x ∧ x < z.addr + z.data.length then z.data[x - z.addr]?.getD 0 else s.mem.get 0 x)

/-- R402 to R407: a word of a callable. A fetch outside the text, an opcode outside the subset, a field that is not allowed and the 4,097th word end
the call with FAULT; `rret` ends it with its values; arithmetic, compares, branches, loads, stores and atomics act on the callee's
registers and at the home.
R413, R414: a command of KIND 2 at its start, whose result words become EMPTY, and at its end, which fills those that still are.
Poison and revocation of a command are readings (log entry 32). -/
def Obligations.Executors : Prop :=
  (∀ (s : State) (e : ExecId) (n : Nat) (t0 t : CallSlot), (execOf s e).slot n = some t0 →
     let i : Instr := .remoteCallWord e n
     let w := codeAt s t
     let opc := field 54 10 w.toNat
     let on (g : Guard) := calleeP t g.pred ≠ g.neg
     let fails (cause : Nat) := CallEnds s i e n t0 1 cause []
     let same (u : State) := u.mem = s.mem
     (s.running = false ∨ 4096 ≤ t0.words ∨ s.now < t0.readyAt → exec i s = .next s) ∧
     (t0.words < 4096 → exec (.callWordLimit e n) s = .next s) ∧
     (s.running = true → 4096 ≤ t0.words → CallEnds s (.callWordLimit e n) e n t0 1 0x28 []) ∧
     (s.running = true → t0.words < 4096 → t0.readyAt ≤ s.now → t0.part = none → Reaches s t0 t →
       (t0.msg.img.textLen < t.pc + 64 → fails 1) ∧
       (t.pc + 64 ≤ t0.msg.img.textLen →
         (¬ inSubset opc → fails 1) ∧
         (opc = 0x214 →
           let g := field 49 4 w.toNat
           let a := field 19 6 w.toNat
           let k := field 25 3 w.toNat
           let ok := field 41 8 w.toNat = 0 ∧ field 28 13 w.toNat = 0 ∧ field 0 19 w.toNat = 0 ∧ k ≤ 4 ∧ a ≤ 15 ∧ (0 < k → a + k ≤ 16) ∧
             g < 8 ∧ (g = 0 → w.getLsbD 53 = false)
           (¬ ok → fails 3) ∧
           (ok → calleeP t g = w.getLsbD 53 → CallGoes s e n t fun u t' => same u ∧ onward t t' (calleeS t) (calleeP t)) ∧
           (ok → calleeP t g ≠ w.getLsbD 53 → CallEnds s i e n t0 0 0 ((List.range k).map fun j => calleeS t (a + j)))) ∧
         (opc ≠ 0x214 → inSubset opc →
           ((∀ g j, decodeSlot false (homeSlot w.toNat) w ≠ .ok (g, j)) → fails 3) ∧
           ∀ g j, decodeSlot false (homeSlot w.toNat) w = .ok (g, j) →
             let step (sv : Nat → SVal) (pv : Nat → Bool) := CallGoes s e n t fun u t' => same u ∧ onward t t' sv pv
             let kept := step (calleeS t) (calleeP t)
             (8 ≤ g.pred → fails 3) ∧
             (g.pred < 8 →
               (∀ d a b (f : Word → Word → Word), (j, f) ∈ [(Instr.add d a b, fun u v => u + v), (.sub d a b, fun u v => u - v), (.and d a b, fun u v => u &&& v),
                   (.or d a b, fun u v => u ||| v), (.xor d a b, fun u v => u ^^^ v)] →
                 (16 ≤ d ∨ 16 ≤ a ∨ 16 ≤ b → fails 3) ∧
                 (d < 16 → a < 16 → b < 16 → (on g → step (setS t d ⟨f (calleeS t a).val (calleeS t b).val, (calleeS t a).poison || (calleeS t b).poison⟩) (calleeP t)) ∧
                   (¬ on g → kept))) ∧
               (∀ d a imm, j = .addi d a imm → d < 16 → a < 16 → on g →
                 step (setS t d ⟨(calleeS t a).val + wordOfInt imm, (calleeS t a).poison⟩) (calleeP t)) ∧
               (∀ cc d a b, j = .cmp cc d a b → cc ≠ .ord → cc ≠ .uno → d < 8 → a < 16 → b < 16 → on g →
                 ((calleeS t a).poison = true ∨ (calleeS t b).poison = true → fails 0x10) ∧
                 ((calleeS t a).poison = false → (calleeS t b).poison = false → ∃ v, (v = true ↔ truth cc (calleeS t a).val (calleeS t b).val) ∧
                   step (calleeS t) fun r => if r = d ∧ r ≠ 0 then v else calleeP t r)) ∧
               (∀ off, j = .br off → (¬ on g → kept) ∧ (on g → CallGoes s e n t fun u t' => same u ∧ t'.word = 0 ∧
                 t'.pc = (wordOfInt ((t.pc : Int) + 64 * off)).toNat ∧ t'.s = t.s ∧ t'.p = t.p)) ∧
               ∀ (sz : Nat) (hint : Hint) (d b : Nat) (ad : Addr), sz ∈ [1, 2, 4, 8] → d < 16 → b < 16 → ad.a < 16 → ad.h < 3 → ad.sp = false → on g →
                 let base := calleeS t ad.a
                 let check (kind : AccKind) := handleCheck (calleeH t ad.h) (base.val + wordOfInt ad.disp) sz sz kind true true
                 let waits (pa : Nat) := (∃ v, s.empty.get false v = true ∧ pa < 8 * v + 8 ∧ 8 * v < pa + sz) ∨
                   ∃ z ∈ s.callStores, z.call = t.id ∧ sharesWord pa sz z.addr z.data.length = true
                 let old (pa : Nat) := number sz fun k => s.mem.get 0 (pa + k)
                 (j = .ld sz .rlx hint d ad →
                   (base.poison = true → fails 0x10) ∧
                   (base.poison = false → ∀ c bad, check .load = .error (c, bad) → fails c) ∧
                   (base.poison = false → ∀ pa hd va, check .load = .ok (.home pa hd va) → field 46 2 pa < 2 → (waits pa → exec i s = .next s) ∧
                     (¬ waits pa → s.lostAt pa = false → s.poisoned pa sz = false → CallGoes s e n t fun u t' => same u ∧
                       onward t t' (setS t d ⟨wordOf (old pa), false⟩) (calleeP t)))) ∧
                 (j = .st sz .rlx hint d ad → base.poison = false → ∀ pa hd va, check .store = .ok (.home pa hd va) → field 46 2 pa < 2 →
                   let v := calleeS t d
                   (v.poison = true → fails 0x12) ∧
                   (v.poison = false → Beside pa e → s.lostAt pa = false → CallGoes s e n t fun u t' => onward t t' (calleeS t) (calleeP t) ∧
                     ∀ x, u.mem.get 0 x = if pa ≤ x ∧ x < pa + sz then scalarByte v.val (x - pa) else s.mem.get 0 x) ∧
                   (v.poison = false → ¬ Beside pa e → CallGoes s e n t fun u t' => same u ∧ onward t t' (calleeS t) (calleeP t) ∧
                     ∃ z, u.callStores = s.callStores ++ [z] ∧ z.call = t.id ∧ z.addr = pa ∧ z.data = ((List.range sz).map fun k => scalarByte v.val k) ∧
                       z.read = false ∧ (z.target = true ↔ t.msg.target.frame ≤ pa ∧ pa < t.msg.target.frame + pageOf t.msg.target.size))) ∧
                 (j = .amoAdd sz .rlx hint d ad b → base.poison = false → (calleeS t b).poison = false →
                   ∀ pa hd va, check .rmw = .ok (.home pa hd va) → field 46 2 pa < 2 → (waits pa → exec i s = .next s) ∧
                     (¬ waits pa → s.lostAt pa = false → s.poisoned pa sz = false → CallGoes s e n t fun u t' =>
                       onward t t' (setS t d ⟨wordOf (old pa), false⟩) (calleeP t) ∧
                       ∀ x, u.mem.get 0 x = if pa ≤ x ∧ x < pa + sz
                         then BitVec.ofNat 8 ((old pa + (calleeS t b).val.toNat) / 256 ^ (x - pa)) else s.mem.get 0 x))))))) ∧
  ((∀ (s : State) (c : Nat) (before after : List Cmd) (m : Cmd), FirstUnstarted s c 6 before after m → Startable s m →
      let th := m.snaps.get {} (field 60 4 m.w1.toNat)
      let a := (m.snaps.get {} (field 60 4 m.w2.toNat)).frame + field 0 33 m.w2.toNat
      ∃ t m', exec (.vaultExecutorCommand c) s = .next t ∧ t.mem = s.mem ∧ cmdsOf t c 6 = before ++ m' :: after ∧ m'.id = m.id ∧
        (m.revoked ≠ [] → m'.st = 2 ∧ m'.status = 5 ∧ m'.detail = 0 ∧ t.empty = s.empty ∧ execOf t (.vault c) = execOf s (.vault c)) ∧
        (∀ d, m.revoked = [] → vxFirst s c m = some d → m'.st = 2 ∧ m'.status = 1 ∧ m'.detail = d ∧ t.empty = s.empty ∧ execOf t (.vault c) = execOf s (.vault c)) ∧
        (m.revoked = [] → vxFirst s c m = none → m'.st = 1 ∧ (∀ w, t.empty.get false w = true ↔ s.empty.get false w = true ∨ (a / 8 ≤ w ∧ w < a / 8 + 4)) ∧
          ∃ call, (execOf t (.vault c)).buf = (execOf s (.vault c)).buf ++ [(m.id, call)] ∧ call.cmd = some m.id ∧ call.target = th ∧
            call.fn = field 38 12 m.w1.toNat ∧ call.off = wordOf (field 0 33 m.w1.toNat) ∧ call.args = [⟨m.w3, false⟩])) ∧
   ∀ (s : State) (c id : Nat) (m : Cmd), (cmdsOf s c 6).find? (fun u => decide (u.id = id)) = some m → m.st = 1 →
     let a := (m.snaps.get {} (field 60 4 m.w2.toNat)).frame + field 0 33 m.w2.toNat
     let done := m.note = true ∧ m.unchecked = false ∧ ∀ z ∈ s.callStores, z.call ≠ id
     (¬ done → exec (.commandEnd c 6 id) s = .next s) ∧
     (done → a % 8 = 0 → (∀ k < 4, s.lostAt (a + 8 * k) = false) → ∃ t, exec (.commandEnd c 6 id) s = .next t ∧
       (∀ u ∈ cmdsOf t c 6, u.id = id → (u.st = 3 ↔ RecordTaken s c (field 41 20 m.w0.toNat)) ∧ (u.st = 2 ∨ u.st = 3) ∧
          u.status = m.status ∧ u.detail = m.detail ∧ u.prog = if m.status = 0 then m.items else 0) ∧
       (∀ w, t.empty.get false w = true ↔ s.empty.get false w = true ∧ ¬ (a / 8 ≤ w ∧ w < a / 8 + 4)) ∧
       ∀ x, t.mem.get 0 x = if a ≤ x ∧ x < a + 32 ∧ (m.status ≠ 0 ∨ s.empty.get false (x / 8) = true)
         then (if m.status = 0 then scalarByte ((m.values[(x - a) / 8]?).getD {}).val ((x - a) % 8) else 0) else s.mem.get 0 x))

/-! ## Traps -/

/-- R69, R84, R89, R185, R239, R313, R319, R320, R332: taking a trap. A context of KERNEL mode outside its handler enters the runtime; under
`step` its frame is written and the cause waits; a context in a trap becomes TRAPPED and is escalated. A slot that faults takes this
trap with its own bit of SLOTMASK; a bundle that blocks takes no step.
R314, R316 to R321, R333, R335: `syscall` and `brk` trap after their commit and are a double trap in a trap; `trap` stops the context and
escalates; the returns hold until the pipeline is empty; `rte` goes back to the trapped program, `upcall` to the declared handler, and
`syscall 0xFFFF` from it; with SSTEP.EN a committed bundle is followed by STEP, which waits behind `trap`.
Which trap clears the deferred-loss latch, and BADADDR without an address, are readings (log entry 46). -/
def Obligations.Traps : Prop :=
  ((∀ (s : State) (c x cause mask : Nat) (bad : Option Word),
     let y := s.cx c x
     let t := s.trap c x cause mask bad
     let z := t.cx c x
     t.mem = s.mem ∧ t.accs = s.accs ∧ (Outside y → t.tasks = s.tasks) ∧ (∀ n, n ≠ x → t.cx c n = s.cx c n) ∧ (∀ d, d ≠ c → t.core d = s.core d) ∧ Returned s t c x ∧
     (∀ a, a ∈ (t.core c).armed ↔ a ∈ (s.core c).armed ∧ (a.que = true ∨ a.who ≠ x)) ∧
     (Outside y → t.escs = s.escs ∧
       (s.iss.stepping = false → Trapped y z cause mask bad) ∧
       (s.iss.stepping = true → z.stepTrap = true ∧ z.mode = false ∧ z.f0 = y.f0 ∧ z.f1 = y.f1 ∧ z.f2 = y.f2 ∧ z.f3 = y.f3 ∧
         TrapRegs y (({ z with mode := true } : Ctx).fetchFrom 0x3C000) cause mask bad)) ∧
     (¬ Outside y → z = { y.land y.inflight with inflight := [], st := .trapped, esc := some (true, cause), resv := none, newBudget := none } ∧
       t.escs = s.escs ++ [⟨"double trap", c, x, y.mode, y.hdl, cause, mask, y.f0, 0⟩] ∧ t.msix1 = s.msix1 + 1)) ∧
   ∀ (s : State) (home cause : Nat) (bad : Option Word) (ws : List Wait), Outside s.me → s.iss.stepping = false →
     let v := s.visible.me
     let t := s.faulted home cause bad
     let u := s.blocked ws
     (t.mem = s.mem ∧ t.iss.opened = false ∧ Trapped v t.me cause (2 ^ home) bad) ∧
     (ws = [.pipe] → u.me = { v with inflight := v.inflight.map fun r => { r with due := r.due - 1 } }) ∧
     (.pipe ∉ ws → ws ≠ [] → u.mem = s.mem ∧ u.me = { v with inflight := [], snap := v.snap ++ frozen v, st := .blocked, waits := ws })) ∧
  ((∀ (s : State) (code : Nat), s.Issues (fun _ => []) → s.iss.stepping = false →
     let v := s.visible.me
     let traps (i : Instr) (cause mask : Nat) (bad : Option Word) := ∃ t, exec i s = .next t ∧ t.mem = s.mem ∧ t.escs = s.escs ∧
       Trapped (advanced s v) t.me cause mask bad
     let bad := some (wordOf code)
     (Outside s.me → traps (.syscall code) 0x40 0x80 bad ∧ traps (.brk code) 0x1A 0x80 bad ∧ traps .handlerReturn 0x40 0x80 (some 0xFFFF) ∧
       ((v.ctl.get 0 0x0A).getLsbD 0 = true → traps .nop 0x19 0 none)) ∧
     (¬ Outside s.me → exec (.syscall code) s = .next (s.faulted 7 0x40 bad) ∧ exec (.brk code) s = .next (s.faulted 7 0x1A bad)) ∧
     (s.me.hdl = false → s.me.mode = true → exec .handlerReturn s = .next (s.faulted 7 0x40 (some 0xFFFF))) ∧
     ∃ t, exec (.trap code) s = .next t ∧ t.mem = s.mem ∧ t.me.st = .trapped ∧ t.me.esc = some (false, code) ∧ t.me.inflight = [] ∧
       t.me.mode = s.me.mode ∧ t.me.hdl = s.me.hdl ∧ t.me.s = v.s ∧ t.me.f0 = v.f1 ∧ t.me.f1 = v.f2 ∧ t.me.f2 = v.f3 ∧
       (let follows := Outside s.me ∧ (v.ctl.get 0 0x0A).getLsbD 0 = true
        (¬ follows → t.me.ctl = v.ctl ∧ t.me.stepTrap = s.me.stepTrap) ∧
        (follows → t.me.stepTrap = true ∧ ∀ n, t.me.ctl.get 0 n = if n = 6 then 0x19 else if n = 7 then 0 else if n = 8 then wordOf v.f1 else v.ctl.get 0 n)) ∧
       (Outside s.me → t.me.snap = v.snap ++ frozen (advanced s v)) ∧
       t.escs = s.escs ++ [⟨"trap", s.iss.core, s.iss.ctx, s.me.mode, s.me.hdl, code, 0, v.f1, 0⟩] ∧ t.msix1 = s.msix1 + 1) ∧
   (∀ (s : State), s.Issues (fun _ => []) →
     let v := s.visible.me
     let frame (n : Nat) := v.ctl.get 0 n
     let goes (i : Instr) (P : State → Prop) := ∃ t, exec i s = .next t ∧ t.mem = s.mem ∧ t.escs = s.escs ∧ P t
     let at_ (t : State) (y : Ctx) := t.me = { y with f0 := t.me.f0, f1 := t.me.f1, f2 := t.me.f2, f3 := t.me.f3, ctl := t.me.ctl }
     (s.me.hdl = true → v.inflight ≠ [] → exec .handlerReturn s = .next (s.blocked [.pipe])) ∧
     (s.me.hdl = true → v.inflight = [] → v.frame.pc < 2 ^ 64 → goes .handlerReturn fun t =>
       at_ t { advanced s v with hdl := false, nfq := v.frame.nfq, fq1 := v.frame.fq1, fq2 := v.frame.fq2, fq3 := v.frame.fq3 } ∧
       Resumes t.me v.frame.pc v.frame.nfq v.frame.fq1 v.frame.fq2 v.frame.fq3 ∧
       ∀ n, t.me.ctl.get 0 n = if n = 6 then wordOf v.frame.cause else if n = 7 then wordOf v.frame.mask else if n = 8 then wordOf v.frame.pc
         else if n = 9 then v.frame.bad else v.ctl.get 0 n) ∧
     (s.me.mode = false → exec .rte s = .next (s.faulted 7 4 none) ∧ exec .upcall s = .next (s.faulted 7 4 none)) ∧
     (s.me.mode = true → v.inflight ≠ [] → exec .rte s = .next (s.blocked [.pipe]) ∧ exec .upcall s = .next (s.blocked [.pipe])) ∧
     (s.me.mode = true → v.inflight = [] →
       (goes .rte fun t => at_ t { advanced s v with mode := false } ∧ t.me.ctl = v.ctl ∧ Resumes t.me (frame 8).toNat v.nfq v.fq1 v.fq2 v.fq3) ∧
       ((frame 0x12).getLsbD 63 = false → exec .upcall s = .next (s.faulted 7 3 none)) ∧
       ((frame 0x12).getLsbD 63 = true → goes .upcall fun t => t.me.ctl = v.ctl ∧
         at_ t { advanced s v with mode := false, hdl := true,
                                   frame := ⟨(frame 6).toNat, (frame 7).toNat, (frame 8).toNat, frame 9, v.nfq, v.fq1, v.fq2, v.fq3⟩ } ∧
         Resumes t.me (field 0 18 (frame 0x12).toNat) 0 0 0 0))) ∧
   ∀ s : State, s.iss.opened = true → s.iss.words ≠ 1 →
     (∀ i ∈ [Instr.rte, .upcall], exec i s = .next (s.verdict (.decode 3))) ∧
     (s.me.hdl = true → exec .handlerReturn s = .next (s.verdict (.decode 3))))

/-- R310, R313, R314, R219, R329 to R332, R344, R92: the events of a context that stands. A guidon and a `ctxfrz` freeze it, or leave the WATCH cause with
an owner; a pending cause is taken before its next bundle; a block ends when nothing holds it any longer; a `step` reports what it did.
When XFAULT is filled is deduced (log entry 33). -/
def Obligations.ContextEvents : Prop :=
  ∀ (s : State) (c x : Nat),
    let y := s.cx c x
    let core := s.core c
    (∀ id n due, due ≤ s.cycle →
      s.msgs.find? (fun m => match m.msg with | .freeze c' x' d => decide (c' = c ∧ x' = x ∧ d ≤ s.cycle) | _ => false) = some ⟨id, n, .freeze c x due⟩ →
      ∃ t, exec (.freezeArrive c x) s = .next t ∧ t.mem = s.mem ∧ t.msgs = (without id s).msgs ∧ (Live y → Frozen y (t.cx c x)) ∧ (¬ Live y → t.cx c x = y)) ∧
    (∀ id n h due own, due ≤ s.cycle →
      s.msgs.find? (fun m => match m.msg with | .guidon c' x' _ d _ => decide (c' = c ∧ x' = x ∧ d ≤ s.cycle) | _ => false) =
        some ⟨id, n, .guidon c x h due own⟩ →
      let skid := wordOf (y.commits.countP fun t => decide (h < t ∧ t < due))
      ∃ t, exec (.guidonArrive c x) s = .next t ∧ t.mem = s.mem ∧ t.msgs = (without id s).msgs ∧
        (own = none → Live y → Frozen { y with ctl := (t.cx c x).ctl } (t.cx c x) ∧ ∀ k, (t.cx c x).ctl.get 0 k = if k = 0x14 then skid else y.ctl.get 0 k) ∧
        (own = none → ¬ Live y → t.cx c x = y) ∧
        (own ≠ none → y.st ∈ [CState.free, .done, .cancelled] → t.cx c x = y ∧ t.escs = s.escs) ∧
        (own ≠ none → y.st ∈ [CState.trapped, .saved] → t.cx c x = y ∧ t.escs.length = s.escs.length + 1) ∧
        (own ≠ none → y.st ∉ [CState.free, .done, .cancelled, .trapped, .saved] → ∃ w, (t.cx c x).watch = some w ∧ (t.cx c x).st = y.st ∧
          (y.st = .frozen → (t.cx c x).ctl = y.ctl) ∧
          (y.st ≠ .frozen → ∀ k, (t.cx c x).ctl.get 0 k = if k = 0x14 then skid else y.ctl.get 0 k) ∧
          let hits (p : Watch) := p.st = 2 ∧ p.owner = x ∧ (p.hitAt = h ∨ y.watch = some (wordOf p.addr))
          ∀ before e after, core.wps = before ++ e :: after → (∀ b ∈ before, ¬ hits b.2) → hits e.2 → w = wordOf e.2.addr)) ∧
    (let free := y.st = .blocked ∧ ¬ (Live y ∧ (y.killNext = true ∨ (y.canreq = true ∧ Outside y ∧ (y.stopNext = true ∨ y.st = .blocked)))) ∧
       ((y.budgetCause = true ∧ Outside y) ∨ ∀ w ∈ y.waits, s.holds c x w = false)
     (free → exec (.contextUnblock c x) s = .next (s.updCx c x fun y => { y with st := .ready, readyAt := s.cycle })) ∧
     (¬ free → exec (.contextUnblock c x) s = .next s)) ∧
    (let pending := y.stepTrap = true ∨ (Outside y ∧ (y.watch ≠ none ∨ y.xfaults ≠ [] ∨ y.budgetCause = true))
     let turn := s.canIssue c = true ∧ core.stepping = none ∧ core.pick s.cycle = some x
     (¬ (turn ∧ pending) → exec (.trapEntry c x) s = .next s) ∧
     (turn → pending → s.iss.stepping = false → ∃ t, exec (.trapEntry c x) s = .next t ∧ t.mem = s.mem ∧
       let z := t.cx c x
       z.st = .running ∧ z.inflight = [] ∧ z.s = y.s ∧ z.p = y.p ∧ z.v = y.v ∧
       (y.stepTrap = true → z.mode = true ∧ z.f0 = 0x3C000 ∧ z.ctl = y.ctl ∧ z.stepTrap = false) ∧
       (y.stepTrap = false →
         (∀ a, y.watch = some a → TrapRegs y z 0x18 0 (some a) ∧ z.watch = none) ∧
         (∀ f r, y.watch = none → y.xfaults = f :: r → f.hreg < 16 → f.cause < 256 → f.xpc < 2 ^ 18 → TrapRegs y z f.cause 0x40 (some f.va) ∧ z.xfaults = r ∧
           ((t.core c).xfault.get 0 x).toNat = 2 ^ 63 + f.hreg * 2 ^ 48 + f.cause * 2 ^ 40 + (if f.pois then 2 ^ 39 else 0) + f.xpc) ∧
         (y.watch = none → y.xfaults = [] → TrapRegs y z 0x28 0 none ∧ z.budgetCause = false)))) ∧
    (∀ c' x' n r, y.st = .frozen → y.stepper = some (c', x', n, r) → y.resv = none →
      let answers (t : State) (b : Bool) := t.lands = s.lands ++ [⟨s.ids, c', x', n, r, .val (.b b), false⟩] ∧ t.mem = s.mem ∧ t.iss.stepping = false ∧
        (t.cx c x).st = .frozen ∧ (t.cx c x).stepper = none
      (y.stepTrap = true ∨ y.watch ≠ none ∨ y.xfaults ≠ [] ∨ y.budgetCause = true →
        ∃ t, stepCtx c x s = .next t ∧ answers t false ∧ (t.cx c x).step = y.step ∧ (t.cx c x).f0 = y.f0) ∧
      (Outside y → y.stepTrap = false → y.watch = none → y.xfaults = [] → y.budgetCause = false → y.syncHold = none → (∀ e ∈ y.pend, e.1 ≠ .p 0) →
        (y.ctl.get 0 0x0A).getLsbD 0 = false → (∀ e ∈ y.snap, e.reg ≠ .ctl 0x0A) → y.inflight = [] → s.fetchOk c x = true → (∀ i < 8, core.slotWord y.f0 i = 0) →
        ∃ t, stepCtx c x s = .next t ∧ answers t true ∧ (t.cx c x).step = y.step + 1 ∧ (t.cx c x).f0 = y.f1))

/-- R326 to R332, R66, R335: the instructions that freeze, run and step a context and that arm watchpoints, in RUNTIME mode alone; a hit of a
watchpoint is recorded once and sends its guidon.
The answers during a `step` are deduced (log entry 37). -/
def Obligations.DebugInstructions : Prop :=
  (∀ (s : State) (pd a n kinds dsel : Nat), s.me.mode = false → s.iss.opened = false →
    ∀ i ∈ [Instr.ctxfrz pd a, .ctxrun pd a, .step pd a, .wset n a kinds dsel, .wclr n], exec i s = .next (s.faulted 7 4 none)) ∧
  (∀ (s : State) (pd a : Nat), s.me.mode = true → s.Issues (fun x => [x.sReg a, x.pReg pd]) →
    let u := s.visible.rs a
    let w := u.val.toNat
    let d := field 32 7 w
    let z := field 0 2 w
    let y := s.cx d z
    let still := y.st = .frozen ∧ y.stepper = none
    let set (f : State → Ctx → Ctx) (t : State) := t.updCx d z (f t)
    (u.poison = true → ∀ i ∈ [Instr.ctxfrz pd a, .ctxrun pd a, .step pd a], exec i s = .next (s.faulted 7 0x10 none)) ∧
    (u.poison = false → (field 2 30 w ≠ 0 ∨ field 39 25 w ≠ 0) →
      ∀ i ∈ [Instr.ctxfrz pd a, .ctxrun pd a, .step pd a], exec i s = .next (s.faulted 7 3 (some u.val))) ∧
    (u.poison = false → field 2 30 w = 0 → field 39 25 w = 0 →
      (Live y → exec (.ctxfrz pd a) s = .next (s.done 7 fun t => (t.sendMsg (.freeze d z (t.cycle + distance s.iss.core d))).emitP pd true)) ∧
      (¬ Live y → exec (.ctxfrz pd a) s = .next (s.done 7 fun t => t.emitP pd false)) ∧
      (still → exec (.ctxrun pd a) s = .next (s.done 7 fun t => (set (fun t y => { y with st := .ready, readyAt := t.cycle }) t).emitP pd true)) ∧
      (¬ still → exec (.ctxrun pd a) s = .next (s.done 7 fun t => t.emitP pd false)) ∧
      (still → exec (.step pd a) s = .next (s.done 7 fun t =>
        (set (fun t y => { y with stepper := some (t.iss.core, t.iss.ctx, t.me.step, t.me.pReg pd) }) t).mark [t.me.pReg pd])) ∧
      (¬ still → exec (.step pd a) s = .next (s.done 7 fun t => t.emitP pd false)))) ∧
  (∀ (s : State) (n a kinds dsel : Nat) (k : Task), s.me.mode = true → s.myTask = some k →
    let u := s.visible.rs a
    let put (w : Watch) (t : State) := t.updMyCore fun k => { k with wps := k.wps.put {} n w }
    (s.Issues (fun x => [x.sReg a]) →
      (u.poison = true → exec (.wset n a kinds dsel) s = .next (s.faulted 7 0x10 none)) ∧
      (u.poison = false → (∀ sp ad, ¬ Watched s.iss.core u.val sp ad) → exec (.wset n a kinds dsel) s = .next (s.faulted 7 3 (some u.val))) ∧
      ∀ sp ad, u.poison = false → Watched s.iss.core u.val sp ad → exec (.wset n a kinds dsel) s = .next (s.done 7
        (put { st := 1, owner := s.iss.ctx, sp := sp, kinds := kinds, dsel := dsel, addr := ad, launch := k.launch }))) ∧
    (s.Issues (fun _ => []) → exec (.wclr n) s = .next (s.done 7 (put { s.myCore.wps.get {} n with st := 0 })))) ∧
  ∀ (s : State) (o lo hi kind n : Nat) (sp : Bool) (ag : Agent), kind ∈ [1, 2, 4] →
    let w := (s.core o).wps.get {} n
    let meets := w.sp = sp ∧ lo < w.addr + 8 ∧ w.addr < hi ∧ w.kinds.testBit (kind / 2) = true
    let t := s.watchOne o sp lo hi kind ag n
    (¬ meets ∨ w.st = 0 → t = s) ∧
    (meets → w.st = 1 → t.mem = s.mem ∧ (∀ m, m ≠ n → (t.core o).wps.get {} m = (s.core o).wps.get {} m) ∧
      (let v := (t.core o).wps.get {} n
       v = { w with st := 2, hitAt := s.cycle, hit := v.hit } ∧
       ∀ code core unit, agentOf ag = (code, core, unit) → core < 128 → unit < 4 →
         let f (lo len : Nat) := field lo len v.hit.toNat
         f 60 4 = code ∧ f 58 2 = kind / 2 ∧ f 57 1 = 0 ∧ f 50 7 = core ∧ f 48 2 = unit ∧ f 0 48 = s.now / 36 % 2 ^ 48) ∧
      (∃ e ∈ t.msgs, e.msg = .guidon o w.owner s.cycle (s.cycle + 2) (some (wordOf w.addr))) ∧
      ∀ d x, Chosen s o w d x → x < 4 → w.owner < 4 → ¬ (d = o ∧ x = w.owner) → ∃ e ∈ t.msgs, e.msg = .guidon d x s.cycle (s.cycle + distance o d) none)

/-- R185, R193, R194, R373, R385, R68, R70: `fence` and `drain` hold until the accesses before them have performed and report a deferred loss; `ccp` is a
cancellation point; a vendor diagnostic word runs in RUNTIME mode with DIAG alone, and what lands in its scalar is not specified. -/
def Obligations.FencesAndHints : Prop :=
  (∀ (s : State) (sc : Scope), s.Issues (fun _ => []) →
    let mine (a : Access) := a.core = s.iss.core ∧ a.ctx = s.iss.ctx ∧ a.step < s.me.step
    let far (a : Access) := a.near = false ∧ ((∃ p, a.place = .phys p) ∨ a.send = true)
    let commits (t : State) := t.mem = s.mem ∧ t.accs = s.accs ∧ t.lands = s.lands ∧ t.me.step = s.me.step + 1 ∧ t.me.dloss = s.me.dloss ∧
      ∀ n, n ≠ s.iss.ctx → t.cx s.iss.core n = s.cx s.iss.core n
    ((∀ a ∈ s.accs, ¬ mine a) → s.me.dloss = none → ∃ t, exec (.fence sc) s = .next t ∧ t = s.done 7 id ∧ commits t) ∧
    ((∀ a ∈ s.accs, ¬ mine a) → ∀ v, s.me.dloss = some v → exec (.fence sc) s = .next (s.faulted 7 0x0D (some v))) ∧
    ((∃ a ∈ s.accs, mine a) → exec (.fence sc) s = .next (s.blocked [.earlier false])) ∧
    ((∀ a ∈ s.accs, mine a → ¬ far a) → s.me.dloss = none → ∃ t, exec .drain s = .next t ∧ t = s.done 7 id ∧ commits t) ∧
    ((∀ a ∈ s.accs, mine a → ¬ far a) → ∀ v, s.me.dloss = some v → exec .drain s = .next (s.faulted 7 0x0D (some v))) ∧
    ((∃ a ∈ s.accs, mine a ∧ far a) → exec .drain s = .next (s.blocked [.earlier true])) ∧
    (∃ t, exec .ccp s = .next t ∧ t = s.done 7 State.cancelPoint ∧ commits t ∧
      (s.me.canreq = true → Outside s.me → s.iss.stepping = false → t.me.stopNext = true) ∧
      (¬ (s.me.canreq = true ∧ Outside s.me) → t.me.stopNext = s.me.stopNext))) ∧
  ∀ (s : State) (opc d rest : Nat),
    (s.iss.opened = false → (s.visible.me.mode = false ∨ s.visible.me.diag = false) → exec (.vendorDiagnostic opc d rest) s = .next (s.faulted 0 1 none)) ∧
    (s.visible.me.mode = true → s.visible.me.diag = true → s.Issues (fun x => [x.sReg d]) → ∃ (t : State) (w : Word) (id : Nat),
      exec (.vendorDiagnostic opc d rest) s = .next t ∧ t.mem = s.mem ∧ t.accs = s.accs ∧ t.me.step = s.me.step + 1 ∧ t.me.s = s.visible.me.s ∧
      t.lands = s.lands ++ [⟨id, s.iss.core, s.iss.ctx, s.me.step, s.visible.me.sReg d, .val (.w w), false⟩] ∧
      (d ≠ 0 → (s.visible.me.sReg d, s.me.step) ∈ t.me.pend) ∧ ∀ n, n ≠ s.iss.ctx → t.cx s.iss.core n = s.cx s.iss.core n)

/-! ## The bundle -/

/-- R76, R81, R86, R378: a bundle whose slots only put results in flight changes nothing else when it commits: no memory, no access, no other context, no
other core; its own context keeps its registers, its step and its fetch sequence advance, and the work of its task counts one bundle.
R64, R81, R83: the results that are due become visible: a register without one keeps its value, of several the last in the order of
R83 stands, with its poison bit, and FLAGS takes the flags of all of them; the others stay in flight.
That results land at the issue of their step is deduced (log entry 42). -/
def Obligations.ResultsAtIssue : Prop :=
  (∀ (s : State) (home : Nat) (rs : List (RegId × RVal × Nat × Bool × FlagBits)), s.NoStep →
     let v := s.visible.me
     let t := s.done home fun u => rs.foldl (fun u r => u.emit r.1 r.2.1 r.2.2.1 r.2.2.2.1 r.2.2.2.2) u
     t.mem = s.mem ∧ t.host = s.host ∧ t.poison = s.poison ∧ t.empty = s.empty ∧ t.accs = s.accs ∧ t.msgs = s.msgs ∧ t.escs = s.escs ∧
     (∀ d, d ≠ s.iss.core → t.core d = s.core d) ∧ (∀ n, n ≠ s.iss.ctx → t.cx s.iss.core n = s.cx s.iss.core n) ∧
     { t.core s.iss.core with ctx := [] } = { s.core s.iss.core with ctx := [] } ∧
     t.me = { advanced s v with
       inflight := v.inflight ++ rs.map fun r => ⟨r.1, r.2.1, r.2.2.2.1, r.2.2.2.2, v.step + r.2.2.1, home, v.step, v.pstep⟩ } ∧
     (∀ n k, v.task = some n → s.visible.tasks.get none n = some k →
       t.tasks.get none n = some { k with cw0 := if s.me.mode then k.cw0 else min (k.cw0 + 1) (2 ^ 64 - 1) }) ∧
     ∀ n, v.task ≠ some n → t.tasks.get none n = s.tasks.get none n) ∧
  (∀ x : Ctx,
     let due (r : Res) := r ∈ x.inflight ∧ r.due ≤ x.step
     let last (r : Res) := due r ∧ ∀ q, due q → q.reg = r.reg → q ≠ r →
       q.due < r.due ∨ (q.due = r.due ∧ (q.slot < r.slot ∨ (q.slot = r.slot ∧ q.seq < r.seq)))
     let y := x.settle
     y.inflight = x.inflight.filter (fun r => decide (x.step < r.due)) ∧ y.step = x.step ∧ y.pend = x.pend ∧ y.f0 = x.f0 ∧
     (∀ n, (∀ r, due r → r.reg ≠ .s n) → y.s.get {} n = x.s.get {} n) ∧ (∀ n, (∀ r, due r → r.reg ≠ .p n) → y.p.get false n = x.p.get false n) ∧
     (∀ n, (∀ r, due r → r.reg ≠ .v n) → y.v.get {} n = x.v.get {} n) ∧
     (∀ n, (∀ r, due r → r.reg ≠ .k n) → y.k.get (BitVec.allOnes 256) n = x.k.get (BitVec.allOnes 256) n) ∧
     (∀ r, last r →
       (∀ n w, n ≠ 0 → r.reg = .s n → r.val = .w w → y.s.get {} n = ⟨w, r.poison⟩) ∧ (∀ n b, n ≠ 0 → r.reg = .p n → r.val = .b b → y.p.get false n = b) ∧
       (∀ n w, r.reg = .v n → r.val = .v w → y.v.get {} n = ⟨w, r.poison⟩) ∧
       (∀ n w, n ≠ 0 → r.reg = .k n → r.val = .k w → y.k.get (BitVec.allOnes 256) n = w) ∧ (∀ n h, r.reg = .h n → r.val = .h h → y.h.get {} n = h) ∧
       (∀ n w, n ≠ 0 → n ≠ 1 → n ≠ 0x13 → r.reg = .ctl n → r.val = .w w → y.ctl.get 0 n = w) ∧
       (∀ w, r.reg = .ctl 0x13 → r.val = .w w → y.newBudget = some w) ∧ (∀ n w, r.reg = .sR n → r.val = .w w → y.sR.get {} n = ⟨w, r.poison⟩) ∧
       ∀ n b, r.reg = .pR n → r.val = .b b → y.pR.get false n = b) ∧
     ((∀ r, due r → r.reg ≠ .ctl 1) → ∀ b < 5, (y.ctl.get 0 1).getLsbD b = true ↔
       (x.ctl.get 0 1).getLsbD b = true ∨ ∃ r, due r ∧ r.flags.getLsbD b = true))

/-! ## Kernels, launches and the scheduler -/

/-- R351, R185, R339, R343: `kdone` and `kfail` end their context as `drain` holds and checks them, `kfail` fails the launch and kills every other
context of it; `kbudget` sets the estimate of the task; `klaunch` enters a record and writes whether its queue accepted it. -/
def Obligations.KernelInstructions : Prop :=
  (∀ (s : State) (retry : Bool), s.Issues (fun _ => []) →
    let mine (a : Access) := a.core = s.iss.core ∧ a.ctx = s.iss.ctx ∧ a.step < s.me.step
    let far (a : Access) := a.near = false ∧ ((∃ p, a.place = .phys p) ∨ a.send = true)
    ((∃ a ∈ s.accs, mine a ∧ far a) → ∀ i ∈ [Instr.kdone, .kfail retry], exec i s = .next (s.blocked [.earlier true])) ∧
    ((∀ a ∈ s.accs, mine a → ¬ far a) →
      (∀ v, s.me.dloss = some v → ∀ i ∈ [Instr.kdone, .kfail retry], exec i s = .next (s.faulted 7 0x0D (some v))) ∧
      (s.me.dloss = none →
        (∃ t, exec .kdone s = .next t ∧ EndsDone s t ∧ t.accs = s.accs ∧ t.launches = s.launches ∧
          (∀ x, x ≠ s.iss.ctx → t.cx s.iss.core x = s.cx s.iss.core x) ∧ ∀ c, c ≠ s.iss.core → t.core c = s.core c) ∧
        ∀ k l, s.myTask = some k → s.launches.get none k.launch = some l → ∃ t, exec (.kfail retry) s = .next t ∧ EndsDone s t ∧
          t.launches.get none k.launch = some { l with failed := true, retry := retry } ∧
          ∀ e ∈ s.tasks, ∀ j, e.2 = some j → j.launch = k.launch → j.freed = false → j.saved = false → j.saving = false → ∀ x ∈ j.ctxs,
            ¬ (j.core = s.iss.core ∧ x = s.iss.ctx) →
            let y := s.cx j.core x
            let z := t.cx j.core x
            (Live y → z.st = y.st ∧ z.killNext = true) ∧ (y.st ∈ [CState.loaded, .trapped, .frozen, .saved] → z.st = .cancelled) ∧
            (y.st ∈ [CState.done, .cancelled] → z.st = y.st)))) ∧
  (∀ (s : State) (a n : Nat) (k : Task), s.Issues (fun x => [x.sReg a]) → s.me.task = some n → s.tasks.get none n = some k →
    let v := s.visible.rs a
    (v.poison = true → exec (.kbudget a) s = .next (s.faulted 7 0x10 none)) ∧
    (v.poison = false → field 48 16 v.val.toNat ≠ 0 → exec (.kbudget a) s = .next (s.faulted 7 3 (some v.val))) ∧
    (v.poison = false → field 48 16 v.val.toNat = 0 →
      exec (.kbudget a) s = .next (s.done 7 fun t => t.updTask n fun k => { k with est := v.val.toNat, estAt := s.cycle }))) ∧
  ∀ (s : State) (pd a lq : Nat) (k : Task) (l : Launch), s.Issues (fun x => [x.sReg a, x.sReg (a + 1), x.sReg (a + 2), x.sReg (a + 3), x.pReg pd]) →
    s.myTask = some k → s.launches.get none k.launch = some l →
    let v (i : Nat) := s.visible.rs (a + i)
    let w := (v 0).val
    let earlier (u : Access) := u.core = s.iss.core ∧ u.ctx = s.iss.ctx ∧ u.step < s.me.step
    let clean := ∀ i < 4, (v i).poison = false
    let good := Word0 w ∧ field 49 3 w.toNat ≤ l.cls
    ((∃ u ∈ s.accs, earlier u) → exec (.klaunch pd a lq) s = .next (s.blocked [.earlier false])) ∧
    ((∀ u ∈ s.accs, ¬ earlier u) →
      (¬ clean → exec (.klaunch pd a lq) s = .next (s.faulted 6 0x10 none)) ∧
      (clean → ¬ good → exec (.klaunch pd a lq) s = .next (s.faulted 6 3 (some w))) ∧
      (clean → good → ∃ u ok,
        Enters (s.opened 6) u lq ([w, (v 1).val, (v 2).val, (v 3).val, (l.words[4]?).getD 0, (l.words[5]?).getD 0] ++ List.replicate 10 0) ok ∧
        exec (.klaunch pd a lq) s = .next (s.done 6 fun _ =>
          ((u.addLand s.iss.core s.iss.ctx s.me.step (u.me.pReg pd) (.val (.b ok))).mark [u.me.pReg pd]).cancelPoint)))

/-- R243, R245 to R248, R202, R426: a write of the launch aperture, the arrival of its record at the queue, and the write of the oldest completion
record into the ring.
Which records the holding buffer takes beyond 512 is deduced (log entry 39). -/
def Obligations.LaunchQueuesAndRing : Prop :=
  (∀ (s : State) (off size : Nat) (words : List Word),
    let q := off / 0x1000
    let whole := size = 128 ∧ off % 128 = 0
    (q < 32 → whole → words.length = 16 →
      exec (.launchRecordWrite off size words) s = .next ({ s with aperture := s.aperture ++ [(q, words)] } : State)) ∧
    (q < 32 → ¬ whole → ∃ t, exec (.launchRecordWrite off size words) s = .next t ∧ t = { s with lqs := t.lqs } ∧
      ∀ k, t.lqs.get {} k = if k = q then { s.lqs.get {} q with refused := ((s.lqs.get {} q).refused + 1) % 2 ^ 16 } else s.lqs.get {} k) ∧
    (32 ≤ q → exec (.launchRecordWrite off size words) s = .next s)) ∧
  (∀ (s : State) (q : Nat) (l : List Word) (r : List (Nat × List Word)),
    (s.aperture = (q, l) :: r → ∃ t ok, exec .launchRecordAccept s = .next t ∧ Enters ({ s with aperture := r } : State) t q l ok) ∧
    (s.aperture = [] → exec .launchRecordAccept s = .next s)) ∧
  ∀ (s : State),
    let n := ringEntries s
    let i := s.crHead
    let room := s.crEn = true ∧ (s.crHead + 2 ^ 32 - s.crTail) % 2 ^ 32 < n
    ((s.holding = [] ∨ ¬ room) → exec .completionRecordWrite s = .next s) ∧
    ∀ r rest w ws, s.holding = r :: rest → room → r.words = w :: ws → ws.length = 15 → ∃ t, exec .completionRecordWrite s = .next t ∧
      t.mem = s.mem ∧ t.holding = rest ∧ t.crHead = (i + 1) % 2 ^ 32 ∧ t.msix0 = (if s.crTail = i then s.msix0 + 1 else s.msix0) ∧
      (let p := field 12 52 s.crBase.toNat * 2 ^ 12 + i % n * 128
       number 8 (fun j => t.host.get 0 (p + j)) = field 0 63 w.toNat + (if i / n % 2 = 0 then 2 ^ 63 else 0) ∧
       (∀ k < 15, number 8 (fun j => t.host.get 0 (p + 8 * (k + 1) + j)) = ((ws[k]?).getD 0).toNat) ∧
       ∀ a, (a < p ∨ p + 128 ≤ a) → t.host.get 0 a = s.host.get 0 a) ∧
      (r.cmd = none → t.cores = s.cores) ∧
      ∀ c id, r.cmd = some (c, id) → ∀ m ∈ cmdsOf s c 7, m.id = id → { m with st := 2, unchecked := false, batch := none, status := 0, detail := 0, prog := 0 } ∈ cmdsOf t c 7

/-- R336 to R343, R245, R349, R350: the scheduler's turn with the first record that waits. A record that breaks its layout or names an image that the
loader refuses ends with ILLEGAL_FIELD, an input copy outside the declared banks with SCRATCH_RANGE; a record of one task is placed on the nearest
core with room. That contexts, tiles and text take the lowest free place is the model's choice where the specification names none (log entry 16).
R349, R350, R343: a preload brings the text of the record that is next on a core into the shadow and its banks into the scratchpad, where no task
of the core declares them. -/
def Obligations.DispatchAndPreloading : Prop :=
  ((∀ s : State,
     (s.ktBase.getLsbD 0 = false ∨ 512 ≤ s.holding.length ∨ s.mg.power ∈ [Power.off, .standby, .idle] ∨ s.mg.capHold = true ∨ (∀ e ∈ s.lqs, e.2.recs = [])) →
       exec .dispatch s = .next s) ∧
   ∀ (s : State) (r : Record), Turns s r → r.resume = none →
     let kid := r0 r 52 12
     let ends (cause : Nat) := ∃ t, exec .dispatch s = .next t ∧ Dequeued s t r ∧
       t = { s with lqs := t.lqs, holding := s.holding ++ [unrun r 1 cause], escs := t.escs, msix1 := t.msix1 }
     ((¬ RecordOk r ∨ ∀ m, ¬ ImageAt s kid m) → ends 3) ∧
     ∀ m f p, RecordOk r → ImageAt s kid m → r0 r 39 1 = 0 → r0 r 16 9 = 1 → r0 r 8 8 = 0xFF →
       Preferred s r (fun c => ∃ q, Room s c m none [] q) f → FirstPlace s f m [] p →
       let inside := ∀ i o, Covers r i o → o < 2 ^ 23 ∧ m.banks.testBit (o / 2 ^ 21) = true
       (¬ inside → ends 0x30) ∧
       (inside → (∀ i, copyValid r i → ∀ o < lengthOf r i, ∃ q, Reads s r (recordWord r (6 + 2 * i) + wordOf o) q) →
         s.memWf = true → Tidy (s.core p.core) → ∃ t, exec .dispatch s = .next t ∧ Placed s t r m p)) ∧
  (∀ (s : State) (c lq seq f : Nat) (r : Record) (m : Image) (p : Spot) (gone : List Nat), First s r → r.lq = lq → r.seq = seq → r.resume = none →
     RecordOk r → ImageAt s (r0 r 52 12) m → r0 r 39 1 = 0 → r0 r 16 9 = 1 → r0 r 8 8 = 0xFF →
     (∀ n, n ∈ gone ↔ ∃ k, (n, some k) ∈ s.tasks ∧ k.core = c ∧ k.freed = false ∧ k.saved = false) →
     Preferred s r (fun d => ∃ q, Room s d m none gone q) f → FirstPlace s f m gone p → p.core = c →
     let may := s.preload = true ∧ s.mg.power ∈ [Power.a0, .a1, .a2, .a3] ∧ s.mg.capHold = false ∧ s.ktBase.getLsbD 0 = true ∧ (s.core c).inReset = false ∧
       c < 128 ∧ ∀ k, Holder s c [] k → k.img.banks &&& m.banks = 0
     (¬ may → exec (.preload c lq seq) s = .next s) ∧
     (may → s.memWf = true → Tidy (s.core c) → (∀ i o, Covers r i o → o < 2 ^ 23 ∧ m.banks.testBit (o / 2 ^ 21) = true) →
       (∀ i, copyValid r i → ∀ o < lengthOf r i, ∃ q, Reads s r (recordWord r (6 + 2 * i) + wordOf o) q) →
       ∃ t, exec (.preload c lq seq) s = .next t ∧ t.mem = s.mem ∧ t.lqs = s.lqs ∧ t.tasks = s.tasks ∧ (∀ d, d ≠ c → t.core d = s.core d) ∧
         (t.core c).ctx = (s.core c).ctx ∧ (t.core c).imem = (s.core c).imem ∧
         (t.core c).pre = some { lq := r.lq, seq := r.seq, banks := m.banks } ∧ BanksLoaded s r m (s.core c) (t.core c) ∧
         ∀ i, (t.core c).shadow.get 0 i = if i < m.textLen then s.mem.get 0 (m.base + m.textOff + i) else 0))

/-- R345, R346, R367: with PREEMPT = 1, a record of one task that finds no room takes the first candidate whose resources are enough: it is drained,
checkpointed or killed. With PREEMPT = 0 it waits.
The order of placement and the end of a killed task are readings (log entries 39 and 46). -/
def Obligations.Preemption : Prop :=
  ∀ (s : State) (r : Record) (m : Image) (f : Nat), Turns s r → r.resume = none → RecordOk r → ImageAt s (r0 r 52 12) m →
    r0 r 39 1 = 0 → r0 r 16 9 = 1 → r0 r 8 8 = 0xFF → Preferred s r (fun _ => False) f → (∀ c p, ¬ Room s c m none [] p) →
    (s.preempt = false → (∀ e ∈ s.lqs, ∀ r' ∈ e.2.recs, r' = r) → exec .dispatch s = .next s) ∧
    ∀ n k l, s.preempt = true → FirstVictim s r f n k l → (∃ c < 128, ∃ p, Room s c m none [n] p) → s.tasks.get none n = some k →
      (∀ e ∈ s.tasks, e.1 = n → e.2 = some k) →
      let y (x : Nat) := s.cx k.core x
      let gone (x : Nat) := (y x).st ∈ [CState.done, .cancelled]
      k.ended = false → k.saving = false → (∃ x ∈ k.ctxs, ¬ gone x) → r.seq ∉ k.drain →
      let rem := k.est - (s.cycle - k.estAt)
      let savable := k.img.ckpt = true ∧ k.sib = none ∧ ∀ x ∈ k.ctxs,
        ((s.core k.core).ctxsave.get 0 x).getLsbD 0 = true ∧ (y x).mode = false ∧ (y x).hdl = false ∧ (y x).st ≠ .trapped ∧ (y x).st ≠ .frozen
      (rem ≤ s.drainThr → ∃ t, exec .dispatch s = .next t ∧
        t = { s.updTask n fun k => { k with drain := k.drain ++ [r.seq] } with escs := t.escs, msix1 := t.msix1 }) ∧
      (s.drainThr < rem → savable → ∃ t, exec .dispatch s = .next t ∧ t.mem = s.mem ∧
        t.tasks.get none n = some { k with saving := true, drain := [] } ∧
        (∀ x ∈ k.ctxs, (t.cx k.core x).held = true ∧ (t.cx k.core x).st ≠ .running) ∧
        ∀ q < 8, ∀ c ∈ cmdsOf t k.core q, c.task = n → c.hold = true) ∧
      (s.drainThr < rem → ¬ savable → ∃ t, exec .dispatch s = .next t ∧ t.mem = s.mem ∧
        (∀ x ∈ k.ctxs, ¬ gone x → (y x).st ≠ .free → (t.cx k.core x).st = .cancelled) ∧
        t.launches.get none k.launch = some { l with killed := true })

/-- R322 to R325, R345: the save of a task of one context with nothing under way, and its return: what the save blocks hold, and what is read
from them.
What the specification leaves open of a save block is read as log entries 27 and 38 say. -/
def Obligations.CheckpointAndResumption : Prop :=
  (∀ (s : State) (n : Nat) (k : Task), s.tasks.get none n = some k → k.saving = false → exec (.taskSave n) s = .next s) ∧
  (∀ (s : State) (n x : Nat) (k : Task) (l : Launch), s.tasks.get none n = some k → k.ctxs = [x] → k.saving = true → k.tiles = [] → k.img.tiles = 0 →
    k.img.semHi < 256 → s.launches.get none k.launch = some l → Still s k.core n →
    let y := s.cx k.core x
    let b := field 16 32 ((s.core k.core).ctxsave.get 0 x).toNat * 2 ^ 16
    (y.st = .done ∨ y.st = .cancelled ∨ (Outside y ∧ y.st ≠ .trapped ∧ y.st ≠ .frozen)) → y.pend = [] → (∀ e ∈ y.y, e.2.st ≠ 1 ∧ e.2.pend = false) →
      y.resv = none → Bounded y → s.memWf = true → (s.core k.core).spad.wf 0 = true → y.f0 < 2 ^ 64 →
    ∃ t k', exec (.taskSave n) s = .next t ∧ t.tasks.get none n = some k' ∧ k'.saved = true ∧ k'.saving = false ∧ k'.bases = [b] ∧
      (t.cx k.core x).st = (if y.st = .done ∨ y.st = .cancelled then y.st else .saved) ∧ (t.cx k.core x).s = y.s ∧
      (t.lqs.get {} l.lq).recs = { seq := l.seq, words := l.words, lq := l.lq, reruns := l.reruns, resume := some n } :: (s.lqs.get {} l.lq).recs ∧
      memNum t b 8 = y.f0 ∧
      (∀ i < 64, memNum t (b + 0x200 + 8 * i) 8 = (y.s.get {} i).val.toNat ∧ ((memNum t (b + 0x400) 8).testBit i = true ↔ (y.s.get {} i).poison = true)) ∧
      (∀ i < 64, memNum t (b + 0x6000 + 256 * i) 256 = (y.v.get {} i).val.toNat) ∧
      (k.budget < 2 ^ 64 → memNum t (b + 0x10000) 8 = k.budget) ∧
      (∀ o < 2 ^ 23, k.img.banks.testBit (o / 2 ^ 21) = true → t.mem.get 0 (b + 0x210000 + o) = (s.core k.core).spad.get 0 o) ∧
      ∀ a, (a < b ∨ b + 0xA10000 ≤ a) → t.mem.get 0 a = s.mem.get 0 a) ∧
  ∀ (s : State) (n b x : Nat) (k : Task) (l : Launch) (r : Record) (f : Nat) (p : Spot), Turns s r → r.resume = some n → s.tasks.get none n = some k →
    k.bases = [b] → k.ctxs = [x] → k.cmds = [] → k.tiles = [] → k.img.tiles = 0 → k.img.ctx = 1 → s.launches.get none k.launch = some l →
    (∀ e ∈ s.tasks, ∀ j, e.2 = some j → j.launch = k.launch → j = k ∨ j.freed = true) → k.freed = false → k.saved = true →
    Preferred s r (fun c => ∃ q, Room s c k.img (some k.tb) [] q) f →
    (p.core < 128 ∧ Room s p.core k.img (some k.tb) [] p ∧
      ∀ c < 128, c ≠ p.core → (∃ q, Room s c k.img (some k.tb) [] q) → Nearer f p.core c) →
    (s.poisoned b 0x150 = true → ∃ t, exec (.taskResume n) s = .next t ∧ t.mem = s.mem ∧ r ∉ (t.lqs.get {} r.lq).recs ∧
      (l.status = 0 → t.launches.get none k.launch = some { l with status := 1, cause := 0x10 })) ∧
    (s.poisoned b 0x150 = false → (∀ i < 16, (memNum s (b + 0x600 + 16 * i) 8).testBit 63 = false) →
      (∀ i < 64, (memNum s (b + 0x1000 + 8 * i) 8).testBit 36 = false) → s.memWf = true → Tidy (s.core p.core) →
      s.lostAt (b + 0x10000) = false →
      ∃ t k' z, exec (.taskResume n) s = .next t ∧ t.mem = s.mem ∧ Dequeued s t r ∧ t.tasks.get none n = some k' ∧ k'.saved = false ∧ k'.core = p.core ∧
        k'.ctxs = [z] ∧ p.ctxs = [z] ∧ k'.budget = memNum s (b + 0x10000) 8 ∧
        (let y := t.cx p.core z
         y.mode = false ∧ y.task = some n ∧ y.f0 = memNum s b 8 ∧ y.step = (s.cx p.core z).step + 128 ∧
         y.st = (if field 8 4 (memNum s (b + 0x10) 8) = 8 then .done else if field 8 4 (memNum s (b + 0x10) 8) = 9 then .cancelled else .ready) ∧
         ∀ i, 0 < i → i < 64 →
           y.s.get {} i = ⟨wordOf (memNum s (b + 0x200 + 8 * i) 8),
             (memNum s (b + 0x400) 8).testBit i || s.poisoned (b + 0x200 + 8 * i) 8⟩) ∧
        ∀ i < k.img.textLen, (t.core p.core).imem.get 0 (k.tb + i) = s.mem.get 0 (k.img.base + k.img.textOff + i))

/-- R344, R320, R346, R347, R348, R247, R310: the cause BUDGET, the answers of CTXCTL, the end of a task in its three stages and the end of its launch.
The cause that stands of several faults, and a winner beside a killed sibling, are readings (log entries 39 and 46). -/
def Obligations.TaskAndLaunchEnds : Prop :=
  (∀ (s : State) (n : Nat) (k : Task), s.tasks.get none n = some k →
    ((k.expired = false ∨ k.saved = true) → exec (.budgetExpiry n) s = .next s) ∧
    (k.expired = true → k.saved = false → ∃ t, exec (.budgetExpiry n) s = .next t ∧ t.mem = s.mem ∧ t.tasks.get none n = some { k with expired := false } ∧
      ∀ x ∈ k.ctxs, t.cx k.core x = if (s.cx k.core x).st ∈ [CState.done, .cancelled] then s.cx k.core x else { s.cx k.core x with budgetCause := true })) ∧
  (∀ (s : State) (c x : Nat),
    let y := s.cx c x
    let kills (i : Instr) (cause : Nat) := ∀ n k l, y.task = some n → s.tasks.get none n = some k → s.launches.get none k.launch = some l →
      k.saved = false → k.freed = false → k.saving = false → ∃ t, exec i s = .next t ∧ t.mem = s.mem ∧
        t.launches.get none k.launch = some (if l.status = 0 then { l with status := 1, cause := cause } else l) ∧
        ∀ z ∈ k.ctxs, (s.cx k.core z).st ∉ [CState.done, .cancelled, .free] → (t.cx k.core z).st = .cancelled
    (y.st ≠ .trapped → ∀ i ∈ [Instr.ctxctlResume c x, .ctxctlKill c x], exec i s = .next s) ∧
    (y.st = .trapped →
      (∀ code, y.esc = some (false, code) →
        exec (.ctxctlResume c x) s = .next (s.updCx c x fun y => { y with st := .ready, esc := none, readyAt := s.cycle }) ∧
        kills (.ctxctlKill c x) (code % 256)) ∧
      ∀ cause, y.esc = some (true, cause) → kills (.ctxctlResume c x) cause ∧ kills (.ctxctlKill c x) cause)) ∧
  ∀ (s : State) (n : Nat) (k : Task), s.tasks.get none n = some k →
    (k.ended = false →
      (¬ Ended s k → exec (.taskEnd n) s = .next s) ∧
      (Ended s k → ∃ t, exec (.taskEnd n) s = .next t ∧ t.mem = s.mem ∧ t.tasks.get none n = some { k with ended := true, saving := false } ∧
        ∀ q < 8, ∀ m ∈ cmdsOf s k.core q, m.ctx ∈ k.ctxs → m.st = 0 → ∃ m' ∈ cmdsOf t k.core q, m'.id = m.id ∧ m'.st = 2 ∧ m'.status = 2)) ∧
    (k.ended = true → k.freed = false →
      let quiet := (∀ a ∈ s.accs, ¬ (a.core = k.core ∧ a.ctx ∈ k.ctxs)) ∧ (∀ q < 8, ∀ m ∈ cmdsOf s k.core q, m.task ≠ n) ∧
        (∀ b ∈ s.beats, ¬ (b.core = k.core ∧ k.img.queues.testBit b.q = true)) ∧
        (∀ o ∈ (s.core k.core).mq, o.ctx ∉ k.ctxs) ∧ ∀ w ∈ (s.core k.core).pipe, w.tile ∉ k.tiles
      (¬ quiet → exec (.taskEnd n) s = .next s) ∧
      (quiet → k.ctxs.Nodup → ∃ t, exec (.taskEnd n) s = .next t ∧ t.mem = s.mem ∧ t.tasks.get none n = some { k with freed := true } ∧
        (∀ x ∈ k.ctxs, let y := s.cx k.core x
          t.cx k.core x = ({ step := y.step, sR := y.sR, pR := y.pR } : Ctx)) ∧
        (∀ q ∈ k.tiles, (t.core k.core).tiles.get {} q = {}) ∧
        ∀ l, s.launches.get none k.launch = some l → t.launches.get none k.launch =
          some (match l.status, k.ctxs.findSome? fun x => leftCause (s.cx k.core x) with | 0, some c => { l with status := 1, cause := c } | _, _ => l))) ∧
    ∀ l, k.ended = true → k.freed = true → s.launches.get none k.launch = some l →
      let finished := (∀ j ∈ l.tasks, ∀ u, s.tasks.get none j = some u → u.freed = true ∧ s.callsOpen j = false ∧ ∀ e ∈ s.pendCalls, e.2.task ≠ j) ∧
        ∀ b u, l.ballot = some b → s.ballots.get none b = some u → u.st = .closed
      (¬ finished → exec (.taskEnd n) s = .next s) ∧
      (finished → ∀ won, (won = true ↔ ∃ b u, l.ballot = some b ∧ s.ballots.get none b = some u ∧ u.nowin = false) →
        ∃ t, exec (.taskEnd n) s = .next t ∧ t.mem = s.mem ∧ t.launches.get none k.launch = none ∧ (∀ j ∈ l.tasks, t.tasks.get none j = none) ∧
          (endingOf l won = none → t.holding = s.holding ∧
            (t.lqs.get {} l.lq).recs = { seq := l.seq, words := l.words, lq := l.lq, reruns := l.reruns + 1 } :: (s.lqs.get {} l.lq).recs) ∧
          ∀ st cause, endingOf l won = some (st, cause) → t.lqs = s.lqs ∧ ∃ w2 tail,
            t.holding = s.holding ++ [{ words := [wordOf (st % 256 * 2 ^ 48 + cause % 256 * 2 ^ 40 + l.lq % 32 * 2 ^ 32 + l.seq % 2 ^ 32), (l.words[5]?).getD 0, w2] ++ tail,
                                        slot := l.ballot }] ∧
            tail.length = 13 ∧ (l.ballot = none → tail = List.replicate 13 0) ∧
            ∀ most, (∀ j ∈ l.tasks, ∀ u, s.tasks.get none j = some u → u.consumed ≤ most) → (most = 0 ∨ ∃ j ∈ l.tasks, ∃ u, s.tasks.get none j = some u ∧ u.consumed = most) →
              w2 = wordOf (l.reruns % 256 * 2 ^ 56 + l.cls % 8 * 2 ^ 48 + most % 2 ^ 48))

/-! ## Halyards, links, management -/

/-- R225 to R228, R223: the transitions of a halyard, the steer commands at a quiesce point, the retirement and the loss of a quarter.
R416 to R423: the states of a link, its training, repair and failure; parcels leave as flits, which stay in the retry buffer until they are acknowledged;
a flit is accepted once and in order, any other asks for a replay; a payload that has been accepted is delivered.
Sequence numbers, CRCERR, RETLN and spare halyards follow readings (log entries 34 and 41). -/
def Obligations.HalyardsAndLinks : Prop :=
  (∀ (s : State) (c n : Nat), c < 128 →
     let k := s.core c
     let goes (i : Instr) (v : Nat) := ∃ t, exec i s = .next t ∧ HalMoves s t c [(n, v)] k.sp16 k.sp17
     let spared (i : Instr) (q sp : Nat) := ∃ t, exec i s = .next t ∧
       HalMoves s t c [(q, 3), (sp, 0)] (if sp = 16 then some q else k.sp16) (if sp = 17 then some q else k.sp17)
     (n < 18 → (halOf s c n = 0 → goes (.halyardErrorRateHigh c n) 1) ∧ (halOf s c n ≠ 0 → exec (.halyardErrorRateHigh c n) s = .next s) ∧
       (halOf s c n = 1 → goes (.halyardRateWindow c n) 0) ∧ (halOf s c n ≠ 1 → exec (.halyardRateWindow c n) s = .next s)) ∧
     (n < 16 →
       (halOf s c n ≠ 1 ∨ n ∈ k.steer → exec (.halyardSteer c n) s = .next s) ∧
       (halOf s c n = 1 → n ∉ k.steer →
         (NoSpare s c → goes (.halyardSteer c n) 2) ∧
         (¬ NoSpare s c → exec (.halyardSteer c n) s = .next (s.updCore c fun k => { k with steer := k.steer ++ [n] }))) ∧
       (halOf s c n ≠ 2 → exec (.halyardRetire c n) s = .next s) ∧
       (halOf s c n = 2 → ∃ t, exec (.halyardRetire c n) s = .next t ∧ HalMoves s t c [(n, 4)] k.sp16 k.sp17 ∧
         (t.core c).lostq = k.lostq ∧ (∀ b < 16, ((t.core c).retq.getLsbD b = true ↔ k.retq.getLsbD b = true ∨ b = n)) ∧
         ∃ r, t.revokes = s.revokes ++ [r] ∧ r.mode = 3 ∧ r.core = c ∧ r.quarter = n ∧ r.dev = true ∧ r.cleared = false ∧ r.pd = none) ∧
       (3 ≤ halOf s c n → exec (.halyardFailure c n) s = .next s) ∧
       (halOf s c n < 3 → (∀ sp, FreeSpare s c sp → spared (.halyardFailure c n) n sp) ∧
         (NoSpare s c → ∃ t, exec (.halyardFailure c n) s = .next t ∧ HalMoves s t c [(n, 4)] k.sp16 k.sp17 ∧ QuarterLost s t c n))) ∧
     (∀ q < 16, ((n = 16 ∧ k.sp16 = some q) ∨ (n = 17 ∧ k.sp17 = some q)) →
       (∀ sp ∈ [16, 17], sp ≠ n → halOf s c sp = 5 → ∃ t, exec (.halyardFailure c n) s = .next t ∧
         HalMoves s t c [(n, 4), (q, 3), (sp, 0)] (if sp = 16 then some q else none) (if sp = 17 then some q else none)) ∧
       (∀ sp ∈ [16, 17], sp ≠ n → halOf s c sp ≠ 5 → ∃ t, exec (.halyardFailure c n) s = .next t ∧
         HalMoves s t c [(n, 4), (q, 4)] (if n = 16 then none else k.sp16) (if n = 17 then none else k.sp17) ∧ QuarterLost s t c q)) ∧
     ((n = 16 ∧ k.sp16 = none) ∨ (n = 17 ∧ k.sp17 = none) → exec (.halyardFailure c n) s = .next s) ∧
     (k.steer = [n] → n < 16 →
       (halOf s c n = 1 → (∀ sp, FreeSpare s c sp → spared (.quiescePoint c) n sp) ∧ (NoSpare s c → goes (.quiescePoint c) 2)) ∧
       (halOf s c n ≠ 1 → ∃ t, exec (.quiescePoint c) s = .next t ∧ HalMoves s t c [] k.sp16 k.sp17))) ∧
  (∀ v : Link, v.txSeq < 2 ^ 12 →
     let w := v.transmit
     w = { v with out := w.out, retry := w.retry, txSeq := w.txSeq } ∧
     (¬ Carries v → w.retry = v.retry ∧ w.txSeq = v.txSeq ∧ ∀ c < 3, w.out.get [] c = v.out.get [] c) ∧
     ∀ c < 3, Carries v → v.stopRx.getLsbD c = false → (∀ d, d ≠ c → v.out.get [] d = []) →
       let n := min (v.out.get [] c).length (512 - v.retry.length)
       w.out.get [] c = (v.out.get [] c).drop n ∧ w.txSeq = (v.txSeq + n) % 2 ^ 12 ∧ w.retry.take v.retry.length = v.retry ∧
       w.retry.length = v.retry.length + n ∧ ∀ i p, i < n → (v.out.get [] c)[i]? = some p →
         w.retry[v.retry.length + i]? = some { crcOk := true, seqNo := (v.txSeq + i) % 2 ^ 12, vc := c, stop := v.stopTx.toNat, ack := v.expect,
                                               payload := (Config.payload p ++ List.replicate 240 0).take 240 }) ∧
  (∀ (s : State) (l vc : Nat) (bs : List Byte) (rest : List (List Byte)), (linkOf s l).rx.get [] vc = bs :: rest →
     let t := s.takeFlit l vc
     (Config.parcel bs = none → (linkOf t l).rx.get [] vc = rest ∧ t.mem = s.mem) ∧
     ∀ p, Config.parcel bs = some p →
       (p.chip ≠ s.chip → 3 ≤ p.hops → t.escs.length = s.escs.length + 1 ∧ t.mem = s.mem) ∧
       ∀ a data, p.chip = s.chip → p.item = .write a data → field 46 2 a < 2 → s.lostAt a = false →
         ∀ x, t.mem.get 0 x = if a ≤ x ∧ x < a + data.length then (data[x - a]?).getD 0 else s.mem.get 0 x) ∧
  (∀ (s : State) (l : Nat), l < 8 →
     let v := linkOf s l
     let stays (i : Instr) := exec i s = .next s
     let goes (i : Instr) (w : Link) := ∃ t, exec i s = .next t ∧ LinkTo s t l w
     let moves (i : Instr) (w : Link) := ∃ t, exec i s = .next t ∧ LinkMoves s t l w
     ((v.en = true → stays (.linkEnable l)) ∧
       (v.en = false → v.st = .down → moves (.linkEnable l) { v with en := true, st := .training, trainAt := s.now, expect := 0, txSeq := 0 }) ∧
       (v.en = false → v.st ≠ .down → goes (.linkEnable l) { v with en := true }) ∧
       (v.en = false → stays (.linkDisable l)) ∧ (v.en = true → v.st ≠ .down → moves (.linkDisable l) { cut v .down with en := false }) ∧
       (v.en = true → v.st = .down → goes (.linkDisable l) { v with en := false })) ∧
     (∀ lanes chip, (v.st ≠ .training → stays (.linkTrainingDone l lanes chip)) ∧
       (v.st = .training →
         (chip % 16 = v.peer → 16 ≤ lanes → moves (.linkTrainingDone l lanes chip) ({ v with st := .up, width := 16, good := 16 } : Link).transmit) ∧
         (chip % 16 = v.peer → 8 ≤ lanes → lanes < 16 →
           moves (.linkTrainingDone l lanes chip) ({ v with st := .degraded, width := 8, good := lanes } : Link).transmit) ∧
         (chip % 16 ≠ v.peer ∨ lanes < 8 → moves (.linkTrainingDone l lanes chip) (cut v .failed)))) ∧
     (v.st = .training → v.trainAt + 360000000 ≤ s.now → moves (.linkTrainingTimeout l) (cut v .failed)) ∧
     (v.st ≠ .training ∨ s.now < v.trainAt + 360000000 → stays (.linkTrainingTimeout l)) ∧
     (∀ lane, (18 ≤ lane ∨ v.retln.getLsbD lane = true ∨ ¬ Carries v → stays (.laneFault l lane)) ∧
       (lane < 18 → v.retln.getLsbD lane = false → Carries v →
         (v.st = .degraded → v.good ≤ 8 → 2 ≤ v.spused → moves (.laneFault l lane) (cut v .failed)) ∧
         (¬ (v.st = .degraded ∧ v.good ≤ 8 ∧ 2 ≤ v.spused) → moves (.laneFault l lane) { v with st := .repairing, back := v.st, badLane := lane }))) ∧
     ((v.st ≠ .repairing → stays (.linkRepair l)) ∧
       (v.st = .repairing → v.spused < 2 → v.badLane < 18 → ∃ t r, exec (.linkRepair l) s = .next t ∧
         LinkMoves s t l ({ v with st := v.back, spused := v.spused + 1, retln := r, replay := min (v.replay + v.retry.length) (2 ^ 16 - 1) } : Link).transmit ∧
         ∀ i < 18, (r.getLsbD i = true ↔ v.retln.getLsbD i = true ∨ i = v.badLane)) ∧
       (v.st = .repairing → 2 ≤ v.spused → moves (.linkRepair l) ({ v with st := .degraded, width := 8, good := v.good - 1 } : Link).transmit)) ∧
     ∀ f : Flit,
       let full := f.vc < 3 ∧ 256 ≤ (v.rx.get [] f.vc).length
       let next := f.crcOk = true ∧ f.seqNo = v.expect
       let errors := if f.crcOk = true then v.crcerr else min (v.crcerr + 1) (2 ^ 16 - 1)
       (¬ Carries v → stays (.flitReceive l f)) ∧
       (Carries v →
         (next → ¬ full → ∃ t w, exec (.flitReceive l f) s = .next t ∧ LinkTo s t l w ∧
           w = { v with expect := (v.expect + 1) % 2 ^ 12, tries := 0, discarding := false, stopRx := BitVec.ofNat 3 f.stop,
                        rx := w.rx, stopTx := w.stopTx, out := w.out, retry := w.retry, txSeq := w.txSeq } ∧
           (v.out = [] → w.out = [] ∧ w.txSeq = v.txSeq ∧
             ((∀ e ∈ v.retry, e.seqNo ≠ f.ack) → w.retry = if f.ack = v.txSeq then [] else v.retry) ∧
             ∀ before e after, v.retry = before ++ e :: after → (∀ b ∈ before, b.seqNo ≠ f.ack) → e.seqNo = f.ack → w.retry = e :: after) ∧
           (∀ c, w.rx.get [] c = if c = f.vc ∧ c < 3 then v.rx.get [] c ++ [f.payload] else v.rx.get [] c) ∧
           (f.vc < 3 → FlowOf v w f.vc) ∧ (3 ≤ f.vc → w.stopTx = v.stopTx)) ∧
         (next → full → moves (.flitReceive l f) (cut { v with crcerr := min (v.crcerr + 1) (2 ^ 16 - 1) } .failed)) ∧
         (¬ next → v.discarding = true → f.seqNo ≠ v.expect → goes (.flitReceive l f) { v with crcerr := errors }) ∧
         (¬ next → ¬ (v.discarding = true ∧ f.seqNo ≠ v.expect) → v.tries < 16 →
           goes (.flitReceive l f) { v with crcerr := errors, discarding := true, tries := v.tries + 1, replay := min (v.replay + 1) (2 ^ 16 - 1) }) ∧
         (¬ next → ¬ (v.discarding = true ∧ f.seqNo ≠ v.expect) → 16 ≤ v.tries → moves (.flitReceive l f) (cut { v with crcerr := errors } .failed))))

/-- R434 to R438, R442 to R444, R279, R420: the commands of the mailbox and their end. A POWER transition that the table does not name is refused with REASON 6,
which is the model's choice (log entry 17), as is where a trip leaves a device in IDLE and where a command under which it fired ends
(log entry 51); that a POWER or CAP command with an argument outside the table counts in REFUSALS is deduced (log entry 18).
R26, R27, R438 to R441: the power cap by windows, the thermal trip and its release, the return of power, and the monitor points. -/
def Obligations.Management : Prop :=
  ((∀ s : State,
     let a := s.mg.arg0
     let b := s.mg.arg1
     let waits := s.mg.mbst = 1 ∧ s.mg.outcome = none ∧ s.mg.moving = false
     let answers (i : Instr) (f : Mgmt → Mgmt) := exec i s = .next (mgTo f s)
     (waits → ¬ Arguments s.mg.op a b → answers .mailboxInvalidOp fun m => if m.op = 1 ∨ m.op = 2 then counted (willBe 3 2 0 m) else willBe 3 2 0 m) ∧
     (¬ waits ∨ Arguments s.mg.op a b → exec .mailboxInvalidOp s = .next s) ∧
     (∀ e ∈ [(Instr.mailboxPower, 1), (.mailboxCap, 2), (.mailboxAttest, 3), (.mailboxVerify, 4), (.mailboxResetDevice, 5), (.mailboxResetCore, 5), (.mailboxFwload, 6)],
       ¬ (Commanded s e.2 ∧ Arguments e.2 a b) → exec e.1 s = .next s) ∧
     (Commanded s 1 → Arguments 1 a b → ∀ p, powerNumber p = a.toNat →
       let ok := (atPoint s.mg.power ∨ (s.mg.power = .idle ∧ p ≠ .idle) ∨ (s.mg.power = .standby ∧ atPoint p)) ∧ (s.mg.trip = true → powerNumber p ≤ 3) ∧
         (p = .a3 → s.mg.capEn = true)
       (ok → answers .mailboxPower fun m => { m with moving := true, target := p, tripped := false }) ∧
       (¬ ok → ∃ reason ∈ [3, 4, 6], answers .mailboxPower fun m => counted (willBe 3 reason 0 m)) ∧
       (atPoint s.mg.power → s.mg.trip = true → 3 < powerNumber p → answers .mailboxPower fun m => counted (willBe 3 3 0 m)) ∧
       (atPoint s.mg.power → s.mg.trip = false → p = .a3 → s.mg.capEn = false → answers .mailboxPower fun m => counted (willBe 3 4 0 m))) ∧
     (Commanded s 2 → Arguments 2 a b →
       (Config.qrl9m = true → 1500 < a.toNat → answers .mailboxCap fun m => counted (willBe 3 2 0 m)) ∧
       (a = 0 → s.mg.power = .a3 → answers .mailboxCap fun m => counted (willBe 3 6 0 m)) ∧
       (¬ (Config.qrl9m = true ∧ 1500 < a.toNat) → ¬ (a = 0 ∧ s.mg.power = .a3) → ∃ hold, (a = 0 → hold = false) ∧ (a ≠ 0 → hold = s.mg.capHold) ∧
         answers .mailboxCap fun m =>
           willBe 2 0 0 { m with capEn := decide (a ≠ 0), capW := a.toNat, capHold := hold, overCount := 0, overEsc := false })) ∧
     (Commanded s 3 → Arguments 3 a b → ∃ t, exec .mailboxAttest s = .next t ∧ t = { s with host := t.host, mg := willBe 2 0 0xDED s.mg } ∧
       let h (o n : Nat) := number n fun i => t.host.get 0 (a.toNat + o + i)
       h 0 8 = 0x0054534554544151 ∧ h 8 8 = 1 + s.chip % 16 * 2 ^ 32 ∧ (∀ i < 64, t.host.get 0 (a.toNat + 0x10 + i) = s.host.get 0 (a.toNat + i)) ∧
       h 0x50 64 = Config.identityDigest.toNat ∧ h 0x90 64 = s.mg.measure.toNat ∧ (s.mg.measures < 2 ^ 64 → h 0xD0 8 = s.mg.measures) ∧
       (s.now / 36 < 2 ^ 64 → h 0xD8 8 = s.now / 36) ∧ h 0xE0 32 = 0 ∧
       (∀ i < 3309, t.host.get 0 (a.toNat + 0x100 + i) = Config.signByte ((List.range 256).map fun j => t.host.get 0 (a.toNat + j)) i) ∧
       ∀ i, (i < a.toNat ∨ a.toNat + 0xDED ≤ i) → t.host.get 0 i = s.host.get 0 i) ∧
     (Commanded s 4 → Arguments 4 a b →
       let e := field 13 35 s.ktBase.toNat * 2 ^ 13 + 32 * a.toNat
       let base := field 0 48 (memNum s e 8)
       let off := memNum s (base + 0x50) 4
       let bytes (at_ n : Nat) := (List.range n).map fun i => s.mem.get 0 (at_ + i)
       let signed := (memNum s (e + 8) 8).testBit 63 = true ∧ (memNum s (base + 8) 8).testBit 32 = true ∧ memNum s (base + 0x54) 4 = 3309 ∧
         Config.verifyKernel (bytes base off) (bytes (base + off) 3309) = true
       (signed → answers .mailboxVerify (willBe 2 0 0)) ∧ (¬ signed → answers .mailboxVerify (willBe 3 5 0))) ∧
     (Commanded s 6 →
       let image := (List.range b.toNat).map fun i => s.host.get 0 (a.toNat + i)
       (Config.verifyVendor image = false → answers .mailboxFwload (willBe 3 5 0)) ∧
       (Config.verifyVendor image = true → ∃ fw rt, answers .mailboxFwload (fun m =>
         willBe 2 0 (s.mg.measures + 1) { m with measure := chained s.mg.measure image, measures := s.mg.measures + 1, firmware := fw, runtime := rt }) ∧
         ((fw = some image ∧ rt = s.mg.runtime) ∨ (fw = s.mg.firmware ∧ rt = some image))))) ∧
   (∀ s : State, Commanded s 5 →
     (s.mg.arg0 = 0 → s.mg.arg1 = 0 →
       let fw := s.mg.firmware.getD Config.factoryFirmware
       let rt := s.mg.runtime.getD Config.factoryRuntime
       ∃ t, exec .mailboxResetDevice s = .next t ∧ PowerLost s t ∧ t.mg.outcome = some (2, 0, 0) ∧
         (Config.verifyVendor fw = false → t.mg.power = .standby ∧ ∀ c, (t.core c).inReset = true) ∧
         (Config.verifyVendor fw = true → t.now = 0 ∧ t.mg.measure = chained (chained 0 fw) rt ∧ t.mg.measures = 2 ∧
           (atPoint s.mg.power → t.mg.power = s.mg.power) ∧ (¬ atPoint s.mg.power → t.mg.power = .standby) ∧
           ∀ c < 128, (t.core c).inReset = !Config.verifyVendor rt ∧
             (Config.verifyVendor rt = true → ∀ i < 2 ^ 14, i < rt.length → (t.core c).imem.get 0 (0x3C000 + i) = (rt[i]?).getD 0))) ∧
     (s.mg.arg0 = 1 → s.mg.arg1.toNat < 128 →
       let c := s.mg.arg1.toNat
       ∃ t, exec .mailboxResetCore s = .next t ∧ t.mem = s.mem ∧ t.mg = willBe 2 0 0 s.mg ∧ (t.core c).imem = (s.core c).imem ∧ (t.core c).xb = (s.core c).xb ∧
         (t.core c).tiles = [] ∧ (t.core c).sems = [] ∧ (∀ q, ∀ u ∈ cmdsOf t c q, (q = 6 ∨ q = 7) ∧ u.st ≠ 0) ∧ (∀ x, (t.cx c x).st = .free ∧ (t.cx c x).s = [] ∧ (t.cx c x).task = none) ∧
         (∀ n k, s.tasks.get none n = some k → (∀ e ∈ s.tasks, e.1 = n → e.2 = some k) → k.core = c → k.freed = false → k.saved = false →
           ∃ k', t.tasks.get none n = some k' ∧ k'.ended = true ∧ k'.noted = true))) ∧
   ∀ s : State,
     (s.mg.mbst ≠ 1 → exec .mailboxCommandDone s = .next s) ∧
     (s.mg.mbst = 1 → s.mg.moving = false → (s.mg.outcome = none → exec .mailboxCommandDone s = .next s) ∧
       ∀ st reason result, s.mg.outcome = some (st, reason, result) →
         exec .mailboxCommandDone s = .next (mgTo (fun m => { m with mbst := st, reason := reason, result := result, outcome := none }) s)) ∧
     (s.mg.mbst = 1 → s.mg.moving = true →
       let ends (p : Power) (m : Mgmt) : Mgmt := { m with power := p, moving := false, tripped := false, mbst := 2, reason := 0, result := powerNumber p }
       (s.mg.target = .idle → s.accs ≠ [] → exec .mailboxCommandDone s = .next s) ∧
       (s.mg.target = .idle → s.accs = [] → s.mg.power ≠ .standby →
         exec .mailboxCommandDone s = .next (mgTo (ends (if s.mg.tripped = true then .a0 else .idle)) s)) ∧
       (atPoint s.mg.target → s.mg.power ≠ .standby →
         exec .mailboxCommandDone s = .next (mgTo (ends (if s.mg.tripped = true then .a0 else s.mg.target)) s)) ∧
       (s.mg.target = .standby → s.mg.tripped = false → ∃ t, exec .mailboxCommandDone s = .next t ∧ PowerLost s t ∧ t.mg = ends .standby s.mg) ∧
       (s.mg.target = .standby → s.mg.tripped = true → s.mg.power ≠ .standby → exec .mailboxCommandDone s = .next (mgTo (ends .a0) s)) ∧
       (s.mg.target = .off → ∃ t, exec .mailboxCommandDone s = .next t ∧ PowerLost s t ∧ t.mg.power = .off ∧ t.mg.mbst = 0) ∧
       (atPoint s.mg.target → s.mg.power = .standby → Config.verifyVendor (s.mg.firmware.getD Config.factoryFirmware) = true →
         ∃ t, exec .mailboxCommandDone s = .next t ∧ t.now = 0 ∧ t.mem = s.mem ∧ t.mg.mbst = 2 ∧ t.mg.measures = 2 ∧
           t.mg.power = (if s.mg.tripped = true then .a0 else s.mg.target) ∧
           ∀ c < 128, (Config.verifyVendor (s.mg.runtime.getD Config.factoryRuntime) = true → (t.core c).inReset = false)))) ∧
  ((∀ (s : State) (avg : Nat),
     let m := s.mg
     let hot := 20 ≤ m.overCount + 1 ∧ m.overEsc = false
     (m.capEn = false → exec (.capWindow avg) s = .next s) ∧
     (m.capEn = true → avg ≤ m.capW →
       exec (.capWindow avg) s = .next (mgTo (fun m => { m with capHold := false, overCount := 0, overEsc := false }) s)) ∧
     (m.capEn = true → m.capW < avg →
       (¬ hot → exec (.capWindow avg) s = .next (mgTo (fun m => { m with capHold := true, overCount := m.overCount + 1 }) s)) ∧
       (hot → ∃ e, exec (.capWindow avg) s = .next
         { mgTo (fun m => { m with capHold := true, overCount := m.overCount + 1, overEsc := true }) s with escs := s.escs ++ [e], msix1 := s.msix1 + 1 })) ∧
     (m.power = .off → exec .powerUp s = .next (mgTo (fun m => { m with power := .standby }) s)) ∧ (m.power ≠ .off → exec .powerUp s = .next s)) ∧
   (∀ (s : State) (p code : Nat),
     let m := s.mg
     let fires := 72 ≤ p ∧ p ≤ 79 ∧ 676 ≤ code ∧ m.trip = false ∧ (m.moving = true ∨ 2 ≤ powerNumber m.power)
     (¬ fires → exec (.thermalTrip p code) s = .next s) ∧
     (fires → ∃ t, exec (.thermalTrip p code) s = .next t ∧ t.mem = s.mem ∧ t.mg.trip = true ∧ t.mg.tripSeen = true ∧ t.mg.belowSince = none ∧
       (atPoint m.power → t.mg.power = .a0) ∧ (¬ atPoint m.power → t.mg.power = m.power) ∧ (m.moving = true → t.mg.tripped = true ∧ t.mg.target = m.target) ∧
       t.escs.length = s.escs.length + 1) ∧
     (∀ since, m.trip = true → m.belowSince = some since → since + 3600000000 ≤ s.now →
       exec .thermalTripRelease s = .next (mgTo (fun m => { m with trip := false }) s)) ∧
     (m.trip = false ∨ (∀ since, m.belowSince = some since → s.now < since + 3600000000) → exec .thermalTripRelease s = .next s)) ∧
   ∀ (s : State) (n x : Nat),
     let m := s.mg
     let mon (m : Mgmt) (n : Nat) := m.mons.get {} n
     (96 ≤ n ∨ m.power = .off → exec (.monitorSample n x) s = .next s) ∧
     (n < 96 → m.power ≠ .off → ∃ t, exec (.monitorSample n x) s = .next t ∧ t = { s with mg := t.mg } ∧
       (m.freeze = true → t.mg.drop = min (m.drop + 1) (2 ^ 32 - 1) ∧ t.mg.mons = m.mons) ∧
       (m.freeze = false → t.mg.drop = m.drop ∧ Sampled (mon m n) (mon t.mg n) x ∧ ∀ k, k ≠ n → mon t.mg k = mon m k)) ∧
     (m.power = .off → exec .monctlStart s = .next s) ∧
     (m.power ≠ .off → ∃ t, exec .monctlStart s = .next t ∧ t = { s with mg := { m with drop := 0, mons := t.mg.mons } } ∧
       ∀ k < 96, mon t.mg k = { mon m k with edges := (mon m k).next, min := 2 ^ 32 - 1, max := 0, bins := [] }))

/-! ## Decoding, the bundle, the clock, memory -/

/-- R56, R72: words written out from the encoding tables decode to their instructions; a sanity statement. -/
def Obligations.ExampleWords : Prop :=
  [0x070018A300000600, 0x0640412016000028, 0x09000821FFFFFFFF, 0x2A0020200000C003, 0x41808A2E00008000, 0x5000508462000040, 0x6180388466480010,
    0x61001C0CA4000040, 0x7000040064000000, 0x8000180002000600, 0x868006C106300000, 0x71C0011801404DF0].map (decodeTableWord 64) =
  [some (.cmp .ltu 3 5 6), some (.bext 8 9 40 12), some (.addi 1 1 (-1)), some (.vcvt .f32 .e2m1 .rne 4 1 3 0), some (.tmm .mxi8 2 false 10 11 16 0),
    some (.ld 8 .acq .normal 10 ⟨false, 2, 4, 64⟩), some (.amoMin 8 .ar .normal 7 ⟨false, 2, 4, 16⟩ 9), some (.send true .rel 3 12 64 0), some (.push 1 8 3),
    some (.semwait 12 1 .acq true), some (.wset 3 6 6 0x83), some (.rcall 0 1 6 5 1 true 2 3 7)]

/-- R50 to R58, R65, R68: for every well-formed instruction of a slot, with every operand and guard that its encoding admits, decoding its word gives
it back, and every word that decodes is the word of what it decodes to. `lim` and `nop` have no guard; the handler's return shares the word of
`syscall 0xFFFF`. -/
def Obligations.DecodeOfEncode : Prop :=
  (∀ (g : Guard) (i : Instr) (w : Word) (diag : Bool) (slot : Nat), g.wf = true → i.wf = true → encode g i = some w →
    i ≠ .handlerReturn → (diag = false → ∀ o d r, i ≠ .vendorDiagnostic o d r) → slot ∈ homes (w.toNat / 2 ^ 54) →
      ∃ h, decodeSlot diag slot w = .ok (h, i) ∧ (h = g ∨ (h = ⟨false, 0⟩ ∧ (i = .nop ∨ ∃ d m, i = .lim d m)))) ∧
  ∀ (diag : Bool) (slot : Nat) (w : Word) (g : Guard) (i : Instr), decodeSlot diag slot w = .ok (g, i) →
    g.wf = true ∧ i.wf = true ∧ encode g i = some w ∧ (w = 0 ∨ slot ∈ homes (w.toNat / 2 ^ 54))

/-- R68, R65, R54, R53, R406: the order of the decode checks: an opcode that is not assigned, a diagnostic opcode outside RUNTIME mode with DIAG, and `rret`
are ILLEGAL_OP; a slot that is not the home ILLEGAL_SLOT; a word of opcode 0 that is not zero and a guard `!p0` ILLEGAL_FIELD. -/
def Obligations.DecodeFaults : Prop :=
  ∀ (diag : Bool) (slot : Nat) (w : Word), w ≠ 0 → slot < 8 →
    let o := w.toNat / 2 ^ 54
    let illegal := homes o = [] ∨ (0x3C0 ≤ o ∧ diag = false) ∨ o = 0x214
    (illegal → decodeSlot diag slot w = .error .illegalOp) ∧
    (¬ illegal → slot ∉ homes o → decodeSlot diag slot w = .error .illegalSlot) ∧
    (¬ illegal → slot ∈ homes o →
      (o = 0 → decodeSlot diag slot w = .error .illegalField) ∧
      (o ≠ 0 → o ≠ 0x2F → w.getLsbD 53 = true → field 49 4 w.toNat = 0 → decodeSlot diag slot w = .error .illegalField) ∧
      decodeSlot diag slot w ≠ .error .illegalOp ∧ decodeSlot diag slot w ≠ .error .illegalSlot)

/-- R25, R26, R51, R78, R85, R86, R92, R313: a turn of the agenda runs what it names, after what the cycle brings for certain; an event without power
does nothing. The issue of a core runs the instructions that the eight words of its context's bundle
decode to, in slot order, and then the bundle faults, blocks or commits as one; for a bundle of one word without a guard that is `exec` of
its instruction. A fetch outside the region traps. The agenda is the model's own (log entry 3). -/
def Obligations.StepRunsDecodedInstructions : Prop :=
  let next (s : State) (t : Turn) (r : List Turn) := (s.agenda = t :: r ∧ s.dueBefore t = none) ∨ (s.agenda = [] ∧ s.defaultTurn = t ∧ r = [])
  (∀ (s : State) (t : Turn) (r : List Turn), s.agenda = t :: r → (s.fixedTurn = none → s.dueBefore t = none) ∧ ∀ u, s.dueBefore t = some u →
    s.fixedTurn = some u ∧ step s = runTurn u s) ∧
  (∀ (s : State) (i : Instr) (r : List Turn), next s (.event i) r → encode ⟨false, 0⟩ i = none →
    let u : State := { s with agenda := r }
    (s.mg.power = .off → i ≠ .powerUp → step s = .next u) ∧
    (s.mg.power ∈ [Power.standby, .idle] → ofManagement i = false → step s = .next u) ∧
    ((atPoint s.mg.power ∨ (s.mg.power ≠ .off ∧ ofManagement i = true) ∨ (s.mg.power = .off ∧ i = .powerUp)) →
      ∀ t, exec i u = .next t → step s = .next { t with begun := t.begun || !atBoundary i })) ∧
  ∀ (s : State) (c x : Nat) (r : List Turn), next s (.issue c) r →
    let u : State := { s with agenda := r }
    TakesBundle u c x →
    let v := (u.select c x).visible
    (¬ Fetches v c x → step s = .next ((v.trap c x 1 0xFF (some (wordOf v.me.f0))).noteIssue c x)) ∧
    (Fetches v c x → ∀ l : List (Guard × Instr), l.length = 8 → (∀ n g i, l[n]? = some (g, i) → DecodesTo v.me n (slotWordOf v c x n) g i) →
      let words := (List.range 8).countP fun n => decide (slotWordOf v c x n ≠ 0)
      (∀ t, SlotsRun (l.mapIdx fun n e => (n, e)) (v.openBundle 0 words ⟨false, 0⟩) t → step s = .next ((closeBundle v t).noteIssue c x)) ∧
      ∀ n i t, v.iss.opened = false → (∀ e ∈ v.me.pend, e.1 ≠ .p 0) → l[n]? = some (⟨false, 0⟩, i) → slotWordOf v c x n ≠ 0 →
        (∀ m < 8, m ≠ n → slotWordOf v c x m = 0) → n = homeSlot (slotWordOf v c x n).toNat →
        exec i (u.select c x) = .next t → step s = .next (t.noteIssue c x))

/-- R25, R62, R76, R191, R310, R344, R374, R437: the end of a core-clock cycle: the cycle count, TIMEBASE, the start of placed tasks, the budgets of the tasks and the
grace counts of the contexts, the local stores that no operand read holds any longer; in IDLE only TIMEBASE goes on, and without power nothing. -/
def Obligations.ClockCycle : Prop :=
  ∀ (s : State) (r : List Turn), s.agenda = .tick :: r → s.fixedTurn = none → s.mg.clamps = [] →
    (s.mg.power ∈ [Power.off, .standby] → step s = .next ({ s with agenda := r } : State)) ∧
    (s.mg.power = .idle → step s = .next ({ s with agenda := r, now := s.now + 36 } : State)) ∧
    (s.mg.power ∈ [Power.a0, .a1, .a2, .a3] → (∀ l c, (linkOf s l).rx.get [] c = []) → ∃ t, step s = .next t ∧ t.agenda = r ∧ t.begun = false ∧
      t.cycle = s.cycle + 1 ∧ t.now = s.now + cycleLength s.mg.power ∧
      t.mem = s.mem ∧ t.poison = s.poison ∧ t.host = s.host ∧ t.accs.map (·.id) = s.accs.map (·.id) ∧
      (∀ a ∈ s.accs, (a.behind = [] → a ∈ t.accs) ∧ ((∀ d o, a.place = .spad d o → ∀ m ∈ (s.core d).mq, m.id ∉ a.behind) → { a with behind := [] } ∈ t.accs)) ∧
      t.launches = s.launches ∧ t.bars = s.bars ∧ t.mg = s.mg ∧
      (∀ n k, s.tasks.get none n = some k → ∃ k', t.tasks.get none n = some k' ∧ k' = { k with budget := k'.budget, consumed := k'.consumed, expired := k'.expired,
                                                                                               noted := k'.noted } ∧
        let counts := k.ended = false ∧ k.saved = false ∧ ∃ x ∈ k.ctxs, Live (s.cx k.core x)
        (counts → k'.consumed = k.consumed + 1 ∧
          (k.unlimited = true → k'.budget = k.budget ∧ k'.expired = k.expired) ∧
          (k.unlimited = false → k'.budget = k.budget - 1 ∧ (k'.expired = true ↔ k.expired = true ∨ k.budget = 1))) ∧
        (¬ counts → k'.consumed = k.consumed ∧ k'.budget = k.budget ∧ k'.expired = k.expired)) ∧
      ∀ c x,
        let counts := (s.cx c x).canreq = true ∧ (Live (s.cx c x) ∨ (s.cx c x).st = .loaded)
        (counts → (t.cx c x).grace = (s.cx c x).grace + 1) ∧ (¬ counts → (t.cx c x).grace = (s.cx c x).grace) ∧
        ((s.cx c x).st = .loaded → (t.cx c x).st = .ready ∧ (t.cx c x).readyAt = s.cycle) ∧ ((s.cx c x).st ≠ .loaded → (t.cx c x).st = (s.cx c x).st) ∧
          (t.cx c x).s = (s.cx c x).s ∧ (t.cx c x).step = (s.cx c x).step)

/-- R4, R7: a byte of a memory reads as it was last written, a write leaves every other byte, and two memories in canonical form that read alike are
equal. That a byte that nothing has written reads as 0 is the model's choice (log entry 1). -/
def Obligations.MemoryReadsAfterWrites : Prop :=
  (∀ (m : SMap Byte) (a b : Nat) (v : Byte), (m.put 0 a v).get 0 b = if b = a then v else m.get 0 b) ∧
  (∀ (m : SMap Byte) (a : Nat) (v : Byte), m.wf 0 = true → (m.put 0 a v).wf 0 = true ∧ (v = m.get 0 a → m.put 0 a v = m)) ∧
  (∀ (m n : SMap Byte), m.wf 0 = true → n.wf 0 = true → (∀ a, m.get 0 a = n.get 0 a) → m = n) ∧
  ∀ (m : SMap Byte) (a n : Nat) (v : Nat), v < 256 ^ n →
    readNat (writeBytes m a (leBytes n v)) a n = v ∧ ∀ b, (b < a ∨ a + n ≤ b) → (writeBytes m a (leBytes n v)).get 0 b = m.get 0 b

/-- Every step keeps the memory of the device, that of the host and the marks of poisoned and empty words in canonical form, so that equal memories are equal
data, from every state that has them so. -/
def Obligations.MemoryStaysCanonical : Prop :=
  ∀ s t : State, s.memWf = true → step s = .next t → t.memWf = true

/-- R6, R62, R225, R244, R246, R337, R363, R374, R422, R434, R436, R441, R213, R322, R326: what the registers read at reset, memory in canonical form with nothing
listed, every core in reset with nothing placed, and the device in STANDBY. That nothing is listed in memory and that no turn is listed are the model's choices
(log entries 1 and 3). -/
def Obligations.ResetValues : Prop :=
  let s := State.reset
  let io (off : Nat) := s.readReg .host .io off
  s.memWf = true ∧ s.mem = [] ∧ s.mg.power = .standby ∧ s.tasks = [] ∧ s.launches = [] ∧ s.holding = [] ∧ s.aperture = [] ∧ s.seq = 0 ∧ s.agenda = [] ∧
  (∀ c, (s.core c).inReset = true ∧ ∀ x, (s.cx c x).st = .free ∧ (s.cx c x).mode = false ∧ (s.cx c x).task = none) ∧
  (∀ q < 32, io (0x2000 + 0x20 * q) = 0 ∧ io (0x2008 + 0x20 * q) = 0x0100010001000100 ∧ io (0x2010 + 0x20 * q) = 0x0100010001000100 ∧ io (0x2018 + 0x20 * q) = 0) ∧
  io 0x3000 = 0 ∧ io 0x3008 = 5 ∧ io 0x3010 = 0 ∧ io 0x3018 = 0 ∧ io 0x3100 = 0 ∧ io 0x3108 = 0xC0000000000186A0 ∧ io 0x3110 = 65536 ∧ io 0x3200 = 0 ∧
  (∀ l < 8, io (0x3400 + 0x40 * l) = 0 ∧ io (0x3408 + 0x40 * l) = 0) ∧ io 0x3600 = 0 ∧ io 0x3608 = 0 ∧
  io 0xC018 = 0 ∧ field 60 4 (io 0xC020).toNat = 1 ∧ field 56 4 (io 0xC020).toNat = 0 ∧ field 0 43 (io 0xC020).toNat = 0 ∧ io 0xC030 = 0 ∧
  (∀ n < 64, io (0x4000 + 0x80 * n) = 0) ∧
  ∀ c < 128, let core (off : Nat) := s.readReg .device (.core c) off
    (∀ x < 4, core (0x400 + 8 * x) = 0 ∧ core (0x420 + 8 * x) = 0 ∧ core (0x480 + 8 * x) = 0) ∧ core 0x440 = 0x002D000000000000 ∧
    core 0x448 = 0x00FFC010 ∧ ∀ n < 8, core (0x500 + 16 * n) = 0
end

