-- ==== Sys2Proof/Laws/Map.lean ====
section
/-! SUPPORT. The laws of the sparse map: a read after a write, and that every operation keeps the canonical form. -/

namespace Sys2Proof

section
variable {α : Type}

@[simp] theorem SMap.get_nil (d : α) (k : Nat) : SMap.get d [] k = d := rfl

theorem SMap.get_cons (d : α) (e : Nat × α) (m : SMap α) (k : Nat) :
    SMap.get d (e :: m) k = if e.1 = k then e.2 else SMap.get d m k := rfl

theorem SMap.get_erase_same (d : α) (m : SMap α) (k : Nat) : SMap.get d (m.erase k) k = d := by
  induction m with
  | nil => rfl
  | cons e r ih => by_cases h : e.1 = k <;> simp [SMap.erase, SMap.get, h, ih]

theorem SMap.get_erase_ne (d : α) (m : SMap α) {k k' : Nat} (h : k' ≠ k) : SMap.get d (m.erase k) k' = SMap.get d m k' := by
  induction m with
  | nil => rfl
  | cons e r ih =>
    by_cases h1 : e.1 = k
    · simp [SMap.erase, h1, ih, SMap.get, Ne.symm h]
    · rw [SMap.erase, if_neg h1, SMap.get_cons, SMap.get_cons, ih]

theorem SMap.get_insert_same (d : α) (m : SMap α) (k : Nat) (v : α) : SMap.get d (m.insert k v) k = v := by
  induction m with
  | nil => simp [SMap.insert, SMap.get]
  | cons e r ih =>
    obtain ⟨a, b⟩ := e
    by_cases h1 : k < a
    · simp [SMap.insert, h1, SMap.get]
    · by_cases h2 : a = k <;> simp [SMap.insert, h1, h2, SMap.get, ih]

theorem SMap.get_insert_ne (d : α) (m : SMap α) {k k' : Nat} (v : α) (h : k' ≠ k) : SMap.get d (m.insert k v) k' = SMap.get d m k' := by
  induction m with
  | nil => simp [SMap.insert, SMap.get, Ne.symm h]
  | cons e r ih =>
    obtain ⟨a, b⟩ := e
    by_cases h1 : k < a
    · simp [SMap.insert, h1, SMap.get, Ne.symm h]
    · by_cases h2 : a = k
      · subst h2; simp [SMap.insert, SMap.get, Ne.symm h]
      · rw [SMap.insert, if_neg h1, if_neg h2, SMap.get_cons, SMap.get_cons, ih]

end

section
variable {α : Type} [DecidableEq α]

/-- A read after a write of the same key gives the value written. -/
@[simp] theorem SMap.get_put_same (d : α) (m : SMap α) (k : Nat) (v : α) : SMap.get d (m.put d k v) k = v := by
  unfold SMap.put
  split
  · next h => rw [SMap.get_erase_same, h]
  · exact SMap.get_insert_same d _ k v

/-- A write leaves every other key alone. -/
@[simp] theorem SMap.get_put_ne (d : α) (m : SMap α) {k k' : Nat} (v : α) (h : k' ≠ k) : SMap.get d (m.put d k v) k' = SMap.get d m k' := by
  unfold SMap.put
  split
  · exact SMap.get_erase_ne d m h
  · rw [SMap.get_insert_ne d _ v h, SMap.get_erase_ne d m h]

theorem SMap.get_put (d : α) (m : SMap α) (k k' : Nat) (v : α) :
    SMap.get d (m.put d k v) k' = if k' = k then v else SMap.get d m k' := by
  split
  · next h => subst h; exact SMap.get_put_same ..
  · next h => exact SMap.get_put_ne d m v h

omit [DecidableEq α] in
theorem SMap.erase_erase (m : SMap α) (k : Nat) : (m.erase k).erase k = m.erase k := by
  induction m with
  | nil => rfl
  | cons e r ih => by_cases h : e.1 = k <;> simp [SMap.erase, h, ih]

omit [DecidableEq α] in
theorem SMap.erase_insert (m : SMap α) (k : Nat) (v : α) : (m.insert k v).erase k = m.erase k := by
  induction m with
  | nil => simp [SMap.insert, SMap.erase]
  | cons e r ih =>
    obtain ⟨a, b⟩ := e
    by_cases h1 : k < a
    · simp [SMap.insert, h1, SMap.erase]
    · by_cases h2 : a = k <;> simp [SMap.insert, h1, h2, SMap.erase, ih]

/-- A second write of a key leaves nothing of the first. -/
@[simp] theorem SMap.put_put (d : α) (m : SMap α) (k : Nat) (v w : α) : (m.put d k v).put d k w = m.put d k w := by
  unfold SMap.put
  by_cases h : v = d <;> simp [h, SMap.erase_erase, SMap.erase_insert]

/-- The canonical form, with the keys above a bound. -/
def SMap.wfFrom (d : α) : Nat → SMap α → Prop
  | _, [] => True
  | lo, (k, v) :: r => lo ≤ k ∧ v ≠ d ∧ SMap.wfFrom d (k + 1) r

omit [DecidableEq α] in
theorem SMap.wfFrom_mono {d : α} {m : SMap α} {a b : Nat} (h : a ≤ b) (hm : SMap.wfFrom d b m) : SMap.wfFrom d a m := by
  cases m with
  | nil => trivial
  | cons e r => exact ⟨Nat.le_trans h hm.1, hm.2⟩

theorem SMap.wfFrom_iff (d : α) (m : SMap α) (lo : Nat) :
    SMap.wfFrom d lo m ↔ (m.wf d = true ∧ ∀ e ∈ m.head?, lo ≤ e.1) := by
  induction m generalizing lo with
  | nil => simp [SMap.wfFrom, SMap.wf]
  | cons e r ih =>
    obtain ⟨k, v⟩ := e
    cases r with
    | nil => simp [SMap.wfFrom, SMap.wf, and_comm]
    | cons e' r' =>
      obtain ⟨k', v'⟩ := e'
      have h := ih (k + 1)
      rw [SMap.wfFrom, h]
      simp only [SMap.wf, List.head?_cons, Option.mem_some_iff, forall_eq', Bool.and_eq_true, decide_eq_true_eq]
      constructor
      · rintro ⟨a, b, c, e⟩; exact ⟨⟨⟨b, e⟩, c⟩, a⟩
      · rintro ⟨⟨⟨b, e⟩, c⟩, a⟩; exact ⟨a, b, c, e⟩

theorem SMap.wf_iff (d : α) (m : SMap α) : m.wf d = true ↔ SMap.wfFrom d 0 m := by
  rw [SMap.wfFrom_iff]; simp

omit [DecidableEq α] in
theorem SMap.wfFrom_erase {d : α} {m : SMap α} {lo : Nat} (k : Nat) (h : SMap.wfFrom d lo m) : SMap.wfFrom d lo (m.erase k) := by
  induction m generalizing lo with
  | nil => exact h
  | cons e r ih =>
    obtain ⟨a, b⟩ := e
    obtain ⟨h1, h2, h3⟩ := h
    unfold SMap.erase
    split
    · exact SMap.wfFrom_mono (by omega) (ih h3)
    · exact ⟨h1, h2, ih h3⟩

omit [DecidableEq α] in
theorem SMap.wfFrom_insert {d : α} {m : SMap α} {lo k : Nat} {v : α} (hk : lo ≤ k) (hv : v ≠ d) (h : SMap.wfFrom d lo m) :
    SMap.wfFrom d lo (m.insert k v) := by
  induction m generalizing lo with
  | nil => exact ⟨hk, hv, trivial⟩
  | cons e r ih =>
    obtain ⟨a, b⟩ := e
    obtain ⟨h1, h2, h3⟩ := h
    unfold SMap.insert
    split
    · next hlt => exact ⟨hk, hv, ⟨hlt, h2, h3⟩⟩
    · split
      · next _ heq => subst heq; exact ⟨hk, hv, h3⟩
      · next hlt hne => exact ⟨h1, h2, ih (by omega) h3⟩

/-- A write keeps the canonical form. -/
theorem SMap.wf_put {d : α} {m : SMap α} (k : Nat) (v : α) (h : m.wf d = true) : (m.put d k v).wf d = true := by
  rw [SMap.wf_iff] at *
  unfold SMap.put
  split
  · exact SMap.wfFrom_erase k h
  · next hv => exact SMap.wfFrom_insert (Nat.zero_le _) hv (SMap.wfFrom_erase k h)

omit [DecidableEq α] in
theorem SMap.wfFrom_clear {d : α} {m : SMap α} {lo : Nat} (a b : Nat) (h : SMap.wfFrom d lo m) : SMap.wfFrom d lo (m.clear a b) := by
  induction m generalizing lo with
  | nil => exact h
  | cons e r ih =>
    obtain ⟨k, v⟩ := e
    obtain ⟨h1, h2, h3⟩ := h
    by_cases hc : a ≤ k ∧ k < b
    · have : SMap.clear ((k, v) :: r) a b = SMap.clear r a b := by simp [SMap.clear, hc]
      rw [this]; exact SMap.wfFrom_mono (by omega) (ih h3)
    · have : SMap.clear ((k, v) :: r) a b = (k, v) :: SMap.clear r a b := by
        simp only [SMap.clear, List.filter]
        rw [show (!(decide (a ≤ k) && decide (k < b))) = true by simp; omega]
      rw [this]; exact ⟨h1, h2, ih h3⟩

/-- Clearing a range keeps the canonical form. -/
theorem SMap.wf_clear {d : α} {m : SMap α} (a b : Nat) (h : m.wf d = true) : (m.clear a b).wf d = true := by
  rw [SMap.wf_iff] at *; exact SMap.wfFrom_clear a b h

end

/-- Writing bytes keeps the canonical form. -/
theorem wf_writeBytes {m : SMap Byte} (a : Nat) (l : List Byte) (h : m.wf 0 = true) : (writeBytes m a l).wf 0 = true := by
  induction l generalizing m a with
  | nil => exact h
  | cons b r ih => exact ih (a + 1) (SMap.wf_put a b h)

/-- A byte outside the range that is written keeps its value. -/
theorem get_writeBytes_out (m : SMap Byte) (a : Nat) (l : List Byte) {k : Nat} (h : k < a ∨ a + l.length ≤ k) :
    (writeBytes m a l).get 0 k = m.get 0 k := by
  induction l generalizing m a with
  | nil => rfl
  | cons b r ih =>
    simp only [writeBytes, List.length_cons] at *
    rw [ih (m.put 0 a b) (a + 1) (by omega), SMap.get_put_ne]
    omega

/-- A byte inside the range that is written is the byte written there. -/
theorem get_writeBytes_in (m : SMap Byte) (a : Nat) (l : List Byte) {i : Nat} (h : i < l.length) :
    (writeBytes m a l).get 0 (a + i) = (l[i]?).getD 0 := by
  induction l generalizing m a i with
  | nil => simp at h
  | cons b r ih =>
    cases i with
    | zero => simp only [writeBytes, Nat.add_zero]; rw [get_writeBytes_out _ _ _ (by omega)]; simp
    | succ i =>
      have := ih (m.put 0 a b) (a + 1) (i := i) (by simpa using h)
      simp only [writeBytes]
      rw [show a + (i + 1) = a + 1 + i by omega, this]; simp

end Sys2Proof
end

