-- ==== Sys2Proof/Laws/State.lean ====
section
/-! SUPPORT. What each shared update of the state leaves as it was: one lemma for each field and update, so that no proof unfolds a record update. -/

namespace Sys2Proof.Machine

/-! ### `setCore` -/

@[simp] theorem State.agenda_setCore (s : State) (c : Nat) (k : Core) : (s.setCore c k).agenda = s.agenda := rfl
@[simp] theorem State.iss_setCore (s : State) (c : Nat) (k : Core) : (s.setCore c k).iss = s.iss := rfl
@[simp] theorem State.cycle_setCore (s : State) (c : Nat) (k : Core) : (s.setCore c k).cycle = s.cycle := rfl
@[simp] theorem State.now_setCore (s : State) (c : Nat) (k : Core) : (s.setCore c k).now = s.now := rfl
@[simp] theorem State.ids_setCore (s : State) (c : Nat) (k : Core) : (s.setCore c k).ids = s.ids := rfl
@[simp] theorem State.frees_setCore (s : State) (c : Nat) (k : Core) : (s.setCore c k).frees = s.frees := rfl
@[simp] theorem State.begun_setCore (s : State) (c : Nat) (k : Core) : (s.setCore c k).begun = s.begun := rfl
@[simp] theorem State.mem_setCore (s : State) (c : Nat) (k : Core) : (s.setCore c k).mem = s.mem := rfl
@[simp] theorem State.poison_setCore (s : State) (c : Nat) (k : Core) : (s.setCore c k).poison = s.poison := rfl
@[simp] theorem State.empty_setCore (s : State) (c : Nat) (k : Core) : (s.setCore c k).empty = s.empty := rfl
@[simp] theorem State.host_setCore (s : State) (c : Nat) (k : Core) : (s.setCore c k).host = s.host := rfl
@[simp] theorem State.accs_setCore (s : State) (c : Nat) (k : Core) : (s.setCore c k).accs = s.accs := rfl
@[simp] theorem State.groups_setCore (s : State) (c : Nat) (k : Core) : (s.setCore c k).groups = s.groups := rfl
@[simp] theorem State.lands_setCore (s : State) (c : Nat) (k : Core) : (s.setCore c k).lands = s.lands := rfl
@[simp] theorem State.walks_setCore (s : State) (c : Nat) (k : Core) : (s.setCore c k).walks = s.walks := rfl
@[simp] theorem State.revokes_setCore (s : State) (c : Nat) (k : Core) : (s.setCore c k).revokes = s.revokes := rfl
@[simp] theorem State.migs_setCore (s : State) (c : Nat) (k : Core) : (s.setCore c k).migs = s.migs := rfl
@[simp] theorem State.msgs_setCore (s : State) (c : Nat) (k : Core) : (s.setCore c k).msgs = s.msgs := rfl
@[simp] theorem State.tasks_setCore (s : State) (c : Nat) (k : Core) : (s.setCore c k).tasks = s.tasks := rfl
@[simp] theorem State.launches_setCore (s : State) (c : Nat) (k : Core) : (s.setCore c k).launches = s.launches := rfl
@[simp] theorem State.lqs_setCore (s : State) (c : Nat) (k : Core) : (s.setCore c k).lqs = s.lqs := rfl
@[simp] theorem State.aperture_setCore (s : State) (c : Nat) (k : Core) : (s.setCore c k).aperture = s.aperture := rfl
@[simp] theorem State.seq_setCore (s : State) (c : Nat) (k : Core) : (s.setCore c k).seq = s.seq := rfl
@[simp] theorem State.crBase_setCore (s : State) (c : Nat) (k : Core) : (s.setCore c k).crBase = s.crBase := rfl
@[simp] theorem State.crEn_setCore (s : State) (c : Nat) (k : Core) : (s.setCore c k).crEn = s.crEn := rfl
@[simp] theorem State.crLog_setCore (s : State) (c : Nat) (k : Core) : (s.setCore c k).crLog = s.crLog := rfl
@[simp] theorem State.crHead_setCore (s : State) (c : Nat) (k : Core) : (s.setCore c k).crHead = s.crHead := rfl
@[simp] theorem State.crTail_setCore (s : State) (c : Nat) (k : Core) : (s.setCore c k).crTail = s.crTail := rfl
@[simp] theorem State.holding_setCore (s : State) (c : Nat) (k : Core) : (s.setCore c k).holding = s.holding := rfl
@[simp] theorem State.ktBase_setCore (s : State) (c : Nat) (k : Core) : (s.setCore c k).ktBase = s.ktBase := rfl
@[simp] theorem State.preempt_setCore (s : State) (c : Nat) (k : Core) : (s.setCore c k).preempt = s.preempt := rfl
@[simp] theorem State.preload_setCore (s : State) (c : Nat) (k : Core) : (s.setCore c k).preload = s.preload := rfl
@[simp] theorem State.drainThr_setCore (s : State) (c : Nat) (k : Core) : (s.setCore c k).drainThr = s.drainThr := rfl
@[simp] theorem State.grace_setCore (s : State) (c : Nat) (k : Core) : (s.setCore c k).grace = s.grace := rfl
@[simp] theorem State.hwBase_setCore (s : State) (c : Nat) (k : Core) : (s.setCore c k).hwBase = s.hwBase := rfl
@[simp] theorem State.chipRoute_setCore (s : State) (c : Nat) (k : Core) : (s.setCore c k).chipRoute = s.chipRoute := rfl
@[simp] theorem State.chip_setCore (s : State) (c : Nat) (k : Core) : (s.setCore c k).chip = s.chip := rfl
@[simp] theorem State.doms_setCore (s : State) (c : Nat) (k : Core) : (s.setCore c k).doms = s.doms := rfl
@[simp] theorem State.bars_setCore (s : State) (c : Nat) (k : Core) : (s.setCore c k).bars = s.bars := rfl
@[simp] theorem State.ballots_setCore (s : State) (c : Nat) (k : Core) : (s.setCore c k).ballots = s.ballots := rfl
@[simp] theorem State.vaultEx_setCore (s : State) (c : Nat) (k : Core) : (s.setCore c k).vaultEx = s.vaultEx := rfl
@[simp] theorem State.hbmEx_setCore (s : State) (c : Nat) (k : Core) : (s.setCore c k).hbmEx = s.hbmEx := rfl
@[simp] theorem State.callStores_setCore (s : State) (c : Nat) (k : Core) : (s.setCore c k).callStores = s.callStores := rfl
@[simp] theorem State.beats_setCore (s : State) (c : Nat) (k : Core) : (s.setCore c k).beats = s.beats := rfl
@[simp] theorem State.away_setCore (s : State) (c : Nat) (k : Core) : (s.setCore c k).away = s.away := rfl
@[simp] theorem State.pendCalls_setCore (s : State) (c : Nat) (k : Core) : (s.setCore c k).pendCalls = s.pendCalls := rfl
@[simp] theorem State.links_setCore (s : State) (c : Nat) (k : Core) : (s.setCore c k).links = s.links := rfl
@[simp] theorem State.mg_setCore (s : State) (c : Nat) (k : Core) : (s.setCore c k).mg = s.mg := rfl
@[simp] theorem State.escs_setCore (s : State) (c : Nat) (k : Core) : (s.setCore c k).escs = s.escs := rfl
@[simp] theorem State.msix0_setCore (s : State) (c : Nat) (k : Core) : (s.setCore c k).msix0 = s.msix0 := rfl
@[simp] theorem State.msix1_setCore (s : State) (c : Nat) (k : Core) : (s.setCore c k).msix1 = s.msix1 := rfl
@[simp] theorem State.hostRead_setCore (s : State) (c : Nat) (k : Core) : (s.setCore c k).hostRead = s.hostRead := rfl

/-! ### `setCx` -/

@[simp] theorem State.agenda_setCx (s : State) (c x : Nat) (v : Ctx) : (s.setCx c x v).agenda = s.agenda := rfl
@[simp] theorem State.iss_setCx (s : State) (c x : Nat) (v : Ctx) : (s.setCx c x v).iss = s.iss := rfl
@[simp] theorem State.cycle_setCx (s : State) (c x : Nat) (v : Ctx) : (s.setCx c x v).cycle = s.cycle := rfl
@[simp] theorem State.now_setCx (s : State) (c x : Nat) (v : Ctx) : (s.setCx c x v).now = s.now := rfl
@[simp] theorem State.ids_setCx (s : State) (c x : Nat) (v : Ctx) : (s.setCx c x v).ids = s.ids := rfl
@[simp] theorem State.frees_setCx (s : State) (c x : Nat) (v : Ctx) : (s.setCx c x v).frees = s.frees := rfl
@[simp] theorem State.begun_setCx (s : State) (c x : Nat) (v : Ctx) : (s.setCx c x v).begun = s.begun := rfl
@[simp] theorem State.mem_setCx (s : State) (c x : Nat) (v : Ctx) : (s.setCx c x v).mem = s.mem := rfl
@[simp] theorem State.poison_setCx (s : State) (c x : Nat) (v : Ctx) : (s.setCx c x v).poison = s.poison := rfl
@[simp] theorem State.empty_setCx (s : State) (c x : Nat) (v : Ctx) : (s.setCx c x v).empty = s.empty := rfl
@[simp] theorem State.host_setCx (s : State) (c x : Nat) (v : Ctx) : (s.setCx c x v).host = s.host := rfl
@[simp] theorem State.accs_setCx (s : State) (c x : Nat) (v : Ctx) : (s.setCx c x v).accs = s.accs := rfl
@[simp] theorem State.groups_setCx (s : State) (c x : Nat) (v : Ctx) : (s.setCx c x v).groups = s.groups := rfl
@[simp] theorem State.lands_setCx (s : State) (c x : Nat) (v : Ctx) : (s.setCx c x v).lands = s.lands := rfl
@[simp] theorem State.walks_setCx (s : State) (c x : Nat) (v : Ctx) : (s.setCx c x v).walks = s.walks := rfl
@[simp] theorem State.revokes_setCx (s : State) (c x : Nat) (v : Ctx) : (s.setCx c x v).revokes = s.revokes := rfl
@[simp] theorem State.migs_setCx (s : State) (c x : Nat) (v : Ctx) : (s.setCx c x v).migs = s.migs := rfl
@[simp] theorem State.msgs_setCx (s : State) (c x : Nat) (v : Ctx) : (s.setCx c x v).msgs = s.msgs := rfl
@[simp] theorem State.tasks_setCx (s : State) (c x : Nat) (v : Ctx) : (s.setCx c x v).tasks = s.tasks := rfl
@[simp] theorem State.launches_setCx (s : State) (c x : Nat) (v : Ctx) : (s.setCx c x v).launches = s.launches := rfl
@[simp] theorem State.lqs_setCx (s : State) (c x : Nat) (v : Ctx) : (s.setCx c x v).lqs = s.lqs := rfl
@[simp] theorem State.aperture_setCx (s : State) (c x : Nat) (v : Ctx) : (s.setCx c x v).aperture = s.aperture := rfl
@[simp] theorem State.seq_setCx (s : State) (c x : Nat) (v : Ctx) : (s.setCx c x v).seq = s.seq := rfl
@[simp] theorem State.crBase_setCx (s : State) (c x : Nat) (v : Ctx) : (s.setCx c x v).crBase = s.crBase := rfl
@[simp] theorem State.crEn_setCx (s : State) (c x : Nat) (v : Ctx) : (s.setCx c x v).crEn = s.crEn := rfl
@[simp] theorem State.crLog_setCx (s : State) (c x : Nat) (v : Ctx) : (s.setCx c x v).crLog = s.crLog := rfl
@[simp] theorem State.crHead_setCx (s : State) (c x : Nat) (v : Ctx) : (s.setCx c x v).crHead = s.crHead := rfl
@[simp] theorem State.crTail_setCx (s : State) (c x : Nat) (v : Ctx) : (s.setCx c x v).crTail = s.crTail := rfl
@[simp] theorem State.holding_setCx (s : State) (c x : Nat) (v : Ctx) : (s.setCx c x v).holding = s.holding := rfl
@[simp] theorem State.ktBase_setCx (s : State) (c x : Nat) (v : Ctx) : (s.setCx c x v).ktBase = s.ktBase := rfl
@[simp] theorem State.preempt_setCx (s : State) (c x : Nat) (v : Ctx) : (s.setCx c x v).preempt = s.preempt := rfl
@[simp] theorem State.preload_setCx (s : State) (c x : Nat) (v : Ctx) : (s.setCx c x v).preload = s.preload := rfl
@[simp] theorem State.drainThr_setCx (s : State) (c x : Nat) (v : Ctx) : (s.setCx c x v).drainThr = s.drainThr := rfl
@[simp] theorem State.grace_setCx (s : State) (c x : Nat) (v : Ctx) : (s.setCx c x v).grace = s.grace := rfl
@[simp] theorem State.hwBase_setCx (s : State) (c x : Nat) (v : Ctx) : (s.setCx c x v).hwBase = s.hwBase := rfl
@[simp] theorem State.chipRoute_setCx (s : State) (c x : Nat) (v : Ctx) : (s.setCx c x v).chipRoute = s.chipRoute := rfl
@[simp] theorem State.chip_setCx (s : State) (c x : Nat) (v : Ctx) : (s.setCx c x v).chip = s.chip := rfl
@[simp] theorem State.doms_setCx (s : State) (c x : Nat) (v : Ctx) : (s.setCx c x v).doms = s.doms := rfl
@[simp] theorem State.bars_setCx (s : State) (c x : Nat) (v : Ctx) : (s.setCx c x v).bars = s.bars := rfl
@[simp] theorem State.ballots_setCx (s : State) (c x : Nat) (v : Ctx) : (s.setCx c x v).ballots = s.ballots := rfl
@[simp] theorem State.vaultEx_setCx (s : State) (c x : Nat) (v : Ctx) : (s.setCx c x v).vaultEx = s.vaultEx := rfl
@[simp] theorem State.hbmEx_setCx (s : State) (c x : Nat) (v : Ctx) : (s.setCx c x v).hbmEx = s.hbmEx := rfl
@[simp] theorem State.callStores_setCx (s : State) (c x : Nat) (v : Ctx) : (s.setCx c x v).callStores = s.callStores := rfl
@[simp] theorem State.beats_setCx (s : State) (c x : Nat) (v : Ctx) : (s.setCx c x v).beats = s.beats := rfl
@[simp] theorem State.away_setCx (s : State) (c x : Nat) (v : Ctx) : (s.setCx c x v).away = s.away := rfl
@[simp] theorem State.pendCalls_setCx (s : State) (c x : Nat) (v : Ctx) : (s.setCx c x v).pendCalls = s.pendCalls := rfl
@[simp] theorem State.links_setCx (s : State) (c x : Nat) (v : Ctx) : (s.setCx c x v).links = s.links := rfl
@[simp] theorem State.mg_setCx (s : State) (c x : Nat) (v : Ctx) : (s.setCx c x v).mg = s.mg := rfl
@[simp] theorem State.escs_setCx (s : State) (c x : Nat) (v : Ctx) : (s.setCx c x v).escs = s.escs := rfl
@[simp] theorem State.msix0_setCx (s : State) (c x : Nat) (v : Ctx) : (s.setCx c x v).msix0 = s.msix0 := rfl
@[simp] theorem State.msix1_setCx (s : State) (c x : Nat) (v : Ctx) : (s.setCx c x v).msix1 = s.msix1 := rfl
@[simp] theorem State.hostRead_setCx (s : State) (c x : Nat) (v : Ctx) : (s.setCx c x v).hostRead = s.hostRead := rfl

/-! ### `updCore` -/

@[simp] theorem State.agenda_updCore (s : State) (c : Nat) (f : Core → Core) : (s.updCore c f).agenda = s.agenda := rfl
@[simp] theorem State.iss_updCore (s : State) (c : Nat) (f : Core → Core) : (s.updCore c f).iss = s.iss := rfl
@[simp] theorem State.cycle_updCore (s : State) (c : Nat) (f : Core → Core) : (s.updCore c f).cycle = s.cycle := rfl
@[simp] theorem State.now_updCore (s : State) (c : Nat) (f : Core → Core) : (s.updCore c f).now = s.now := rfl
@[simp] theorem State.ids_updCore (s : State) (c : Nat) (f : Core → Core) : (s.updCore c f).ids = s.ids := rfl
@[simp] theorem State.frees_updCore (s : State) (c : Nat) (f : Core → Core) : (s.updCore c f).frees = s.frees := rfl
@[simp] theorem State.begun_updCore (s : State) (c : Nat) (f : Core → Core) : (s.updCore c f).begun = s.begun := rfl
@[simp] theorem State.mem_updCore (s : State) (c : Nat) (f : Core → Core) : (s.updCore c f).mem = s.mem := rfl
@[simp] theorem State.poison_updCore (s : State) (c : Nat) (f : Core → Core) : (s.updCore c f).poison = s.poison := rfl
@[simp] theorem State.empty_updCore (s : State) (c : Nat) (f : Core → Core) : (s.updCore c f).empty = s.empty := rfl
@[simp] theorem State.host_updCore (s : State) (c : Nat) (f : Core → Core) : (s.updCore c f).host = s.host := rfl
@[simp] theorem State.accs_updCore (s : State) (c : Nat) (f : Core → Core) : (s.updCore c f).accs = s.accs := rfl
@[simp] theorem State.groups_updCore (s : State) (c : Nat) (f : Core → Core) : (s.updCore c f).groups = s.groups := rfl
@[simp] theorem State.lands_updCore (s : State) (c : Nat) (f : Core → Core) : (s.updCore c f).lands = s.lands := rfl
@[simp] theorem State.walks_updCore (s : State) (c : Nat) (f : Core → Core) : (s.updCore c f).walks = s.walks := rfl
@[simp] theorem State.revokes_updCore (s : State) (c : Nat) (f : Core → Core) : (s.updCore c f).revokes = s.revokes := rfl
@[simp] theorem State.migs_updCore (s : State) (c : Nat) (f : Core → Core) : (s.updCore c f).migs = s.migs := rfl
@[simp] theorem State.msgs_updCore (s : State) (c : Nat) (f : Core → Core) : (s.updCore c f).msgs = s.msgs := rfl
@[simp] theorem State.tasks_updCore (s : State) (c : Nat) (f : Core → Core) : (s.updCore c f).tasks = s.tasks := rfl
@[simp] theorem State.launches_updCore (s : State) (c : Nat) (f : Core → Core) : (s.updCore c f).launches = s.launches := rfl
@[simp] theorem State.lqs_updCore (s : State) (c : Nat) (f : Core → Core) : (s.updCore c f).lqs = s.lqs := rfl
@[simp] theorem State.aperture_updCore (s : State) (c : Nat) (f : Core → Core) : (s.updCore c f).aperture = s.aperture := rfl
@[simp] theorem State.seq_updCore (s : State) (c : Nat) (f : Core → Core) : (s.updCore c f).seq = s.seq := rfl
@[simp] theorem State.crBase_updCore (s : State) (c : Nat) (f : Core → Core) : (s.updCore c f).crBase = s.crBase := rfl
@[simp] theorem State.crEn_updCore (s : State) (c : Nat) (f : Core → Core) : (s.updCore c f).crEn = s.crEn := rfl
@[simp] theorem State.crLog_updCore (s : State) (c : Nat) (f : Core → Core) : (s.updCore c f).crLog = s.crLog := rfl
@[simp] theorem State.crHead_updCore (s : State) (c : Nat) (f : Core → Core) : (s.updCore c f).crHead = s.crHead := rfl
@[simp] theorem State.crTail_updCore (s : State) (c : Nat) (f : Core → Core) : (s.updCore c f).crTail = s.crTail := rfl
@[simp] theorem State.holding_updCore (s : State) (c : Nat) (f : Core → Core) : (s.updCore c f).holding = s.holding := rfl
@[simp] theorem State.ktBase_updCore (s : State) (c : Nat) (f : Core → Core) : (s.updCore c f).ktBase = s.ktBase := rfl
@[simp] theorem State.preempt_updCore (s : State) (c : Nat) (f : Core → Core) : (s.updCore c f).preempt = s.preempt := rfl
@[simp] theorem State.preload_updCore (s : State) (c : Nat) (f : Core → Core) : (s.updCore c f).preload = s.preload := rfl
@[simp] theorem State.drainThr_updCore (s : State) (c : Nat) (f : Core → Core) : (s.updCore c f).drainThr = s.drainThr := rfl
@[simp] theorem State.grace_updCore (s : State) (c : Nat) (f : Core → Core) : (s.updCore c f).grace = s.grace := rfl
@[simp] theorem State.hwBase_updCore (s : State) (c : Nat) (f : Core → Core) : (s.updCore c f).hwBase = s.hwBase := rfl
@[simp] theorem State.chipRoute_updCore (s : State) (c : Nat) (f : Core → Core) : (s.updCore c f).chipRoute = s.chipRoute := rfl
@[simp] theorem State.chip_updCore (s : State) (c : Nat) (f : Core → Core) : (s.updCore c f).chip = s.chip := rfl
@[simp] theorem State.doms_updCore (s : State) (c : Nat) (f : Core → Core) : (s.updCore c f).doms = s.doms := rfl
@[simp] theorem State.bars_updCore (s : State) (c : Nat) (f : Core → Core) : (s.updCore c f).bars = s.bars := rfl
@[simp] theorem State.ballots_updCore (s : State) (c : Nat) (f : Core → Core) : (s.updCore c f).ballots = s.ballots := rfl
@[simp] theorem State.vaultEx_updCore (s : State) (c : Nat) (f : Core → Core) : (s.updCore c f).vaultEx = s.vaultEx := rfl
@[simp] theorem State.hbmEx_updCore (s : State) (c : Nat) (f : Core → Core) : (s.updCore c f).hbmEx = s.hbmEx := rfl
@[simp] theorem State.callStores_updCore (s : State) (c : Nat) (f : Core → Core) : (s.updCore c f).callStores = s.callStores := rfl
@[simp] theorem State.beats_updCore (s : State) (c : Nat) (f : Core → Core) : (s.updCore c f).beats = s.beats := rfl
@[simp] theorem State.away_updCore (s : State) (c : Nat) (f : Core → Core) : (s.updCore c f).away = s.away := rfl
@[simp] theorem State.pendCalls_updCore (s : State) (c : Nat) (f : Core → Core) : (s.updCore c f).pendCalls = s.pendCalls := rfl
@[simp] theorem State.links_updCore (s : State) (c : Nat) (f : Core → Core) : (s.updCore c f).links = s.links := rfl
@[simp] theorem State.mg_updCore (s : State) (c : Nat) (f : Core → Core) : (s.updCore c f).mg = s.mg := rfl
@[simp] theorem State.escs_updCore (s : State) (c : Nat) (f : Core → Core) : (s.updCore c f).escs = s.escs := rfl
@[simp] theorem State.msix0_updCore (s : State) (c : Nat) (f : Core → Core) : (s.updCore c f).msix0 = s.msix0 := rfl
@[simp] theorem State.msix1_updCore (s : State) (c : Nat) (f : Core → Core) : (s.updCore c f).msix1 = s.msix1 := rfl
@[simp] theorem State.hostRead_updCore (s : State) (c : Nat) (f : Core → Core) : (s.updCore c f).hostRead = s.hostRead := rfl

/-! ### `updCx` -/

@[simp] theorem State.agenda_updCx (s : State) (c x : Nat) (f : Ctx → Ctx) : (s.updCx c x f).agenda = s.agenda := rfl
@[simp] theorem State.iss_updCx (s : State) (c x : Nat) (f : Ctx → Ctx) : (s.updCx c x f).iss = s.iss := rfl
@[simp] theorem State.cycle_updCx (s : State) (c x : Nat) (f : Ctx → Ctx) : (s.updCx c x f).cycle = s.cycle := rfl
@[simp] theorem State.now_updCx (s : State) (c x : Nat) (f : Ctx → Ctx) : (s.updCx c x f).now = s.now := rfl
@[simp] theorem State.ids_updCx (s : State) (c x : Nat) (f : Ctx → Ctx) : (s.updCx c x f).ids = s.ids := rfl
@[simp] theorem State.frees_updCx (s : State) (c x : Nat) (f : Ctx → Ctx) : (s.updCx c x f).frees = s.frees := rfl
@[simp] theorem State.begun_updCx (s : State) (c x : Nat) (f : Ctx → Ctx) : (s.updCx c x f).begun = s.begun := rfl
@[simp] theorem State.mem_updCx (s : State) (c x : Nat) (f : Ctx → Ctx) : (s.updCx c x f).mem = s.mem := rfl
@[simp] theorem State.poison_updCx (s : State) (c x : Nat) (f : Ctx → Ctx) : (s.updCx c x f).poison = s.poison := rfl
@[simp] theorem State.empty_updCx (s : State) (c x : Nat) (f : Ctx → Ctx) : (s.updCx c x f).empty = s.empty := rfl
@[simp] theorem State.host_updCx (s : State) (c x : Nat) (f : Ctx → Ctx) : (s.updCx c x f).host = s.host := rfl
@[simp] theorem State.accs_updCx (s : State) (c x : Nat) (f : Ctx → Ctx) : (s.updCx c x f).accs = s.accs := rfl
@[simp] theorem State.groups_updCx (s : State) (c x : Nat) (f : Ctx → Ctx) : (s.updCx c x f).groups = s.groups := rfl
@[simp] theorem State.lands_updCx (s : State) (c x : Nat) (f : Ctx → Ctx) : (s.updCx c x f).lands = s.lands := rfl
@[simp] theorem State.walks_updCx (s : State) (c x : Nat) (f : Ctx → Ctx) : (s.updCx c x f).walks = s.walks := rfl
@[simp] theorem State.revokes_updCx (s : State) (c x : Nat) (f : Ctx → Ctx) : (s.updCx c x f).revokes = s.revokes := rfl
@[simp] theorem State.migs_updCx (s : State) (c x : Nat) (f : Ctx → Ctx) : (s.updCx c x f).migs = s.migs := rfl
@[simp] theorem State.msgs_updCx (s : State) (c x : Nat) (f : Ctx → Ctx) : (s.updCx c x f).msgs = s.msgs := rfl
@[simp] theorem State.tasks_updCx (s : State) (c x : Nat) (f : Ctx → Ctx) : (s.updCx c x f).tasks = s.tasks := rfl
@[simp] theorem State.launches_updCx (s : State) (c x : Nat) (f : Ctx → Ctx) : (s.updCx c x f).launches = s.launches := rfl
@[simp] theorem State.lqs_updCx (s : State) (c x : Nat) (f : Ctx → Ctx) : (s.updCx c x f).lqs = s.lqs := rfl
@[simp] theorem State.aperture_updCx (s : State) (c x : Nat) (f : Ctx → Ctx) : (s.updCx c x f).aperture = s.aperture := rfl
@[simp] theorem State.seq_updCx (s : State) (c x : Nat) (f : Ctx → Ctx) : (s.updCx c x f).seq = s.seq := rfl
@[simp] theorem State.crBase_updCx (s : State) (c x : Nat) (f : Ctx → Ctx) : (s.updCx c x f).crBase = s.crBase := rfl
@[simp] theorem State.crEn_updCx (s : State) (c x : Nat) (f : Ctx → Ctx) : (s.updCx c x f).crEn = s.crEn := rfl
@[simp] theorem State.crLog_updCx (s : State) (c x : Nat) (f : Ctx → Ctx) : (s.updCx c x f).crLog = s.crLog := rfl
@[simp] theorem State.crHead_updCx (s : State) (c x : Nat) (f : Ctx → Ctx) : (s.updCx c x f).crHead = s.crHead := rfl
@[simp] theorem State.crTail_updCx (s : State) (c x : Nat) (f : Ctx → Ctx) : (s.updCx c x f).crTail = s.crTail := rfl
@[simp] theorem State.holding_updCx (s : State) (c x : Nat) (f : Ctx → Ctx) : (s.updCx c x f).holding = s.holding := rfl
@[simp] theorem State.ktBase_updCx (s : State) (c x : Nat) (f : Ctx → Ctx) : (s.updCx c x f).ktBase = s.ktBase := rfl
@[simp] theorem State.preempt_updCx (s : State) (c x : Nat) (f : Ctx → Ctx) : (s.updCx c x f).preempt = s.preempt := rfl
@[simp] theorem State.preload_updCx (s : State) (c x : Nat) (f : Ctx → Ctx) : (s.updCx c x f).preload = s.preload := rfl
@[simp] theorem State.drainThr_updCx (s : State) (c x : Nat) (f : Ctx → Ctx) : (s.updCx c x f).drainThr = s.drainThr := rfl
@[simp] theorem State.grace_updCx (s : State) (c x : Nat) (f : Ctx → Ctx) : (s.updCx c x f).grace = s.grace := rfl
@[simp] theorem State.hwBase_updCx (s : State) (c x : Nat) (f : Ctx → Ctx) : (s.updCx c x f).hwBase = s.hwBase := rfl
@[simp] theorem State.chipRoute_updCx (s : State) (c x : Nat) (f : Ctx → Ctx) : (s.updCx c x f).chipRoute = s.chipRoute := rfl
@[simp] theorem State.chip_updCx (s : State) (c x : Nat) (f : Ctx → Ctx) : (s.updCx c x f).chip = s.chip := rfl
@[simp] theorem State.doms_updCx (s : State) (c x : Nat) (f : Ctx → Ctx) : (s.updCx c x f).doms = s.doms := rfl
@[simp] theorem State.bars_updCx (s : State) (c x : Nat) (f : Ctx → Ctx) : (s.updCx c x f).bars = s.bars := rfl
@[simp] theorem State.ballots_updCx (s : State) (c x : Nat) (f : Ctx → Ctx) : (s.updCx c x f).ballots = s.ballots := rfl
@[simp] theorem State.vaultEx_updCx (s : State) (c x : Nat) (f : Ctx → Ctx) : (s.updCx c x f).vaultEx = s.vaultEx := rfl
@[simp] theorem State.hbmEx_updCx (s : State) (c x : Nat) (f : Ctx → Ctx) : (s.updCx c x f).hbmEx = s.hbmEx := rfl
@[simp] theorem State.callStores_updCx (s : State) (c x : Nat) (f : Ctx → Ctx) : (s.updCx c x f).callStores = s.callStores := rfl
@[simp] theorem State.beats_updCx (s : State) (c x : Nat) (f : Ctx → Ctx) : (s.updCx c x f).beats = s.beats := rfl
@[simp] theorem State.away_updCx (s : State) (c x : Nat) (f : Ctx → Ctx) : (s.updCx c x f).away = s.away := rfl
@[simp] theorem State.pendCalls_updCx (s : State) (c x : Nat) (f : Ctx → Ctx) : (s.updCx c x f).pendCalls = s.pendCalls := rfl
@[simp] theorem State.links_updCx (s : State) (c x : Nat) (f : Ctx → Ctx) : (s.updCx c x f).links = s.links := rfl
@[simp] theorem State.mg_updCx (s : State) (c x : Nat) (f : Ctx → Ctx) : (s.updCx c x f).mg = s.mg := rfl
@[simp] theorem State.escs_updCx (s : State) (c x : Nat) (f : Ctx → Ctx) : (s.updCx c x f).escs = s.escs := rfl
@[simp] theorem State.msix0_updCx (s : State) (c x : Nat) (f : Ctx → Ctx) : (s.updCx c x f).msix0 = s.msix0 := rfl
@[simp] theorem State.msix1_updCx (s : State) (c x : Nat) (f : Ctx → Ctx) : (s.updCx c x f).msix1 = s.msix1 := rfl
@[simp] theorem State.hostRead_updCx (s : State) (c x : Nat) (f : Ctx → Ctx) : (s.updCx c x f).hostRead = s.hostRead := rfl

/-! ### `updMe` -/

@[simp] theorem State.agenda_updMe (s : State) (f : Ctx → Ctx) : (s.updMe f).agenda = s.agenda := rfl
@[simp] theorem State.iss_updMe (s : State) (f : Ctx → Ctx) : (s.updMe f).iss = s.iss := rfl
@[simp] theorem State.cycle_updMe (s : State) (f : Ctx → Ctx) : (s.updMe f).cycle = s.cycle := rfl
@[simp] theorem State.now_updMe (s : State) (f : Ctx → Ctx) : (s.updMe f).now = s.now := rfl
@[simp] theorem State.ids_updMe (s : State) (f : Ctx → Ctx) : (s.updMe f).ids = s.ids := rfl
@[simp] theorem State.frees_updMe (s : State) (f : Ctx → Ctx) : (s.updMe f).frees = s.frees := rfl
@[simp] theorem State.begun_updMe (s : State) (f : Ctx → Ctx) : (s.updMe f).begun = s.begun := rfl
@[simp] theorem State.mem_updMe (s : State) (f : Ctx → Ctx) : (s.updMe f).mem = s.mem := rfl
@[simp] theorem State.poison_updMe (s : State) (f : Ctx → Ctx) : (s.updMe f).poison = s.poison := rfl
@[simp] theorem State.empty_updMe (s : State) (f : Ctx → Ctx) : (s.updMe f).empty = s.empty := rfl
@[simp] theorem State.host_updMe (s : State) (f : Ctx → Ctx) : (s.updMe f).host = s.host := rfl
@[simp] theorem State.accs_updMe (s : State) (f : Ctx → Ctx) : (s.updMe f).accs = s.accs := rfl
@[simp] theorem State.groups_updMe (s : State) (f : Ctx → Ctx) : (s.updMe f).groups = s.groups := rfl
@[simp] theorem State.lands_updMe (s : State) (f : Ctx → Ctx) : (s.updMe f).lands = s.lands := rfl
@[simp] theorem State.walks_updMe (s : State) (f : Ctx → Ctx) : (s.updMe f).walks = s.walks := rfl
@[simp] theorem State.revokes_updMe (s : State) (f : Ctx → Ctx) : (s.updMe f).revokes = s.revokes := rfl
@[simp] theorem State.migs_updMe (s : State) (f : Ctx → Ctx) : (s.updMe f).migs = s.migs := rfl
@[simp] theorem State.msgs_updMe (s : State) (f : Ctx → Ctx) : (s.updMe f).msgs = s.msgs := rfl
@[simp] theorem State.tasks_updMe (s : State) (f : Ctx → Ctx) : (s.updMe f).tasks = s.tasks := rfl
@[simp] theorem State.launches_updMe (s : State) (f : Ctx → Ctx) : (s.updMe f).launches = s.launches := rfl
@[simp] theorem State.lqs_updMe (s : State) (f : Ctx → Ctx) : (s.updMe f).lqs = s.lqs := rfl
@[simp] theorem State.aperture_updMe (s : State) (f : Ctx → Ctx) : (s.updMe f).aperture = s.aperture := rfl
@[simp] theorem State.seq_updMe (s : State) (f : Ctx → Ctx) : (s.updMe f).seq = s.seq := rfl
@[simp] theorem State.crBase_updMe (s : State) (f : Ctx → Ctx) : (s.updMe f).crBase = s.crBase := rfl
@[simp] theorem State.crEn_updMe (s : State) (f : Ctx → Ctx) : (s.updMe f).crEn = s.crEn := rfl
@[simp] theorem State.crLog_updMe (s : State) (f : Ctx → Ctx) : (s.updMe f).crLog = s.crLog := rfl
@[simp] theorem State.crHead_updMe (s : State) (f : Ctx → Ctx) : (s.updMe f).crHead = s.crHead := rfl
@[simp] theorem State.crTail_updMe (s : State) (f : Ctx → Ctx) : (s.updMe f).crTail = s.crTail := rfl
@[simp] theorem State.holding_updMe (s : State) (f : Ctx → Ctx) : (s.updMe f).holding = s.holding := rfl
@[simp] theorem State.ktBase_updMe (s : State) (f : Ctx → Ctx) : (s.updMe f).ktBase = s.ktBase := rfl
@[simp] theorem State.preempt_updMe (s : State) (f : Ctx → Ctx) : (s.updMe f).preempt = s.preempt := rfl
@[simp] theorem State.preload_updMe (s : State) (f : Ctx → Ctx) : (s.updMe f).preload = s.preload := rfl
@[simp] theorem State.drainThr_updMe (s : State) (f : Ctx → Ctx) : (s.updMe f).drainThr = s.drainThr := rfl
@[simp] theorem State.grace_updMe (s : State) (f : Ctx → Ctx) : (s.updMe f).grace = s.grace := rfl
@[simp] theorem State.hwBase_updMe (s : State) (f : Ctx → Ctx) : (s.updMe f).hwBase = s.hwBase := rfl
@[simp] theorem State.chipRoute_updMe (s : State) (f : Ctx → Ctx) : (s.updMe f).chipRoute = s.chipRoute := rfl
@[simp] theorem State.chip_updMe (s : State) (f : Ctx → Ctx) : (s.updMe f).chip = s.chip := rfl
@[simp] theorem State.doms_updMe (s : State) (f : Ctx → Ctx) : (s.updMe f).doms = s.doms := rfl
@[simp] theorem State.bars_updMe (s : State) (f : Ctx → Ctx) : (s.updMe f).bars = s.bars := rfl
@[simp] theorem State.ballots_updMe (s : State) (f : Ctx → Ctx) : (s.updMe f).ballots = s.ballots := rfl
@[simp] theorem State.vaultEx_updMe (s : State) (f : Ctx → Ctx) : (s.updMe f).vaultEx = s.vaultEx := rfl
@[simp] theorem State.hbmEx_updMe (s : State) (f : Ctx → Ctx) : (s.updMe f).hbmEx = s.hbmEx := rfl
@[simp] theorem State.callStores_updMe (s : State) (f : Ctx → Ctx) : (s.updMe f).callStores = s.callStores := rfl
@[simp] theorem State.beats_updMe (s : State) (f : Ctx → Ctx) : (s.updMe f).beats = s.beats := rfl
@[simp] theorem State.away_updMe (s : State) (f : Ctx → Ctx) : (s.updMe f).away = s.away := rfl
@[simp] theorem State.pendCalls_updMe (s : State) (f : Ctx → Ctx) : (s.updMe f).pendCalls = s.pendCalls := rfl
@[simp] theorem State.links_updMe (s : State) (f : Ctx → Ctx) : (s.updMe f).links = s.links := rfl
@[simp] theorem State.mg_updMe (s : State) (f : Ctx → Ctx) : (s.updMe f).mg = s.mg := rfl
@[simp] theorem State.escs_updMe (s : State) (f : Ctx → Ctx) : (s.updMe f).escs = s.escs := rfl
@[simp] theorem State.msix0_updMe (s : State) (f : Ctx → Ctx) : (s.updMe f).msix0 = s.msix0 := rfl
@[simp] theorem State.msix1_updMe (s : State) (f : Ctx → Ctx) : (s.updMe f).msix1 = s.msix1 := rfl
@[simp] theorem State.hostRead_updMe (s : State) (f : Ctx → Ctx) : (s.updMe f).hostRead = s.hostRead := rfl

/-! ### `updMyCore` -/

@[simp] theorem State.agenda_updMyCore (s : State) (f : Core → Core) : (s.updMyCore f).agenda = s.agenda := rfl
@[simp] theorem State.iss_updMyCore (s : State) (f : Core → Core) : (s.updMyCore f).iss = s.iss := rfl
@[simp] theorem State.cycle_updMyCore (s : State) (f : Core → Core) : (s.updMyCore f).cycle = s.cycle := rfl
@[simp] theorem State.now_updMyCore (s : State) (f : Core → Core) : (s.updMyCore f).now = s.now := rfl
@[simp] theorem State.ids_updMyCore (s : State) (f : Core → Core) : (s.updMyCore f).ids = s.ids := rfl
@[simp] theorem State.frees_updMyCore (s : State) (f : Core → Core) : (s.updMyCore f).frees = s.frees := rfl
@[simp] theorem State.begun_updMyCore (s : State) (f : Core → Core) : (s.updMyCore f).begun = s.begun := rfl
@[simp] theorem State.mem_updMyCore (s : State) (f : Core → Core) : (s.updMyCore f).mem = s.mem := rfl
@[simp] theorem State.poison_updMyCore (s : State) (f : Core → Core) : (s.updMyCore f).poison = s.poison := rfl
@[simp] theorem State.empty_updMyCore (s : State) (f : Core → Core) : (s.updMyCore f).empty = s.empty := rfl
@[simp] theorem State.host_updMyCore (s : State) (f : Core → Core) : (s.updMyCore f).host = s.host := rfl
@[simp] theorem State.accs_updMyCore (s : State) (f : Core → Core) : (s.updMyCore f).accs = s.accs := rfl
@[simp] theorem State.groups_updMyCore (s : State) (f : Core → Core) : (s.updMyCore f).groups = s.groups := rfl
@[simp] theorem State.lands_updMyCore (s : State) (f : Core → Core) : (s.updMyCore f).lands = s.lands := rfl
@[simp] theorem State.walks_updMyCore (s : State) (f : Core → Core) : (s.updMyCore f).walks = s.walks := rfl
@[simp] theorem State.revokes_updMyCore (s : State) (f : Core → Core) : (s.updMyCore f).revokes = s.revokes := rfl
@[simp] theorem State.migs_updMyCore (s : State) (f : Core → Core) : (s.updMyCore f).migs = s.migs := rfl
@[simp] theorem State.msgs_updMyCore (s : State) (f : Core → Core) : (s.updMyCore f).msgs = s.msgs := rfl
@[simp] theorem State.tasks_updMyCore (s : State) (f : Core → Core) : (s.updMyCore f).tasks = s.tasks := rfl
@[simp] theorem State.launches_updMyCore (s : State) (f : Core → Core) : (s.updMyCore f).launches = s.launches := rfl
@[simp] theorem State.lqs_updMyCore (s : State) (f : Core → Core) : (s.updMyCore f).lqs = s.lqs := rfl
@[simp] theorem State.aperture_updMyCore (s : State) (f : Core → Core) : (s.updMyCore f).aperture = s.aperture := rfl
@[simp] theorem State.seq_updMyCore (s : State) (f : Core → Core) : (s.updMyCore f).seq = s.seq := rfl
@[simp] theorem State.crBase_updMyCore (s : State) (f : Core → Core) : (s.updMyCore f).crBase = s.crBase := rfl
@[simp] theorem State.crEn_updMyCore (s : State) (f : Core → Core) : (s.updMyCore f).crEn = s.crEn := rfl
@[simp] theorem State.crLog_updMyCore (s : State) (f : Core → Core) : (s.updMyCore f).crLog = s.crLog := rfl
@[simp] theorem State.crHead_updMyCore (s : State) (f : Core → Core) : (s.updMyCore f).crHead = s.crHead := rfl
@[simp] theorem State.crTail_updMyCore (s : State) (f : Core → Core) : (s.updMyCore f).crTail = s.crTail := rfl
@[simp] theorem State.holding_updMyCore (s : State) (f : Core → Core) : (s.updMyCore f).holding = s.holding := rfl
@[simp] theorem State.ktBase_updMyCore (s : State) (f : Core → Core) : (s.updMyCore f).ktBase = s.ktBase := rfl
@[simp] theorem State.preempt_updMyCore (s : State) (f : Core → Core) : (s.updMyCore f).preempt = s.preempt := rfl
@[simp] theorem State.preload_updMyCore (s : State) (f : Core → Core) : (s.updMyCore f).preload = s.preload := rfl
@[simp] theorem State.drainThr_updMyCore (s : State) (f : Core → Core) : (s.updMyCore f).drainThr = s.drainThr := rfl
@[simp] theorem State.grace_updMyCore (s : State) (f : Core → Core) : (s.updMyCore f).grace = s.grace := rfl
@[simp] theorem State.hwBase_updMyCore (s : State) (f : Core → Core) : (s.updMyCore f).hwBase = s.hwBase := rfl
@[simp] theorem State.chipRoute_updMyCore (s : State) (f : Core → Core) : (s.updMyCore f).chipRoute = s.chipRoute := rfl
@[simp] theorem State.chip_updMyCore (s : State) (f : Core → Core) : (s.updMyCore f).chip = s.chip := rfl
@[simp] theorem State.doms_updMyCore (s : State) (f : Core → Core) : (s.updMyCore f).doms = s.doms := rfl
@[simp] theorem State.bars_updMyCore (s : State) (f : Core → Core) : (s.updMyCore f).bars = s.bars := rfl
@[simp] theorem State.ballots_updMyCore (s : State) (f : Core → Core) : (s.updMyCore f).ballots = s.ballots := rfl
@[simp] theorem State.vaultEx_updMyCore (s : State) (f : Core → Core) : (s.updMyCore f).vaultEx = s.vaultEx := rfl
@[simp] theorem State.hbmEx_updMyCore (s : State) (f : Core → Core) : (s.updMyCore f).hbmEx = s.hbmEx := rfl
@[simp] theorem State.callStores_updMyCore (s : State) (f : Core → Core) : (s.updMyCore f).callStores = s.callStores := rfl
@[simp] theorem State.beats_updMyCore (s : State) (f : Core → Core) : (s.updMyCore f).beats = s.beats := rfl
@[simp] theorem State.away_updMyCore (s : State) (f : Core → Core) : (s.updMyCore f).away = s.away := rfl
@[simp] theorem State.pendCalls_updMyCore (s : State) (f : Core → Core) : (s.updMyCore f).pendCalls = s.pendCalls := rfl
@[simp] theorem State.links_updMyCore (s : State) (f : Core → Core) : (s.updMyCore f).links = s.links := rfl
@[simp] theorem State.mg_updMyCore (s : State) (f : Core → Core) : (s.updMyCore f).mg = s.mg := rfl
@[simp] theorem State.escs_updMyCore (s : State) (f : Core → Core) : (s.updMyCore f).escs = s.escs := rfl
@[simp] theorem State.msix0_updMyCore (s : State) (f : Core → Core) : (s.updMyCore f).msix0 = s.msix0 := rfl
@[simp] theorem State.msix1_updMyCore (s : State) (f : Core → Core) : (s.updMyCore f).msix1 = s.msix1 := rfl
@[simp] theorem State.hostRead_updMyCore (s : State) (f : Core → Core) : (s.updMyCore f).hostRead = s.hostRead := rfl

/-! ### `updTask` -/

@[simp] theorem State.agenda_updTask (s : State) (t : Nat) (f : Task → Task) : (s.updTask t f).agenda = s.agenda := rfl
@[simp] theorem State.iss_updTask (s : State) (t : Nat) (f : Task → Task) : (s.updTask t f).iss = s.iss := rfl
@[simp] theorem State.cycle_updTask (s : State) (t : Nat) (f : Task → Task) : (s.updTask t f).cycle = s.cycle := rfl
@[simp] theorem State.now_updTask (s : State) (t : Nat) (f : Task → Task) : (s.updTask t f).now = s.now := rfl
@[simp] theorem State.ids_updTask (s : State) (t : Nat) (f : Task → Task) : (s.updTask t f).ids = s.ids := rfl
@[simp] theorem State.frees_updTask (s : State) (t : Nat) (f : Task → Task) : (s.updTask t f).frees = s.frees := rfl
@[simp] theorem State.begun_updTask (s : State) (t : Nat) (f : Task → Task) : (s.updTask t f).begun = s.begun := rfl
@[simp] theorem State.cores_updTask (s : State) (t : Nat) (f : Task → Task) : (s.updTask t f).cores = s.cores := rfl
@[simp] theorem State.mem_updTask (s : State) (t : Nat) (f : Task → Task) : (s.updTask t f).mem = s.mem := rfl
@[simp] theorem State.poison_updTask (s : State) (t : Nat) (f : Task → Task) : (s.updTask t f).poison = s.poison := rfl
@[simp] theorem State.empty_updTask (s : State) (t : Nat) (f : Task → Task) : (s.updTask t f).empty = s.empty := rfl
@[simp] theorem State.host_updTask (s : State) (t : Nat) (f : Task → Task) : (s.updTask t f).host = s.host := rfl
@[simp] theorem State.accs_updTask (s : State) (t : Nat) (f : Task → Task) : (s.updTask t f).accs = s.accs := rfl
@[simp] theorem State.groups_updTask (s : State) (t : Nat) (f : Task → Task) : (s.updTask t f).groups = s.groups := rfl
@[simp] theorem State.lands_updTask (s : State) (t : Nat) (f : Task → Task) : (s.updTask t f).lands = s.lands := rfl
@[simp] theorem State.walks_updTask (s : State) (t : Nat) (f : Task → Task) : (s.updTask t f).walks = s.walks := rfl
@[simp] theorem State.revokes_updTask (s : State) (t : Nat) (f : Task → Task) : (s.updTask t f).revokes = s.revokes := rfl
@[simp] theorem State.migs_updTask (s : State) (t : Nat) (f : Task → Task) : (s.updTask t f).migs = s.migs := rfl
@[simp] theorem State.msgs_updTask (s : State) (t : Nat) (f : Task → Task) : (s.updTask t f).msgs = s.msgs := rfl
@[simp] theorem State.launches_updTask (s : State) (t : Nat) (f : Task → Task) : (s.updTask t f).launches = s.launches := rfl
@[simp] theorem State.lqs_updTask (s : State) (t : Nat) (f : Task → Task) : (s.updTask t f).lqs = s.lqs := rfl
@[simp] theorem State.aperture_updTask (s : State) (t : Nat) (f : Task → Task) : (s.updTask t f).aperture = s.aperture := rfl
@[simp] theorem State.seq_updTask (s : State) (t : Nat) (f : Task → Task) : (s.updTask t f).seq = s.seq := rfl
@[simp] theorem State.crBase_updTask (s : State) (t : Nat) (f : Task → Task) : (s.updTask t f).crBase = s.crBase := rfl
@[simp] theorem State.crEn_updTask (s : State) (t : Nat) (f : Task → Task) : (s.updTask t f).crEn = s.crEn := rfl
@[simp] theorem State.crLog_updTask (s : State) (t : Nat) (f : Task → Task) : (s.updTask t f).crLog = s.crLog := rfl
@[simp] theorem State.crHead_updTask (s : State) (t : Nat) (f : Task → Task) : (s.updTask t f).crHead = s.crHead := rfl
@[simp] theorem State.crTail_updTask (s : State) (t : Nat) (f : Task → Task) : (s.updTask t f).crTail = s.crTail := rfl
@[simp] theorem State.holding_updTask (s : State) (t : Nat) (f : Task → Task) : (s.updTask t f).holding = s.holding := rfl
@[simp] theorem State.ktBase_updTask (s : State) (t : Nat) (f : Task → Task) : (s.updTask t f).ktBase = s.ktBase := rfl
@[simp] theorem State.preempt_updTask (s : State) (t : Nat) (f : Task → Task) : (s.updTask t f).preempt = s.preempt := rfl
@[simp] theorem State.preload_updTask (s : State) (t : Nat) (f : Task → Task) : (s.updTask t f).preload = s.preload := rfl
@[simp] theorem State.drainThr_updTask (s : State) (t : Nat) (f : Task → Task) : (s.updTask t f).drainThr = s.drainThr := rfl
@[simp] theorem State.grace_updTask (s : State) (t : Nat) (f : Task → Task) : (s.updTask t f).grace = s.grace := rfl
@[simp] theorem State.hwBase_updTask (s : State) (t : Nat) (f : Task → Task) : (s.updTask t f).hwBase = s.hwBase := rfl
@[simp] theorem State.chipRoute_updTask (s : State) (t : Nat) (f : Task → Task) : (s.updTask t f).chipRoute = s.chipRoute := rfl
@[simp] theorem State.chip_updTask (s : State) (t : Nat) (f : Task → Task) : (s.updTask t f).chip = s.chip := rfl
@[simp] theorem State.doms_updTask (s : State) (t : Nat) (f : Task → Task) : (s.updTask t f).doms = s.doms := rfl
@[simp] theorem State.bars_updTask (s : State) (t : Nat) (f : Task → Task) : (s.updTask t f).bars = s.bars := rfl
@[simp] theorem State.ballots_updTask (s : State) (t : Nat) (f : Task → Task) : (s.updTask t f).ballots = s.ballots := rfl
@[simp] theorem State.vaultEx_updTask (s : State) (t : Nat) (f : Task → Task) : (s.updTask t f).vaultEx = s.vaultEx := rfl
@[simp] theorem State.hbmEx_updTask (s : State) (t : Nat) (f : Task → Task) : (s.updTask t f).hbmEx = s.hbmEx := rfl
@[simp] theorem State.callStores_updTask (s : State) (t : Nat) (f : Task → Task) : (s.updTask t f).callStores = s.callStores := rfl
@[simp] theorem State.beats_updTask (s : State) (t : Nat) (f : Task → Task) : (s.updTask t f).beats = s.beats := rfl
@[simp] theorem State.away_updTask (s : State) (t : Nat) (f : Task → Task) : (s.updTask t f).away = s.away := rfl
@[simp] theorem State.pendCalls_updTask (s : State) (t : Nat) (f : Task → Task) : (s.updTask t f).pendCalls = s.pendCalls := rfl
@[simp] theorem State.links_updTask (s : State) (t : Nat) (f : Task → Task) : (s.updTask t f).links = s.links := rfl
@[simp] theorem State.mg_updTask (s : State) (t : Nat) (f : Task → Task) : (s.updTask t f).mg = s.mg := rfl
@[simp] theorem State.escs_updTask (s : State) (t : Nat) (f : Task → Task) : (s.updTask t f).escs = s.escs := rfl
@[simp] theorem State.msix0_updTask (s : State) (t : Nat) (f : Task → Task) : (s.updTask t f).msix0 = s.msix0 := rfl
@[simp] theorem State.msix1_updTask (s : State) (t : Nat) (f : Task → Task) : (s.updTask t f).msix1 = s.msix1 := rfl
@[simp] theorem State.hostRead_updTask (s : State) (t : Nat) (f : Task → Task) : (s.updTask t f).hostRead = s.hostRead := rfl

/-! ### `updLaunch` -/

@[simp] theorem State.agenda_updLaunch (s : State) (l : Nat) (f : Launch → Launch) : (s.updLaunch l f).agenda = s.agenda := rfl
@[simp] theorem State.iss_updLaunch (s : State) (l : Nat) (f : Launch → Launch) : (s.updLaunch l f).iss = s.iss := rfl
@[simp] theorem State.cycle_updLaunch (s : State) (l : Nat) (f : Launch → Launch) : (s.updLaunch l f).cycle = s.cycle := rfl
@[simp] theorem State.now_updLaunch (s : State) (l : Nat) (f : Launch → Launch) : (s.updLaunch l f).now = s.now := rfl
@[simp] theorem State.ids_updLaunch (s : State) (l : Nat) (f : Launch → Launch) : (s.updLaunch l f).ids = s.ids := rfl
@[simp] theorem State.frees_updLaunch (s : State) (l : Nat) (f : Launch → Launch) : (s.updLaunch l f).frees = s.frees := rfl
@[simp] theorem State.begun_updLaunch (s : State) (l : Nat) (f : Launch → Launch) : (s.updLaunch l f).begun = s.begun := rfl
@[simp] theorem State.cores_updLaunch (s : State) (l : Nat) (f : Launch → Launch) : (s.updLaunch l f).cores = s.cores := rfl
@[simp] theorem State.mem_updLaunch (s : State) (l : Nat) (f : Launch → Launch) : (s.updLaunch l f).mem = s.mem := rfl
@[simp] theorem State.poison_updLaunch (s : State) (l : Nat) (f : Launch → Launch) : (s.updLaunch l f).poison = s.poison := rfl
@[simp] theorem State.empty_updLaunch (s : State) (l : Nat) (f : Launch → Launch) : (s.updLaunch l f).empty = s.empty := rfl
@[simp] theorem State.host_updLaunch (s : State) (l : Nat) (f : Launch → Launch) : (s.updLaunch l f).host = s.host := rfl
@[simp] theorem State.accs_updLaunch (s : State) (l : Nat) (f : Launch → Launch) : (s.updLaunch l f).accs = s.accs := rfl
@[simp] theorem State.groups_updLaunch (s : State) (l : Nat) (f : Launch → Launch) : (s.updLaunch l f).groups = s.groups := rfl
@[simp] theorem State.lands_updLaunch (s : State) (l : Nat) (f : Launch → Launch) : (s.updLaunch l f).lands = s.lands := rfl
@[simp] theorem State.walks_updLaunch (s : State) (l : Nat) (f : Launch → Launch) : (s.updLaunch l f).walks = s.walks := rfl
@[simp] theorem State.revokes_updLaunch (s : State) (l : Nat) (f : Launch → Launch) : (s.updLaunch l f).revokes = s.revokes := rfl
@[simp] theorem State.migs_updLaunch (s : State) (l : Nat) (f : Launch → Launch) : (s.updLaunch l f).migs = s.migs := rfl
@[simp] theorem State.msgs_updLaunch (s : State) (l : Nat) (f : Launch → Launch) : (s.updLaunch l f).msgs = s.msgs := rfl
@[simp] theorem State.tasks_updLaunch (s : State) (l : Nat) (f : Launch → Launch) : (s.updLaunch l f).tasks = s.tasks := rfl
@[simp] theorem State.lqs_updLaunch (s : State) (l : Nat) (f : Launch → Launch) : (s.updLaunch l f).lqs = s.lqs := rfl
@[simp] theorem State.aperture_updLaunch (s : State) (l : Nat) (f : Launch → Launch) : (s.updLaunch l f).aperture = s.aperture := rfl
@[simp] theorem State.seq_updLaunch (s : State) (l : Nat) (f : Launch → Launch) : (s.updLaunch l f).seq = s.seq := rfl
@[simp] theorem State.crBase_updLaunch (s : State) (l : Nat) (f : Launch → Launch) : (s.updLaunch l f).crBase = s.crBase := rfl
@[simp] theorem State.crEn_updLaunch (s : State) (l : Nat) (f : Launch → Launch) : (s.updLaunch l f).crEn = s.crEn := rfl
@[simp] theorem State.crLog_updLaunch (s : State) (l : Nat) (f : Launch → Launch) : (s.updLaunch l f).crLog = s.crLog := rfl
@[simp] theorem State.crHead_updLaunch (s : State) (l : Nat) (f : Launch → Launch) : (s.updLaunch l f).crHead = s.crHead := rfl
@[simp] theorem State.crTail_updLaunch (s : State) (l : Nat) (f : Launch → Launch) : (s.updLaunch l f).crTail = s.crTail := rfl
@[simp] theorem State.holding_updLaunch (s : State) (l : Nat) (f : Launch → Launch) : (s.updLaunch l f).holding = s.holding := rfl
@[simp] theorem State.ktBase_updLaunch (s : State) (l : Nat) (f : Launch → Launch) : (s.updLaunch l f).ktBase = s.ktBase := rfl
@[simp] theorem State.preempt_updLaunch (s : State) (l : Nat) (f : Launch → Launch) : (s.updLaunch l f).preempt = s.preempt := rfl
@[simp] theorem State.preload_updLaunch (s : State) (l : Nat) (f : Launch → Launch) : (s.updLaunch l f).preload = s.preload := rfl
@[simp] theorem State.drainThr_updLaunch (s : State) (l : Nat) (f : Launch → Launch) : (s.updLaunch l f).drainThr = s.drainThr := rfl
@[simp] theorem State.grace_updLaunch (s : State) (l : Nat) (f : Launch → Launch) : (s.updLaunch l f).grace = s.grace := rfl
@[simp] theorem State.hwBase_updLaunch (s : State) (l : Nat) (f : Launch → Launch) : (s.updLaunch l f).hwBase = s.hwBase := rfl
@[simp] theorem State.chipRoute_updLaunch (s : State) (l : Nat) (f : Launch → Launch) : (s.updLaunch l f).chipRoute = s.chipRoute := rfl
@[simp] theorem State.chip_updLaunch (s : State) (l : Nat) (f : Launch → Launch) : (s.updLaunch l f).chip = s.chip := rfl
@[simp] theorem State.doms_updLaunch (s : State) (l : Nat) (f : Launch → Launch) : (s.updLaunch l f).doms = s.doms := rfl
@[simp] theorem State.bars_updLaunch (s : State) (l : Nat) (f : Launch → Launch) : (s.updLaunch l f).bars = s.bars := rfl
@[simp] theorem State.ballots_updLaunch (s : State) (l : Nat) (f : Launch → Launch) : (s.updLaunch l f).ballots = s.ballots := rfl
@[simp] theorem State.vaultEx_updLaunch (s : State) (l : Nat) (f : Launch → Launch) : (s.updLaunch l f).vaultEx = s.vaultEx := rfl
@[simp] theorem State.hbmEx_updLaunch (s : State) (l : Nat) (f : Launch → Launch) : (s.updLaunch l f).hbmEx = s.hbmEx := rfl
@[simp] theorem State.callStores_updLaunch (s : State) (l : Nat) (f : Launch → Launch) : (s.updLaunch l f).callStores = s.callStores := rfl
@[simp] theorem State.beats_updLaunch (s : State) (l : Nat) (f : Launch → Launch) : (s.updLaunch l f).beats = s.beats := rfl
@[simp] theorem State.away_updLaunch (s : State) (l : Nat) (f : Launch → Launch) : (s.updLaunch l f).away = s.away := rfl
@[simp] theorem State.pendCalls_updLaunch (s : State) (l : Nat) (f : Launch → Launch) : (s.updLaunch l f).pendCalls = s.pendCalls := rfl
@[simp] theorem State.links_updLaunch (s : State) (l : Nat) (f : Launch → Launch) : (s.updLaunch l f).links = s.links := rfl
@[simp] theorem State.mg_updLaunch (s : State) (l : Nat) (f : Launch → Launch) : (s.updLaunch l f).mg = s.mg := rfl
@[simp] theorem State.escs_updLaunch (s : State) (l : Nat) (f : Launch → Launch) : (s.updLaunch l f).escs = s.escs := rfl
@[simp] theorem State.msix0_updLaunch (s : State) (l : Nat) (f : Launch → Launch) : (s.updLaunch l f).msix0 = s.msix0 := rfl
@[simp] theorem State.msix1_updLaunch (s : State) (l : Nat) (f : Launch → Launch) : (s.updLaunch l f).msix1 = s.msix1 := rfl
@[simp] theorem State.hostRead_updLaunch (s : State) (l : Nat) (f : Launch → Launch) : (s.updLaunch l f).hostRead = s.hostRead := rfl

/-! ### `escalate` -/

@[simp] theorem State.agenda_escalate (s : State) (e : Escalation) : (s.escalate e).agenda = s.agenda := rfl
@[simp] theorem State.iss_escalate (s : State) (e : Escalation) : (s.escalate e).iss = s.iss := rfl
@[simp] theorem State.cycle_escalate (s : State) (e : Escalation) : (s.escalate e).cycle = s.cycle := rfl
@[simp] theorem State.now_escalate (s : State) (e : Escalation) : (s.escalate e).now = s.now := rfl
@[simp] theorem State.ids_escalate (s : State) (e : Escalation) : (s.escalate e).ids = s.ids := rfl
@[simp] theorem State.frees_escalate (s : State) (e : Escalation) : (s.escalate e).frees = s.frees := rfl
@[simp] theorem State.begun_escalate (s : State) (e : Escalation) : (s.escalate e).begun = s.begun := rfl
@[simp] theorem State.cores_escalate (s : State) (e : Escalation) : (s.escalate e).cores = s.cores := rfl
@[simp] theorem State.mem_escalate (s : State) (e : Escalation) : (s.escalate e).mem = s.mem := rfl
@[simp] theorem State.poison_escalate (s : State) (e : Escalation) : (s.escalate e).poison = s.poison := rfl
@[simp] theorem State.empty_escalate (s : State) (e : Escalation) : (s.escalate e).empty = s.empty := rfl
@[simp] theorem State.host_escalate (s : State) (e : Escalation) : (s.escalate e).host = s.host := rfl
@[simp] theorem State.accs_escalate (s : State) (e : Escalation) : (s.escalate e).accs = s.accs := rfl
@[simp] theorem State.groups_escalate (s : State) (e : Escalation) : (s.escalate e).groups = s.groups := rfl
@[simp] theorem State.lands_escalate (s : State) (e : Escalation) : (s.escalate e).lands = s.lands := rfl
@[simp] theorem State.walks_escalate (s : State) (e : Escalation) : (s.escalate e).walks = s.walks := rfl
@[simp] theorem State.revokes_escalate (s : State) (e : Escalation) : (s.escalate e).revokes = s.revokes := rfl
@[simp] theorem State.migs_escalate (s : State) (e : Escalation) : (s.escalate e).migs = s.migs := rfl
@[simp] theorem State.msgs_escalate (s : State) (e : Escalation) : (s.escalate e).msgs = s.msgs := rfl
@[simp] theorem State.tasks_escalate (s : State) (e : Escalation) : (s.escalate e).tasks = s.tasks := rfl
@[simp] theorem State.launches_escalate (s : State) (e : Escalation) : (s.escalate e).launches = s.launches := rfl
@[simp] theorem State.lqs_escalate (s : State) (e : Escalation) : (s.escalate e).lqs = s.lqs := rfl
@[simp] theorem State.aperture_escalate (s : State) (e : Escalation) : (s.escalate e).aperture = s.aperture := rfl
@[simp] theorem State.seq_escalate (s : State) (e : Escalation) : (s.escalate e).seq = s.seq := rfl
@[simp] theorem State.crBase_escalate (s : State) (e : Escalation) : (s.escalate e).crBase = s.crBase := rfl
@[simp] theorem State.crEn_escalate (s : State) (e : Escalation) : (s.escalate e).crEn = s.crEn := rfl
@[simp] theorem State.crLog_escalate (s : State) (e : Escalation) : (s.escalate e).crLog = s.crLog := rfl
@[simp] theorem State.crHead_escalate (s : State) (e : Escalation) : (s.escalate e).crHead = s.crHead := rfl
@[simp] theorem State.crTail_escalate (s : State) (e : Escalation) : (s.escalate e).crTail = s.crTail := rfl
@[simp] theorem State.holding_escalate (s : State) (e : Escalation) : (s.escalate e).holding = s.holding := rfl
@[simp] theorem State.ktBase_escalate (s : State) (e : Escalation) : (s.escalate e).ktBase = s.ktBase := rfl
@[simp] theorem State.preempt_escalate (s : State) (e : Escalation) : (s.escalate e).preempt = s.preempt := rfl
@[simp] theorem State.preload_escalate (s : State) (e : Escalation) : (s.escalate e).preload = s.preload := rfl
@[simp] theorem State.drainThr_escalate (s : State) (e : Escalation) : (s.escalate e).drainThr = s.drainThr := rfl
@[simp] theorem State.grace_escalate (s : State) (e : Escalation) : (s.escalate e).grace = s.grace := rfl
@[simp] theorem State.hwBase_escalate (s : State) (e : Escalation) : (s.escalate e).hwBase = s.hwBase := rfl
@[simp] theorem State.chipRoute_escalate (s : State) (e : Escalation) : (s.escalate e).chipRoute = s.chipRoute := rfl
@[simp] theorem State.chip_escalate (s : State) (e : Escalation) : (s.escalate e).chip = s.chip := rfl
@[simp] theorem State.doms_escalate (s : State) (e : Escalation) : (s.escalate e).doms = s.doms := rfl
@[simp] theorem State.bars_escalate (s : State) (e : Escalation) : (s.escalate e).bars = s.bars := rfl
@[simp] theorem State.ballots_escalate (s : State) (e : Escalation) : (s.escalate e).ballots = s.ballots := rfl
@[simp] theorem State.vaultEx_escalate (s : State) (e : Escalation) : (s.escalate e).vaultEx = s.vaultEx := rfl
@[simp] theorem State.hbmEx_escalate (s : State) (e : Escalation) : (s.escalate e).hbmEx = s.hbmEx := rfl
@[simp] theorem State.callStores_escalate (s : State) (e : Escalation) : (s.escalate e).callStores = s.callStores := rfl
@[simp] theorem State.beats_escalate (s : State) (e : Escalation) : (s.escalate e).beats = s.beats := rfl
@[simp] theorem State.away_escalate (s : State) (e : Escalation) : (s.escalate e).away = s.away := rfl
@[simp] theorem State.pendCalls_escalate (s : State) (e : Escalation) : (s.escalate e).pendCalls = s.pendCalls := rfl
@[simp] theorem State.links_escalate (s : State) (e : Escalation) : (s.escalate e).links = s.links := rfl
@[simp] theorem State.mg_escalate (s : State) (e : Escalation) : (s.escalate e).mg = s.mg := rfl
@[simp] theorem State.msix0_escalate (s : State) (e : Escalation) : (s.escalate e).msix0 = s.msix0 := rfl
@[simp] theorem State.hostRead_escalate (s : State) (e : Escalation) : (s.escalate e).hostRead = s.hostRead := rfl

/-! ### `sendMsg` -/

@[simp] theorem State.agenda_sendMsg (s : State) (m : Msg) : (s.sendMsg m).agenda = s.agenda := rfl
@[simp] theorem State.iss_sendMsg (s : State) (m : Msg) : (s.sendMsg m).iss = s.iss := rfl
@[simp] theorem State.cycle_sendMsg (s : State) (m : Msg) : (s.sendMsg m).cycle = s.cycle := rfl
@[simp] theorem State.now_sendMsg (s : State) (m : Msg) : (s.sendMsg m).now = s.now := rfl
@[simp] theorem State.frees_sendMsg (s : State) (m : Msg) : (s.sendMsg m).frees = s.frees := rfl
@[simp] theorem State.begun_sendMsg (s : State) (m : Msg) : (s.sendMsg m).begun = s.begun := rfl
@[simp] theorem State.cores_sendMsg (s : State) (m : Msg) : (s.sendMsg m).cores = s.cores := rfl
@[simp] theorem State.mem_sendMsg (s : State) (m : Msg) : (s.sendMsg m).mem = s.mem := rfl
@[simp] theorem State.poison_sendMsg (s : State) (m : Msg) : (s.sendMsg m).poison = s.poison := rfl
@[simp] theorem State.empty_sendMsg (s : State) (m : Msg) : (s.sendMsg m).empty = s.empty := rfl
@[simp] theorem State.host_sendMsg (s : State) (m : Msg) : (s.sendMsg m).host = s.host := rfl
@[simp] theorem State.accs_sendMsg (s : State) (m : Msg) : (s.sendMsg m).accs = s.accs := rfl
@[simp] theorem State.groups_sendMsg (s : State) (m : Msg) : (s.sendMsg m).groups = s.groups := rfl
@[simp] theorem State.lands_sendMsg (s : State) (m : Msg) : (s.sendMsg m).lands = s.lands := rfl
@[simp] theorem State.walks_sendMsg (s : State) (m : Msg) : (s.sendMsg m).walks = s.walks := rfl
@[simp] theorem State.revokes_sendMsg (s : State) (m : Msg) : (s.sendMsg m).revokes = s.revokes := rfl
@[simp] theorem State.migs_sendMsg (s : State) (m : Msg) : (s.sendMsg m).migs = s.migs := rfl
@[simp] theorem State.tasks_sendMsg (s : State) (m : Msg) : (s.sendMsg m).tasks = s.tasks := rfl
@[simp] theorem State.launches_sendMsg (s : State) (m : Msg) : (s.sendMsg m).launches = s.launches := rfl
@[simp] theorem State.lqs_sendMsg (s : State) (m : Msg) : (s.sendMsg m).lqs = s.lqs := rfl
@[simp] theorem State.aperture_sendMsg (s : State) (m : Msg) : (s.sendMsg m).aperture = s.aperture := rfl
@[simp] theorem State.seq_sendMsg (s : State) (m : Msg) : (s.sendMsg m).seq = s.seq := rfl
@[simp] theorem State.crBase_sendMsg (s : State) (m : Msg) : (s.sendMsg m).crBase = s.crBase := rfl
@[simp] theorem State.crEn_sendMsg (s : State) (m : Msg) : (s.sendMsg m).crEn = s.crEn := rfl
@[simp] theorem State.crLog_sendMsg (s : State) (m : Msg) : (s.sendMsg m).crLog = s.crLog := rfl
@[simp] theorem State.crHead_sendMsg (s : State) (m : Msg) : (s.sendMsg m).crHead = s.crHead := rfl
@[simp] theorem State.crTail_sendMsg (s : State) (m : Msg) : (s.sendMsg m).crTail = s.crTail := rfl
@[simp] theorem State.holding_sendMsg (s : State) (m : Msg) : (s.sendMsg m).holding = s.holding := rfl
@[simp] theorem State.ktBase_sendMsg (s : State) (m : Msg) : (s.sendMsg m).ktBase = s.ktBase := rfl
@[simp] theorem State.preempt_sendMsg (s : State) (m : Msg) : (s.sendMsg m).preempt = s.preempt := rfl
@[simp] theorem State.preload_sendMsg (s : State) (m : Msg) : (s.sendMsg m).preload = s.preload := rfl
@[simp] theorem State.drainThr_sendMsg (s : State) (m : Msg) : (s.sendMsg m).drainThr = s.drainThr := rfl
@[simp] theorem State.grace_sendMsg (s : State) (m : Msg) : (s.sendMsg m).grace = s.grace := rfl
@[simp] theorem State.hwBase_sendMsg (s : State) (m : Msg) : (s.sendMsg m).hwBase = s.hwBase := rfl
@[simp] theorem State.chipRoute_sendMsg (s : State) (m : Msg) : (s.sendMsg m).chipRoute = s.chipRoute := rfl
@[simp] theorem State.chip_sendMsg (s : State) (m : Msg) : (s.sendMsg m).chip = s.chip := rfl
@[simp] theorem State.doms_sendMsg (s : State) (m : Msg) : (s.sendMsg m).doms = s.doms := rfl
@[simp] theorem State.bars_sendMsg (s : State) (m : Msg) : (s.sendMsg m).bars = s.bars := rfl
@[simp] theorem State.ballots_sendMsg (s : State) (m : Msg) : (s.sendMsg m).ballots = s.ballots := rfl
@[simp] theorem State.vaultEx_sendMsg (s : State) (m : Msg) : (s.sendMsg m).vaultEx = s.vaultEx := rfl
@[simp] theorem State.hbmEx_sendMsg (s : State) (m : Msg) : (s.sendMsg m).hbmEx = s.hbmEx := rfl
@[simp] theorem State.callStores_sendMsg (s : State) (m : Msg) : (s.sendMsg m).callStores = s.callStores := rfl
@[simp] theorem State.beats_sendMsg (s : State) (m : Msg) : (s.sendMsg m).beats = s.beats := rfl
@[simp] theorem State.away_sendMsg (s : State) (m : Msg) : (s.sendMsg m).away = s.away := rfl
@[simp] theorem State.pendCalls_sendMsg (s : State) (m : Msg) : (s.sendMsg m).pendCalls = s.pendCalls := rfl
@[simp] theorem State.links_sendMsg (s : State) (m : Msg) : (s.sendMsg m).links = s.links := rfl
@[simp] theorem State.mg_sendMsg (s : State) (m : Msg) : (s.sendMsg m).mg = s.mg := rfl
@[simp] theorem State.escs_sendMsg (s : State) (m : Msg) : (s.sendMsg m).escs = s.escs := rfl
@[simp] theorem State.msix0_sendMsg (s : State) (m : Msg) : (s.sendMsg m).msix0 = s.msix0 := rfl
@[simp] theorem State.msix1_sendMsg (s : State) (m : Msg) : (s.sendMsg m).msix1 = s.msix1 := rfl
@[simp] theorem State.hostRead_sendMsg (s : State) (m : Msg) : (s.sendMsg m).hostRead = s.hostRead := rfl

/-! ### `emit` -/

@[simp] theorem State.agenda_emit (s : State) (r : RegId) (v : RVal) (l : Nat) (p : Bool) (f : FlagBits) : (s.emit r v l p f).agenda = s.agenda := rfl
@[simp] theorem State.iss_emit (s : State) (r : RegId) (v : RVal) (l : Nat) (p : Bool) (f : FlagBits) : (s.emit r v l p f).iss = s.iss := rfl
@[simp] theorem State.cycle_emit (s : State) (r : RegId) (v : RVal) (l : Nat) (p : Bool) (f : FlagBits) : (s.emit r v l p f).cycle = s.cycle := rfl
@[simp] theorem State.now_emit (s : State) (r : RegId) (v : RVal) (l : Nat) (p : Bool) (f : FlagBits) : (s.emit r v l p f).now = s.now := rfl
@[simp] theorem State.ids_emit (s : State) (r : RegId) (v : RVal) (l : Nat) (p : Bool) (f : FlagBits) : (s.emit r v l p f).ids = s.ids := rfl
@[simp] theorem State.frees_emit (s : State) (r : RegId) (v : RVal) (l : Nat) (p : Bool) (f : FlagBits) : (s.emit r v l p f).frees = s.frees := rfl
@[simp] theorem State.begun_emit (s : State) (r : RegId) (v : RVal) (l : Nat) (p : Bool) (f : FlagBits) : (s.emit r v l p f).begun = s.begun := rfl
@[simp] theorem State.mem_emit (s : State) (r : RegId) (v : RVal) (l : Nat) (p : Bool) (f : FlagBits) : (s.emit r v l p f).mem = s.mem := rfl
@[simp] theorem State.poison_emit (s : State) (r : RegId) (v : RVal) (l : Nat) (p : Bool) (f : FlagBits) : (s.emit r v l p f).poison = s.poison := rfl
@[simp] theorem State.empty_emit (s : State) (r : RegId) (v : RVal) (l : Nat) (p : Bool) (f : FlagBits) : (s.emit r v l p f).empty = s.empty := rfl
@[simp] theorem State.host_emit (s : State) (r : RegId) (v : RVal) (l : Nat) (p : Bool) (f : FlagBits) : (s.emit r v l p f).host = s.host := rfl
@[simp] theorem State.accs_emit (s : State) (r : RegId) (v : RVal) (l : Nat) (p : Bool) (f : FlagBits) : (s.emit r v l p f).accs = s.accs := rfl
@[simp] theorem State.groups_emit (s : State) (r : RegId) (v : RVal) (l : Nat) (p : Bool) (f : FlagBits) : (s.emit r v l p f).groups = s.groups := rfl
@[simp] theorem State.lands_emit (s : State) (r : RegId) (v : RVal) (l : Nat) (p : Bool) (f : FlagBits) : (s.emit r v l p f).lands = s.lands := rfl
@[simp] theorem State.walks_emit (s : State) (r : RegId) (v : RVal) (l : Nat) (p : Bool) (f : FlagBits) : (s.emit r v l p f).walks = s.walks := rfl
@[simp] theorem State.revokes_emit (s : State) (r : RegId) (v : RVal) (l : Nat) (p : Bool) (f : FlagBits) : (s.emit r v l p f).revokes = s.revokes := rfl
@[simp] theorem State.migs_emit (s : State) (r : RegId) (v : RVal) (l : Nat) (p : Bool) (f : FlagBits) : (s.emit r v l p f).migs = s.migs := rfl
@[simp] theorem State.msgs_emit (s : State) (r : RegId) (v : RVal) (l : Nat) (p : Bool) (f : FlagBits) : (s.emit r v l p f).msgs = s.msgs := rfl
@[simp] theorem State.tasks_emit (s : State) (r : RegId) (v : RVal) (l : Nat) (p : Bool) (f : FlagBits) : (s.emit r v l p f).tasks = s.tasks := rfl
@[simp] theorem State.launches_emit (s : State) (r : RegId) (v : RVal) (l : Nat) (p : Bool) (f : FlagBits) : (s.emit r v l p f).launches = s.launches := rfl
@[simp] theorem State.lqs_emit (s : State) (r : RegId) (v : RVal) (l : Nat) (p : Bool) (f : FlagBits) : (s.emit r v l p f).lqs = s.lqs := rfl
@[simp] theorem State.aperture_emit (s : State) (r : RegId) (v : RVal) (l : Nat) (p : Bool) (f : FlagBits) : (s.emit r v l p f).aperture = s.aperture := rfl
@[simp] theorem State.seq_emit (s : State) (r : RegId) (v : RVal) (l : Nat) (p : Bool) (f : FlagBits) : (s.emit r v l p f).seq = s.seq := rfl
@[simp] theorem State.crBase_emit (s : State) (r : RegId) (v : RVal) (l : Nat) (p : Bool) (f : FlagBits) : (s.emit r v l p f).crBase = s.crBase := rfl
@[simp] theorem State.crEn_emit (s : State) (r : RegId) (v : RVal) (l : Nat) (p : Bool) (f : FlagBits) : (s.emit r v l p f).crEn = s.crEn := rfl
@[simp] theorem State.crLog_emit (s : State) (r : RegId) (v : RVal) (l : Nat) (p : Bool) (f : FlagBits) : (s.emit r v l p f).crLog = s.crLog := rfl
@[simp] theorem State.crHead_emit (s : State) (r : RegId) (v : RVal) (l : Nat) (p : Bool) (f : FlagBits) : (s.emit r v l p f).crHead = s.crHead := rfl
@[simp] theorem State.crTail_emit (s : State) (r : RegId) (v : RVal) (l : Nat) (p : Bool) (f : FlagBits) : (s.emit r v l p f).crTail = s.crTail := rfl
@[simp] theorem State.holding_emit (s : State) (r : RegId) (v : RVal) (l : Nat) (p : Bool) (f : FlagBits) : (s.emit r v l p f).holding = s.holding := rfl
@[simp] theorem State.ktBase_emit (s : State) (r : RegId) (v : RVal) (l : Nat) (p : Bool) (f : FlagBits) : (s.emit r v l p f).ktBase = s.ktBase := rfl
@[simp] theorem State.preempt_emit (s : State) (r : RegId) (v : RVal) (l : Nat) (p : Bool) (f : FlagBits) : (s.emit r v l p f).preempt = s.preempt := rfl
@[simp] theorem State.preload_emit (s : State) (r : RegId) (v : RVal) (l : Nat) (p : Bool) (f : FlagBits) : (s.emit r v l p f).preload = s.preload := rfl
@[simp] theorem State.drainThr_emit (s : State) (r : RegId) (v : RVal) (l : Nat) (p : Bool) (f : FlagBits) : (s.emit r v l p f).drainThr = s.drainThr := rfl
@[simp] theorem State.grace_emit (s : State) (r : RegId) (v : RVal) (l : Nat) (p : Bool) (f : FlagBits) : (s.emit r v l p f).grace = s.grace := rfl
@[simp] theorem State.hwBase_emit (s : State) (r : RegId) (v : RVal) (l : Nat) (p : Bool) (f : FlagBits) : (s.emit r v l p f).hwBase = s.hwBase := rfl
@[simp] theorem State.chipRoute_emit (s : State) (r : RegId) (v : RVal) (l : Nat) (p : Bool) (f : FlagBits) : (s.emit r v l p f).chipRoute = s.chipRoute := rfl
@[simp] theorem State.chip_emit (s : State) (r : RegId) (v : RVal) (l : Nat) (p : Bool) (f : FlagBits) : (s.emit r v l p f).chip = s.chip := rfl
@[simp] theorem State.doms_emit (s : State) (r : RegId) (v : RVal) (l : Nat) (p : Bool) (f : FlagBits) : (s.emit r v l p f).doms = s.doms := rfl
@[simp] theorem State.bars_emit (s : State) (r : RegId) (v : RVal) (l : Nat) (p : Bool) (f : FlagBits) : (s.emit r v l p f).bars = s.bars := rfl
@[simp] theorem State.ballots_emit (s : State) (r : RegId) (v : RVal) (l : Nat) (p : Bool) (f : FlagBits) : (s.emit r v l p f).ballots = s.ballots := rfl
@[simp] theorem State.vaultEx_emit (s : State) (r : RegId) (v : RVal) (l : Nat) (p : Bool) (f : FlagBits) : (s.emit r v l p f).vaultEx = s.vaultEx := rfl
@[simp] theorem State.hbmEx_emit (s : State) (r : RegId) (v : RVal) (l : Nat) (p : Bool) (f : FlagBits) : (s.emit r v l p f).hbmEx = s.hbmEx := rfl
@[simp] theorem State.callStores_emit (s : State) (r : RegId) (v : RVal) (l : Nat) (p : Bool) (f : FlagBits) : (s.emit r v l p f).callStores = s.callStores := rfl
@[simp] theorem State.beats_emit (s : State) (r : RegId) (v : RVal) (l : Nat) (p : Bool) (f : FlagBits) : (s.emit r v l p f).beats = s.beats := rfl
@[simp] theorem State.away_emit (s : State) (r : RegId) (v : RVal) (l : Nat) (p : Bool) (f : FlagBits) : (s.emit r v l p f).away = s.away := rfl
@[simp] theorem State.pendCalls_emit (s : State) (r : RegId) (v : RVal) (l : Nat) (p : Bool) (f : FlagBits) : (s.emit r v l p f).pendCalls = s.pendCalls := rfl
@[simp] theorem State.links_emit (s : State) (r : RegId) (v : RVal) (l : Nat) (p : Bool) (f : FlagBits) : (s.emit r v l p f).links = s.links := rfl
@[simp] theorem State.mg_emit (s : State) (r : RegId) (v : RVal) (l : Nat) (p : Bool) (f : FlagBits) : (s.emit r v l p f).mg = s.mg := rfl
@[simp] theorem State.escs_emit (s : State) (r : RegId) (v : RVal) (l : Nat) (p : Bool) (f : FlagBits) : (s.emit r v l p f).escs = s.escs := rfl
@[simp] theorem State.msix0_emit (s : State) (r : RegId) (v : RVal) (l : Nat) (p : Bool) (f : FlagBits) : (s.emit r v l p f).msix0 = s.msix0 := rfl
@[simp] theorem State.msix1_emit (s : State) (r : RegId) (v : RVal) (l : Nat) (p : Bool) (f : FlagBits) : (s.emit r v l p f).msix1 = s.msix1 := rfl
@[simp] theorem State.hostRead_emit (s : State) (r : RegId) (v : RVal) (l : Nat) (p : Bool) (f : FlagBits) : (s.emit r v l p f).hostRead = s.hostRead := rfl

/-! ### `mark` -/

@[simp] theorem State.agenda_mark (s : State) (rs : List RegId) : (s.mark rs).agenda = s.agenda := rfl
@[simp] theorem State.iss_mark (s : State) (rs : List RegId) : (s.mark rs).iss = s.iss := rfl
@[simp] theorem State.cycle_mark (s : State) (rs : List RegId) : (s.mark rs).cycle = s.cycle := rfl
@[simp] theorem State.now_mark (s : State) (rs : List RegId) : (s.mark rs).now = s.now := rfl
@[simp] theorem State.ids_mark (s : State) (rs : List RegId) : (s.mark rs).ids = s.ids := rfl
@[simp] theorem State.frees_mark (s : State) (rs : List RegId) : (s.mark rs).frees = s.frees := rfl
@[simp] theorem State.begun_mark (s : State) (rs : List RegId) : (s.mark rs).begun = s.begun := rfl
@[simp] theorem State.mem_mark (s : State) (rs : List RegId) : (s.mark rs).mem = s.mem := rfl
@[simp] theorem State.poison_mark (s : State) (rs : List RegId) : (s.mark rs).poison = s.poison := rfl
@[simp] theorem State.empty_mark (s : State) (rs : List RegId) : (s.mark rs).empty = s.empty := rfl
@[simp] theorem State.host_mark (s : State) (rs : List RegId) : (s.mark rs).host = s.host := rfl
@[simp] theorem State.accs_mark (s : State) (rs : List RegId) : (s.mark rs).accs = s.accs := rfl
@[simp] theorem State.groups_mark (s : State) (rs : List RegId) : (s.mark rs).groups = s.groups := rfl
@[simp] theorem State.lands_mark (s : State) (rs : List RegId) : (s.mark rs).lands = s.lands := rfl
@[simp] theorem State.walks_mark (s : State) (rs : List RegId) : (s.mark rs).walks = s.walks := rfl
@[simp] theorem State.revokes_mark (s : State) (rs : List RegId) : (s.mark rs).revokes = s.revokes := rfl
@[simp] theorem State.migs_mark (s : State) (rs : List RegId) : (s.mark rs).migs = s.migs := rfl
@[simp] theorem State.msgs_mark (s : State) (rs : List RegId) : (s.mark rs).msgs = s.msgs := rfl
@[simp] theorem State.tasks_mark (s : State) (rs : List RegId) : (s.mark rs).tasks = s.tasks := rfl
@[simp] theorem State.launches_mark (s : State) (rs : List RegId) : (s.mark rs).launches = s.launches := rfl
@[simp] theorem State.lqs_mark (s : State) (rs : List RegId) : (s.mark rs).lqs = s.lqs := rfl
@[simp] theorem State.aperture_mark (s : State) (rs : List RegId) : (s.mark rs).aperture = s.aperture := rfl
@[simp] theorem State.seq_mark (s : State) (rs : List RegId) : (s.mark rs).seq = s.seq := rfl
@[simp] theorem State.crBase_mark (s : State) (rs : List RegId) : (s.mark rs).crBase = s.crBase := rfl
@[simp] theorem State.crEn_mark (s : State) (rs : List RegId) : (s.mark rs).crEn = s.crEn := rfl
@[simp] theorem State.crLog_mark (s : State) (rs : List RegId) : (s.mark rs).crLog = s.crLog := rfl
@[simp] theorem State.crHead_mark (s : State) (rs : List RegId) : (s.mark rs).crHead = s.crHead := rfl
@[simp] theorem State.crTail_mark (s : State) (rs : List RegId) : (s.mark rs).crTail = s.crTail := rfl
@[simp] theorem State.holding_mark (s : State) (rs : List RegId) : (s.mark rs).holding = s.holding := rfl
@[simp] theorem State.ktBase_mark (s : State) (rs : List RegId) : (s.mark rs).ktBase = s.ktBase := rfl
@[simp] theorem State.preempt_mark (s : State) (rs : List RegId) : (s.mark rs).preempt = s.preempt := rfl
@[simp] theorem State.preload_mark (s : State) (rs : List RegId) : (s.mark rs).preload = s.preload := rfl
@[simp] theorem State.drainThr_mark (s : State) (rs : List RegId) : (s.mark rs).drainThr = s.drainThr := rfl
@[simp] theorem State.grace_mark (s : State) (rs : List RegId) : (s.mark rs).grace = s.grace := rfl
@[simp] theorem State.hwBase_mark (s : State) (rs : List RegId) : (s.mark rs).hwBase = s.hwBase := rfl
@[simp] theorem State.chipRoute_mark (s : State) (rs : List RegId) : (s.mark rs).chipRoute = s.chipRoute := rfl
@[simp] theorem State.chip_mark (s : State) (rs : List RegId) : (s.mark rs).chip = s.chip := rfl
@[simp] theorem State.doms_mark (s : State) (rs : List RegId) : (s.mark rs).doms = s.doms := rfl
@[simp] theorem State.bars_mark (s : State) (rs : List RegId) : (s.mark rs).bars = s.bars := rfl
@[simp] theorem State.ballots_mark (s : State) (rs : List RegId) : (s.mark rs).ballots = s.ballots := rfl
@[simp] theorem State.vaultEx_mark (s : State) (rs : List RegId) : (s.mark rs).vaultEx = s.vaultEx := rfl
@[simp] theorem State.hbmEx_mark (s : State) (rs : List RegId) : (s.mark rs).hbmEx = s.hbmEx := rfl
@[simp] theorem State.callStores_mark (s : State) (rs : List RegId) : (s.mark rs).callStores = s.callStores := rfl
@[simp] theorem State.beats_mark (s : State) (rs : List RegId) : (s.mark rs).beats = s.beats := rfl
@[simp] theorem State.away_mark (s : State) (rs : List RegId) : (s.mark rs).away = s.away := rfl
@[simp] theorem State.pendCalls_mark (s : State) (rs : List RegId) : (s.mark rs).pendCalls = s.pendCalls := rfl
@[simp] theorem State.links_mark (s : State) (rs : List RegId) : (s.mark rs).links = s.links := rfl
@[simp] theorem State.mg_mark (s : State) (rs : List RegId) : (s.mark rs).mg = s.mg := rfl
@[simp] theorem State.escs_mark (s : State) (rs : List RegId) : (s.mark rs).escs = s.escs := rfl
@[simp] theorem State.msix0_mark (s : State) (rs : List RegId) : (s.mark rs).msix0 = s.msix0 := rfl
@[simp] theorem State.msix1_mark (s : State) (rs : List RegId) : (s.mark rs).msix1 = s.msix1 := rfl
@[simp] theorem State.hostRead_mark (s : State) (rs : List RegId) : (s.mark rs).hostRead = s.hostRead := rfl

/-! ### `flushBudget` -/

/-- A budget that becomes visible changes a context and its task only. -/
theorem State.flushBudget_form (s : State) (c x : Nat) :
    s.flushBudget c x = { s with cores := (s.flushBudget c x).cores, tasks := (s.flushBudget c x).tasks } := by
  unfold State.flushBudget
  split
  · rfl
  · dsimp only
    split <;> rfl

@[simp] theorem State.agenda_flushBudget (s : State) (c x : Nat) : (s.flushBudget c x).agenda = s.agenda := (congrArg State.agenda (State.flushBudget_form s c x)).trans rfl
@[simp] theorem State.iss_flushBudget (s : State) (c x : Nat) : (s.flushBudget c x).iss = s.iss := (congrArg State.iss (State.flushBudget_form s c x)).trans rfl
@[simp] theorem State.cycle_flushBudget (s : State) (c x : Nat) : (s.flushBudget c x).cycle = s.cycle := (congrArg State.cycle (State.flushBudget_form s c x)).trans rfl
@[simp] theorem State.now_flushBudget (s : State) (c x : Nat) : (s.flushBudget c x).now = s.now := (congrArg State.now (State.flushBudget_form s c x)).trans rfl
@[simp] theorem State.ids_flushBudget (s : State) (c x : Nat) : (s.flushBudget c x).ids = s.ids := (congrArg State.ids (State.flushBudget_form s c x)).trans rfl
@[simp] theorem State.frees_flushBudget (s : State) (c x : Nat) : (s.flushBudget c x).frees = s.frees := (congrArg State.frees (State.flushBudget_form s c x)).trans rfl
@[simp] theorem State.begun_flushBudget (s : State) (c x : Nat) : (s.flushBudget c x).begun = s.begun := (congrArg State.begun (State.flushBudget_form s c x)).trans rfl
@[simp] theorem State.mem_flushBudget (s : State) (c x : Nat) : (s.flushBudget c x).mem = s.mem := (congrArg State.mem (State.flushBudget_form s c x)).trans rfl
@[simp] theorem State.poison_flushBudget (s : State) (c x : Nat) : (s.flushBudget c x).poison = s.poison := (congrArg State.poison (State.flushBudget_form s c x)).trans rfl
@[simp] theorem State.empty_flushBudget (s : State) (c x : Nat) : (s.flushBudget c x).empty = s.empty := (congrArg State.empty (State.flushBudget_form s c x)).trans rfl
@[simp] theorem State.host_flushBudget (s : State) (c x : Nat) : (s.flushBudget c x).host = s.host := (congrArg State.host (State.flushBudget_form s c x)).trans rfl
@[simp] theorem State.accs_flushBudget (s : State) (c x : Nat) : (s.flushBudget c x).accs = s.accs := (congrArg State.accs (State.flushBudget_form s c x)).trans rfl
@[simp] theorem State.groups_flushBudget (s : State) (c x : Nat) : (s.flushBudget c x).groups = s.groups := (congrArg State.groups (State.flushBudget_form s c x)).trans rfl
@[simp] theorem State.lands_flushBudget (s : State) (c x : Nat) : (s.flushBudget c x).lands = s.lands := (congrArg State.lands (State.flushBudget_form s c x)).trans rfl
@[simp] theorem State.walks_flushBudget (s : State) (c x : Nat) : (s.flushBudget c x).walks = s.walks := (congrArg State.walks (State.flushBudget_form s c x)).trans rfl
@[simp] theorem State.revokes_flushBudget (s : State) (c x : Nat) : (s.flushBudget c x).revokes = s.revokes := (congrArg State.revokes (State.flushBudget_form s c x)).trans rfl
@[simp] theorem State.migs_flushBudget (s : State) (c x : Nat) : (s.flushBudget c x).migs = s.migs := (congrArg State.migs (State.flushBudget_form s c x)).trans rfl
@[simp] theorem State.msgs_flushBudget (s : State) (c x : Nat) : (s.flushBudget c x).msgs = s.msgs := (congrArg State.msgs (State.flushBudget_form s c x)).trans rfl
@[simp] theorem State.launches_flushBudget (s : State) (c x : Nat) : (s.flushBudget c x).launches = s.launches := (congrArg State.launches (State.flushBudget_form s c x)).trans rfl
@[simp] theorem State.lqs_flushBudget (s : State) (c x : Nat) : (s.flushBudget c x).lqs = s.lqs := (congrArg State.lqs (State.flushBudget_form s c x)).trans rfl
@[simp] theorem State.aperture_flushBudget (s : State) (c x : Nat) : (s.flushBudget c x).aperture = s.aperture := (congrArg State.aperture (State.flushBudget_form s c x)).trans rfl
@[simp] theorem State.seq_flushBudget (s : State) (c x : Nat) : (s.flushBudget c x).seq = s.seq := (congrArg State.seq (State.flushBudget_form s c x)).trans rfl
@[simp] theorem State.crBase_flushBudget (s : State) (c x : Nat) : (s.flushBudget c x).crBase = s.crBase := (congrArg State.crBase (State.flushBudget_form s c x)).trans rfl
@[simp] theorem State.crEn_flushBudget (s : State) (c x : Nat) : (s.flushBudget c x).crEn = s.crEn := (congrArg State.crEn (State.flushBudget_form s c x)).trans rfl
@[simp] theorem State.crLog_flushBudget (s : State) (c x : Nat) : (s.flushBudget c x).crLog = s.crLog := (congrArg State.crLog (State.flushBudget_form s c x)).trans rfl
@[simp] theorem State.crHead_flushBudget (s : State) (c x : Nat) : (s.flushBudget c x).crHead = s.crHead := (congrArg State.crHead (State.flushBudget_form s c x)).trans rfl
@[simp] theorem State.crTail_flushBudget (s : State) (c x : Nat) : (s.flushBudget c x).crTail = s.crTail := (congrArg State.crTail (State.flushBudget_form s c x)).trans rfl
@[simp] theorem State.holding_flushBudget (s : State) (c x : Nat) : (s.flushBudget c x).holding = s.holding := (congrArg State.holding (State.flushBudget_form s c x)).trans rfl
@[simp] theorem State.ktBase_flushBudget (s : State) (c x : Nat) : (s.flushBudget c x).ktBase = s.ktBase := (congrArg State.ktBase (State.flushBudget_form s c x)).trans rfl
@[simp] theorem State.preempt_flushBudget (s : State) (c x : Nat) : (s.flushBudget c x).preempt = s.preempt := (congrArg State.preempt (State.flushBudget_form s c x)).trans rfl
@[simp] theorem State.preload_flushBudget (s : State) (c x : Nat) : (s.flushBudget c x).preload = s.preload := (congrArg State.preload (State.flushBudget_form s c x)).trans rfl
@[simp] theorem State.drainThr_flushBudget (s : State) (c x : Nat) : (s.flushBudget c x).drainThr = s.drainThr := (congrArg State.drainThr (State.flushBudget_form s c x)).trans rfl
@[simp] theorem State.grace_flushBudget (s : State) (c x : Nat) : (s.flushBudget c x).grace = s.grace := (congrArg State.grace (State.flushBudget_form s c x)).trans rfl
@[simp] theorem State.hwBase_flushBudget (s : State) (c x : Nat) : (s.flushBudget c x).hwBase = s.hwBase := (congrArg State.hwBase (State.flushBudget_form s c x)).trans rfl
@[simp] theorem State.chipRoute_flushBudget (s : State) (c x : Nat) : (s.flushBudget c x).chipRoute = s.chipRoute := (congrArg State.chipRoute (State.flushBudget_form s c x)).trans rfl
@[simp] theorem State.chip_flushBudget (s : State) (c x : Nat) : (s.flushBudget c x).chip = s.chip := (congrArg State.chip (State.flushBudget_form s c x)).trans rfl
@[simp] theorem State.doms_flushBudget (s : State) (c x : Nat) : (s.flushBudget c x).doms = s.doms := (congrArg State.doms (State.flushBudget_form s c x)).trans rfl
@[simp] theorem State.bars_flushBudget (s : State) (c x : Nat) : (s.flushBudget c x).bars = s.bars := (congrArg State.bars (State.flushBudget_form s c x)).trans rfl
@[simp] theorem State.ballots_flushBudget (s : State) (c x : Nat) : (s.flushBudget c x).ballots = s.ballots := (congrArg State.ballots (State.flushBudget_form s c x)).trans rfl
@[simp] theorem State.vaultEx_flushBudget (s : State) (c x : Nat) : (s.flushBudget c x).vaultEx = s.vaultEx := (congrArg State.vaultEx (State.flushBudget_form s c x)).trans rfl
@[simp] theorem State.hbmEx_flushBudget (s : State) (c x : Nat) : (s.flushBudget c x).hbmEx = s.hbmEx := (congrArg State.hbmEx (State.flushBudget_form s c x)).trans rfl
@[simp] theorem State.callStores_flushBudget (s : State) (c x : Nat) : (s.flushBudget c x).callStores = s.callStores := (congrArg State.callStores (State.flushBudget_form s c x)).trans rfl
@[simp] theorem State.beats_flushBudget (s : State) (c x : Nat) : (s.flushBudget c x).beats = s.beats := (congrArg State.beats (State.flushBudget_form s c x)).trans rfl
@[simp] theorem State.away_flushBudget (s : State) (c x : Nat) : (s.flushBudget c x).away = s.away := (congrArg State.away (State.flushBudget_form s c x)).trans rfl
@[simp] theorem State.pendCalls_flushBudget (s : State) (c x : Nat) : (s.flushBudget c x).pendCalls = s.pendCalls := (congrArg State.pendCalls (State.flushBudget_form s c x)).trans rfl
@[simp] theorem State.links_flushBudget (s : State) (c x : Nat) : (s.flushBudget c x).links = s.links := (congrArg State.links (State.flushBudget_form s c x)).trans rfl
@[simp] theorem State.mg_flushBudget (s : State) (c x : Nat) : (s.flushBudget c x).mg = s.mg := (congrArg State.mg (State.flushBudget_form s c x)).trans rfl
@[simp] theorem State.escs_flushBudget (s : State) (c x : Nat) : (s.flushBudget c x).escs = s.escs := (congrArg State.escs (State.flushBudget_form s c x)).trans rfl
@[simp] theorem State.msix0_flushBudget (s : State) (c x : Nat) : (s.flushBudget c x).msix0 = s.msix0 := (congrArg State.msix0 (State.flushBudget_form s c x)).trans rfl
@[simp] theorem State.msix1_flushBudget (s : State) (c x : Nat) : (s.flushBudget c x).msix1 = s.msix1 := (congrArg State.msix1 (State.flushBudget_form s c x)).trans rfl
@[simp] theorem State.hostRead_flushBudget (s : State) (c x : Nat) : (s.flushBudget c x).hostRead = s.hostRead := (congrArg State.hostRead (State.flushBudget_form s c x)).trans rfl

/-! ### `visible` -/

@[simp] theorem State.agenda_visible (s : State) : (s.visible).agenda = s.agenda := (State.agenda_flushBudget _ _ _).trans rfl
@[simp] theorem State.iss_visible (s : State) : (s.visible).iss = s.iss := (State.iss_flushBudget _ _ _).trans rfl
@[simp] theorem State.cycle_visible (s : State) : (s.visible).cycle = s.cycle := (State.cycle_flushBudget _ _ _).trans rfl
@[simp] theorem State.now_visible (s : State) : (s.visible).now = s.now := (State.now_flushBudget _ _ _).trans rfl
@[simp] theorem State.ids_visible (s : State) : (s.visible).ids = s.ids := (State.ids_flushBudget _ _ _).trans rfl
@[simp] theorem State.frees_visible (s : State) : (s.visible).frees = s.frees := (State.frees_flushBudget _ _ _).trans rfl
@[simp] theorem State.begun_visible (s : State) : (s.visible).begun = s.begun := (State.begun_flushBudget _ _ _).trans rfl
@[simp] theorem State.mem_visible (s : State) : (s.visible).mem = s.mem := (State.mem_flushBudget _ _ _).trans rfl
@[simp] theorem State.poison_visible (s : State) : (s.visible).poison = s.poison := (State.poison_flushBudget _ _ _).trans rfl
@[simp] theorem State.empty_visible (s : State) : (s.visible).empty = s.empty := (State.empty_flushBudget _ _ _).trans rfl
@[simp] theorem State.host_visible (s : State) : (s.visible).host = s.host := (State.host_flushBudget _ _ _).trans rfl
@[simp] theorem State.accs_visible (s : State) : (s.visible).accs = s.accs := (State.accs_flushBudget _ _ _).trans rfl
@[simp] theorem State.groups_visible (s : State) : (s.visible).groups = s.groups := (State.groups_flushBudget _ _ _).trans rfl
@[simp] theorem State.lands_visible (s : State) : (s.visible).lands = s.lands := (State.lands_flushBudget _ _ _).trans rfl
@[simp] theorem State.walks_visible (s : State) : (s.visible).walks = s.walks := (State.walks_flushBudget _ _ _).trans rfl
@[simp] theorem State.revokes_visible (s : State) : (s.visible).revokes = s.revokes := (State.revokes_flushBudget _ _ _).trans rfl
@[simp] theorem State.migs_visible (s : State) : (s.visible).migs = s.migs := (State.migs_flushBudget _ _ _).trans rfl
@[simp] theorem State.msgs_visible (s : State) : (s.visible).msgs = s.msgs := (State.msgs_flushBudget _ _ _).trans rfl
@[simp] theorem State.launches_visible (s : State) : (s.visible).launches = s.launches := (State.launches_flushBudget _ _ _).trans rfl
@[simp] theorem State.lqs_visible (s : State) : (s.visible).lqs = s.lqs := (State.lqs_flushBudget _ _ _).trans rfl
@[simp] theorem State.aperture_visible (s : State) : (s.visible).aperture = s.aperture := (State.aperture_flushBudget _ _ _).trans rfl
@[simp] theorem State.seq_visible (s : State) : (s.visible).seq = s.seq := (State.seq_flushBudget _ _ _).trans rfl
@[simp] theorem State.crBase_visible (s : State) : (s.visible).crBase = s.crBase := (State.crBase_flushBudget _ _ _).trans rfl
@[simp] theorem State.crEn_visible (s : State) : (s.visible).crEn = s.crEn := (State.crEn_flushBudget _ _ _).trans rfl
@[simp] theorem State.crLog_visible (s : State) : (s.visible).crLog = s.crLog := (State.crLog_flushBudget _ _ _).trans rfl
@[simp] theorem State.crHead_visible (s : State) : (s.visible).crHead = s.crHead := (State.crHead_flushBudget _ _ _).trans rfl
@[simp] theorem State.crTail_visible (s : State) : (s.visible).crTail = s.crTail := (State.crTail_flushBudget _ _ _).trans rfl
@[simp] theorem State.holding_visible (s : State) : (s.visible).holding = s.holding := (State.holding_flushBudget _ _ _).trans rfl
@[simp] theorem State.ktBase_visible (s : State) : (s.visible).ktBase = s.ktBase := (State.ktBase_flushBudget _ _ _).trans rfl
@[simp] theorem State.preempt_visible (s : State) : (s.visible).preempt = s.preempt := (State.preempt_flushBudget _ _ _).trans rfl
@[simp] theorem State.preload_visible (s : State) : (s.visible).preload = s.preload := (State.preload_flushBudget _ _ _).trans rfl
@[simp] theorem State.drainThr_visible (s : State) : (s.visible).drainThr = s.drainThr := (State.drainThr_flushBudget _ _ _).trans rfl
@[simp] theorem State.grace_visible (s : State) : (s.visible).grace = s.grace := (State.grace_flushBudget _ _ _).trans rfl
@[simp] theorem State.hwBase_visible (s : State) : (s.visible).hwBase = s.hwBase := (State.hwBase_flushBudget _ _ _).trans rfl
@[simp] theorem State.chipRoute_visible (s : State) : (s.visible).chipRoute = s.chipRoute := (State.chipRoute_flushBudget _ _ _).trans rfl
@[simp] theorem State.chip_visible (s : State) : (s.visible).chip = s.chip := (State.chip_flushBudget _ _ _).trans rfl
@[simp] theorem State.doms_visible (s : State) : (s.visible).doms = s.doms := (State.doms_flushBudget _ _ _).trans rfl
@[simp] theorem State.bars_visible (s : State) : (s.visible).bars = s.bars := (State.bars_flushBudget _ _ _).trans rfl
@[simp] theorem State.ballots_visible (s : State) : (s.visible).ballots = s.ballots := (State.ballots_flushBudget _ _ _).trans rfl
@[simp] theorem State.vaultEx_visible (s : State) : (s.visible).vaultEx = s.vaultEx := (State.vaultEx_flushBudget _ _ _).trans rfl
@[simp] theorem State.hbmEx_visible (s : State) : (s.visible).hbmEx = s.hbmEx := (State.hbmEx_flushBudget _ _ _).trans rfl
@[simp] theorem State.callStores_visible (s : State) : (s.visible).callStores = s.callStores := (State.callStores_flushBudget _ _ _).trans rfl
@[simp] theorem State.beats_visible (s : State) : (s.visible).beats = s.beats := (State.beats_flushBudget _ _ _).trans rfl
@[simp] theorem State.away_visible (s : State) : (s.visible).away = s.away := (State.away_flushBudget _ _ _).trans rfl
@[simp] theorem State.pendCalls_visible (s : State) : (s.visible).pendCalls = s.pendCalls := (State.pendCalls_flushBudget _ _ _).trans rfl
@[simp] theorem State.links_visible (s : State) : (s.visible).links = s.links := (State.links_flushBudget _ _ _).trans rfl
@[simp] theorem State.mg_visible (s : State) : (s.visible).mg = s.mg := (State.mg_flushBudget _ _ _).trans rfl
@[simp] theorem State.escs_visible (s : State) : (s.visible).escs = s.escs := (State.escs_flushBudget _ _ _).trans rfl
@[simp] theorem State.msix0_visible (s : State) : (s.visible).msix0 = s.msix0 := (State.msix0_flushBudget _ _ _).trans rfl
@[simp] theorem State.msix1_visible (s : State) : (s.visible).msix1 = s.msix1 := (State.msix1_flushBudget _ _ _).trans rfl
@[simp] theorem State.hostRead_visible (s : State) : (s.visible).hostRead = s.hostRead := (State.hostRead_flushBudget _ _ _).trans rfl

/-! ### `openBundle` -/

@[simp] theorem State.agenda_openBundle (s : State) (n w : Nat) (g : Guard) : (s.openBundle n w g).agenda = s.agenda := rfl
@[simp] theorem State.cycle_openBundle (s : State) (n w : Nat) (g : Guard) : (s.openBundle n w g).cycle = s.cycle := rfl
@[simp] theorem State.now_openBundle (s : State) (n w : Nat) (g : Guard) : (s.openBundle n w g).now = s.now := rfl
@[simp] theorem State.ids_openBundle (s : State) (n w : Nat) (g : Guard) : (s.openBundle n w g).ids = s.ids := rfl
@[simp] theorem State.frees_openBundle (s : State) (n w : Nat) (g : Guard) : (s.openBundle n w g).frees = s.frees := rfl
@[simp] theorem State.begun_openBundle (s : State) (n w : Nat) (g : Guard) : (s.openBundle n w g).begun = s.begun := rfl
@[simp] theorem State.cores_openBundle (s : State) (n w : Nat) (g : Guard) : (s.openBundle n w g).cores = s.cores := rfl
@[simp] theorem State.mem_openBundle (s : State) (n w : Nat) (g : Guard) : (s.openBundle n w g).mem = s.mem := rfl
@[simp] theorem State.poison_openBundle (s : State) (n w : Nat) (g : Guard) : (s.openBundle n w g).poison = s.poison := rfl
@[simp] theorem State.empty_openBundle (s : State) (n w : Nat) (g : Guard) : (s.openBundle n w g).empty = s.empty := rfl
@[simp] theorem State.host_openBundle (s : State) (n w : Nat) (g : Guard) : (s.openBundle n w g).host = s.host := rfl
@[simp] theorem State.accs_openBundle (s : State) (n w : Nat) (g : Guard) : (s.openBundle n w g).accs = s.accs := rfl
@[simp] theorem State.groups_openBundle (s : State) (n w : Nat) (g : Guard) : (s.openBundle n w g).groups = s.groups := rfl
@[simp] theorem State.lands_openBundle (s : State) (n w : Nat) (g : Guard) : (s.openBundle n w g).lands = s.lands := rfl
@[simp] theorem State.walks_openBundle (s : State) (n w : Nat) (g : Guard) : (s.openBundle n w g).walks = s.walks := rfl
@[simp] theorem State.revokes_openBundle (s : State) (n w : Nat) (g : Guard) : (s.openBundle n w g).revokes = s.revokes := rfl
@[simp] theorem State.migs_openBundle (s : State) (n w : Nat) (g : Guard) : (s.openBundle n w g).migs = s.migs := rfl
@[simp] theorem State.msgs_openBundle (s : State) (n w : Nat) (g : Guard) : (s.openBundle n w g).msgs = s.msgs := rfl
@[simp] theorem State.tasks_openBundle (s : State) (n w : Nat) (g : Guard) : (s.openBundle n w g).tasks = s.tasks := rfl
@[simp] theorem State.launches_openBundle (s : State) (n w : Nat) (g : Guard) : (s.openBundle n w g).launches = s.launches := rfl
@[simp] theorem State.lqs_openBundle (s : State) (n w : Nat) (g : Guard) : (s.openBundle n w g).lqs = s.lqs := rfl
@[simp] theorem State.aperture_openBundle (s : State) (n w : Nat) (g : Guard) : (s.openBundle n w g).aperture = s.aperture := rfl
@[simp] theorem State.seq_openBundle (s : State) (n w : Nat) (g : Guard) : (s.openBundle n w g).seq = s.seq := rfl
@[simp] theorem State.crBase_openBundle (s : State) (n w : Nat) (g : Guard) : (s.openBundle n w g).crBase = s.crBase := rfl
@[simp] theorem State.crEn_openBundle (s : State) (n w : Nat) (g : Guard) : (s.openBundle n w g).crEn = s.crEn := rfl
@[simp] theorem State.crLog_openBundle (s : State) (n w : Nat) (g : Guard) : (s.openBundle n w g).crLog = s.crLog := rfl
@[simp] theorem State.crHead_openBundle (s : State) (n w : Nat) (g : Guard) : (s.openBundle n w g).crHead = s.crHead := rfl
@[simp] theorem State.crTail_openBundle (s : State) (n w : Nat) (g : Guard) : (s.openBundle n w g).crTail = s.crTail := rfl
@[simp] theorem State.holding_openBundle (s : State) (n w : Nat) (g : Guard) : (s.openBundle n w g).holding = s.holding := rfl
@[simp] theorem State.ktBase_openBundle (s : State) (n w : Nat) (g : Guard) : (s.openBundle n w g).ktBase = s.ktBase := rfl
@[simp] theorem State.preempt_openBundle (s : State) (n w : Nat) (g : Guard) : (s.openBundle n w g).preempt = s.preempt := rfl
@[simp] theorem State.preload_openBundle (s : State) (n w : Nat) (g : Guard) : (s.openBundle n w g).preload = s.preload := rfl
@[simp] theorem State.drainThr_openBundle (s : State) (n w : Nat) (g : Guard) : (s.openBundle n w g).drainThr = s.drainThr := rfl
@[simp] theorem State.grace_openBundle (s : State) (n w : Nat) (g : Guard) : (s.openBundle n w g).grace = s.grace := rfl
@[simp] theorem State.hwBase_openBundle (s : State) (n w : Nat) (g : Guard) : (s.openBundle n w g).hwBase = s.hwBase := rfl
@[simp] theorem State.chipRoute_openBundle (s : State) (n w : Nat) (g : Guard) : (s.openBundle n w g).chipRoute = s.chipRoute := rfl
@[simp] theorem State.chip_openBundle (s : State) (n w : Nat) (g : Guard) : (s.openBundle n w g).chip = s.chip := rfl
@[simp] theorem State.doms_openBundle (s : State) (n w : Nat) (g : Guard) : (s.openBundle n w g).doms = s.doms := rfl
@[simp] theorem State.bars_openBundle (s : State) (n w : Nat) (g : Guard) : (s.openBundle n w g).bars = s.bars := rfl
@[simp] theorem State.ballots_openBundle (s : State) (n w : Nat) (g : Guard) : (s.openBundle n w g).ballots = s.ballots := rfl
@[simp] theorem State.vaultEx_openBundle (s : State) (n w : Nat) (g : Guard) : (s.openBundle n w g).vaultEx = s.vaultEx := rfl
@[simp] theorem State.hbmEx_openBundle (s : State) (n w : Nat) (g : Guard) : (s.openBundle n w g).hbmEx = s.hbmEx := rfl
@[simp] theorem State.callStores_openBundle (s : State) (n w : Nat) (g : Guard) : (s.openBundle n w g).callStores = s.callStores := rfl
@[simp] theorem State.beats_openBundle (s : State) (n w : Nat) (g : Guard) : (s.openBundle n w g).beats = s.beats := rfl
@[simp] theorem State.away_openBundle (s : State) (n w : Nat) (g : Guard) : (s.openBundle n w g).away = s.away := rfl
@[simp] theorem State.pendCalls_openBundle (s : State) (n w : Nat) (g : Guard) : (s.openBundle n w g).pendCalls = s.pendCalls := rfl
@[simp] theorem State.links_openBundle (s : State) (n w : Nat) (g : Guard) : (s.openBundle n w g).links = s.links := rfl
@[simp] theorem State.mg_openBundle (s : State) (n w : Nat) (g : Guard) : (s.openBundle n w g).mg = s.mg := rfl
@[simp] theorem State.escs_openBundle (s : State) (n w : Nat) (g : Guard) : (s.openBundle n w g).escs = s.escs := rfl
@[simp] theorem State.msix0_openBundle (s : State) (n w : Nat) (g : Guard) : (s.openBundle n w g).msix0 = s.msix0 := rfl
@[simp] theorem State.msix1_openBundle (s : State) (n w : Nat) (g : Guard) : (s.openBundle n w g).msix1 = s.msix1 := rfl
@[simp] theorem State.hostRead_openBundle (s : State) (n w : Nat) (g : Guard) : (s.openBundle n w g).hostRead = s.hostRead := rfl

/-! ### `closed` -/

@[simp] theorem State.agenda_closed (s : State) : (s.closed).agenda = s.agenda := rfl
@[simp] theorem State.cycle_closed (s : State) : (s.closed).cycle = s.cycle := rfl
@[simp] theorem State.now_closed (s : State) : (s.closed).now = s.now := rfl
@[simp] theorem State.ids_closed (s : State) : (s.closed).ids = s.ids := rfl
@[simp] theorem State.frees_closed (s : State) : (s.closed).frees = s.frees := rfl
@[simp] theorem State.begun_closed (s : State) : (s.closed).begun = s.begun := rfl
@[simp] theorem State.cores_closed (s : State) : (s.closed).cores = s.cores := rfl
@[simp] theorem State.mem_closed (s : State) : (s.closed).mem = s.mem := rfl
@[simp] theorem State.poison_closed (s : State) : (s.closed).poison = s.poison := rfl
@[simp] theorem State.empty_closed (s : State) : (s.closed).empty = s.empty := rfl
@[simp] theorem State.host_closed (s : State) : (s.closed).host = s.host := rfl
@[simp] theorem State.accs_closed (s : State) : (s.closed).accs = s.accs := rfl
@[simp] theorem State.groups_closed (s : State) : (s.closed).groups = s.groups := rfl
@[simp] theorem State.lands_closed (s : State) : (s.closed).lands = s.lands := rfl
@[simp] theorem State.walks_closed (s : State) : (s.closed).walks = s.walks := rfl
@[simp] theorem State.revokes_closed (s : State) : (s.closed).revokes = s.revokes := rfl
@[simp] theorem State.migs_closed (s : State) : (s.closed).migs = s.migs := rfl
@[simp] theorem State.msgs_closed (s : State) : (s.closed).msgs = s.msgs := rfl
@[simp] theorem State.tasks_closed (s : State) : (s.closed).tasks = s.tasks := rfl
@[simp] theorem State.launches_closed (s : State) : (s.closed).launches = s.launches := rfl
@[simp] theorem State.lqs_closed (s : State) : (s.closed).lqs = s.lqs := rfl
@[simp] theorem State.aperture_closed (s : State) : (s.closed).aperture = s.aperture := rfl
@[simp] theorem State.seq_closed (s : State) : (s.closed).seq = s.seq := rfl
@[simp] theorem State.crBase_closed (s : State) : (s.closed).crBase = s.crBase := rfl
@[simp] theorem State.crEn_closed (s : State) : (s.closed).crEn = s.crEn := rfl
@[simp] theorem State.crLog_closed (s : State) : (s.closed).crLog = s.crLog := rfl
@[simp] theorem State.crHead_closed (s : State) : (s.closed).crHead = s.crHead := rfl
@[simp] theorem State.crTail_closed (s : State) : (s.closed).crTail = s.crTail := rfl
@[simp] theorem State.holding_closed (s : State) : (s.closed).holding = s.holding := rfl
@[simp] theorem State.ktBase_closed (s : State) : (s.closed).ktBase = s.ktBase := rfl
@[simp] theorem State.preempt_closed (s : State) : (s.closed).preempt = s.preempt := rfl
@[simp] theorem State.preload_closed (s : State) : (s.closed).preload = s.preload := rfl
@[simp] theorem State.drainThr_closed (s : State) : (s.closed).drainThr = s.drainThr := rfl
@[simp] theorem State.grace_closed (s : State) : (s.closed).grace = s.grace := rfl
@[simp] theorem State.hwBase_closed (s : State) : (s.closed).hwBase = s.hwBase := rfl
@[simp] theorem State.chipRoute_closed (s : State) : (s.closed).chipRoute = s.chipRoute := rfl
@[simp] theorem State.chip_closed (s : State) : (s.closed).chip = s.chip := rfl
@[simp] theorem State.doms_closed (s : State) : (s.closed).doms = s.doms := rfl
@[simp] theorem State.bars_closed (s : State) : (s.closed).bars = s.bars := rfl
@[simp] theorem State.ballots_closed (s : State) : (s.closed).ballots = s.ballots := rfl
@[simp] theorem State.vaultEx_closed (s : State) : (s.closed).vaultEx = s.vaultEx := rfl
@[simp] theorem State.hbmEx_closed (s : State) : (s.closed).hbmEx = s.hbmEx := rfl
@[simp] theorem State.callStores_closed (s : State) : (s.closed).callStores = s.callStores := rfl
@[simp] theorem State.beats_closed (s : State) : (s.closed).beats = s.beats := rfl
@[simp] theorem State.away_closed (s : State) : (s.closed).away = s.away := rfl
@[simp] theorem State.pendCalls_closed (s : State) : (s.closed).pendCalls = s.pendCalls := rfl
@[simp] theorem State.links_closed (s : State) : (s.closed).links = s.links := rfl
@[simp] theorem State.mg_closed (s : State) : (s.closed).mg = s.mg := rfl
@[simp] theorem State.escs_closed (s : State) : (s.closed).escs = s.escs := rfl
@[simp] theorem State.msix0_closed (s : State) : (s.closed).msix0 = s.msix0 := rfl
@[simp] theorem State.msix1_closed (s : State) : (s.closed).msix1 = s.msix1 := rfl
@[simp] theorem State.hostRead_closed (s : State) : (s.closed).hostRead = s.hostRead := rfl

/-! ### What they change -/

@[simp] theorem State.tasks_updTask (s : State) (t : Nat) (f : Task → Task) : (s.updTask t f).tasks = s.tasks.put none t ((s.tasks.get none t).map f) := rfl
@[simp] theorem State.launches_updLaunch (s : State) (l : Nat) (f : Launch → Launch) : (s.updLaunch l f).launches = s.launches.put none l ((s.launches.get none l).map f) := rfl
@[simp] theorem State.escs_escalate (s : State) (e : Escalation) : (s.escalate e).escs = s.escs ++ [e] := rfl
@[simp] theorem State.msix1_escalate (s : State) (e : Escalation) : (s.escalate e).msix1 = s.msix1 + 1 := rfl
@[simp] theorem State.msgs_sendMsg (s : State) (m : Msg) : (s.sendMsg m).msgs = s.msgs ++ [⟨s.ids, s.cycle, m⟩] := rfl
@[simp] theorem State.ids_sendMsg (s : State) (m : Msg) : (s.sendMsg m).ids = s.ids + 1 := rfl

end Sys2Proof.Machine
end

