-- ==== Sys2Proof/Laws/Memory.lean ====
section
/-! SUPPORT. The operations on memory: what each writes, what it leaves, and that each keeps the canonical form. -/

namespace Sys2Proof.Machine

/-! ### The canonical form -/

theorem memWf_iff (s : State) : s.memWf = true ↔ s.mem.wf 0 = true ∧ s.host.wf 0 = true ∧ s.poison.wf false = true ∧ s.empty.wf false = true := by
  unfold State.memWf
  simp [and_assoc]

/-- Two states with the same memories and marks. -/
theorem memWf_congr {s t : State} (h1 : t.mem = s.mem) (h2 : t.host = s.host) (h3 : t.poison = s.poison) (h4 : t.empty = s.empty) : t.memWf = s.memWf := by
  unfold State.memWf
  rw [h1, h2, h3, h4]

theorem SMap.wfFrom_filter {α : Type} [DecidableEq α] {d : α} {m : SMap α} {lo : Nat} (p : Nat × α → Bool) (h : SMap.wfFrom d lo m) : SMap.wfFrom d lo (m.filter p) := by
  induction m generalizing lo with
  | nil => exact h
  | cons e m ih =>
    obtain ⟨h1, h2, h3⟩ := h
    by_cases hp : p e = true
    · rw [List.filter_cons_of_pos hp]; exact ⟨h1, h2, ih h3⟩
    · rw [List.filter_cons_of_neg hp]; exact SMap.wfFrom_mono (by omega) (ih h3)

theorem SMap.wf_filter {α : Type} [DecidableEq α] {d : α} {m : SMap α} (p : Nat × α → Bool) (h : m.wf d = true) : SMap.wf d (m.filter p) = true :=
  (SMap.wf_iff d _).mpr (SMap.wfFrom_filter p ((SMap.wf_iff d m).mp h))

/-! ### Stores under a mask -/

theorem wf_writeMasked {m : SMap Byte} (a : Nat) (l : List (Option Byte)) (h : m.wf 0 = true) : (writeMasked m a l).wf 0 = true := by
  induction l generalizing m a with
  | nil => exact h
  | cons e l ih => cases e with
    | none => exact ih (a + 1) h
    | some b => exact ih (a + 1) (SMap.wf_put _ _ h)

/-- Outside the range a store under a mask changes nothing. -/
theorem get_writeMasked_out (m : SMap Byte) (a : Nat) (l : List (Option Byte)) {k : Nat} (h : k < a ∨ a + l.length ≤ k) : (writeMasked m a l).get 0 k = m.get 0 k := by
  induction l generalizing m a with
  | nil => rfl
  | cons e l ih =>
    simp only [List.length_cons] at h
    cases e with
    | none => exact ih m (a + 1) (by omega)
    | some b => exact (ih _ (a + 1) (by omega)).trans (SMap.get_put_ne _ _ _ (by omega))

/-- Inside it, the bytes that the mask names are written, and the others stay. -/
theorem get_writeMasked_in (m : SMap Byte) (a : Nat) (l : List (Option Byte)) {i : Nat} (h : i < l.length) :
    (writeMasked m a l).get 0 (a + i) = (l[i]).getD (m.get 0 (a + i)) := by
  induction l generalizing m a i with
  | nil => simp at h
  | cons e l ih =>
    cases i with
    | zero => cases e with
      | none => exact get_writeMasked_out m (a + 1) l (by omega)
      | some b => exact (get_writeMasked_out _ (a + 1) l (by omega)).trans (by simp)
    | succ i =>
      have hi : i < l.length := by simpa using h
      cases e with
      | none =>
        have := ih m (a + 1) hi
        rw [show a + 1 + i = a + (i + 1) by omega] at this
        exact this
      | some b =>
        have := ih (m.put 0 a b) (a + 1) hi
        rw [show a + 1 + i = a + (i + 1) by omega, SMap.get_put_ne _ _ _ (by omega)] at this
        exact this

/-! ### `poke` and `pokeBytes` -/

/-- **A write of device memory (R174, R414) changes memory, poison and EMPTY marks alone.** -/
theorem poke_frame (s : State) (a : Nat) (l : List (Option Byte)) (c : Bool) : s.poke a l c = { s with mem := (s.poke a l c).mem, poison := (s.poke a l c).poison, empty := (s.poke a l c).empty } := rfl

theorem poke_mem (s : State) (a : Nat) (l : List (Option Byte)) (c : Bool) : (s.poke a l c).mem = writeMasked s.mem a l := rfl

theorem poke_memWf {s : State} (a : Nat) (l : List (Option Byte)) (c : Bool) (h : s.memWf = true) : (s.poke a l c).memWf = true := by
  obtain ⟨h1, h2, h3, h4⟩ := (memWf_iff s).mp h
  refine (memWf_iff _).mpr ⟨wf_writeMasked a l h1, h2, ?_, SMap.wf_filter _ h4⟩
  unfold State.poke
  dsimp only
  split
  · exact SMap.wf_put _ _ h3
  · exact h3

theorem foldl_keeps {α β : Type} (P : β → Prop) (f : β → α → β) (hf : ∀ b a, P b → P (f b a)) (l : List α) (b : β) (h : P b) : P (l.foldl f b) := by
  induction l generalizing b with
  | nil => exact h
  | cons a l ih => exact ih (f b a) (hf b a h)

theorem pokeBytes_mem (s : State) (a : Nat) (l : List Byte) : (s.pokeBytes a l).mem = writeMasked s.mem a (l.map some) := by
  unfold State.pokeBytes
  refine foldl_keeps (fun t : State => t.mem = writeMasked s.mem a (l.map some)) _ (fun t i h => ?_) _ _ rfl
  dsimp only
  split
  · exact h
  · exact h

theorem pokeBytes_memWf {s : State} (a : Nat) (l : List Byte) (h : s.memWf = true) : (s.pokeBytes a l).memWf = true := by
  unfold State.pokeBytes
  refine foldl_keeps (fun t : State => t.memWf = true) _ (fun t i h => ?_) _ _ (poke_memWf a _ false h)
  dsimp only
  split
  · obtain ⟨h1, h2, h3, h4⟩ := (memWf_iff t).mp h
    exact (memWf_iff _).mpr ⟨h1, h2, SMap.wf_put (a / 64 + i) false h3, h4⟩
  · exact h

/-- What a range reads as after it is written. -/
theorem pokeBytes_get (s : State) (a : Nat) (l : List Byte) {i : Nat} (h : i < l.length) : (s.pokeBytes a l).mem.get 0 (a + i) = l[i] := by
  rw [pokeBytes_mem, get_writeMasked_in _ _ _ (by simpa using h)]
  simp

theorem pokeBytes_get_out (s : State) (a : Nat) (l : List Byte) {k : Nat} (h : k < a ∨ a + l.length ≤ k) : (s.pokeBytes a l).mem.get 0 k = s.mem.get 0 k := by
  rw [pokeBytes_mem]
  exact get_writeMasked_out _ _ _ (by simpa using h)

/-! ### Blocks of the save area (R322) -/

theorem putBlock_memWf {s : State} (base len : Nat) (l : List (Nat × List Byte)) (h : s.memWf = true) : (s.putBlock base len l).memWf = true := by
  obtain ⟨h1, h2, h3, h4⟩ := (memWf_iff s).mp h
  refine (memWf_iff _).mpr ⟨?_, h2, SMap.wf_clear _ _ h3, SMap.wf_filter _ h4⟩
  exact foldl_keeps (fun m : SMap Byte => m.wf 0 = true) _ (fun m e hm => wf_writeBytes _ _ hm) l _ (SMap.wf_clear _ _ h1)

end Sys2Proof.Machine
end

