-- ==== Sys2Proof/Laws/PerInstr.lean ====
section
/-! SUPPORT. A law made per instruction: the word of a well-formed instruction, whatever its guard and its operands, carries an assigned opcode in
bits 63 to 54 (R56, R65). -/

namespace Sys2Proof.Laws.Opcode

/-- The opcode of every word of the instruction is assigned. -/
def Statement (i : Instr) : Prop := ∀ g w, i.wf = true → encode g i = some w → (homeOf (bitsOf 54 10 w.toNat)).isSome = true

theorem pack_append (l r : List (Nat × Nat)) : pack (l ++ r) / 2 ^ (l.map (·.1)).sum = pack r := by
  induction l with
  | nil => simp
  | cons e l ih =>
    obtain ⟨n, v⟩ := e
    simp only [List.cons_append, pack, List.map_cons, List.sum_cons, Nat.pow_add, ← Nat.div_div_eq_div_mul]
    rw [Nat.add_mul_div_left _ _ (Nat.two_pow_pos n), Nat.div_eq_of_lt (Nat.mod_lt _ (Nat.two_pow_pos n)), Nat.zero_add, ih]

theorem top_of (n : Nat) : bitsOf 54 10 (BitVec.ofNat 64 n).toNat = n / 2 ^ 54 % 2 ^ 10 := by
  unfold bitsOf
  rw [BitVec.toNat_ofNat]
  omega

/-- A word whose last field is the opcode. -/
theorem plain {l : List (Nat × Nat)} {o : Nat} {w : Word} (h : some (BitVec.ofNat 64 (pack (l ++ [(10, o)]))) = some w) (hl : (l.map (·.1)).sum = 54)
    (ho : (homeOf (o % 2 ^ 10)).isSome = true) : (homeOf (bitsOf 54 10 w.toNat)).isSome = true := by
  injection h with h
  have e := pack_append l [(10, o)]
  rw [hl] at e
  rw [← h, top_of, e]
  simpa [pack] using ho

/-- A word whose last fields are the guard and the opcode. -/
theorem guarded {l : List (Nat × Nat)} {g : Guard} {o : Nat} {w : Word} (h : some (BitVec.ofNat 64 (pack (l ++ encHdr g o))) = some w) (hl : (l.map (·.1)).sum = 49)
    (ho : (homeOf (o % 2 ^ 10)).isSome = true) : (homeOf (bitsOf 54 10 w.toNat)).isSome = true := by
  have e : l ++ encHdr g o = (l ++ [(4, g.pred), (1, boolNat g.neg)]) ++ [(10, o)] := by simp [encHdr]
  rw [e] at h
  exact plain h (by simp [hl]) ho

/-- An event has no word. -/
theorem none_of {w : Word} {P : Prop} (h : (none : Option Word) = some w) : P := by cases h

theorem add (d a b : Nat) : Statement (.add d a b) := fun _ _ _ h => guarded h rfl rfl
theorem sub (d a b : Nat) : Statement (.sub d a b) := fun _ _ _ h => guarded h rfl rfl
theorem mul (d a b : Nat) : Statement (.mul d a b) := fun _ _ _ h => guarded h rfl rfl
theorem mulh (d a b : Nat) : Statement (.mulh d a b) := fun _ _ _ h => guarded h rfl rfl
theorem mulhu (d a b : Nat) : Statement (.mulhu d a b) := fun _ _ _ h => guarded h rfl rfl
theorem div (d a b : Nat) : Statement (.div d a b) := fun _ _ _ h => guarded h rfl rfl
theorem divu (d a b : Nat) : Statement (.divu d a b) := fun _ _ _ h => guarded h rfl rfl
theorem rem (d a b : Nat) : Statement (.rem d a b) := fun _ _ _ h => guarded h rfl rfl
theorem remu (d a b : Nat) : Statement (.remu d a b) := fun _ _ _ h => guarded h rfl rfl
theorem min (d a b : Nat) : Statement (.min d a b) := fun _ _ _ h => guarded h rfl rfl
theorem max (d a b : Nat) : Statement (.max d a b) := fun _ _ _ h => guarded h rfl rfl
theorem minu (d a b : Nat) : Statement (.minu d a b) := fun _ _ _ h => guarded h rfl rfl
theorem maxu (d a b : Nat) : Statement (.maxu d a b) := fun _ _ _ h => guarded h rfl rfl
theorem and (d a b : Nat) : Statement (.and d a b) := fun _ _ _ h => guarded h rfl rfl
theorem or (d a b : Nat) : Statement (.or d a b) := fun _ _ _ h => guarded h rfl rfl
theorem xor (d a b : Nat) : Statement (.xor d a b) := fun _ _ _ h => guarded h rfl rfl
theorem andn (d a b : Nat) : Statement (.andn d a b) := fun _ _ _ h => guarded h rfl rfl
theorem shl (d a b : Nat) : Statement (.shl d a b) := fun _ _ _ h => guarded h rfl rfl
theorem shr (d a b : Nat) : Statement (.shr d a b) := fun _ _ _ h => guarded h rfl rfl
theorem sra (d a b : Nat) : Statement (.sra d a b) := fun _ _ _ h => guarded h rfl rfl
theorem rotl (d a b : Nat) : Statement (.rotl d a b) := fun _ _ _ h => guarded h rfl rfl
theorem clz (d a : Nat) : Statement (.clz d a) := fun _ _ _ h => guarded h rfl rfl
theorem ctz (d a : Nat) : Statement (.ctz d a) := fun _ _ _ h => guarded h rfl rfl
theorem popc (d a : Nat) : Statement (.popc d a) := fun _ _ _ h => guarded h rfl rfl
theorem bext (d a pos len : Nat) : Statement (.bext d a pos len) := fun _ _ _ h => guarded h rfl rfl
theorem bins (d a b pos len : Nat) : Statement (.bins d a b pos len) := fun _ _ _ h => guarded h rfl rfl
theorem sext (d a w : Nat) : Statement (.sext d a w) := fun _ _ _ h => guarded h rfl rfl
theorem cmp (cc : CC) (d a b : Nat) : Statement (.cmp cc d a b) := fun _ _ _ h => guarded h rfl rfl
theorem pand (d a b : Nat) : Statement (.pand d a b) := fun _ _ _ h => guarded h rfl rfl
theorem por (d a b : Nat) : Statement (.por d a b) := fun _ _ _ h => guarded h rfl rfl
theorem pxor (d a b : Nat) : Statement (.pxor d a b) := fun _ _ _ h => guarded h rfl rfl
theorem pandn (d a b : Nat) : Statement (.pandn d a b) := fun _ _ _ h => guarded h rfl rfl
theorem sel (d c a b : Nat) : Statement (.sel d c a b) := fun _ _ _ h => guarded h rfl rfl
theorem hmix (d a b : Nat) : Statement (.hmix d a b) := fun _ _ _ h => guarded h rfl rfl
theorem kvslot (d a b : Nat) : Statement (.kvslot d a b) := fun _ _ _ h => guarded h rfl rfl
theorem addi (d a : Nat) (imm : Int) : Statement (.addi d a imm) := fun _ _ _ h => guarded h rfl rfl
theorem andi (d a : Nat) (imm : Int) : Statement (.andi d a imm) := fun _ _ _ h => guarded h rfl rfl
theorem ori (d a : Nat) (imm : Int) : Statement (.ori d a imm) := fun _ _ _ h => guarded h rfl rfl
theorem xori (d a : Nat) (imm : Int) : Statement (.xori d a imm) := fun _ _ _ h => guarded h rfl rfl
theorem shli (d a n : Nat) : Statement (.shli d a n) := fun _ _ _ h => guarded h rfl rfl
theorem shri (d a n : Nat) : Statement (.shri d a n) := fun _ _ _ h => guarded h rfl rfl
theorem srai (d a n : Nat) : Statement (.srai d a n) := fun _ _ _ h => guarded h rfl rfl
theorem cmpi (cc : CC) (d a : Nat) (imm : Int) : Statement (.cmpi cc d a imm) := fun _ _ _ h => guarded h rfl rfl
theorem lih (d imm : Nat) : Statement (.lih d imm) := fun _ _ _ h => guarded h rfl rfl
theorem lim (d : Nat) (imm : Int) : Statement (.lim d imm) := fun _ _ _ h => plain (l := [(48, _), (6, _)]) h rfl rfl
theorem ctlr (d num : Nat) : Statement (.ctlr d num) := fun _ _ _ h => guarded h rfl rfl
theorem ctlw (num a : Nat) : Statement (.ctlw num a) := fun _ _ _ h => guarded h rfl rfl
theorem br (off : Int) : Statement (.br off) := fun _ _ _ h => guarded h rfl rfl
theorem brr (a : Nat) : Statement (.brr a) := fun _ _ _ h => guarded h rfl rfl
theorem call (off : Int) : Statement (.call off) := fun _ _ _ h => guarded h rfl rfl
theorem callr (a : Nat) : Statement (.callr a) := fun _ _ _ h => guarded h rfl rfl
theorem loop (off : Int) : Statement (.loop off) := fun _ _ _ h => guarded h rfl rfl
theorem chk (av : Bool) (a : Nat) (off : Int) : Statement (.chk av a off) := fun _ _ _ h => guarded h rfl rfl
theorem vadd (ty : Ty) (md : Rnd) (d a b k : Nat) : Statement (.vadd ty md d a b k) := fun _ _ _ h => guarded h rfl rfl
theorem vsub (ty : Ty) (md : Rnd) (d a b k : Nat) : Statement (.vsub ty md d a b k) := fun _ _ _ h => guarded h rfl rfl
theorem vmul (ty : Ty) (md : Rnd) (d a b k : Nat) : Statement (.vmul ty md d a b k) := fun _ _ _ h => guarded h rfl rfl
theorem vfma (ty : Ty) (md : Rnd) (d a b c k : Nat) : Statement (.vfma ty md d a b c k) := fun _ _ _ h => guarded h rfl rfl
theorem vfms (ty : Ty) (md : Rnd) (d a b c k : Nat) : Statement (.vfms ty md d a b c k) := fun _ _ _ h => guarded h rfl rfl
theorem vfnma (ty : Ty) (md : Rnd) (d a b c k : Nat) : Statement (.vfnma ty md d a b c k) := fun _ _ _ h => guarded h rfl rfl
theorem vmin (ty : Ty) (d a b k : Nat) : Statement (.vmin ty d a b k) := fun _ _ _ h => guarded h rfl rfl
theorem vmax (ty : Ty) (d a b k : Nat) : Statement (.vmax ty d a b k) := fun _ _ _ h => guarded h rfl rfl
theorem vabs (ty : Ty) (d a k : Nat) : Statement (.vabs ty d a k) := fun _ _ _ h => guarded h rfl rfl
theorem vneg (ty : Ty) (d a k : Nat) : Statement (.vneg ty d a k) := fun _ _ _ h => guarded h rfl rfl
theorem vand (ty : Ty) (d a b k : Nat) : Statement (.vand ty d a b k) := fun _ _ _ h => guarded h rfl rfl
theorem vor (ty : Ty) (d a b k : Nat) : Statement (.vor ty d a b k) := fun _ _ _ h => guarded h rfl rfl
theorem vxor (ty : Ty) (d a b k : Nat) : Statement (.vxor ty d a b k) := fun _ _ _ h => guarded h rfl rfl
theorem vshl (ty : Ty) (d a b k : Nat) : Statement (.vshl ty d a b k) := fun _ _ _ h => guarded h rfl rfl
theorem vshr (ty : Ty) (d a b k : Nat) : Statement (.vshr ty d a b k) := fun _ _ _ h => guarded h rfl rfl
theorem vsra (ty : Ty) (d a b k : Nat) : Statement (.vsra ty d a b k) := fun _ _ _ h => guarded h rfl rfl
theorem vaddsat (ty : Ty) (d a b k : Nat) : Statement (.vaddsat ty d a b k) := fun _ _ _ h => guarded h rfl rfl
theorem vsubsat (ty : Ty) (d a b k : Nat) : Statement (.vsubsat ty d a b k) := fun _ _ _ h => guarded h rfl rfl
theorem vclamp (ty : Ty) (d a b c k : Nat) : Statement (.vclamp ty d a b c k) := fun _ _ _ h => guarded h rfl rfl
theorem vexp2 (ty : Ty) (d a k : Nat) : Statement (.vexp2 ty d a k) := fun _ _ _ h => guarded h rfl rfl
theorem vlog2 (ty : Ty) (d a k : Nat) : Statement (.vlog2 ty d a k) := fun _ _ _ h => guarded h rfl rfl
theorem vrcp (ty : Ty) (d a k : Nat) : Statement (.vrcp ty d a k) := fun _ _ _ h => guarded h rfl rfl
theorem vrsq (ty : Ty) (d a k : Nat) : Statement (.vrsq ty d a k) := fun _ _ _ h => guarded h rfl rfl
theorem vcmp (cc : CC) (ty : Ty) (d a b k : Nat) : Statement (.vcmp cc ty d a b k) := fun _ _ _ h => guarded h rfl rfl
theorem kand (d a b : Nat) : Statement (.kand d a b) := fun _ _ _ h => guarded h rfl rfl
theorem kor (d a b : Nat) : Statement (.kor d a b) := fun _ _ _ h => guarded h rfl rfl
theorem kxor (d a b : Nat) : Statement (.kxor d a b) := fun _ _ _ h => guarded h rfl rfl
theorem knot (d a : Nat) : Statement (.knot d a) := fun _ _ _ h => guarded h rfl rfl
theorem kpop (ty : Ty) (d a : Nat) : Statement (.kpop ty d a) := fun _ _ _ h => guarded h rfl rfl
theorem vsel (ty : Ty) (d a b k : Nat) : Statement (.vsel ty d a b k) := fun _ _ _ h => guarded h rfl rfl
theorem vbcast (ty : Ty) (d a k : Nat) : Statement (.vbcast ty d a k) := fun _ _ _ h => guarded h rfl rfl
theorem vperm (ty : Ty) (d a b k : Nat) : Statement (.vperm ty d a b k) := fun _ _ _ h => guarded h rfl rfl
theorem vshuf (ty : Ty) (pat : Shuf) (d a b k : Nat) : Statement (.vshuf ty pat d a b k) := fun _ _ _ h => guarded h rfl rfl
theorem vrot (ty : Ty) (d a n k : Nat) : Statement (.vrot ty d a n k) := fun _ _ _ h => guarded h rfl rfl
theorem viota (ty : Ty) (d a k : Nat) : Statement (.viota ty d a k) := fun _ _ _ h => guarded h rfl rfl
theorem vins (ty : Ty) (d a lane : Nat) : Statement (.vins ty d a lane) := fun _ _ _ h => guarded h rfl rfl
theorem vext (ty : Ty) (d a lane : Nat) : Statement (.vext ty d a lane) := fun _ _ _ h => guarded h rfl rfl
theorem vmov (ty : Ty) (d a k : Nat) : Statement (.vmov ty d a k) := fun _ _ _ h => guarded h rfl rfl
theorem vred (ty : Ty) (op : RedOp) (d a k : Nat) : Statement (.vred ty op d a k) := fun _ _ _ h => guarded h rfl rfl
theorem vscan (ty : Ty) (op : RedOp) (d a k : Nat) : Statement (.vscan ty op d a k) := fun _ _ _ h => guarded h rfl rfl
theorem vcvt (ty ty2 : Ty) (md : Rnd) (d a part k : Nat) : Statement (.vcvt ty ty2 md d a part k) := fun _ _ _ h => guarded h rfl rfl
theorem vmxq (ty2 : Ty) (md : Rnd) (d c a part : Nat) : Statement (.vmxq ty2 md d c a part) := fun _ _ _ h => guarded h rfl rfl
theorem vmxdq (ty2 : Ty) (d a c part : Nat) : Statement (.vmxdq ty2 d a c part) := fun _ _ _ h => guarded h rfl rfl
theorem talloc (t a : Nat) (pl : Bool) : Statement (.talloc t a pl) := fun _ _ _ h => guarded h rfl rfl
theorem tfree (t : Nat) (pl : Bool) : Statement (.tfree t pl) := fun _ _ _ h => guarded h rfl rfl
theorem tzero (t : Nat) (anchor : Int) : Statement (.tzero t anchor) := fun _ _ _ h => guarded h rfl rfl
theorem tanchor (t : Nat) (anchor : Int) : Statement (.tanchor t anchor) := fun _ _ _ h => guarded h rfl rfl
theorem tload (ty : Ty) (a b : Nat) : Statement (.tload ty a b) := fun _ _ _ h => guarded h rfl rfl
theorem tmm (ty : Ty) (t : Nat) (va : Bool) (a b n row0 : Nat) : Statement (.tmm ty t va a b n row0) := fun _ _ _ h => guarded h rfl rfl
theorem tdrain (ty : Ty) (md : Rnd) (t a row : Nat) (zr : Bool) : Statement (.tdrain ty md t a row zr) := fun _ _ _ h => guarded h rfl rfl
theorem tstat (t a : Nat) : Statement (.tstat t a) := fun _ _ _ h => guarded h rfl rfl
theorem tprog (t a w : Nat) : Statement (.tprog t a w) := fun _ _ _ h => guarded h rfl rfl
theorem tclr (t : Nat) : Statement (.tclr t) := fun _ _ _ h => guarded h rfl rfl
theorem ld (sz : Nat) (ord : MemOrd) (hint : Hint) (d : Nat) (ad : Addr) : Statement (.ld sz ord hint d ad) := fun _ _ _ h => guarded h rfl rfl
theorem ldS (sz : Nat) (hint : Hint) (d : Nat) (ad : Addr) : Statement (.ldS sz hint d ad) := fun _ _ _ h => guarded h rfl rfl
theorem vld (hint : Hint) (d : Nat) (ad : Addr) (k : Nat) : Statement (.vld hint d ad k) := fun _ _ _ h => guarded h rfl rfl
theorem vldS (hint : Hint) (d : Nat) (ad : Addr) (k : Nat) : Statement (.vldS hint d ad k) := fun _ _ _ h => guarded h rfl rfl
theorem ldro (sz : Nat) (hint : Hint) (d : Nat) (ad : Addr) : Statement (.ldro sz hint d ad) := fun _ _ _ h => guarded h rfl rfl
theorem vldro (hint : Hint) (d : Nat) (ad : Addr) (k : Nat) : Statement (.vldro hint d ad k) := fun _ _ _ h => guarded h rfl rfl
theorem vldb (w : BlkW) (hint : Hint) (d : Nat) (ad : Addr) (part : Nat) : Statement (.vldb w hint d ad part) := fun _ _ _ h => guarded h rfl rfl
theorem ldx (ord : MemOrd) (hint : Hint) (d : Nat) (ad : Addr) : Statement (.ldx ord hint d ad) := fun _ _ _ h => guarded h rfl rfl
theorem roinvAddr (h a : Nat) (disp : Int) : Statement (.roinvAddr h a disp) := fun _ _ _ h => guarded h rfl rfl
theorem st (sz : Nat) (ord : MemOrd) (hint : Hint) (d : Nat) (ad : Addr) : Statement (.st sz ord hint d ad) := fun _ _ _ h => guarded h rfl rfl
theorem vst (hint : Hint) (d : Nat) (ad : Addr) (k : Nat) : Statement (.vst hint d ad k) := fun _ _ _ h => guarded h rfl rfl
theorem vstb (w : BlkW) (hint : Hint) (d : Nat) (ad : Addr) (part : Nat) : Statement (.vstb w hint d ad part) := fun _ _ _ h => guarded h rfl rfl
theorem stx (ord : MemOrd) (hint : Hint) (d : Nat) (ad : Addr) : Statement (.stx ord hint d ad) := fun _ _ _ h => guarded h rfl rfl
theorem send (vec : Bool) (ord : MemOrd) (d a : Nat) (disp : Int) (k : Nat) : Statement (.send vec ord d a disp k) := fun _ _ _ h => guarded h rfl rfl
theorem amoAdd (sz : Nat) (ord : MemOrd) (hint : Hint) (d : Nat) (ad : Addr) (b : Nat) : Statement (.amoAdd sz ord hint d ad b) := fun _ _ _ h => guarded h rfl rfl
theorem amoMin (sz : Nat) (ord : MemOrd) (hint : Hint) (d : Nat) (ad : Addr) (b : Nat) : Statement (.amoMin sz ord hint d ad b) := fun _ _ _ h => guarded h rfl rfl
theorem amoMax (sz : Nat) (ord : MemOrd) (hint : Hint) (d : Nat) (ad : Addr) (b : Nat) : Statement (.amoMax sz ord hint d ad b) := fun _ _ _ h => guarded h rfl rfl
theorem amoMinu (sz : Nat) (ord : MemOrd) (hint : Hint) (d : Nat) (ad : Addr) (b : Nat) : Statement (.amoMinu sz ord hint d ad b) := fun _ _ _ h => guarded h rfl rfl
theorem amoMaxu (sz : Nat) (ord : MemOrd) (hint : Hint) (d : Nat) (ad : Addr) (b : Nat) : Statement (.amoMaxu sz ord hint d ad b) := fun _ _ _ h => guarded h rfl rfl
theorem amoAnd (sz : Nat) (ord : MemOrd) (hint : Hint) (d : Nat) (ad : Addr) (b : Nat) : Statement (.amoAnd sz ord hint d ad b) := fun _ _ _ h => guarded h rfl rfl
theorem amoOr (sz : Nat) (ord : MemOrd) (hint : Hint) (d : Nat) (ad : Addr) (b : Nat) : Statement (.amoOr sz ord hint d ad b) := fun _ _ _ h => guarded h rfl rfl
theorem amoXor (sz : Nat) (ord : MemOrd) (hint : Hint) (d : Nat) (ad : Addr) (b : Nat) : Statement (.amoXor sz ord hint d ad b) := fun _ _ _ h => guarded h rfl rfl
theorem amoSwap (sz : Nat) (ord : MemOrd) (hint : Hint) (d : Nat) (ad : Addr) (b : Nat) : Statement (.amoSwap sz ord hint d ad b) := fun _ _ _ h => guarded h rfl rfl
theorem amoCas (sz : Nat) (ord : MemOrd) (hint : Hint) (d : Nat) (ad : Addr) (b c : Nat) : Statement (.amoCas sz ord hint d ad b c) := fun _ _ _ h => guarded h rfl rfl
theorem amoFadd (ty : Ty) (ord : MemOrd) (hint : Hint) (d : Nat) (ad : Addr) (b : Nat) : Statement (.amoFadd ty ord hint d ad b) := fun _ _ _ h => guarded h rfl rfl
theorem push (q a pd : Nat) : Statement (.push q a pd) := fun _ _ _ h => guarded h rfl rfl
theorem xlat (h a intent : Nat) : Statement (.xlat h a intent) := fun _ _ _ h => guarded h rfl rfl
theorem xlatS (h a intent : Nat) : Statement (.xlatS h a intent) := fun _ _ _ h => guarded h rfl rfl
theorem hinfo (b h word : Nat) : Statement (.hinfo b h word) := fun _ _ _ h => guarded h rfl rfl
theorem hrel (h : Nat) : Statement (.hrel h) := fun _ _ _ h => guarded h rfl rfl
theorem tlbinv (pd a b mode : Nat) (dev : Bool) : Statement (.tlbinv pd a b mode dev) := fun _ _ _ h => guarded h rfl rfl
theorem pgmig (a b : Nat) : Statement (.pgmig a b) := fun _ _ _ h => guarded h rfl rfl
theorem rcall (y h a fn smask : Nat) (rel : Bool) (nx xa xb : Nat) : Statement (.rcall y h a fn smask rel nx xa xb) := fun _ _ _ h => guarded h rfl rfl
theorem cpwm (pd q a b : Nat) : Statement (.cpwm pd q a b) := fun _ _ _ h => guarded h rfl rfl
theorem cpwmq (b q : Nat) : Statement (.cpwmq b q) := fun _ _ _ h => guarded h rfl rfl
theorem cpprog (b q sel : Nat) : Statement (.cpprog b q sel) := fun _ _ _ h => guarded h rfl rfl
theorem xbswap (pd a : Nat) : Statement (.xbswap pd a) := fun _ _ _ h => guarded h rfl rfl
theorem xbstat (b a sel : Nat) : Statement (.xbstat b a sel) := fun _ _ _ h => guarded h rfl rfl
theorem xbretire (pd a : Nat) : Statement (.xbretire pd a) := fun _ _ _ h => guarded h rfl rfl
theorem xbremap (pd a b : Nat) : Statement (.xbremap pd a b) := fun _ _ _ h => guarded h rfl rfl
theorem xbcfg (pd a b : Nat) : Statement (.xbcfg pd a b) := fun _ _ _ h => guarded h rfl rfl
theorem xbcolCoef (b a : Nat) : Statement (.xbcolCoef b a) := fun _ _ _ h => guarded h rfl rfl
theorem xbcolClip (b a : Nat) : Statement (.xbcolClip b a) := fun _ _ _ h => guarded h rfl rfl
theorem xbcolSet (pd a b : Nat) : Statement (.xbcolSet pd a b) := fun _ _ _ h => guarded h rfl rfl
theorem xbcolClipclr (b a : Nat) : Statement (.xbcolClipclr b a) := fun _ _ _ h => guarded h rfl rfl
theorem klaunch (pd a lq : Nat) : Statement (.klaunch pd a lq) := fun _ _ _ h => guarded h rfl rfl
theorem semwait (n thr : Nat) (ord : MemOrd) (dec : Bool) : Statement (.semwait n thr ord dec) := fun _ _ _ h => guarded h rfl rfl
theorem semsig (n inc : Nat) (ord : MemOrd) : Statement (.semsig n inc ord) := fun _ _ _ h => guarded h rfl rfl
theorem semset (n a : Nat) (ord : MemOrd) : Statement (.semset n a ord) := fun _ _ _ h => guarded h rfl rfl
theorem semget (n a : Nat) (ord : MemOrd) : Statement (.semget n a ord) := fun _ _ _ h => guarded h rfl rfl
theorem semtry (n thr pd : Nat) (ord : MemOrd) (dec : Bool) : Statement (.semtry n thr pd ord dec) := fun _ _ _ h => guarded h rfl rfl
theorem qlevel (n min a pd : Nat) : Statement (.qlevel n min a pd) := fun _ _ _ h => guarded h rfl rfl
theorem fence (sc : Scope) : Statement (.fence sc) := fun _ _ _ h => guarded h rfl rfl
theorem bsync (n : Nat) : Statement (.bsync n) := fun _ _ _ h => guarded h rfl rfl
theorem barrive (n : Nat) : Statement (.barrive n) := fun _ _ _ h => guarded h rfl rfl
theorem bwait (n pd : Nat) : Statement (.bwait n pd) := fun _ _ _ h => guarded h rfl rfl
theorem bstat (n a : Nat) : Statement (.bstat n a) := fun _ _ _ h => guarded h rfl rfl
theorem bpost (a pd : Nat) : Statement (.bpost a pd) := fun _ _ _ h => guarded h rfl rfl
theorem bread (ord : MemOrd) (a sel : Nat) : Statement (.bread ord a sel) := fun _ _ _ h => guarded h rfl rfl
theorem domset (n a : Nat) : Statement (.domset n a) := fun _ _ _ h => guarded h rfl rfl
theorem domget (n a sel : Nat) : Statement (.domget n a sel) := fun _ _ _ h => guarded h rfl rfl
theorem gcancel (a : Nat) : Statement (.gcancel a) := fun _ _ _ h => guarded h rfl rfl
theorem rwait (ord : MemOrd) (y d pd : Nat) (trap : Bool) : Statement (.rwait ord y d pd trap) := fun _ _ _ h => guarded h rfl rfl
theorem rpoll (y a pd : Nat) : Statement (.rpoll y a pd) := fun _ _ _ h => guarded h rfl rfl
theorem trap (code : Nat) : Statement (.trap code) := fun _ _ _ h => guarded h rfl rfl
theorem syscall (code : Nat) : Statement (.syscall code) := fun _ _ _ h => guarded h rfl rfl
theorem brk (code : Nat) : Statement (.brk code) := fun _ _ _ h => guarded h rfl rfl
theorem step (pd a : Nat) : Statement (.step pd a) := fun _ _ _ h => guarded h rfl rfl
theorem wset (n a kinds dsel : Nat) : Statement (.wset n a kinds dsel) := fun _ _ _ h => guarded h rfl rfl
theorem wclr (n : Nat) : Statement (.wclr n) := fun _ _ _ h => guarded h rfl rfl
theorem ctxfrz (pd a : Nat) : Statement (.ctxfrz pd a) := fun _ _ _ h => guarded h rfl rfl
theorem ctxrun (pd a : Nat) : Statement (.ctxrun pd a) := fun _ _ _ h => guarded h rfl rfl
theorem kfail (retry : Bool) : Statement (.kfail retry) := fun _ _ _ h => guarded h rfl rfl
theorem kbudget (a : Nat) : Statement (.kbudget a) := fun _ _ _ h => guarded h rfl rfl
theorem vendorDiagnostic (opc d rest : Nat) : Statement (.vendorDiagnostic opc d rest) := fun _ _ hw h => guarded h rfl (by
  have : opc < 64 := by simp [Instr.wf] at hw; omega
  interval_cases opc <;> rfl)
theorem contextUnblock (c x : Nat) : Statement (.contextUnblock c x) := fun _ _ _ h => none_of h
theorem resultLand (grp : Nat) : Statement (.resultLand grp) := fun _ _ _ h => none_of h
theorem trapEntry (c x : Nat) : Statement (.trapEntry c x) := fun _ _ _ h => none_of h
theorem accessPerform (id : Nat) : Statement (.accessPerform id) := fun _ _ _ h => none_of h
theorem guidonArrive (c x : Nat) : Statement (.guidonArrive c x) := fun _ _ _ h => none_of h
theorem walkComplete (id : Nat) : Statement (.walkComplete id) := fun _ _ _ h => none_of h
theorem walkBusyRestart (id : Nat) : Statement (.walkBusyRestart id) := fun _ _ _ h => none_of h
theorem revocationComplete (id : Nat) : Statement (.revocationComplete id) := fun _ _ _ h => none_of h
theorem pgmigMove (id : Nat) : Statement (.pgmigMove id) := fun _ _ _ h => none_of h
theorem tileRowEnter (c : Nat) : Statement (.tileRowEnter c) := fun _ _ _ h => none_of h
theorem tileRowApply (c : Nat) : Statement (.tileRowApply c) := fun _ _ _ h => none_of h
theorem tloadComplete (c : Nat) : Statement (.tloadComplete c) := fun _ _ _ h => none_of h
theorem tswapTakeEffect (c : Nat) : Statement (.tswapTakeEffect c) := fun _ _ _ h => none_of h
theorem semaphoreGrant (c : Nat) : Statement (.semaphoreGrant c) := fun _ _ _ h => none_of h
theorem copyCommand (c q : Nat) : Statement (.copyCommand c q) := fun _ _ _ h => none_of h
theorem copyItem (c q id : Nat) : Statement (.copyItem c q id) := fun _ _ _ h => none_of h
theorem xbprog (c q : Nat) : Statement (.xbprog c q) := fun _ _ _ h => none_of h
theorem xbprogRow (c q id : Nat) : Statement (.xbprogRow c q id) := fun _ _ _ h => none_of h
theorem xbverify (c q : Nat) : Statement (.xbverify c q) := fun _ _ _ h => none_of h
theorem xbcal (c q : Nat) : Statement (.xbcal c q) := fun _ _ _ h => none_of h
theorem xbprobe (c q : Nat) : Statement (.xbprobe c q) := fun _ _ _ h => none_of h
theorem xbmvm (c q : Nat) : Statement (.xbmvm c q) := fun _ _ _ h => none_of h
theorem xbmvmVectorDelivery (c q id : Nat) : Statement (.xbmvmVectorDelivery c q id) := fun _ _ _ h => none_of h
theorem xbswapTakeEffect (c arr : Nat) : Statement (.xbswapTakeEffect c arr) := fun _ _ _ h => none_of h
theorem xbretireTakeEffect (c arr : Nat) : Statement (.xbretireTakeEffect c arr) := fun _ _ _ h => none_of h
theorem vaultExecutorCommand (c : Nat) : Statement (.vaultExecutorCommand c) := fun _ _ _ h => none_of h
theorem hostNotifyCommand (c : Nat) : Statement (.hostNotifyCommand c) := fun _ _ _ h => none_of h
theorem commandEnd (c q id : Nat) : Statement (.commandEnd c q id) := fun _ _ _ h => none_of h
theorem callMessageArrive (id : Nat) : Statement (.callMessageArrive id) := fun _ _ _ h => none_of h
theorem callStart (e : ExecId) : Statement (.callStart e) := fun _ _ _ h => none_of h
theorem remoteCallWord (e : ExecId) (slot : Nat) : Statement (.remoteCallWord e slot) := fun _ _ _ h => none_of h
theorem callWordLimit (e : ExecId) (slot : Nat) : Statement (.callWordLimit e slot) := fun _ _ _ h => none_of h
theorem callReplyArrive (id : Nat) : Statement (.callReplyArrive id) := fun _ _ _ h => none_of h
theorem completionNoticeSend (id : Nat) : Statement (.completionNoticeSend id) := fun _ _ _ h => none_of h
theorem completionNoticeArrive (id : Nat) : Statement (.completionNoticeArrive id) := fun _ _ _ h => none_of h
theorem callDeadline (c x y : Nat) : Statement (.callDeadline c x y) := fun _ _ _ h => none_of h
theorem barrierArrivalCounted (id : Nat) : Statement (.barrierArrivalCounted id) := fun _ _ _ h => none_of h
theorem barrierRelease (id : Nat) : Statement (.barrierRelease id) := fun _ _ _ h => none_of h
theorem barrierReleaseArrive (id : Nat) : Statement (.barrierReleaseArrive id) := fun _ _ _ h => none_of h
theorem ballotPostArrive (id : Nat) : Statement (.ballotPostArrive id) := fun _ _ _ h => none_of h
theorem gcancelRequestArrive (id : Nat) : Statement (.gcancelRequestArrive id) := fun _ _ _ h => none_of h
theorem endNoticeArrive (id : Nat) : Statement (.endNoticeArrive id) := fun _ _ _ h => none_of h
theorem pennantArrive (c x : Nat) : Statement (.pennantArrive c x) := fun _ _ _ h => none_of h
theorem cancellationStop (c x : Nat) : Statement (.cancellationStop c x) := fun _ _ _ h => none_of h
theorem graceExpiry (c x : Nat) : Statement (.graceExpiry c x) := fun _ _ _ h => none_of h
theorem groupReclaim (slot sib : Nat) : Statement (.groupReclaim slot sib) := fun _ _ _ h => none_of h
theorem ballotSlotFree (slot : Nat) : Statement (.ballotSlotFree slot) := fun _ _ _ h => none_of h
theorem launchRecordWrite (off size : Nat) (words : List Word) : Statement (.launchRecordWrite off size words) := fun _ _ _ h => none_of h
theorem preload (c lq seq : Nat) : Statement (.preload c lq seq) := fun _ _ _ h => none_of h
theorem taskSave (t : Nat) : Statement (.taskSave t) := fun _ _ _ h => none_of h
theorem taskResume (t : Nat) : Statement (.taskResume t) := fun _ _ _ h => none_of h
theorem budgetExpiry (t : Nat) : Statement (.budgetExpiry t) := fun _ _ _ h => none_of h
theorem taskEnd (t : Nat) : Statement (.taskEnd t) := fun _ _ _ h => none_of h
theorem registerWrite (agent : RegAgent) (blk : Block) (off : Nat) (val : Word) : Statement (.registerWrite agent blk off val) := fun _ _ _ h => none_of h
theorem hostMemoryAccess (write : Bool) (off n : Nat) (data : List Byte) : Statement (.hostMemoryAccess write off n data) := fun _ _ _ h => none_of h
theorem halyardSteer (c n : Nat) : Statement (.halyardSteer c n) := fun _ _ _ h => none_of h
theorem halyardFailure (c n : Nat) : Statement (.halyardFailure c n) := fun _ _ _ h => none_of h
theorem quiescePoint (c : Nat) : Statement (.quiescePoint c) := fun _ _ _ h => none_of h
theorem linkTrainingDone (l lanes chip : Nat) : Statement (.linkTrainingDone l lanes chip) := fun _ _ _ h => none_of h
theorem flitReceive (l : Nat) (f : Flit) : Statement (.flitReceive l f) := fun _ _ _ h => none_of h
theorem monitorSample (n x : Nat) : Statement (.monitorSample n x) := fun _ _ _ h => none_of h
theorem thermalTrip (point code : Nat) : Statement (.thermalTrip point code) := fun _ _ _ h => none_of h
theorem freezeArrive (c x : Nat) : Statement (.freezeArrive c x) := fun _ _ _ h => none_of h
theorem capWindow (avg : Nat) : Statement (.capWindow avg) := fun _ _ _ h => none_of h
theorem ctxctlResume (c x : Nat) : Statement (.ctxctlResume c x) := fun _ _ _ h => none_of h
theorem ctxctlKill (c x : Nat) : Statement (.ctxctlKill c x) := fun _ _ _ h => none_of h
theorem halyardErrorRateHigh (c n : Nat) : Statement (.halyardErrorRateHigh c n) := fun _ _ _ h => none_of h
theorem halyardRateWindow (c n : Nat) : Statement (.halyardRateWindow c n) := fun _ _ _ h => none_of h
theorem halyardRetire (c n : Nat) : Statement (.halyardRetire c n) := fun _ _ _ h => none_of h
theorem linkEnable (l : Nat) : Statement (.linkEnable l) := fun _ _ _ h => none_of h
theorem linkDisable (l : Nat) : Statement (.linkDisable l) := fun _ _ _ h => none_of h
theorem linkTrainingTimeout (l : Nat) : Statement (.linkTrainingTimeout l) := fun _ _ _ h => none_of h
theorem laneFault (l lane : Nat) : Statement (.laneFault l lane) := fun _ _ _ h => none_of h
theorem linkRepair (l : Nat) : Statement (.linkRepair l) := fun _ _ _ h => none_of h
theorem nop : Statement (.nop) := fun _ _ _ h => by injection h with h; subst h; decide
theorem ret : Statement (.ret) := fun _ _ _ h => guarded h rfl rfl
theorem tswap : Statement (.tswap) := fun _ _ _ h => guarded h rfl rfl
theorem roinvAll : Statement (.roinvAll) := fun _ _ _ h => guarded h rfl rfl
theorem drain : Statement (.drain) := fun _ _ _ h => guarded h rfl rfl
theorem ccp : Statement (.ccp) := fun _ _ _ h => guarded h rfl rfl
theorem handlerReturn : Statement (.handlerReturn) := fun _ _ _ h => guarded h rfl rfl
theorem rte : Statement (.rte) := fun _ _ _ h => guarded h rfl rfl
theorem kdone : Statement (.kdone) := fun _ _ _ h => guarded h rfl rfl
theorem upcall : Statement (.upcall) := fun _ _ _ h => guarded h rfl rfl
theorem launchRecordAccept : Statement (.launchRecordAccept) := fun _ _ _ h => none_of h
theorem dispatch : Statement (.dispatch) := fun _ _ _ h => none_of h
theorem completionRecordWrite : Statement (.completionRecordWrite) := fun _ _ _ h => none_of h
theorem monctlStart : Statement (.monctlStart) := fun _ _ _ h => none_of h
theorem mailboxPower : Statement (.mailboxPower) := fun _ _ _ h => none_of h
theorem mailboxCap : Statement (.mailboxCap) := fun _ _ _ h => none_of h
theorem mailboxAttest : Statement (.mailboxAttest) := fun _ _ _ h => none_of h
theorem mailboxVerify : Statement (.mailboxVerify) := fun _ _ _ h => none_of h
theorem mailboxResetDevice : Statement (.mailboxResetDevice) := fun _ _ _ h => none_of h
theorem mailboxResetCore : Statement (.mailboxResetCore) := fun _ _ _ h => none_of h
theorem mailboxFwload : Statement (.mailboxFwload) := fun _ _ _ h => none_of h
theorem mailboxInvalidOp : Statement (.mailboxInvalidOp) := fun _ _ _ h => none_of h
theorem thermalTripRelease : Statement (.thermalTripRelease) := fun _ _ _ h => none_of h
theorem powerUp : Statement (.powerUp) := fun _ _ _ h => none_of h
theorem mailboxCommandDone : Statement (.mailboxCommandDone) := fun _ _ _ h => none_of h

end Sys2Proof.Laws.Opcode
end

