-- ==== Sys2Proof/Laws/Slot.lean ====
section
/-! SUPPORT. The issue of a bundle of one word: what it does when it commits, faults or blocks, and the shared operations over contexts and
cores read back. -/

set_option Elab.async false

namespace Sys2Proof.Machine

/-! ### Cores and contexts -/

@[simp] theorem State.core_setCore (s : State) (c : Nat) (k : Core) : (s.setCore c k).core c = k := by
  simp [State.setCore, State.core]

@[simp] theorem State.core_setCore_ne (s : State) {c c' : Nat} (k : Core) (h : c' ≠ c) : (s.setCore c k).core c' = s.core c' := by
  simp [State.setCore, State.core, h]

@[simp] theorem State.core_updCore (s : State) (c : Nat) (f : Core → Core) : (s.updCore c f).core c = f (s.core c) := by
  simp [State.updCore]

@[simp] theorem State.core_updCore_ne (s : State) {c c' : Nat} (f : Core → Core) (h : c' ≠ c) : (s.updCore c f).core c' = s.core c' := by
  simp [State.updCore, h]

@[simp] theorem State.cx_setCx (s : State) (c x : Nat) (v : Ctx) : (s.setCx c x v).cx c x = v := by
  simp [State.setCx, State.cx]

@[simp] theorem State.cx_updCx (s : State) (c x : Nat) (f : Ctx → Ctx) : (s.updCx c x f).cx c x = f (s.cx c x) := by
  simp [State.updCx]

theorem State.cx_updCx_ne (s : State) {c x c' x' : Nat} (f : Ctx → Ctx) (h : c' ≠ c ∨ x' ≠ x) : (s.updCx c x f).cx c' x' = s.cx c' x' := by
  unfold State.updCx State.setCx State.cx
  by_cases hc : c' = c
  · subst hc
    have hx : x' ≠ x := by rcases h with h | h; exact absurd rfl h; exact h
    simp [hx]
  · simp [hc]


@[simp] theorem State.me_updMe (s : State) (f : Ctx → Ctx) : (s.updMe f).me = f s.me := by
  simp [State.me, State.updMe]

theorem State.updMe_updMe (s : State) (f g : Ctx → Ctx) : (s.updMe f).updMe g = s.updMe fun x => g (f x) := by
  simp only [State.updMe, State.updCx, State.iss_setCx, State.cx_setCx]
  simp [State.setCx, State.updCore, State.setCore, State.core, SMap.put_put]

/-! ### What a result that becomes visible leaves alone -/

/-- `y` is `x` but for its registers and for what a write to a control register reaches. -/
def Ctx.Frame (x y : Ctx) : Prop :=
  ∃ z : Ctx, y = { x with
    flush := z.flush, diag := z.diag, s := z.s, p := z.p, v := z.v, k := z.k, h := z.h, sR := z.sR, pR := z.pR, ctl := z.ctl, nfq := z.nfq,
    newBudget := z.newBudget }

theorem Ctx.Frame.refl (x : Ctx) : x.Frame x := ⟨x, rfl⟩

theorem Ctx.Frame.trans {x y z : Ctx} : x.Frame y → y.Frame z → x.Frame z := by
  rintro ⟨_, rfl⟩ ⟨w, rfl⟩; exact ⟨w, rfl⟩

theorem Ctx.ctlPut_frame (x : Ctx) (n : Nat) (w : Word) : x.Frame (x.ctlPut n w) := ⟨x.ctlPut n w, rfl⟩

/-- A register write keeps the frame. -/
theorem Ctx.write_frame (x : Ctx) (r : RegId) (v : RVal) (p : Bool) : x.Frame (x.write r v p) := by
  refine ⟨x.write r v p, ?_⟩
  unfold Ctx.write
  split <;> (try split) <;> (try split) <;> (try split) <;> rfl

theorem Ctx.writes_frame (l : List Res) (x : Ctx) : x.Frame (l.foldl (fun x r => x.write r.reg r.val r.poison) x) := by
  induction l generalizing x with
  | nil => exact .refl x
  | cons a r ih => exact (x.write_frame a.reg a.val a.poison).trans (ih _)

/-- So do the results that become visible together. -/
theorem Ctx.land_frame (x : Ctx) (l : List Res) : x.Frame (x.land l) := by
  unfold Ctx.land Ctx.orFlags
  dsimp only
  split
  · exact Ctx.writes_frame _ x
  · exact (Ctx.writes_frame _ x).trans (Ctx.ctlPut_frame _ _ _)

theorem Ctx.Frame.pend {x y : Ctx} (h : x.Frame y) : y.pend = x.pend := by obtain ⟨_, rfl⟩ := h; rfl
theorem Ctx.Frame.step {x y : Ctx} (h : x.Frame y) : y.step = x.step := by obtain ⟨_, rfl⟩ := h; rfl
theorem Ctx.Frame.pstep {x y : Ctx} (h : x.Frame y) : y.pstep = x.pstep := by obtain ⟨_, rfl⟩ := h; rfl
theorem Ctx.Frame.syncHold {x y : Ctx} (h : x.Frame y) : y.syncHold = x.syncHold := by obtain ⟨_, rfl⟩ := h; rfl
theorem Ctx.Frame.st {x y : Ctx} (h : x.Frame y) : y.st = x.st := by obtain ⟨_, rfl⟩ := h; rfl
theorem Ctx.Frame.mode {x y : Ctx} (h : x.Frame y) : y.mode = x.mode := by obtain ⟨_, rfl⟩ := h; rfl
theorem Ctx.Frame.hdl {x y : Ctx} (h : x.Frame y) : y.hdl = x.hdl := by obtain ⟨_, rfl⟩ := h; rfl
theorem Ctx.Frame.f0 {x y : Ctx} (h : x.Frame y) : y.f0 = x.f0 := by obtain ⟨_, rfl⟩ := h; rfl
theorem Ctx.Frame.f1 {x y : Ctx} (h : x.Frame y) : y.f1 = x.f1 := by obtain ⟨_, rfl⟩ := h; rfl
theorem Ctx.Frame.f2 {x y : Ctx} (h : x.Frame y) : y.f2 = x.f2 := by obtain ⟨_, rfl⟩ := h; rfl
theorem Ctx.Frame.f3 {x y : Ctx} (h : x.Frame y) : y.f3 = x.f3 := by obtain ⟨_, rfl⟩ := h; rfl
theorem Ctx.Frame.task {x y : Ctx} (h : x.Frame y) : y.task = x.task := by obtain ⟨_, rfl⟩ := h; rfl
theorem Ctx.Frame.resv {x y : Ctx} (h : x.Frame y) : y.resv = x.resv := by obtain ⟨_, rfl⟩ := h; rfl
theorem Ctx.Frame.snap {x y : Ctx} (h : x.Frame y) : y.snap = x.snap := by obtain ⟨_, rfl⟩ := h; rfl
theorem Ctx.Frame.snapT {x y : Ctx} (h : x.Frame y) : y.snapT = x.snapT := by obtain ⟨_, rfl⟩ := h; rfl
theorem Ctx.Frame.inflight {x y : Ctx} (h : x.Frame y) : y.inflight = x.inflight := by obtain ⟨_, rfl⟩ := h; rfl
theorem Ctx.Frame.canreq {x y : Ctx} (h : x.Frame y) : y.canreq = x.canreq := by obtain ⟨_, rfl⟩ := h; rfl
theorem Ctx.Frame.commits {x y : Ctx} (h : x.Frame y) : y.commits = x.commits := by obtain ⟨_, rfl⟩ := h; rfl
theorem Ctx.Frame.y {x y : Ctx} (h : x.Frame y) : y.y = x.y := by obtain ⟨_, rfl⟩ := h; rfl
theorem Ctx.Frame.arr {x y : Ctx} (h : x.Frame y) : y.arr = x.arr := by obtain ⟨_, rfl⟩ := h; rfl
theorem Ctx.Frame.readyAt {x y : Ctx} (h : x.Frame y) : y.readyAt = x.readyAt := by obtain ⟨_, rfl⟩ := h; rfl

@[simp] theorem Ctx.write_pend (x : Ctx) (r : RegId) (v : RVal) (p : Bool) : (x.write r v p).pend = x.pend := (x.write_frame r v p).pend
@[simp] theorem Ctx.write_step (x : Ctx) (r : RegId) (v : RVal) (p : Bool) : (x.write r v p).step = x.step := (x.write_frame r v p).step
@[simp] theorem Ctx.write_pstep (x : Ctx) (r : RegId) (v : RVal) (p : Bool) : (x.write r v p).pstep = x.pstep := (x.write_frame r v p).pstep
@[simp] theorem Ctx.write_syncHold (x : Ctx) (r : RegId) (v : RVal) (p : Bool) : (x.write r v p).syncHold = x.syncHold := (x.write_frame r v p).syncHold
@[simp] theorem Ctx.write_st (x : Ctx) (r : RegId) (v : RVal) (p : Bool) : (x.write r v p).st = x.st := (x.write_frame r v p).st
@[simp] theorem Ctx.write_mode (x : Ctx) (r : RegId) (v : RVal) (p : Bool) : (x.write r v p).mode = x.mode := (x.write_frame r v p).mode
@[simp] theorem Ctx.write_hdl (x : Ctx) (r : RegId) (v : RVal) (p : Bool) : (x.write r v p).hdl = x.hdl := (x.write_frame r v p).hdl
@[simp] theorem Ctx.write_f0 (x : Ctx) (r : RegId) (v : RVal) (p : Bool) : (x.write r v p).f0 = x.f0 := (x.write_frame r v p).f0
@[simp] theorem Ctx.write_f1 (x : Ctx) (r : RegId) (v : RVal) (p : Bool) : (x.write r v p).f1 = x.f1 := (x.write_frame r v p).f1
@[simp] theorem Ctx.write_f2 (x : Ctx) (r : RegId) (v : RVal) (p : Bool) : (x.write r v p).f2 = x.f2 := (x.write_frame r v p).f2
@[simp] theorem Ctx.write_f3 (x : Ctx) (r : RegId) (v : RVal) (p : Bool) : (x.write r v p).f3 = x.f3 := (x.write_frame r v p).f3
@[simp] theorem Ctx.write_task (x : Ctx) (r : RegId) (v : RVal) (p : Bool) : (x.write r v p).task = x.task := (x.write_frame r v p).task
@[simp] theorem Ctx.write_resv (x : Ctx) (r : RegId) (v : RVal) (p : Bool) : (x.write r v p).resv = x.resv := (x.write_frame r v p).resv
@[simp] theorem Ctx.write_snap (x : Ctx) (r : RegId) (v : RVal) (p : Bool) : (x.write r v p).snap = x.snap := (x.write_frame r v p).snap
@[simp] theorem Ctx.write_snapT (x : Ctx) (r : RegId) (v : RVal) (p : Bool) : (x.write r v p).snapT = x.snapT := (x.write_frame r v p).snapT
@[simp] theorem Ctx.write_inflight (x : Ctx) (r : RegId) (v : RVal) (p : Bool) : (x.write r v p).inflight = x.inflight := (x.write_frame r v p).inflight
@[simp] theorem Ctx.write_canreq (x : Ctx) (r : RegId) (v : RVal) (p : Bool) : (x.write r v p).canreq = x.canreq := (x.write_frame r v p).canreq
@[simp] theorem Ctx.write_commits (x : Ctx) (r : RegId) (v : RVal) (p : Bool) : (x.write r v p).commits = x.commits := (x.write_frame r v p).commits
@[simp] theorem Ctx.write_y (x : Ctx) (r : RegId) (v : RVal) (p : Bool) : (x.write r v p).y = x.y := (x.write_frame r v p).y
@[simp] theorem Ctx.write_arr (x : Ctx) (r : RegId) (v : RVal) (p : Bool) : (x.write r v p).arr = x.arr := (x.write_frame r v p).arr
@[simp] theorem Ctx.write_readyAt (x : Ctx) (r : RegId) (v : RVal) (p : Bool) : (x.write r v p).readyAt = x.readyAt := (x.write_frame r v p).readyAt
@[simp] theorem Ctx.land_pend (x : Ctx) (l : List Res) : (x.land l).pend = x.pend := (x.land_frame l).pend
@[simp] theorem Ctx.land_step (x : Ctx) (l : List Res) : (x.land l).step = x.step := (x.land_frame l).step
@[simp] theorem Ctx.land_pstep (x : Ctx) (l : List Res) : (x.land l).pstep = x.pstep := (x.land_frame l).pstep
@[simp] theorem Ctx.land_syncHold (x : Ctx) (l : List Res) : (x.land l).syncHold = x.syncHold := (x.land_frame l).syncHold
@[simp] theorem Ctx.land_st (x : Ctx) (l : List Res) : (x.land l).st = x.st := (x.land_frame l).st
@[simp] theorem Ctx.land_mode (x : Ctx) (l : List Res) : (x.land l).mode = x.mode := (x.land_frame l).mode
@[simp] theorem Ctx.land_hdl (x : Ctx) (l : List Res) : (x.land l).hdl = x.hdl := (x.land_frame l).hdl
@[simp] theorem Ctx.land_f0 (x : Ctx) (l : List Res) : (x.land l).f0 = x.f0 := (x.land_frame l).f0
@[simp] theorem Ctx.land_f1 (x : Ctx) (l : List Res) : (x.land l).f1 = x.f1 := (x.land_frame l).f1
@[simp] theorem Ctx.land_f2 (x : Ctx) (l : List Res) : (x.land l).f2 = x.f2 := (x.land_frame l).f2
@[simp] theorem Ctx.land_f3 (x : Ctx) (l : List Res) : (x.land l).f3 = x.f3 := (x.land_frame l).f3
@[simp] theorem Ctx.land_task (x : Ctx) (l : List Res) : (x.land l).task = x.task := (x.land_frame l).task
@[simp] theorem Ctx.land_resv (x : Ctx) (l : List Res) : (x.land l).resv = x.resv := (x.land_frame l).resv
@[simp] theorem Ctx.land_snap (x : Ctx) (l : List Res) : (x.land l).snap = x.snap := (x.land_frame l).snap
@[simp] theorem Ctx.land_snapT (x : Ctx) (l : List Res) : (x.land l).snapT = x.snapT := (x.land_frame l).snapT
@[simp] theorem Ctx.land_inflight (x : Ctx) (l : List Res) : (x.land l).inflight = x.inflight := (x.land_frame l).inflight
@[simp] theorem Ctx.land_canreq (x : Ctx) (l : List Res) : (x.land l).canreq = x.canreq := (x.land_frame l).canreq
@[simp] theorem Ctx.land_commits (x : Ctx) (l : List Res) : (x.land l).commits = x.commits := (x.land_frame l).commits
@[simp] theorem Ctx.land_y (x : Ctx) (l : List Res) : (x.land l).y = x.y := (x.land_frame l).y
@[simp] theorem Ctx.land_arr (x : Ctx) (l : List Res) : (x.land l).arr = x.arr := (x.land_frame l).arr
@[simp] theorem Ctx.land_readyAt (x : Ctx) (l : List Res) : (x.land l).readyAt = x.readyAt := (x.land_frame l).readyAt
@[simp] theorem Ctx.settle_pend (x : Ctx) : x.settle.pend = x.pend := (x.land_frame _).pend
@[simp] theorem Ctx.settle_step (x : Ctx) : x.settle.step = x.step := (x.land_frame _).step
@[simp] theorem Ctx.settle_pstep (x : Ctx) : x.settle.pstep = x.pstep := (x.land_frame _).pstep
@[simp] theorem Ctx.settle_syncHold (x : Ctx) : x.settle.syncHold = x.syncHold := (x.land_frame _).syncHold
@[simp] theorem Ctx.settle_st (x : Ctx) : x.settle.st = x.st := (x.land_frame _).st
@[simp] theorem Ctx.settle_mode (x : Ctx) : x.settle.mode = x.mode := (x.land_frame _).mode
@[simp] theorem Ctx.settle_hdl (x : Ctx) : x.settle.hdl = x.hdl := (x.land_frame _).hdl
@[simp] theorem Ctx.settle_f0 (x : Ctx) : x.settle.f0 = x.f0 := (x.land_frame _).f0
@[simp] theorem Ctx.settle_f1 (x : Ctx) : x.settle.f1 = x.f1 := (x.land_frame _).f1
@[simp] theorem Ctx.settle_f2 (x : Ctx) : x.settle.f2 = x.f2 := (x.land_frame _).f2
@[simp] theorem Ctx.settle_f3 (x : Ctx) : x.settle.f3 = x.f3 := (x.land_frame _).f3
@[simp] theorem Ctx.settle_task (x : Ctx) : x.settle.task = x.task := (x.land_frame _).task
@[simp] theorem Ctx.settle_resv (x : Ctx) : x.settle.resv = x.resv := (x.land_frame _).resv
@[simp] theorem Ctx.settle_snap (x : Ctx) : x.settle.snap = x.snap := (x.land_frame _).snap
@[simp] theorem Ctx.settle_snapT (x : Ctx) : x.settle.snapT = x.snapT := (x.land_frame _).snapT
@[simp] theorem Ctx.settle_canreq (x : Ctx) : x.settle.canreq = x.canreq := (x.land_frame _).canreq
@[simp] theorem Ctx.settle_commits (x : Ctx) : x.settle.commits = x.commits := (x.land_frame _).commits
@[simp] theorem Ctx.settle_y (x : Ctx) : x.settle.y = x.y := (x.land_frame _).y
@[simp] theorem Ctx.settle_arr (x : Ctx) : x.settle.arr = x.arr := (x.land_frame _).arr
@[simp] theorem Ctx.settle_readyAt (x : Ctx) : x.settle.readyAt = x.readyAt := (x.land_frame _).readyAt

@[simp] theorem Ctx.settle_inflight (x : Ctx) : x.settle.inflight = x.inflight.filter fun r => !decide (r.due ≤ x.step) := rfl

/-! ### The bundle of one word -/

theorem State.cx_updTask (s : State) (t : Nat) (f : Task → Task) (c x : Nat) : (s.updTask t f).cx c x = s.cx c x := rfl

/-- A budget that becomes visible is no longer pending. -/
theorem State.cx_flushBudget (s : State) (c x : Nat) : (s.flushBudget c x).cx c x = { s.cx c x with newBudget := none } := by
  unfold State.flushBudget
  split
  · rename_i h
    generalize s.cx c x = y at h ⊢
    cases y; cases h; rfl
  · dsimp only
    split
    · rw [State.cx_updTask, State.cx_updCx]
    · rw [State.cx_updCx]

theorem State.cx_flushBudget_ne (s : State) {c x d y : Nat} (h : d ≠ c ∨ y ≠ x) : (s.flushBudget c x).cx d y = s.cx d y := by
  unfold State.flushBudget
  split
  · rfl
  · dsimp only
    split
    · rw [State.cx_updTask, State.cx_updCx_ne _ _ h]
    · rw [State.cx_updCx_ne _ _ h]

/-- A bundle sees the results that are due (R81). -/
@[simp] theorem State.me_visible (s : State) : s.visible.me = { s.me.settle with newBudget := none } := by
  have h : (s.updMe Ctx.settle).cx s.iss.core s.iss.ctx = s.me.settle := State.cx_updCx s _ _ _
  unfold State.me
  rw [State.iss_visible]
  unfold State.visible
  rw [State.cx_flushBudget, h]
  rfl

theorem State.me_iss (s : State) (i : Issue) (hc : i.core = s.iss.core) (hx : i.ctx = s.iss.ctx) : ({ s with iss := i } : State).me = s.me := by
  unfold State.me State.cx State.core; rw [hc, hx]

@[simp] theorem State.me_opened (s : State) (home : Nat) : (s.opened home).me = s.visible.me := by
  unfold State.opened State.openBundle; exact State.me_iss s.visible _ rfl rfl

@[simp] theorem State.me_closed (s : State) : s.closed.me = s.me := by
  unfold State.closed; exact State.me_iss _ _ rfl rfl

@[simp] theorem State.opened_core (s : State) (home : Nat) : (s.opened home).iss.core = s.iss.core := by
  unfold State.opened State.openBundle; dsimp only; rw [State.iss_visible]
@[simp] theorem State.opened_ctx (s : State) (home : Nat) : (s.opened home).iss.ctx = s.iss.ctx := by
  unfold State.opened State.openBundle; dsimp only; rw [State.iss_visible]
@[simp] theorem State.opened_slot (s : State) (home : Nat) : (s.opened home).iss.slot = home := rfl
@[simp] theorem State.opened_verdicts (s : State) (home : Nat) : (s.opened home).iss.verdicts = [] := rfl
@[simp] theorem State.opened_guard (s : State) (home : Nat) : (s.opened home).iss.guard = ⟨false, 0⟩ := rfl

theorem State.guardOn_opened (s : State) (home : Nat) : (s.opened home).guardOn = true := by
  simp [State.guardOn, Ctx.readP]

theorem filter_nil {α : Type} {l : List α} {p : α → Bool} (h : ∀ a ∈ l, p a = false) : l.filter p = [] := by
  rw [List.filter_eq_nil_iff]; intro a ha; simp [h a ha]

/-- A register that is not pending holds nothing. -/
theorem State.holds_reg {s : State} {names : Ctx → List RegId} (h : s.Issues names) (home : Nat) {r : RegId}
    (hr : r ∈ RegId.p 0 :: names s.visible.me) : (s.opened home).holds s.iss.core s.iss.ctx (.reg r) = false := by
  have hme : (s.opened home).cx s.iss.core s.iss.ctx = s.visible.me := by
    rw [← State.me_opened s home]; unfold State.me; rw [State.opened_core, State.opened_ctx]
  simp only [State.holds, hme]
  rw [List.any_eq_false]
  intro e he
  have := h.ready r hr e (by simpa using he)
  simp only [decide_eq_true_eq, not_and, Nat.not_lt]
  intro h1; have := this h1; simpa using this

theorem State.names_clear {s : State} {o : SlotOp} (h : s.Issues o.names) (home : Nat)
    (hs : s.Clear home (o.scores (s.opened home))) :
    (((s.opened home).me.pReg (s.opened home).iss.guard.pred :: o.names (s.opened home).me).map Wait.reg ++ o.scores (s.opened home)).filter
      ((s.opened home).holds (s.opened home).iss.core (s.opened home).iss.ctx) = [] := by
  rw [State.opened_core, State.opened_ctx]
  apply filter_nil
  intro w hw
  rw [List.mem_append, List.mem_map] at hw
  rcases hw with ⟨r, hr, rfl⟩ | hw
  · apply State.holds_reg h home
    have hp : (s.opened home).me.pReg (s.opened home).iss.guard.pred = RegId.p 0 := by
      simp [Ctx.pReg, physP]
    rw [hp, State.me_opened] at hr
    exact hr
  · exact hs w hw

/-- The word runs: its decode check passes and nothing holds it. -/
theorem slotStep_run {s : State} {o : SlotOp} {home : Nat} (h : s.Issues o.names) (hd : o.decode (s.opened home) = none)
    (hs : s.Clear home (o.scores (s.opened home))) (hw : s.Clear home (o.waits (s.opened home))) :
    slotStep o (s.opened home) =
      match o.run (s.opened home) with
      | .ok t => t
      | .error (c, b) => (s.opened home).verdict (.fault c b) := by
  unfold slotStep
  rw [hd]
  dsimp only
  rw [State.names_clear h home hs]
  dsimp only
  simp only [State.guardOn_opened, if_true, State.opened_core, State.opened_ctx]
  exact (filter_nil (fun w hm => hw w hm)) ▸ rfl

theorem State.unheld {s : State} {names : Ctx → List RegId} (h : s.Issues names) : s.visible.me.syncHold = none := by
  simp [h.unheld]

/-- **A bundle of one word that commits.** -/
theorem runSlot_done {s : State} {o : SlotOp} {home : Nat} (f : State → State) (h : s.Issues o.names) (hd : o.decode (s.opened home) = none)
    (hs : s.Clear home (o.scores (s.opened home))) (hw : s.Clear home (o.waits (s.opened home)))
    (hr : o.run (s.opened home) = .ok (f (s.opened home))) (hv : (f (s.opened home)).iss.verdicts = []) :
    runSlot home o s = .next (s.done home f) := by
  unfold runSlot
  rw [h.alone]
  have hstep := slotStep_run h hd hs hw
  rw [hr] at hstep
  simp only [Bool.false_eq_true, if_false]
  have he : s.visible.openBundle home 1 ⟨false, 0⟩ = s.opened home := rfl
  rw [he, hstep]
  simp only [closeBundle, hv, decodeFaults, execFaults, blocksOf, List.filterMap_nil, List.flatMap_nil, State.unheld h]
  rfl

/-- **A bundle of one word that faults at stage 4.** -/
theorem runSlot_fault {s : State} {o : SlotOp} {home c : Nat} {b : Option Word} (h : s.Issues o.names) (hd : o.decode (s.opened home) = none)
    (hs : s.Clear home (o.scores (s.opened home))) (hw : s.Clear home (o.waits (s.opened home)))
    (hr : o.run (s.opened home) = .error (c, b)) :
    runSlot home o s = .next (s.faulted home c b) := by
  unfold runSlot
  rw [h.alone]
  have hstep := slotStep_run h hd hs hw
  rw [hr] at hstep
  simp only [Bool.false_eq_true, if_false]
  have he : s.visible.openBundle home 1 ⟨false, 0⟩ = s.opened home := rfl
  rw [he, hstep]
  have hv : ((s.opened home).verdict (.fault c b)).iss.verdicts = [(home, .fault c b)] := by simp [State.verdict]
  simp only [closeBundle, hv, decodeFaults, execFaults, blocksOf, List.filterMap_cons, List.filterMap_nil, List.flatMap_cons,
    List.flatMap_nil, State.unheld h]
  simp [State.faulted, maskOf, lowestOf, lowestFrom, waitsIf]

/-- **A bundle of one word whose decode check fails.** -/
theorem runSlot_decode {s : State} {o : SlotOp} {home c : Nat} (h : s.iss.opened = false) (hd : o.decode (s.opened home) = some c) :
    runSlot home o s = .next (s.faulted home c none) := by
  unfold runSlot
  rw [h]
  simp only [Bool.false_eq_true, if_false]
  have he : s.visible.openBundle home 1 ⟨false, 0⟩ = s.opened home := rfl
  have hstep : slotStep o (s.opened home) = (s.opened home).verdict (.decode c) := by unfold slotStep; rw [hd]
  rw [he, hstep]
  have hv : ((s.opened home).verdict (.decode c)).iss.verdicts = [(home, .decode c)] := by simp [State.verdict]
  simp only [closeBundle, hv, decodeFaults, List.filterMap_cons, List.filterMap_nil]
  simp [State.faulted, maskOf, lowestOf, lowestFrom]

/-- **A bundle of one word that a condition holds.** -/
theorem runSlot_block {s : State} {o : SlotOp} {home : Nat} {w : Wait} {ws : List Wait} (h : s.Issues o.names)
    (hd : o.decode (s.opened home) = none) (hs : s.Clear home (o.scores (s.opened home)))
    (hw : (o.waits (s.opened home)).filter ((s.opened home).holds s.iss.core s.iss.ctx) = w :: ws) :
    runSlot home o s = .next (s.blocked (w :: ws)) := by
  unfold runSlot
  rw [h.alone]
  simp only [Bool.false_eq_true, if_false]
  have he : s.visible.openBundle home 1 ⟨false, 0⟩ = s.opened home := rfl
  have hstep : slotStep o (s.opened home) = (s.opened home).verdict (.block (w :: ws)) := by
    unfold slotStep
    rw [hd]
    dsimp only
    rw [State.names_clear h home hs]
    dsimp only
    rw [if_pos (State.guardOn_opened s home)]
    simp only [State.opened_core, State.opened_ctx]
    rw [hw]
  rw [he, hstep]
  have hv : ((s.opened home).verdict (.block (w :: ws))).iss.verdicts = [(home, .block (w :: ws))] := by simp [State.verdict]
  simp only [closeBundle, hv, decodeFaults, blocksOf, List.filterMap_cons, List.filterMap_nil, List.flatMap_cons, List.flatMap_nil,
    State.unheld h]
  simp [State.blocked, waitsIf]

/-! ### Commit -/

theorem State.closed_updMe (s : State) (f : Ctx → Ctx) : (s.updMe f).closed = s.closed.updMe f := rfl

theorem State.closed_opened (s : State) (home : Nat) : (s.opened home).closed = s.visible.closed := by
  unfold State.opened; generalize s.visible = u; rfl

theorem State.stepFollows_nil {s : State} (hs : s.NoStep) : stepFollows s.visible.me [] = false := by
  unfold stepFollows
  rcases hs with h | h
  · rw [h]; rfl
  · have : s.visible.me.inTrap = true := by rw [State.me_visible]; simpa [Ctx.inTrap] using h
    rw [this, Bool.not_true, Bool.and_false]; rfl

/-- A bundle that only puts results in flight and takes no branch, where no STEP trap follows. -/
theorem State.done_results {s : State} {home : Nat} (rs : List Res) (f : State → State)
    (hf : f (s.opened home) = (s.opened home).updMe fun x => x.launch rs) (hs : s.NoStep) :
    s.done home f = s.afterResults rs := by
  unfold State.done
  rw [hf]
  unfold State.commit
  have ha : (s.opened home).iss.after = [] := rfl
  have ht : (s.opened home).iss.target = none := rfl
  have hc : (s.opened home).iss.canpt = false := rfl
  simp only [State.iss_updMe, ha, ht, hc, State.runAll, State.stepFollows_nil hs, List.foldl_nil, Bool.false_and, Bool.false_eq_true, if_false]
  simp only [State.closed_updMe, State.closed_opened, State.updMe_updMe]
  unfold State.afterResults State.opened
  rw [State.cycle_updMe, State.cycle_openBundle, State.cycle_visible]

/-! ### Using them -/

theorem State.Issues.sub {s : State} {f g : Ctx → List RegId} (h : s.Issues f) (hfg : ∀ x r, r ∈ g x → r ∈ f x) : s.Issues g :=
  ⟨h.alone, h.unheld, fun r hr => h.ready r (by
    rcases List.mem_cons.mp hr with h1 | h1
    · simp [h1]
    · exact List.mem_cons_of_mem _ (hfg _ _ h1))⟩

theorem State.Clear.nil (s : State) (home : Nat) : s.Clear home [] := by intro w h; cases h

@[simp] theorem State.rs_opened (s : State) (home a : Nat) : (s.opened home).rs a = s.visible.rs a := by
  unfold State.rs; rw [State.me_opened]

end Sys2Proof.Machine
end

