-- ==== Sys2Proof/Laws/Total.lean ====
section
/-! SUPPORT. Every instruction and every event has its effect: no meaning ends in a fault or a refusal, and so no step does. -/

set_option Elab.async false

namespace Sys2Proof.Machine

theorem runSlot_next (home : Nat) (o : SlotOp) (s : State) : ∃ t, runSlot home o s = .next t := ⟨_, rfl⟩

theorem startOp_next (op c q : Nat) (s : State) : ∃ out, startOp op c q s = .next out := by
  unfold startOp
  split <;> exact ⟨_, rfl⟩

theorem runEvent_next (b : Bool) (f : State → State) (s : State) : runEvent b f s = .next (if b = true then f s else s) := rfl

theorem execResultLand_next (grp : Nat) (s : State) : ∃ out, execResultLand grp s = .next out := by
  unfold execResultLand
  (repeat' split) <;> exact ⟨_, rfl⟩

theorem execAccessPerform_next (id : Nat) (s : State) : ∃ out, execAccessPerform id s = .next out := by
  unfold execAccessPerform
  (repeat' split) <;> exact ⟨_, rfl⟩

theorem execGuidonArrive_next (c x : Nat) (s : State) : ∃ out, execGuidonArrive c x s = .next out := by
  unfold execGuidonArrive
  (repeat' split) <;> exact ⟨_, rfl⟩

theorem execWalkComplete_next (id : Nat) (s : State) : ∃ out, execWalkComplete id s = .next out := by
  unfold execWalkComplete
  (repeat' split) <;> exact ⟨_, rfl⟩

theorem execWalkBusyRestart_next (id : Nat) (s : State) : ∃ out, execWalkBusyRestart id s = .next out := by
  unfold execWalkBusyRestart
  (repeat' split) <;> exact ⟨_, rfl⟩

theorem execRevocationComplete_next (id : Nat) (s : State) : ∃ out, execRevocationComplete id s = .next out := by
  unfold execRevocationComplete
  (repeat' split) <;> exact ⟨_, rfl⟩

theorem execPgmigMove_next (id : Nat) (s : State) : ∃ out, execPgmigMove id s = .next out := by
  unfold execPgmigMove
  (repeat' split) <;> exact ⟨_, rfl⟩

theorem execCopyCommand_next (c q : Nat) (s : State) : ∃ out, execCopyCommand c q s = .next out := by
  unfold execCopyCommand
  (repeat' split) <;> exact ⟨_, rfl⟩

theorem execCopyItem_next (c q id : Nat) (s : State) : ∃ out, execCopyItem c q id s = .next out := by
  unfold execCopyItem
  (repeat' split) <;> exact ⟨_, rfl⟩

theorem execXbprog_next (c q : Nat) (s : State) : ∃ out, execXbprog c q s = .next out := by
  unfold execXbprog
  first | exact ⟨_, rfl⟩ | exact startOp_next _ _ _ s

theorem execXbprogRow_next (c q id : Nat) (s : State) : ∃ out, execXbprogRow c q id s = .next out := by
  unfold execXbprogRow
  (repeat' split) <;> exact ⟨_, rfl⟩

theorem execXbverify_next (c q : Nat) (s : State) : ∃ out, execXbverify c q s = .next out := by
  unfold execXbverify
  (repeat' split) <;> first | exact ⟨_, rfl⟩ | exact startOp_next _ _ _ s

theorem execXbcal_next (c q : Nat) (s : State) : ∃ out, execXbcal c q s = .next out := by
  unfold execXbcal
  first | exact ⟨_, rfl⟩ | exact startOp_next _ _ _ s

theorem execXbprobe_next (c q : Nat) (s : State) : ∃ out, execXbprobe c q s = .next out := by
  unfold execXbprobe
  first | exact ⟨_, rfl⟩ | exact startOp_next _ _ _ s

theorem execXbmvm_next (c q : Nat) (s : State) : ∃ out, execXbmvm c q s = .next out := by
  unfold execXbmvm
  (repeat' split) <;> first | exact ⟨_, rfl⟩ | exact startOp_next _ _ _ s

theorem execXbmvmVectorDelivery_next (c q id : Nat) (s : State) : ∃ out, execXbmvmVectorDelivery c q id s = .next out := by
  unfold execXbmvmVectorDelivery
  (repeat' split) <;> exact ⟨_, rfl⟩

theorem execVaultExecutorCommand_next (c : Nat) (s : State) : ∃ out, execVaultExecutorCommand c s = .next out := by
  unfold execVaultExecutorCommand
  (repeat' split) <;> exact ⟨_, rfl⟩

theorem execHostNotifyCommand_next (c : Nat) (s : State) : ∃ out, execHostNotifyCommand c s = .next out := by
  unfold execHostNotifyCommand
  (repeat' split) <;> exact ⟨_, rfl⟩

theorem execCommandEnd_next (c q id : Nat) (s : State) : ∃ out, execCommandEnd c q id s = .next out := by
  unfold execCommandEnd
  (repeat' split) <;> exact ⟨_, rfl⟩

theorem execCallMessageArrive_next (id : Nat) (s : State) : ∃ out, execCallMessageArrive id s = .next out := by
  unfold execCallMessageArrive
  (repeat' split) <;> exact ⟨_, rfl⟩

theorem execRemoteCallWord_next (e : ExecId) (slot : Nat) (s : State) : ∃ out, execRemoteCallWord e slot s = .next out := by
  unfold execRemoteCallWord
  (repeat' split) <;> exact ⟨_, rfl⟩

theorem execCallWordLimit_next (e : ExecId) (slot : Nat) (s : State) : ∃ out, execCallWordLimit e slot s = .next out := by
  unfold execCallWordLimit
  (repeat' split) <;> exact ⟨_, rfl⟩

theorem execCallReplyArrive_next (id : Nat) (s : State) : ∃ out, execCallReplyArrive id s = .next out := by
  unfold execCallReplyArrive
  (repeat' split) <;> exact ⟨_, rfl⟩

theorem execCompletionNoticeSend_next (id : Nat) (s : State) : ∃ out, execCompletionNoticeSend id s = .next out := by
  unfold execCompletionNoticeSend
  (repeat' split) <;> exact ⟨_, rfl⟩

theorem execCompletionNoticeArrive_next (id : Nat) (s : State) : ∃ out, execCompletionNoticeArrive id s = .next out := by
  unfold execCompletionNoticeArrive
  (repeat' split) <;> exact ⟨_, rfl⟩

theorem execBarrierArrivalCounted_next (id : Nat) (s : State) : ∃ out, execBarrierArrivalCounted id s = .next out := by
  unfold execBarrierArrivalCounted
  (repeat' split) <;> exact ⟨_, rfl⟩

theorem execBarrierRelease_next (id : Nat) (s : State) : ∃ out, execBarrierRelease id s = .next out := by
  unfold execBarrierRelease
  (repeat' split) <;> exact ⟨_, rfl⟩

theorem execBarrierReleaseArrive_next (id : Nat) (s : State) : ∃ out, execBarrierReleaseArrive id s = .next out := by
  unfold execBarrierReleaseArrive
  (repeat' split) <;> exact ⟨_, rfl⟩

theorem execBallotPostArrive_next (id : Nat) (s : State) : ∃ out, execBallotPostArrive id s = .next out := by
  unfold execBallotPostArrive
  (repeat' split) <;> exact ⟨_, rfl⟩

theorem execGcancelRequestArrive_next (id : Nat) (s : State) : ∃ out, execGcancelRequestArrive id s = .next out := by
  unfold execGcancelRequestArrive
  (repeat' split) <;> exact ⟨_, rfl⟩

theorem execEndNoticeArrive_next (id : Nat) (s : State) : ∃ out, execEndNoticeArrive id s = .next out := by
  unfold execEndNoticeArrive
  (repeat' split) <;> exact ⟨_, rfl⟩

theorem execPennantArrive_next (c x : Nat) (s : State) : ∃ out, execPennantArrive c x s = .next out := by
  unfold execPennantArrive
  (repeat' split) <;> exact ⟨_, rfl⟩

theorem execGroupReclaim_next (slot sib : Nat) (s : State) : ∃ out, execGroupReclaim slot sib s = .next out := by
  unfold execGroupReclaim
  (repeat' split) <;> exact ⟨_, rfl⟩

theorem execBallotSlotFree_next (slot : Nat) (s : State) : ∃ out, execBallotSlotFree slot s = .next out := by
  unfold execBallotSlotFree
  (repeat' split) <;> exact ⟨_, rfl⟩

theorem execPreload_next (c lq seq : Nat) (s : State) : ∃ out, execPreload c lq seq s = .next out := by
  unfold execPreload
  (repeat' split) <;> exact ⟨_, rfl⟩

theorem execTaskSave_next (t : Nat) (s : State) : ∃ out, execTaskSave t s = .next out := by
  unfold execTaskSave
  (repeat' split) <;> exact ⟨_, rfl⟩

theorem execTaskResume_next (t : Nat) (s : State) : ∃ out, execTaskResume t s = .next out := by
  unfold execTaskResume
  (repeat' split) <;> first | exact ⟨_, rfl⟩ | exact startOp_next _ _ _ s | (dsimp only; split <;> exact ⟨_, rfl⟩)

theorem execBudgetExpiry_next (t : Nat) (s : State) : ∃ out, execBudgetExpiry t s = .next out := by
  unfold execBudgetExpiry
  (repeat' split) <;> exact ⟨_, rfl⟩

theorem execTaskEnd_next (t : Nat) (s : State) : ∃ out, execTaskEnd t s = .next out := by
  unfold execTaskEnd
  (repeat' split) <;> exact ⟨_, rfl⟩

theorem execHostMemoryAccess_next (write : Bool) (off n : Nat) (data : List Byte) (s : State) : ∃ out, execHostMemoryAccess write off n data s = .next out := by
  unfold execHostMemoryAccess
  (repeat' split) <;> first | exact ⟨_, rfl⟩ | exact startOp_next _ _ _ s | (dsimp only; split <;> exact ⟨_, rfl⟩)

theorem execHalyardFailure_next (c n : Nat) (s : State) : ∃ out, execHalyardFailure c n s = .next out := by
  unfold execHalyardFailure
  (repeat' split) <;> exact ⟨_, rfl⟩

theorem execFreezeArrive_next (c x : Nat) (s : State) : ∃ out, execFreezeArrive c x s = .next out := by
  unfold execFreezeArrive
  (repeat' split) <;> exact ⟨_, rfl⟩

theorem execLaunchRecordAccept_next  (s : State) : ∃ out, execLaunchRecordAccept  s = .next out := by
  unfold execLaunchRecordAccept
  (repeat' split) <;> exact ⟨_, rfl⟩

theorem execDispatch_next  (s : State) : ∃ out, execDispatch  s = .next out := by
  unfold execDispatch
  (repeat' split) <;> exact ⟨_, rfl⟩

theorem execCompletionRecordWrite_next  (s : State) : ∃ out, execCompletionRecordWrite  s = .next out := by
  unfold execCompletionRecordWrite
  (repeat' split) <;> exact ⟨_, rfl⟩

theorem execMailboxCommandDone_next  (s : State) : ∃ out, execMailboxCommandDone  s = .next out := by
  unfold execMailboxCommandDone
  first | exact ⟨_, rfl⟩ | exact startOp_next _ _ _ s | (dsimp only; split <;> exact ⟨_, rfl⟩) | (dsimp only; split <;> (try split) <;> (try split) <;> exact ⟨_, rfl⟩)

/-- Every meaning answers a next state. -/
theorem exec_next (i : Instr) (s : State) : ∃ t, exec i s = .next t := by
  cases i with
  | resultLand grp => exact execResultLand_next grp s
  | accessPerform id => exact execAccessPerform_next id s
  | guidonArrive c x => exact execGuidonArrive_next c x s
  | walkComplete id => exact execWalkComplete_next id s
  | walkBusyRestart id => exact execWalkBusyRestart_next id s
  | revocationComplete id => exact execRevocationComplete_next id s
  | pgmigMove id => exact execPgmigMove_next id s
  | copyCommand c q => exact execCopyCommand_next c q s
  | copyItem c q id => exact execCopyItem_next c q id s
  | xbprog c q => exact execXbprog_next c q s
  | xbprogRow c q id => exact execXbprogRow_next c q id s
  | xbverify c q => exact execXbverify_next c q s
  | xbcal c q => exact execXbcal_next c q s
  | xbprobe c q => exact execXbprobe_next c q s
  | xbmvm c q => exact execXbmvm_next c q s
  | xbmvmVectorDelivery c q id => exact execXbmvmVectorDelivery_next c q id s
  | vaultExecutorCommand c => exact execVaultExecutorCommand_next c s
  | hostNotifyCommand c => exact execHostNotifyCommand_next c s
  | commandEnd c q id => exact execCommandEnd_next c q id s
  | callMessageArrive id => exact execCallMessageArrive_next id s
  | remoteCallWord e slot => exact execRemoteCallWord_next e slot s
  | callWordLimit e slot => exact execCallWordLimit_next e slot s
  | callReplyArrive id => exact execCallReplyArrive_next id s
  | completionNoticeSend id => exact execCompletionNoticeSend_next id s
  | completionNoticeArrive id => exact execCompletionNoticeArrive_next id s
  | barrierArrivalCounted id => exact execBarrierArrivalCounted_next id s
  | barrierRelease id => exact execBarrierRelease_next id s
  | barrierReleaseArrive id => exact execBarrierReleaseArrive_next id s
  | ballotPostArrive id => exact execBallotPostArrive_next id s
  | gcancelRequestArrive id => exact execGcancelRequestArrive_next id s
  | endNoticeArrive id => exact execEndNoticeArrive_next id s
  | pennantArrive c x => exact execPennantArrive_next c x s
  | groupReclaim slot sib => exact execGroupReclaim_next slot sib s
  | ballotSlotFree slot => exact execBallotSlotFree_next slot s
  | preload c lq seq => exact execPreload_next c lq seq s
  | taskSave t => exact execTaskSave_next t s
  | taskResume t => exact execTaskResume_next t s
  | budgetExpiry t => exact execBudgetExpiry_next t s
  | taskEnd t => exact execTaskEnd_next t s
  | hostMemoryAccess write off n data => exact execHostMemoryAccess_next write off n data s
  | halyardFailure c n => exact execHalyardFailure_next c n s
  | freezeArrive c x => exact execFreezeArrive_next c x s
  | launchRecordAccept => exact execLaunchRecordAccept_next  s
  | dispatch => exact execDispatch_next  s
  | completionRecordWrite => exact execCompletionRecordWrite_next  s
  | mailboxCommandDone => exact execMailboxCommandDone_next  s
  | _ => exact ⟨_, rfl⟩

theorem runSlots_next (l : List (Nat × Except DecodeErr (Guard × Instr))) : ∀ s, ∃ t, runSlots l s = .next t := by
  induction l with
  | nil => exact fun s => ⟨_, rfl⟩
  | cons e l ih =>
    intro s
    obtain ⟨n, e | ⟨g, i⟩⟩ := e
    · exact ih _
    · obtain ⟨t, ht⟩ := exec_next i { s with iss := { s.iss with slot := n, guard := g } }
      unfold runSlots
      rw [ht]
      exact ih t

theorem issueBundle_next (s : State) : ∃ t, issueBundle s = .next t := by
  unfold issueBundle
  dsimp only
  split
  · obtain ⟨t, ht⟩ := runSlots_next (s.visible.bundle s.visible.iss.core s.visible.iss.ctx)
      (s.visible.openBundle 0 (s.visible.bundleWords s.visible.iss.core s.visible.iss.ctx) ⟨false, 0⟩)
    rw [ht]
    exact ⟨_, rfl⟩
  · exact ⟨_, rfl⟩

theorem stepCtx_next (c x : Nat) (s : State) : ∃ t, stepCtx c x s = .next t := by
  unfold stepCtx
  dsimp only
  split
  · exact ⟨_, rfl⟩
  · obtain ⟨t, ht⟩ := issueBundle_next (({ s with iss := { s.iss with core := c, ctx := x, stepping := true } } : State).updCx c x Ctx.reinject)
    rw [ht]
    exact ⟨_, rfl⟩

theorem issueCore_next (c : Nat) (s : State) : ∃ t, issueCore c s = .next t := by
  unfold issueCore
  split
  · split
    · exact stepCtx_next _ _ _
    · split
      · exact exec_next _ _
      · obtain ⟨t, ht⟩ := issueBundle_next (s.select c _)
        rw [ht]
        exact ⟨_, rfl⟩
    · exact ⟨_, rfl⟩
  · exact ⟨_, rfl⟩

theorem noteEvent_next (i : Instr) {r : Res'} (h : ∃ t, r = .next t) : ∃ u, noteEvent i r = .next u := by
  obtain ⟨t, rfl⟩ := h
  exact ⟨_, rfl⟩

/-- So does every turn of the agenda. -/
theorem runTurn_next (t : Turn) (s : State) : ∃ u, runTurn t s = .next u := by
  cases t with
  | event i => unfold runTurn; dsimp only; split <;> first | exact ⟨_, rfl⟩ | exact noteEvent_next i (exec_next i s)
  | issue c => exact issueCore_next c s
  | tick => exact ⟨_, rfl⟩

/-- **Every step answers a next state.** -/
theorem step_next (s : State) : ∃ t, step s = .next t := by
  unfold step
  split
  · split <;> exact runTurn_next _ _
  · exact runTurn_next _ _

end Sys2Proof.Machine
end

