-- ==== Sys2Proof/Laws/Trap.lean ====
section
/-! SUPPORT. What taking a trap and returning from one do: the entry, the double trap, the return, the upcall and the handler's return
(R313 to R320), each in one place. -/

namespace Sys2Proof.Machine

/-! ### What the steps before an entry leave alone -/

theorem State.cx_updCore_same (s : State) (c : Nat) (f : Core → Core) (h : ∀ k, (f k).ctx = k.ctx) (d y : Nat) : (s.updCore c f).cx d y = s.cx d y := by
  unfold State.cx
  by_cases hd : d = c
  · subst hd; simp [h]
  · simp [hd]

theorem Core.semAdd_ctx (k : Core) (n v : Nat) : (k.semAdd n v).ctx = k.ctx := rfl

/-- The reservation returns: the context has none, every other context stays (R239). -/
theorem State.returnResv_cx (s : State) (c x d y : Nat) :
    (s.returnResv c x).cx d y = if d = c ∧ y = x then { s.cx c x with resv := none } else s.cx d y := by
  unfold State.returnResv
  split
  · rename_i h
    split
    · rename_i e; obtain ⟨rfl, rfl⟩ := e
      generalize s.cx d y = v at h ⊢
      cases v; simp_all
    · rfl
  · split
    · rename_i e; obtain ⟨rfl, rfl⟩ := e
      rw [State.cx_updCx, State.cx_updCore_same s d _ fun k => Core.semAdd_ctx k _ _]
    · rename_i e
      rw [State.cx_updCx_ne _ _ (by omega), State.cx_updCore_same s c _ fun k => Core.semAdd_ctx k _ _]

theorem State.disarm_cx (s : State) (c x d y : Nat) : (s.disarm c x).cx d y = s.cx d y := by
  unfold State.disarm
  refine State.cx_updCore_same s c _ ?_ d y
  exact fun _ => rfl

theorem State.updCore_frame (s : State) (c : Nat) (f : Core → Core) : s.updCore c f = { s with cores := (s.updCore c f).cores } := rfl
theorem State.updCx_frame (s : State) (c x : Nat) (f : Ctx → Ctx) : s.updCx c x f = { s with cores := (s.updCx c x f).cores } := rfl

/-- Before an entry only the cores change: the reservation returns, and the context's armed waits are gone. -/
theorem State.beforeTrap (s : State) (c x : Nat) : ∃ k, (s.returnResv c x).disarm c x = { s with cores := k } := by
  unfold State.disarm
  rw [State.updCore_frame]
  generalize ((s.returnResv c x).updCore c _).cores = k
  unfold State.returnResv
  split
  · exact ⟨k, rfl⟩
  · rw [State.updCx_frame, State.updCore_frame]
    exact ⟨k, rfl⟩

/-- **Taking a trap (R313, R319) changes the cores, by a double trap the escalations and the budget whose write lands with it, and nothing
else.** -/
theorem State.trap_frame (s : State) (c x cause mask : Nat) (bad : Option Word) :
    ∃ k e m t, s.trap c x cause mask bad = { s with cores := k, escs := e, msix1 := m, tasks := t } := by
  obtain ⟨k, hk⟩ := State.beforeTrap s c x
  unfold State.trap
  dsimp only
  rw [hk]
  split
  · unfold State.doubleTrap
    rw [State.flushBudget_form, State.updCx_frame]
    exact ⟨_, _, _, _, rfl⟩
  · rw [State.updCx_frame]
    exact ⟨_, _, _, _, rfl⟩

theorem State.escCtx_cx (s : State) (c x : Nat) (w : String) (cause mask pc d y : Nat) : (s.escCtx c x w cause mask pc).cx d y = s.cx d y := rfl

/-- Every other context stays as it was. -/
theorem State.trap_other (s : State) (c x cause mask : Nat) (bad : Option Word) {d y : Nat} (h : d ≠ c ∨ y ≠ x) : (s.trap c x cause mask bad).cx d y = s.cx d y := by
  have hb : ((s.returnResv c x).disarm c x).cx d y = s.cx d y := by
    rw [State.disarm_cx, State.returnResv_cx, if_neg (by omega)]
  unfold State.trap
  dsimp only
  split
  · unfold State.doubleTrap
    rw [State.cx_flushBudget_ne _ h, State.cx_updCx_ne _ _ h, State.escCtx_cx, hb]
  · rw [State.cx_updCx_ne _ _ h, hb]

/-- **The entry (R313)**: a context that is in no trap takes it, with its reservation returned. -/
theorem State.trap_entry (s : State) (c x cause mask : Nat) (bad : Option Word) (h : (s.cx c x).inTrap = false) :
    (s.trap c x cause mask bad).cx c x = ({ s.cx c x with resv := none } : Ctx).trapEntry s.iss.stepping cause mask bad := by
  have hb : ((s.returnResv c x).disarm c x).cx c x = { s.cx c x with resv := none } := by
    rw [State.disarm_cx, State.returnResv_cx, if_pos ⟨rfl, rfl⟩]
  have hi : ((s.returnResv c x).disarm c x).iss = s.iss := by obtain ⟨k, hk⟩ := State.beforeTrap s c x; rw [hk]
  have ht : ({ s.cx c x with resv := none } : Ctx).inTrap = false := h
  unfold State.trap
  dsimp only
  rw [hb, ht, if_neg (by decide), State.cx_updCx, hb, hi]

/-- **The double trap (R319)**: the results in flight land, a budget among them, and the context is TRAPPED with the second cause. -/
theorem State.trap_double (s : State) (c x cause mask : Nat) (bad : Option Word) (h : (s.cx c x).inTrap = true) :
    (s.trap c x cause mask bad).cx c x =
      { ({ s.cx c x with resv := none } : Ctx).landAll with st := .trapped, esc := some (true, cause), newBudget := none } := by
  have hb : ((s.returnResv c x).disarm c x).cx c x = { s.cx c x with resv := none } := by
    rw [State.disarm_cx, State.returnResv_cx, if_pos ⟨rfl, rfl⟩]
  have ht : ({ s.cx c x with resv := none } : Ctx).inTrap = true := h
  unfold State.trap
  dsimp only
  rw [hb, ht, if_pos rfl]
  unfold State.doubleTrap
  rw [State.cx_flushBudget, State.cx_updCx, State.escCtx_cx, hb]

/-! ### What an entry writes -/

theorem ctl_put (x : Ctx) (n m : Nat) (w : Word) : (x.ctlPut n w).ctlGet m = if m = n then w else x.ctlGet m := by
  unfold Ctx.ctlPut Ctx.ctlGet
  exact SMap.get_put 0 _ _ _ _

/-- CAUSE, SLOTMASK, TRAPPC and BADADDR of an entry, and the sequence that it saves (R313). -/
theorem Ctx.trapRegs_ctl (x : Ctx) (cause mask : Nat) (bad : Option Word) (a b c d n : Nat) :
    (x.trapRegs cause mask bad a b c d).ctlGet n =
      if n = 8 then wordOf a else if n = 9 ∧ bad.isSome then bad.getD 0 else if n = 7 then wordOf mask else if n = 6 then wordOf cause else x.ctlGet n := by
  unfold Ctx.trapRegs
  have e : ∀ (y : Ctx) (m : Nat), ({ y.ctlPut 8 (wordOf a) with nfq := 3, fq1 := b, fq2 := c, fq3 := d } : Ctx).ctlGet m = (y.ctlPut 8 (wordOf a)).ctlGet m := fun _ _ => rfl
  dsimp only
  rw [e, ctl_put]
  cases bad with
  | none => simp only [ctl_put, Option.isSome_none, Bool.false_eq_true, and_false, if_false]
  | some w => simp only [ctl_put, Option.isSome_some, and_true, Option.getD_some]

theorem Ctx.trapRegs_saved (x : Ctx) (cause mask : Nat) (bad : Option Word) (a b c d : Nat) :
    (x.trapRegs cause mask bad a b c d).fq1 = b ∧ (x.trapRegs cause mask bad a b c d).fq2 = c ∧ (x.trapRegs cause mask bad a b c d).fq3 = d ∧
      (x.trapRegs cause mask bad a b c d).nfq = 3 := by
  unfold Ctx.trapRegs
  exact ⟨rfl, rfl, rfl, rfl⟩

theorem Ctx.ctlPut_inflight (x : Ctx) (n : Nat) (w : Word) : (x.ctlPut n w).inflight = x.inflight := rfl

theorem Ctx.trapRegs_inflight (x : Ctx) (cause mask : Nat) (bad : Option Word) (a b c d : Nat) : (x.trapRegs cause mask bad a b c d).inflight = x.inflight := by
  unfold Ctx.trapRegs
  dsimp only
  rw [Ctx.ctlPut_inflight]
  cases bad <;> simp only [Ctx.ctlPut_inflight]

theorem Ctx.freeze_inflight (x : Ctx) : x.freeze.inflight = [] := by
  unfold Ctx.freeze
  dsimp only
  split <;> rfl

/-- An entry of a context that `step` does not run fetches from the runtime vector in RUNTIME mode. -/
theorem Ctx.trapEntry_fetch (x : Ctx) (cause mask : Nat) (bad : Option Word) :
    let y := x.trapEntry false cause mask bad
    y.mode = true ∧ y.f0 = vector ∧ y.f1 = vector + 64 ∧ y.f2 = vector + 128 ∧ y.f3 = vector + 192 ∧ y.fq1 = x.f1 ∧ y.fq2 = x.f2 ∧ y.fq3 = x.f3 ∧ y.nfq = 3 ∧ y.inflight = [] := by
  have hs := Ctx.trapRegs_saved x.freeze cause mask bad x.f0 x.f1 x.f2 x.f3
  have hi := (Ctx.trapRegs_inflight x.freeze cause mask bad x.f0 x.f1 x.f2 x.f3).trans (Ctx.freeze_inflight x)
  unfold Ctx.trapEntry
  generalize x.freeze.trapRegs cause mask bad x.f0 x.f1 x.f2 x.f3 = z at hs hi
  simp only [Bool.false_eq_true, if_false]
  split <;> exact ⟨rfl, rfl, rfl, rfl, rfl, hs.1, hs.2.1, hs.2.2.1, hs.2.2.2, hi⟩

/-! ### Returns -/

/-- `rte` (R316): KERNEL mode, at TRAPPC, then the saved sequence. -/
theorem Ctx.rte_saved (x : Ctx) (h : x.nfq = 3) : x.rte = { x with mode := false, f0 := (x.ctlGet 8).toNat, f1 := x.fq1, f2 := x.fq2, f3 := x.fq3 } := by
  unfold Ctx.rte Ctx.resume
  simp [h, Ctx.ctlGet]

/-- `upcall` (R317): the frame holds what the entry saved, and the handler runs in KERNEL mode. -/
theorem Ctx.upcall_handler (x : Ctx) : x.upcall.hdl = true ∧ x.upcall.mode = false ∧ x.upcall.f0 = (x.ctlGet 0x12).toNat % 2 ^ 18 ∧
    x.upcall.frame = ⟨(x.ctlGet 6).toNat, (x.ctlGet 7).toNat, (x.ctlGet 8).toNat, x.ctlGet 9, x.nfq, x.fq1, x.fq2, x.fq3⟩ ∧ x.upcall.ctl = x.ctl := ⟨rfl, rfl, rfl, rfl, rfl⟩

/-- The handler's return (R318) ends the handler and gives back what the upcall saved. -/
theorem Ctx.handlerReturn_frame (x : Ctx) : x.handlerReturn.hdl = false ∧ x.handlerReturn.mode = x.mode ∧ x.handlerReturn.nfq = x.frame.nfq ∧ x.handlerReturn.fq1 = x.frame.fq1 ∧
    x.handlerReturn.fq2 = x.frame.fq2 ∧ x.handlerReturn.fq3 = x.frame.fq3 ∧ x.handlerReturn.f0 = (wordOf x.frame.pc).toNat := by
  have e (a b c d : Word) : ((((x.ctlPut 6 a).ctlPut 7 b).ctlPut 8 c).ctlPut 9 d).ctlGet 8 = c := by
    rw [ctl_put, if_neg (by decide), ctl_put, if_pos rfl]
  have f : x.handlerReturn.f0 = (((((x.ctlPut 6 (wordOf x.frame.cause)).ctlPut 7 (wordOf x.frame.mask)).ctlPut 8 (wordOf x.frame.pc)).ctlPut 9 x.frame.bad).ctlGet 8).toNat := rfl
  have m : x.handlerReturn.mode = x.mode := by unfold Ctx.handlerReturn Ctx.resume; dsimp only [Ctx.ctlPut]
  exact ⟨rfl, m, rfl, rfl, rfl, rfl, f.trans (congrArg BitVec.toNat (e _ _ _ _))⟩

end Sys2Proof.Machine
end

