-- ==== Sys2Proof/Tests/Slice0.lean ====
section
/-! SUPPORT. The model's own tests: ill-formed terms that the checks refuse, words written out from the encoding tables, single steps
against the examples of the specification, and for every obligation a state that meets its hypotheses. -/

set_option Elab.async false
set_option linter.all false

namespace Sys2Proof.Tests

open Sys2Proof.Machine Sys2Proof.Claims

/-! ### The checks of WellFormed (R53, R55 to R58) -/

def illScalar : List Instr := [.add 64 0 0, .sub 0 64 0, .kvslot 0 0 64, .clz 64 0, .ctz 0 64, .bext 1 1 64 1, .bext 1 1 0 0, .bext 1 1 60 5,
  .bins 1 64 1 0 1, .bins 1 1 1 63 2, .sext 1 1 0, .sext 1 1 65, .cmp .eq 16 0 0, .cmp .ord 1 0 0, .cmpi .uno 1 0 0, .cmpi .eq 1 0 (2 ^ 32),
  .pand 1 16 1, .sel 1 16 1 1, .addi 1 1 (2 ^ 32), .xori 1 1 (-2 ^ 32 - 1), .shli 1 1 64, .lih 1 65536, .lim 1 (2 ^ 47), .lim 64 0,
  .ctlr 1 0x16, .ctlw 0x16 1, .ctlr 64 0, .br (2 ^ 15), .call (-2 ^ 15 - 1), .loop (2 ^ 15), .brr 64, .callr 64, .chk false 64 0, .chk true 0 (2 ^ 15)]
theorem test_ill_scalar : illScalar.all (fun i => !i.wf) = true := by decide

def illVector : List Instr := [.vadd .i64 .rne 0 0 0 0, .vadd .i32 .rz 0 0 0 0, .vmul .f32 .rne 64 0 0 0, .vsub .f32 .rne 0 0 0 8, .vfma .i32 .rne 0 0 0 0 0,
  .vfms .f32 .rne 0 0 0 64 0, .vmin .e4m3 0 0 0 0, .vneg .ui8 0 0 0, .vabs .i64 0 0 0, .vshl .f32 0 0 0 0, .vaddsat .f16 0 0 0 0, .vclamp .f32 0 0 0 64 0,
  .vexp2 .i32 0 0 0, .vrsq .f32 64 0 0, .vcmp .ltu .f32 0 0 0 0, .vcmp .ord .i32 0 0 0 0, .vcmp .eq .f32 8 0 0 0, .kand 8 0 0, .knot 0 8, .kpop .i64 0 0,
  .kpop .f32 64 0, .vbcast .f32 0 64 0, .vshuf .f32 .rev 0 0 1 0, .vrot .f32 0 0 64 0, .vrot .i8 0 0 256 0, .viota .f32 0 0 0, .vins .f16 0 0 128, .vext .f32 0 0 64,
  .vred .e5m2 .sum 0 0 0, .vscan .i32 .sum 64 0 0, .vcvt .f32 .f32 .rne 0 0 0 0, .vcvt .e4m3 .f16 .rne 0 0 0 0, .vcvt .f32 .i8 .rne 0 0 4 0, .vmxq .f32 .rne 0 0 0 0,
  .vmxq .e2m3 .rne 0 0 0 5, .vmxdq .e2m1 0 0 0 8]
theorem test_ill_vector : illVector.all (fun i => !i.wf) = true := by decide

def illTile : List Instr := [.talloc 8 0 false, .tfree 8 true, .tzero 0 (2 ^ 15), .tanchor 0 (-2 ^ 15 - 1), .tload .f32 0 0, .tmm .mxi8 0 false 0 0 0 0,
  .tmm .mxi8 0 false 0 0 65 0, .tmm .mxi8 0 false 0 0 2 63, .tmm .mxi8 0 true 1 0 64 0, .tmm .mxi8 0 true 0 1 1 0, .tdrain .i16 .rne 0 0 0 false,
  .tdrain .f16 .rne 0 0 1 false, .tdrain .f32 .rne 0 0 64 false, .tstat 8 0, .tprog 0 0 2, .tclr 8]
theorem test_ill_tile : illTile.all (fun i => !i.wf) = true := by decide

def illMemory : List Instr := [.ld 3 .rlx .normal 0 ⟨false, 0, 0, 0⟩, .ld 8 .rel .normal 0 ⟨false, 0, 0, 0⟩, .ld 8 .rlx .keep 0 ⟨true, 0, 0, 0⟩, .ldS 8 .normal 0 ⟨true, 1, 0, 0⟩,
  .vld .normal 64 ⟨true, 0, 0, 0⟩ 0, .vldS .normal 0 ⟨false, 16, 0, 0⟩ 0, .ldro 8 .normal 0 ⟨false, 0, 64, 0⟩, .vldro .normal 0 ⟨false, 0, 0, 2 ^ 21⟩ 0,
  .vldb .w6 .normal 0 ⟨true, 0, 0, 0⟩ 5, .ldx .rlx .normal 61 ⟨false, 0, 0, 0⟩, .roinvAddr 16 0 0, .st 8 .acq .normal 0 ⟨true, 0, 0, 0⟩, .vst .normal 0 ⟨true, 0, 0, 0⟩ 8,
  .vstb .w8 .normal 0 ⟨true, 0, 0, 0⟩ 4, .stx .rlx .normal 61 ⟨true, 0, 0, 0⟩, .send false .rlx 0 0 0 1, .send true .acq 0 0 0 0, .amoAdd 2 .rlx .normal 0 ⟨false, 0, 0, 0⟩ 0,
  .amoSwap 8 .rlx .normal 0 ⟨false, 0, 0, 256⟩ 0, .amoCas 8 .rlx .normal 0 ⟨false, 0, 0, 0⟩ 0 64, .amoFadd .i32 .rlx .normal 0 ⟨false, 0, 0, 0⟩ 0]
theorem test_ill_memory : illMemory.all (fun i => !i.wf) = true := by decide

def illEngine : List Instr := [.push 8 0 0, .push 0 61 0, .push 0 0 16, .xlat 16 0 0, .xlatS 0 0 4, .hinfo 0 0 2, .hrel 16, .tlbinv 0 0 0 3 false, .pgmig 64 0,
  .rcall 32 0 0 0 0 false 0 0 0, .rcall 0 0 0 4096 0 false 0 0 0, .rcall 0 0 0 0 256 false 0 0 0, .rcall 0 0 0 0 0 false 3 0 0, .rcall 0 0 0 0 0 false 0 1 0,
  .rcall 0 0 0 0 0 false 1 0 1, .cpwm 0 4 0 0, .cpwmq 64 0, .cpprog 0 0 2, .xbswap 16 0, .xbstat 0 0 4, .xbremap 0 0 64, .xbcolSet 16 0 0, .xbcolCoef 64 0,
  .klaunch 0 61 0, .klaunch 0 0 32]
theorem test_ill_engine : illEngine.all (fun i => !i.wf) = true := by decide

def illSync : List Instr := [.semwait 256 0 .rlx false, .semsig 0 0 .acq, .semsig 0 65536 .rlx, .semset 0 0 .acq, .semget 0 0 .rel, .semtry 0 0 16 .rlx false,
  .qlevel 8 0 0 0, .bsync 64, .barrive 0x84, .bwait 0 16, .bstat 127 0, .bpost 64 0, .bread .rel 0 0, .bread .rlx 0 8, .bread .rlx 0 48, .domset 64 0, .domget 0 0 4,
  .gcancel 64, .rwait .rlx 0 60 0 false, .rwait .rel 0 0 0 false, .rpoll 32 0 0, .trap 65536, .step 16 0, .wset 8 0 1 0, .wset 0 0 0 0, .wset 0 0 8 0, .wset 0 0 1 64,
  .wclr 8, .ctxrun 0 64, .kbudget 64, .vendorDiagnostic 64 0 0, .vendorDiagnostic 1 0 (2 ^ 43)]
theorem test_ill_sync : illSync.all (fun i => !i.wf) = true := by decide

theorem test_ill_guards : Guard.wf ⟨true, 0⟩ = false ∧ Guard.wf ⟨false, 16⟩ = false := by decide

def illEvents : List Instr := [.trapEntry 128 0, .pennantArrive 0 4, .tileRowEnter 128, .copyItem 0 4 0, .xbmvm 0 3, .xbswapTakeEffect 0 32, .hostNotifyCommand 128,
  .commandEnd 0 8 0, .callStart (.vault 128), .callStart (.hbm 8), .remoteCallWord (.vault 0) 8, .callWordLimit (.hbm 0) 64, .callDeadline 0 0 32, .groupReclaim 64 0,
  .ballotSlotFree 64, .preload 0 32 0, .registerWrite .host (.core 128) 0 0, .hostMemoryAccess true (2 ^ 34) 1 [], .hostMemoryAccess true 0 1 [0, 0], .halyardSteer 0 18,
  .quiescePoint 128, .linkTrainingDone 8 0 0, .flitReceive 0 ⟨true, 0, 3, 0, 0, []⟩, .monitorSample 96 0, .thermalTrip 80 0]
theorem test_ill_events : illEvents.all (fun i => !i.wf) = true := by decide

/-! ### Words written out from the encoding tables of R52, R56 and the chapters; those of the specification's examples are among them -/

def words_scalar1 : List (Nat × Instr) := [
  (0x004028DF80000000, .add 5 6 63),
  (0x008030FF00000000, .sub 6 7 62),
  (0x00C0391E80000000, .mul 7 8 61),
  (0x0100413E00000000, .mulh 8 9 60),
  (0x0140495D80000000, .mulhu 9 10 59),
  (0x0180517D00000000, .div 10 11 58),
  (0x01C0599C80000000, .divu 11 12 57),
  (0x020061BC00000000, .rem 12 13 56),
  (0x024069DB80000000, .remu 13 14 55),
  (0x028071FB00000000, .min 14 15 54),
  (0x02C07A1A80000000, .max 15 16 53),
  (0x0300823A00000000, .minu 16 17 52),
  (0x03408A5980000000, .maxu 17 18 51),
  (0x0380927900000000, .and 18 19 50),
  (0x03C09A9880000000, .or 19 20 49),
  (0x0400A2B800000000, .xor 20 21 48),
  (0x0440AAD780000000, .andn 21 22 47),
  (0x0480B2F700000000, .shl 22 23 46),
  (0x04C0BB1680000000, .shr 23 24 45),
  (0x0500C33600000000, .sra 24 25 44),
  (0x0540CB5580000000, .rotl 25 26 43),
  (0x0581406000000000, .clz 40 3),
  (0x05C1488000000000, .ctz 41 4),
  (0x060150A000000000, .popc 42 5)]
theorem test_decode_scalar1 : words_scalar1.all (fun e => decodeTableWord 64 e.1 == some e.2) = true := by decide
theorem test_encode_scalar1 : words_scalar1.all (fun e => (encode (guardOf (e.1 / 2 ^ 54) e.1) e.2).map (·.toNat) == some e.1) = true := by decide

def words_scalar2 : List (Nat × Instr) := [
  (0x0640412016000028, .bext 8 9 40 12),
  (0x06801882FE000000, .bins 3 4 5 0 64),
  (0x06C010200000001F, .sext 2 1 32),
  (0x070018A300000600, .cmp .ltu 3 5 6),
  (0x0740780480000000, .pand 15 0 9),
  (0x0780702480000000, .por 14 1 9),
  (0x07C0684480000000, .pxor 13 2 9),
  (0x0800606480000000, .pandn 12 3 9),
  (0x0840390498000000, .sel 7 12 8 9),
  (0x0880280200000000, .hmix 5 0 4),
  (0x08C0084180000000, .kvslot 1 2 3),
  (0x09000821FFFFFFFF, .addi 1 1 (-1)),
  (0x09401060000000FF, .andi 2 3 255),
  (0x098020A0FFFFFFFF, .ori 4 5 4294967295),
  (0x09C030E100000000, .xori 6 7 (-4294967296)),
  (0x0A0008400000003F, .shli 1 2 63),
  (0x0A40188000000020, .shri 3 4 32),
  (0x0A8028C000000001, .srai 5 6 1),
  (0x0AC0086800000000, .cmpi .gt 1 3 0),
  (0x0B003800000000FF, .lih 7 255),
  (0x0BC9FFFFFFFFFFFC, .lim 9 (-4)),
  (0x0B4028000000000B, .ctlr 5 11),
  (0x0B80002000000003, .ctlw 3 1)]
theorem test_decode_scalar2 : words_scalar2.all (fun e => decodeTableWord 64 e.1 == some e.2) = true := by decide
theorem test_encode_scalar2 : words_scalar2.all (fun e => (encode (guardOf (e.1 / 2 ^ 54) e.1) e.2).map (·.toNat) == some e.1) = true := by decide

def words_branch : List (Nat × Instr) := [
  (0x100000000000FFFC, .br (-4)),
  (0x1040880000000000, .brr 17),
  (0x1080000000000006, .call 6),
  (0x10C0900000000000, .callr 18),
  (0x1100000000000000, .ret),
  (0x114000000000FFFC, .loop (-4)),
  (0x1180500000000006, .chk false 10 6),
  (0x11810C0000008000, .chk true 33 (-32768))]
theorem test_decode_branch : words_branch.all (fun e => decodeTableWord 64 e.1 == some e.2) = true := by decide
theorem test_encode_branch : words_branch.all (fun e => (encode (guardOf (e.1 / 2 ^ 54) e.1) e.2).map (·.toNat) == some e.1) = true := by decide

def words_vector1 : List (Nat × Instr) := [
  (0x2000084180000000, .vadd .f32 .rne 1 2 3 0),
  (0x2040084180450000, .vsub .f16 .rz 1 2 3 1),
  (0x20800841808A0000, .vmul .bf16 .rup 1 2 3 2),
  (0x20C028210A010000, .vfma .f32 .rz 5 1 2 5 0),
  (0x210028210DC70000, .vfms .f16 .rdn 5 1 2 6 7),
  (0x21402FE10C080000, .vfnma .bf16 .rne 5 63 2 6 0),
  (0x2180490380580000, .vmin .ui8 9 8 7 1),
  (0x21C0490380580000, .vmax .ui8 9 8 7 1),
  (0x2200490000940000, .vabs .i8 9 8 2),
  (0x2240490000940000, .vneg .i8 9 8 2),
  (0x2280F11400D00000, .vand .i16 30 8 40 3),
  (0x22C0F91400D00000, .vor .i16 31 8 40 3),
  (0x2301011400D00000, .vxor .i16 32 8 40 3),
  (0x2341091400D00000, .vshl .i16 33 8 40 3),
  (0x2381111400D00000, .vshr .i16 34 8 40 3),
  (0x23C1191400D00000, .vsra .i16 35 8 40 3),
  (0x2401211400D00000, .vaddsat .i16 36 8 40 3),
  (0x2441291400D00000, .vsubsat .i16 37 8 40 3),
  (0x248020A30E0C0000, .vclamp .i32 4 5 6 7 0),
  (0x24C020A000040000, .vexp2 .f16 4 5 0),
  (0x250020A000440000, .vlog2 .f16 4 5 1),
  (0x254020A000840000, .vrcp .f16 4 5 2),
  (0x258020A000C40000, .vrsq .f16 4 5 3),
  (0x25C038A300400B00, .vcmp .uno .f32 7 5 6 1)]
theorem test_decode_vector1 : words_vector1.all (fun e => decodeTableWord 64 e.1 == some e.2) = true := by decide
theorem test_encode_vector1 : words_vector1.all (fun e => (encode (guardOf (e.1 / 2 ^ 54) e.1) e.2).map (·.toNat) == some e.1) = true := by decide

def words_vector2 : List (Nat × Instr) := [
  (0x2600084180000000, .kand 1 2 3),
  (0x2640084200000000, .kor 1 2 4),
  (0x2680084280000000, .kxor 1 2 5),
  (0x26C030E000000000, .knot 6 7),
  (0x270108E000140000, .kpop .i8 33 7),
  (0x2740084181080000, .vsel .bf16 1 2 3 4),
  (0x27C0084181080000, .vperm .bf16 1 2 3 4),
  (0x27800FC0010C0000, .vbcast .i32 1 62 4),
  (0x2800084180000001, .vshuf .f32 .ziphi 1 2 3 0),
  (0x28400840001400FF, .vrot .i8 1 2 255 0),
  (0x2880084000500000, .viota .i16 1 2 1),
  (0x28C008400000003F, .vins .f32 1 2 63),
  (0x290008400004007F, .vext .f16 1 2 127),
  (0x2940084001840000, .vmov .f16 1 2 6),
  (0x29800840000C0002, .vred .i32 .max 1 2 0),
  (0x29C0084001400001, .vscan .f32 .min 1 2 5),
  (0x2A0020200000C003, .vcvt .f32 .e2m1 .rne 4 1 3 0),
  (0x2A40084006009001, .vmxq .e4m3 .rne 1 3 2 1),
  (0x2A8008400600C003, .vmxdq .e2m1 1 2 3 3)]
theorem test_decode_vector2 : words_vector2.all (fun e => decodeTableWord 64 e.1 == some e.2) = true := by decide
theorem test_encode_vector2 : words_vector2.all (fun e => (encode (guardOf (e.1 / 2 ^ 54) e.1) e.2).map (·.toNat) == some e.1) = true := by decide

def words_tile : List (Nat × Instr) := [
  (0x4000C90000000800, .talloc 3 9 true),
  (0x4041000000000000, .tfree 4 false),
  (0x4080800007FF9000, .tzero 2 (-14)),
  (0x40C1C00004000000, .tanchor 7 (-32768)),
  (0x41000A2EC0000000, .tload .e2m3 10 11),
  (0x4140000000000000, .tswap),
  (0x41808A2E00008000, .tmm .mxi8 2 false 10 11 16 0),
  (0x4180000208002000, .tmm .mxi8 0 true 0 0 4 0),
  (0x41C054006803F000, .tdrain .f16 .rup 1 20 62 true),
  (0x4201470000000000, .tstat 5 7),
  (0x4241470000000800, .tprog 5 7 1),
  (0x4281800000000000, .tclr 6)]
theorem test_decode_tile : words_tile.all (fun e => decodeTableWord 64 e.1 == some e.2) = true := by decide
theorem test_encode_tile : words_tile.all (fun e => (encode (guardOf (e.1 / 2 ^ 54) e.1) e.2).map (·.toNat) == some e.1) = true := by decide

def words_memory : List (Nat × Instr) := [
  (0x5000508462000040, .ld 8 .acq .normal 10 ⟨false, 2, 4, 64⟩),
  (0x504050C4083FFFFF, .ldS 1 .stream 10 ⟨false, 3, 4, (-1)⟩),
  (0x5081140AA0004000, .vld .normal 34 ⟨true, 0, 10, 16384⟩ 0),
  (0x50C113CAB8C00000, .vldS .bypass 34 ⟨false, 15, 10, 0⟩ 3),
  (0x5100184050000004, .ldro 4 .keep 3 ⟨false, 1, 0, 4⟩),
  (0x51401842A0400000, .vldro .normal 3 ⟨false, 1, 2, 0⟩ 1),
  (0x518048C5C2800000, .vldb .w6 .normal 9 ⟨false, 3, 5, 0⟩ 2),
  (0x51C0200380000000, .ldx .rlx .normal 4 ⟨false, 0, 3, 0⟩),
  (0x5200010500000080, .roinvAddr 4 5 128),
  (0x5200080000000000, .roinvAll),
  (0x60005C0640000100, .st 4 .rlx .normal 11 ⟨true, 0, 6, 256⟩),
  (0x60405C06A0800100, .vst .normal 11 ⟨true, 0, 6, 256⟩ 2),
  (0x60805C06C4400000, .vstb .w4 .normal 11 ⟨true, 0, 6, 0⟩ 1),
  (0x60C1E18684000000, .stx .rel .normal 60 ⟨false, 6, 6, 0⟩),
  (0x61001C0CA4000040, .send true .rel 3 12 64 0)]
theorem test_decode_memory : words_memory.all (fun e => decodeTableWord 64 e.1 == some e.2) = true := by decide
theorem test_encode_memory : words_memory.all (fun e => (encode (guardOf (e.1 / 2 ^ 54) e.1) e.2).map (·.toNat) == some e.1) = true := by decide

def words_atomic : List (Nat × Instr) := [
  (0x6140388466480010, .amoAdd 8 .ar .normal 7 ⟨false, 2, 4, 16⟩ 9),
  (0x6180388444500008, .amoMin 4 .rel .normal 7 ⟨false, 2, 4, 8⟩ 10),
  (0x61C0388462580000, .amoMax 8 .acq .normal 7 ⟨false, 2, 4, 0⟩ 11),
  (0x62003884406001F8, .amoMinu 4 .rlx .normal 7 ⟨false, 2, 4, (-8)⟩ 12),
  (0x62403884666801F0, .amoMaxu 8 .ar .normal 7 ⟨false, 2, 4, (-16)⟩ 13),
  (0x62803884447001E8, .amoAnd 4 .rel .normal 7 ⟨false, 2, 4, (-24)⟩ 14),
  (0x62C03884627801E0, .amoOr 8 .acq .normal 7 ⟨false, 2, 4, (-32)⟩ 15),
  (0x63003884408001D8, .amoXor 4 .rlx .normal 7 ⟨false, 2, 4, (-40)⟩ 16),
  (0x63403884668801D0, .amoSwap 8 .ar .normal 7 ⟨false, 2, 4, (-48)⟩ 17),
  (0x63803C0460494100, .amoCas 8 .rlx .normal 7 ⟨true, 0, 4, (-256)⟩ 9 10),
  (0x63C0388420480400, .amoFadd .bf16 .rlx .normal 7 ⟨false, 2, 4, 0⟩ 9)]
theorem test_decode_atomic : words_atomic.all (fun e => decodeTableWord 64 e.1 == some e.2) = true := by decide
theorem test_encode_atomic : words_atomic.all (fun e => (encode (guardOf (e.1 / 2 ^ 54) e.1) e.2).map (·.toNat) == some e.1) = true := by decide

def words_engine : List (Nat × Instr) := [
  (0x7000040064000000, .push 1 8 3),
  (0x7040628000000003, .xlat 3 5 3),
  (0x7081E28000000001, .xlatS 15 5 1),
  (0x70C0600C00000000, .hinfo 6 3 0),
  (0x7100600000000000, .hrel 3),
  (0x7140028C80000004, .tlbinv 4 5 6 0 true),
  (0x7180028C00000000, .pgmig 5 6),
  (0x71C0011801404DF0, .rcall 0 1 6 5 1 true 2 3 7),
  (0x71C0321400804000, .rcall 3 2 5 2 1 false 0 0 0),
  (0x7200051664000000, .cpwm 3 1 10 11),
  (0x7240001804000000, .cpwmq 12 1),
  (0x7280001A04000000, .cpprog 13 1 0),
  (0x72C0028040000000, .xbswap 2 5),
  (0x7300028C00000001, .xbstat 6 5 1),
  (0x7340028020000000, .xbretire 1 5),
  (0x7380028E60000000, .xbremap 3 5 7),
  (0x73C0029020000000, .xbcfg 1 5 8),
  (0x7400029200000000, .xbcolCoef 9 5),
  (0x7400029200000001, .xbcolClip 9 5),
  (0x7400029280000002, .xbcolSet 4 5 9),
  (0x7400029200000003, .xbcolClipclr 9 5),
  (0x74400A0040000005, .klaunch 2 20 5)]
theorem test_decode_engine : words_engine.all (fun e => decodeTableWord 64 e.1 == some e.2) = true := by decide
theorem test_encode_engine : words_engine.all (fun e => (encode (guardOf (e.1 / 2 ^ 54) e.1) e.2).map (·.toNat) == some e.1) = true := by decide

def words_sync1 : List (Nat × Instr) := [
  (0x8000180002000600, .semwait 12 1 .acq true),
  (0x8040180004000800, .semsig 12 2 .rel),
  (0x8080180000480000, .semset 12 9 .rlx),
  (0x80C0180000380000, .semget 12 7 .rlx),
  (0x8100180008018200, .semtry 12 4 3 .rlx true),
  (0x81400400084A8000, .qlevel 2 4 9 5),
  (0x8180000000003000, .fence .dev),
  (0x81C0000000000000, .drain),
  (0x82000A0000000000, .bsync 5),
  (0x8241060000000000, .barrive 131),
  (0x8281020000010000, .bwait 129 2),
  (0x82C1060000380000, .bstat 131 7),
  (0x8300000000A10000, .bpost 20 2),
  (0x8340000002380400, .bread .acq 7 1),
  (0x83800A0000480000, .domset 5 9),
  (0x83C1060002300000, .domget 131 6 1),
  (0x8400000000200000, .gcancel 4),
  (0x8440000000000000, .ccp),
  (0x8480000002510000, .rwait .rlx 0 10 2 true),
  (0x84C03E0000498000, .rpoll 31 9 3),
  (0x8540000024000000, .trap 18),
  (0x858001FFFE000000, .syscall 65535),
  (0x85C0000000000000, .rte),
  (0x8600000002000000, .brk 1)]
theorem test_decode_sync1 : words_sync1.all (fun e => decodeTableWord 64 e.1 == some e.2) = true := by decide
theorem test_encode_sync1 : words_sync1.all (fun e => (encode (guardOf (e.1 / 2 ^ 54) e.1) e.2).map (·.toNat) == some e.1) = true := by decide

def words_sync2 : List (Nat × Instr) := [
  (0x8640000000290000, .step 2 5),
  (0x868006C106300000, .wset 3 6 6 131),
  (0x86C0060000000000, .wclr 3),
  (0x8700000000288000, .ctxfrz 1 5),
  (0x8740000000288000, .ctxrun 1 5),
  (0x8780000000000000, .kdone),
  (0x87C0000002000000, .kfail true),
  (0x8800000000380000, .kbudget 7),
  (0x8840000000000000, .upcall),
  (0x0000000000000000, .nop)]
theorem test_decode_sync2 : words_sync2.all (fun e => decodeTableWord 64 e.1 == some e.2) = true := by decide
theorem test_encode_sync2 : words_sync2.all (fun e => (encode (guardOf (e.1 / 2 ^ 54) e.1) e.2).map (·.toNat) == some e.1) = true := by decide

/-- R70: the vendor diagnostic rows decode in RUNTIME mode with DIAG alone. -/
theorem test_decode_vendor : decodeSlot true 0 (wordOf (0x3C5 * 2 ^ 54 + 9 * 2 ^ 43 + 77)) = .ok (⟨false, 0⟩, .vendorDiagnostic 5 9 77) ∧
    decodeSlot false 0 (wordOf (0x3C5 * 2 ^ 54 + 9 * 2 ^ 43 + 77)) = .error .illegalOp := by decide

/-- R318: `syscall 0xFFFF` while HDL = 1. -/
theorem test_decode_handler_return : ({ hdl := true } : Ctx).decode 7 (wordOf 0x858001FFFE000000) = .ok (⟨false, 0⟩, .handlerReturn) ∧
    ({} : Ctx).decode 7 (wordOf 0x858001FFFE000000) = .ok (⟨false, 0⟩, .syscall 0xFFFF) := by decide

/-- R68, R53, R54, R58, R406: unassigned opcode, wrong slot, `!p0`, opcode 0 with a bit set, a reserved field, `rret`. -/
theorem test_decode_faults : decodeSlot false 0 (wordOf (0x30 * 2 ^ 54)) = .error .illegalOp ∧ decodeSlot false 1 (wordOf (2 ^ 54)) = .error .illegalSlot ∧
    decodeSlot false 0 (wordOf (2 ^ 54 + 2 ^ 53)) = .error .illegalField ∧ decodeSlot false 3 1 = .error .illegalField ∧
    decodeSlot false 0 (wordOf (2 ^ 54 + 1)) = .error .illegalField ∧ decodeSlot false 7 (wordOf 0x8500000004080000) = .error .illegalOp := by decide

/-- R50, R53: a guarded word, from the examples of the barrier chapter. -/
theorem test_decode_guard : decodeSlot false 7 (wordOf 0x81C6000000000000) = .ok (⟨false, 3⟩, .drain) ∧
    decodeSlot false 7 (wordOf 0x82EC080001D00000) = .ok (⟨true, 6⟩, .bstat 4 58) := by decide

/-! ### A bench: context 0 of core 0 RUNNING in KERNEL mode, its task holding every resource of the core -/

def bench : State := ({ State.reset.withFetchWord 64 0 with agenda := [] } : State).select 0 0

/-- The bench with its context, its core or its task changed. -/
def me (f : Ctx → Ctx) : State := bench.updMe f
def core (f : Core → Core) : State := bench.updMyCore f
def task (f : Task → Task) : State := bench.updTask 0 f

def sc (n : Nat) (w : Word) (po : Bool := false) (x : Ctx) : Ctx := { x with s := x.s.put {} n ⟨w, po⟩ }
def vc (n : Nat) (w : VWord) (po : Bool := false) (x : Ctx) : Ctx := { x with v := x.v.put {} n ⟨w, po⟩ }
def rt (x : Ctx) : Ctx := { x with mode := true }

/-- The state after an instruction; the bench where there is none. -/
def after (i : Instr) (s : State) : State := match exec i s with | .next t => t | _ => bench

/-- The result that an instruction puts in flight for a register: value, poison, flags, latency. -/
def gives (i : Instr) (s : State) (r : RegId) : Option (RVal × Bool × FlagBits × Nat) :=
  ((after i s).me.inflight.find? fun e => decide (e.reg = r)).map fun e => (e.val, e.poison, e.flags, e.due - e.seq)

/-- The trap that an instruction takes: CAUSE, SLOTMASK, BADADDR. -/
def traps (i : Instr) (s : State) : Option (Nat × Nat × Word) :=
  let y := (after i s).me
  if y.mode ∧ y.f0 = 0x3C000 then some ((y.ctl.get 0 6).toNat, (y.ctl.get 0 7).toNat, y.ctl.get 0 9) else none

def word (n lat : Nat) (po : Bool := false) (fl : FlagBits := 0) : Option (RVal × Bool × FlagBits × Nat) := some (.w (wordOf n), po, fl, lat)

/-! ### Scalars, by the examples of R98 to R106 -/

def two (a b : Word) : State := me fun x => sc 1 a false (sc 2 b false x)

theorem test_add_wraps : gives (.add 3 1 2) (two (BitVec.allOnes 64) 1) (.s 3) = word 0 1 := by decide
theorem test_sub_borrows : gives (.sub 1 1 2) (two 0 1) (.s 1) = word (2 ^ 64 - 1) 1 := by decide
theorem test_mulh_signed : gives (.mulh 3 1 2) (two (-1) 2) (.s 3) = word (2 ^ 64 - 1) 3 := by decide
theorem test_mulhu : gives (.mulhu 3 1 2) (two (-1) 2) (.s 3) = word 1 3 := by decide
theorem test_div_truncates : gives (.div 3 1 2) (two (-7) 2) (.s 3) = word (2 ^ 64 - 3) 18 := by decide
theorem test_rem_sign : gives (.rem 3 1 2) (two (-7) 2) (.s 3) = word (2 ^ 64 - 1) 18 := by decide
theorem test_divu : gives (.divu 3 1 2) (two (-7) 2) (.s 3) = word 0x7FFFFFFFFFFFFFFC 18 := by decide
theorem test_remu : gives (.remu 3 1 2) (two (-7) 2) (.s 3) = word 1 18 := by decide
theorem test_div_zero : gives (.div 3 1 2) (two 5 0) (.s 3) = word (2 ^ 64 - 1) 18 false isat := by decide
theorem test_div_least : gives (.div 3 1 2) (two (BitVec.intMin 64) (-1)) (.s 3) = word (2 ^ 63) 18 false isat := by decide
theorem test_min_signed : gives (.min 3 1 2) (two (-1) 1) (.s 3) = word (2 ^ 64 - 1) 1 := by decide
theorem test_maxu : gives (.maxu 3 1 2) (two (-1) 1) (.s 3) = word (2 ^ 64 - 1) 1 := by decide
theorem test_andn : gives (.andn 3 1 2) (two 0b1100 0b1010) (.s 3) = word 0b0100 1 := by decide
theorem test_shl_mod : gives (.shl 3 1 2) (two 1 65) (.s 3) = word 2 1 := by decide
theorem test_sra : gives (.sra 3 1 2) (two (-8) 1) (.s 3) = word (2 ^ 64 - 4) 1 := by decide
theorem test_rotl_none : gives (.rotl 3 1 2) (two 5 64) (.s 3) = word 5 1 := by decide
theorem test_clz_zero : gives (.clz 3 1) (two 0 0) (.s 3) = word 64 1 := by decide
theorem test_ctz : gives (.ctz 3 1) (two 0x8000 0) (.s 3) = word 15 1 := by decide
theorem test_popc : gives (.popc 3 1) (two (-1) 0) (.s 3) = word 64 1 := by decide
theorem test_bext : gives (.bext 3 1 40 12) (two 0x0123456789ABCDEF 0) (.s 3) = word 0x345 1 := by decide
theorem test_sext : gives (.sext 3 1 12) (two 0x345 0) (.s 3) = word 0x345 1 := by decide
theorem test_bins : gives (.bins 3 0 1 8 8) (two 0x0123456789ABCDEF 0) (.s 3) = word 0x0123456789AB00EF 1 := by decide
theorem test_hmix : gives (.hmix 20 0 1) (two 1 0) (.s 20) = word 0x3279F8E612E254FF 3 := by decide
theorem test_kvslot_generation : gives (.kvslot 3 1 2) (two 5000 0x0000040000000004) (.s 3) = word 0x0000000400000384 18 := by decide
theorem test_kvslot_sink : gives (.kvslot 3 1 2) (two 3 0x0000040000000004) (.s 3) = word 0x8000000000000003 18 := by decide
theorem test_poison_spreads : gives (.add 3 1 2) (me (sc 1 7 true)) (.s 3) = word 7 1 true := by decide
theorem test_s0_discards : (after (.addi 0 0 5) bench).me.inflight.length = 1 ∧ ((after (.addi 0 0 5) bench).me.readS 0).val = 0 := by decide
theorem test_lim : gives (.lim 3 (-4)) bench (.s 3) = word (2 ^ 64 - 4) 1 := by decide
theorem test_lih : gives (.lih 1 0xFF) (two 0x1122334455667788 0) (.s 1) = word 0x00FF334455667788 1 := by decide
theorem test_andi_sign : gives (.andi 3 1 (-16)) (two 0xFFFFFFFFFF 0) (.s 3) = word 0xFFFFFFFFF0 1 := by decide
theorem test_cmp_unsigned : gives (.cmp .ltu 3 1 2) (two 1 (-1)) (.p 3) = some (.b true, false, 0, 1) := by decide
theorem test_cmpi_signed : gives (.cmpi .lt 3 1 0) (two (-1) 0) (.p 3) = some (.b true, false, 0, 1) := by decide
theorem test_cmp_poison : traps (.cmp .eq 3 1 2) (me (sc 1 0 true)) = some (0x10, 1, 0) := by decide
theorem test_pandn : gives (.pandn 3 0 1) bench (.p 3) = some (.b true, false, 0, 1) := by decide
theorem test_sel_takes_poison : gives (.sel 3 1 0 2) (me (sc 2 9 true)) (.s 3) = word 9 1 true := by decide
theorem test_ctlr_status : gives (.ctlr 3 0) bench (.s 3) = word 0x300 1 := by decide
theorem test_ctlw_flags : gives (.ctlw 1 1) (two (-1) 0) (.ctl 1) = word 0x1F 1 := by decide
theorem test_ctlw_privileged : traps (.ctlw 8 1) bench = some (4, 1, 0) := by decide

/-! ### Branches (R86, R87, R109 to R111) -/

theorem test_branch_after_delay : let y := (after (.br 6) bench).me; (y.f0, y.f1, y.f2, y.f3) = (64, 128, 192, 384) := by decide
theorem test_call_links : gives (.call 6) bench (.s 62) = word 256 1 := by decide
theorem test_brr_misaligned : traps (.brr 1) (two 65 0) = some (5, 1, 65) := by decide
theorem test_chk_branches : (after (.chk false 1 6) (me (sc 1 0 true))).me.f3 = 384 ∧ (after (.chk false 1 6) bench).me.f3 = 256 := by decide
def looping : State := me fun x => { x with ctl := [(3, 3), (4, 1)] }
theorem test_loop_counts : gives (.loop (-1)) looping (.ctl 3) = word 2 4 ∧ gives (.loop (-1)) looping (.ctl 5) = word 1 4 ∧
    gives (.loop (-1)) looping (.p 15) = some (.b true, false, 0, 4) := by decide

/-! ### Vectors (R114 to R137) -/

/-- A register whose low lanes of width `w` are given. -/
def lanes (w : Nat) (l : List Nat) : VWord := BitVec.ofNat 2048 (l.foldr (fun a r => a + 2 ^ w * r) 0)
def low (i : Instr) (s : State) (d w n : Nat) : List Nat :=
  match gives i s (.v d) with
  | some (.v r, _) => (List.range n).map fun j => lane w r j
  | _ => []
def flagsOf (i : Instr) (s : State) (r : RegId) : Option FlagBits := (gives i s r).map fun e => e.2.2.1
def vv (w : Nat) (a b : List Nat) : State := me fun x => vc 1 (lanes w a) false (vc 2 (lanes w b) false x)

theorem test_vadd_i8_wraps : low (.vadd .i8 .rne 3 1 2 0) (vv 8 [255, 1] [1, 1]) 3 8 2 = [0, 2] := by decide +kernel
theorem test_vaddsat : low (.vaddsat .i8 3 1 2 0) (vv 8 [127, 0x80] [1, 0xFF]) 3 8 2 = [127, 0x80] ∧
    flagsOf (.vaddsat .i8 3 1 2 0) (vv 8 [127] [1]) (.v 3) = some isat := by decide +kernel
theorem test_vmax_u8 : low (.vmax .ui8 3 1 2 0) (vv 8 [255] [1]) 3 8 1 = [255] := by decide +kernel
theorem test_vneg_least : low (.vneg .i16 3 1 0) (vv 16 [0x8000] []) 3 16 1 = [0x7FFF] := by decide +kernel
theorem test_vsra_amount : low (.vsra .i16 3 1 2 0) (vv 16 [0x8000] [17]) 3 16 1 = [0xC000] := by decide +kernel
theorem test_vadd_f32 : low (.vadd .f32 .rne 3 1 2 0) (vv 32 [0x3F800000, 0x7F800000] [0x3F800000, 0xFF800000]) 3 32 2 = [0x40000000, 0x7FC00000] ∧
    flagsOf (.vadd .f32 .rne 3 1 2 0) (vv 32 [0x3F800000, 0x7F800000] [0x3F800000, 0xFF800000]) (.v 3) = some fnv := by decide +kernel
theorem test_vfma_one_rounding : low (.vfma .f32 .rne 3 1 2 1 0) (vv 32 [0x40400000] [0x40000000]) 3 32 1 = [0x41100000] := by decide +kernel
theorem test_vmin_zeros : low (.vmin .f32 3 1 2 0) (vv 32 [0x80000000] [0]) 3 32 1 = [0x80000000] := by decide +kernel
theorem test_vexp2_overflow : low (.vexp2 .f32 3 1 0) (vv 32 [0x43000000] []) 3 32 1 = [0x7F800000] ∧
    flagsOf (.vexp2 .f32 3 1 0) (vv 32 [0x43000000] []) (.v 3) = some (fof ||| fnx) := by decide +kernel
theorem test_vrcp_subnormal : fp32.rcp false 0x7F000000 = (0x00400000, 0) := by decide +kernel
theorem test_vlog2_one : fp32.log2 false 0x3F800000 = (0, 0) := by decide +kernel
theorem test_vrsq_quarter : fp32.rsq false 0x3E800000 = (0x40000000, 0) := by decide +kernel
theorem test_vcmp_bits : gives (.vcmp .lt .f32 2 1 2 0) (vv 32 [0, 0, 0] [0x3F800000, 0, 0x3F800000]) (.k 2) = some (.k 0xF0F, false, 0, 3) := by decide +kernel
theorem test_kpop_widths : let s := me fun x => { x with k := [(2, BitVec.ofNat 256 (2 ^ 40 - 1))] }
    gives (.kpop .f32 4 2) s (.s 4) = word 10 3 ∧ gives (.kpop .i8 4 2) s (.s 4) = word 40 3 := by decide +kernel
theorem test_mask_merges : let s := (vv 32 [5, 6] []).updMe fun x => vc 3 (lanes 32 [8, 9]) false { x with k := [(1, 0xF)] }
    low (.vmov .i32 3 1 1) s 3 32 2 = [5, 9] := by decide +kernel
theorem test_vshuf_zip : low (.vshuf .i32 .ziplo 3 1 2 0) (vv 32 [1, 2] [3, 4]) 3 32 4 = [1, 3, 2, 4] := by decide +kernel
theorem test_vrot : low (.vrot .i32 3 1 1 0) (vv 32 [1, 2, 3] []) 3 32 2 = [2, 3] := by decide +kernel
theorem test_vext_sign : gives (.vext .i8 3 1 0) (vv 8 [0x80] []) (.s 3) = word (2 ^ 64 - 128) 3 := by decide +kernel
theorem test_vscan_saturates : low (.vscan .i8 .sum 3 1 0) (vv 8 [100, 100, 0xF6] []) 3 8 3 = [100, 127, 117] := by decide +kernel
theorem test_vcvt_to_int : low (.vcvt .f32 .i32 .rne 3 1 0 0) (vv 32 [0x40200000, 0x7FC00000] []) 3 32 2 = [2, 0] := by decide +kernel
theorem test_register_poison : (gives (.vmov .i32 3 1 0) (me (vc 1 0 true)) (.v 3)).map (·.2.1) = some true := by decide +kernel

/-! ### Numbers (R33, R36 to R43), by the worked accumulation -/

theorem test_round_half_even : fp32.round .rne false false 16777217 1 = (0x4B800000, fnx) := by decide
theorem test_round_overflow : fp16.round .rne false false 65520 1 = (0x7C00, fof ||| fnx) ∧ fp16.round .rz false false 65536 1 = (0x7BFF, fof ||| fnx) := by decide
theorem test_flush_result : fp32.round .rne true true 1 (2 ^ 130) = (0x80000000, fuf ||| fnx) := by decide
def blockOf (l : List Nat) : List Nat := l ++ List.replicate (64 - l.length) 0
theorem test_block_sum : blockSum .mxi8 130 (blockOf [100, 256 - 37]) .mxi8 119 (blockOf [3, 5]) = some 115 ∧
    blockSum .mxi8 127 (blockOf [256 - 3]) .mxi8 0xFF (blockOf [3]) = none := by decide
theorem test_contributions : Elem.contribute (-14) (Elem.contribute (-14) ({}, false, false) (some (115, -17))) (some (-9, -12)) =
    ({ acc := -22 }, true, false) := by decide
theorem test_tie_to_even : Elem.contribute (-14) ({}, false, false) (some (116, -17)) = ({ acc := 14 }, true, false) := by decide
theorem test_reanchor : Elem.shift (-2) { acc := -22 } = ({ acc := -6 }, true, false) ∧ Elem.shift 6 { acc := -22 } = ({ acc := -1408 }, false, false) := by decide
theorem test_acc_to_f32 : accToFormat .f32 .rne false (-14) (-22) false = (0xBAB00000, 0) := by decide
theorem test_acc_to_i32 : accToFormat .i32 .rne false (-14) (-22) false = (0, fnx) ∧ accToFormat .i32 .rne false 0 0 true = (0, fnv) := by decide
theorem test_mx_ints : mxInt .e4m3 0x7F = none ∧ mxInt .e2m1 0xF = some (-12) ∧ mxInt .mxi8 0x80 = some (-128) := by decide
theorem test_narrow_saturates : narrowMx fe4m3 .rne (.inf false) = (0x7E, fof ||| fnx) := by decide
theorem test_quantise_nan : (quantise .e2m1 .rne false (blockOf [0x7FC00000])).1 = 0xFF := by decide

/-- R133 with R31: lane 0 of a floating scan is canonical. -/
theorem test_vscan_lane0 : low (.vscan .f32 .sum 3 1 0) (vv 32 [0x7F800001] []) 3 32 1 = [0x7FC00000] := by decide +kernel

/-! ### Traps, by the example of R321 -/

def inDelay : State := me fun x => { x with f0 := 0x440, f1 := 0x480, f2 := 0x4C0, f3 := 0x800 }

theorem test_syscall_in_delay : traps (.syscall 7) inDelay = some (0x40, 0x80, 7) ∧
    (let y := (after (.syscall 7) inDelay).me; (y.ctl.get 0 8, y.nfq, y.fq1, y.fq2, y.fq3) = (0x480, 3, 0x4C0, 0x800, 0x840)) := by decide
theorem test_brk : traps (.brk 9) bench = some (0x1A, 0x80, 9) := by decide
theorem test_syscall_in_trap : (after (.syscall 7) (me rt)).me.st = .trapped ∧ (after (.syscall 7) (me rt)).escs.length = 1 := by decide
theorem test_trap_escalates : (after (.trap 3) bench).me.st = .trapped ∧ (after (.trap 3) bench).msix1 = 1 := by decide

/-! ### Tiles and semaphores (R146, R240) -/

theorem test_talloc_free : gives (.talloc 0 1 true) bench (.s 1) = word 0 3 ∧ (after (.talloc 0 1 true) bench).myCore.planeHolder = some 0 := by decide
theorem test_talloc_other : let s := core fun k => { k with tiles := [(0, { st := .allocated, holder := 1 })] }
    (gives (.talloc 0 1 true) s (.s 1)).map (·.1) = some (.w 1) := by decide
theorem test_semsig_saturates : let s := core fun k => { k with sems := [(4, 2 ^ 32 - 1)] }
    (after (.semsig 4 1 .rlx) s).myCore.sem 4 = 2 ^ 32 - 1 := by decide
theorem test_semtry_subtracts : let s := core fun k => { k with sems := [(4, 7)] }
    (after (.semtry 4 5 2 .rlx true) s).myCore.sem 4 = 2 ∧ (gives (.semtry 4 5 2 .rlx true) s (.p 2)).map (·.1) = some (.b true) := by decide

/-! ### Management (R435, R436): log entry 18 -/

theorem test_refusals_count : let s := { bench with mg := { bench.mg with mbst := 1, op := 2, arg0 := 4096 } }
    (after .mailboxInvalidOp s).mg.refusals = 1 ∧ (after .mailboxInvalidOp s).mg.outcome = some (3, 2, 0) := by decide

/-! ### Witnesses: for every obligation, states and operands that meet its hypotheses

Each theorem below names its obligation; its parts follow the clauses. -/

/-- A state in which nothing is pending for the issuing context. -/
theorem issues (s : State) (names : Ctx → List RegId) (h : (s.iss.opened, s.me.syncHold, s.me.pend) = (false, none, [])) : s.Issues names := by
  simp only [Prod.mk.injEq] at h
  exact ⟨h.1, h.2.1, by simp [h.2.2]⟩

theorem clear (s : State) (home : Nat) (ws : List Wait) (h : ws.all (fun w => !(s.opened home).holds s.iss.core s.iss.ctx w) = true) :
    s.Clear home ws := fun w hw => by simpa using List.all_eq_true.mp h w hw

theorem names (s : State) (t p : Nat) (h : s.myTask.bind (fun k => k.tiles[t]?) = some p) : Names s t p := by
  obtain ⟨k, h1, h2⟩ := Option.bind_eq_some_iff.mp h
  exact ⟨k, h1, h2⟩

theorem banks_all (s : State) (h : s.myTask.map (·.img.banks) = some 15) (o : Nat) (ho : o < 2 ^ 23) : allowed s o := by
  obtain ⟨k, h1, h2⟩ := Option.map_eq_some_iff.mp h
  refine ⟨ho, k, h1, ?_⟩
  have hb : ∀ i < 4, (15 : Nat).testBit i = true := by decide
  rw [h2]
  exact hb _ (by omega)

theorem banks_none (s : State) (o : Nat) (h : s.myTask.map (fun k => k.img.banks.testBit (o / 2 ^ 21)) = some false) : ¬ allowed s o := by
  rintro ⟨-, k, h1, h2⟩
  rw [h1, Option.map_some, h2] at h
  exact absurd h (by decide)

theorem hOk (s : State) (ad : Addr) (h : s.myTask.map (fun k => decide (ad.h < k.img.handles)) = some true) : handleOk s ad := by
  obtain ⟨k, h1, h2⟩ := Option.map_eq_some_iff.mp h
  exact .inr (.inr ⟨k, h1, of_decide_eq_true h2⟩)

theorem witness_ScalarArithmetic :
    (two (BitVec.allOnes 64) 1).Issues (fun x => [x.sReg 3, x.sReg 1, x.sReg 2]) ∧ (two 0 0).Issues (fun x => [x.sReg 63, x.sReg 0]) ∧
    (two 0 0).Issues (fun x => [x.sReg 63]) ∧ 63 + 1 ≤ 64 ∧ 0 + 64 ≤ 64 ∧ 1 ≤ 1 ∧ 64 ≤ 64 ∧ 63 < 64 ∧ 2 ^ 16 - 1 < 2 ^ 16 :=
  ⟨issues _ _ (by decide), issues _ _ (by decide), issues _ _ (by decide), by decide⟩

theorem witness_ComparesAndSelect :
    (two 0 0).Issues (fun x => [x.pReg 3, x.sReg 1, x.sReg 2]) ∧ ((two 0 0).visible.rs 1).poison = false ∧ ((two 0 0).visible.rs 2).poison = false ∧
    (me (sc 1 0 true)).Issues (fun x => [x.pReg 3, x.sReg 1, x.sReg 2]) ∧ ((me (sc 1 0 true)).visible.rs 1).poison = true ∧
    (two 0 0).Issues (fun x => [x.pReg 3, x.sReg 1]) ∧ (me (sc 1 0 true)).Issues (fun x => [x.pReg 3, x.sReg 1]) ∧
    bench.Issues (fun x => [x.pReg 15, x.pReg 0, x.pReg 8]) ∧
    bench.Issues (fun x => [x.sReg 3, x.pReg 0, x.sReg 1, x.sReg 2]) ∧ bench.visible.me.readP 0 = true ∧ bench.visible.me.readP 1 = false :=
  ⟨issues _ _ (by decide), by decide, by decide, issues _ _ (by decide), by decide, issues _ _ (by decide), issues _ _ (by decide),
   issues _ _ (by decide), issues _ _ (by decide), by decide, by decide⟩

theorem witness_ControlRegisters :
    bench.Issues (fun x => [x.sReg 3]) ∧ bench.iss.core < 64 ∧ (∃ t, bench.myTask = some t) ∧
    ({ bench with iss := { bench.iss with core := 64 } } : State).Issues (fun x => [x.sReg 3]) ∧
    (bench.iss.opened = false ∧ bench.visible.me.mode = false) ∧
    ((me (sc 1 8)).Issues (fun x => [x.sReg 1]) ∧ ((me (sc 1 8)).visible.rs 1).poison = false ∧
      ((me (sc 1 8)).visible.rs 1).val.getLsbD 3 ≠ (me (sc 1 8)).visible.me.diag ∧ ((me (sc 1 4)).visible.rs 1).val.getLsbD 3 = (me (sc 1 4)).visible.me.diag) ∧
    ((me (sc 1 8 true)).Issues (fun x => [x.sReg 1]) ∧ ((me (sc 1 8 true)).visible.rs 1).poison = true) ∧
    ((me rt).Issues (fun x => [x.sReg 1]) ∧ (me rt).visible.me.mode = true ∧ ((me rt).visible.rs 1).poison = false ∧ (me rt).visible.me.task = some 0) :=
  ⟨issues _ _ (by decide), by decide, Option.isSome_iff_exists.mp (by decide), issues _ _ (by decide), by decide,
   ⟨issues _ _ (by decide), by decide⟩, ⟨issues _ _ (by decide), by decide⟩, issues _ _ (by decide), by decide⟩

theorem witness_BranchesAndLoop :
    bench.Issues (fun _ => []) ∧ (two 64 0).Issues (fun x => [x.sReg 1]) ∧ ((two 64 0).visible.rs 1).val.toNat % 64 = 0 ∧
    (two 64 0).Issues (fun x => [x.sReg 1, x.sReg 62]) ∧ (me (sc 62 128)).Issues (fun x => [x.sReg 62]) ∧ ((me (sc 62 128)).visible.rs 62).val.toNat % 64 = 0 ∧
    (me (sc 62 64 true)).Issues (fun x => [x.sReg 62]) ∧ ((me (sc 62 64 true)).visible.rs 62).poison = true ∧
    (two 1 0).Issues (fun x => [x.sReg 1]) ∧ ((two 1 0).visible.rs 1).poison = false ∧ ((two 1 0).visible.rs 1).val.toNat % 64 ≠ 0 ∧
    bench.Issues (fun x => [x.vReg 1]) ∧
    looping.Issues (fun _ => []) ∧ 1 < (looping.visible.me.ctl.get 0 3).toNat ∧
    (me fun x => { x with ctl := [(3, 1), (4, 1)] }).Issues (fun _ => []) ∧ ((me fun x => { x with ctl := [(3, 1), (4, 1)] }).visible.me.ctl.get 0 3).toNat ≤ 1 ∧
    0 < ((me fun x => { x with ctl := [(3, 1), (4, 1)] }).visible.me.ctl.get 0 4).toNat ∧
    (bench.visible.me.ctl.get 0 3).toNat ≤ 1 ∧ (bench.visible.me.ctl.get 0 4).toNat = 0 ∧
    bench.NoStep ∧ bench.me.canreq = false ∧ bench.me.stopNext = false :=
  ⟨issues _ _ (by decide), issues _ _ (by decide), by decide, issues _ _ (by decide), issues _ _ (by decide), by decide, issues _ _ (by decide), by decide,
   issues _ _ (by decide), by decide, by decide, issues _ _ (by decide), issues _ _ (by decide), by decide, issues _ _ (by decide), by decide, by decide,
   by decide, by decide, .inl (by decide), by decide, by decide⟩

/-- The vector statements have no hypothesis but that the bundle issues and that an operand lies in its range. -/
theorem witness_Vectors :
    bench.Issues (fun x => x.vReg 3 :: .k 1 :: ([1, 2].map x.vReg ++ [4].map x.sReg)) ∧ bench.Issues (fun x => [.k 1, x.vReg 1, x.vReg 2, .k 0]) ∧
    bench.Issues (fun x => [x.vReg 3, x.vReg 1, .k 0]) ∧ bench.Issues (fun x => [x.vReg 3, x.sReg 1]) ∧ bench.Issues (fun x => [x.vReg 3, x.sReg 1, x.vReg 2]) :=
  ⟨issues _ _ (by decide), issues _ _ (by decide), issues _ _ (by decide), issues _ _ (by decide), issues _ _ (by decide)⟩

theorem witness_VectorIntegers : ((Ty.i8, 8, true) ∈ laneInts ∧ (Ty.ui8, 8, false) ∈ laneInts) ∧ (Ty.f32, 32) ∈ laneTypes ∧
    bench.Issues (fun x => x.vReg 3 :: .k 1 :: ([1, 2, 4].map x.vReg ++ [].map x.sReg)) := ⟨by decide, by decide, issues _ _ (by decide)⟩

/-- Codes 0, the largest subnormal, the smallest normal and the first of the top exponent. -/
theorem witness_FloatFormats : (∀ c ∈ [0, 0x7FFFFF, 0x800000, 0x7F800000, 0xFFFFFFFF], c < 2 ^ 32) ∧
    (0x7F800000 / 2 ^ 23 % 2 ^ 8 = 2 ^ 8 - 1 ∧ 0x7F800001 / 2 ^ 23 % 2 ^ 8 = 2 ^ 8 - 1) ∧ 0x7FFFFF / 2 ^ 23 % 2 ^ 8 ≠ 2 ^ 8 - 1 ∧ 0 < 1 ∧
    (fp32.round .rne false false 1 (2 ^ 130)).1 % 2 ^ 31 < 2 ^ 23 ∧ (fp32.round .rne false false 1 (2 ^ 130)).1 ≠ 0 ∧
    ¬ (fp32.round .rne false false 1 1).1 % 2 ^ 31 < 2 ^ 23 := by decide

theorem witness_VectorFloats : (Ty.f16, 16, fp16) ∈ laneFloats ∧ bench.Issues (fun x => x.vReg 3 :: .k 1 :: ([1, 2, 4].map x.vReg ++ [].map x.sReg)) :=
  ⟨by decide, issues _ _ (by decide)⟩

theorem witness_VectorTranscendentals :
    (fp32.decode false 0x7FC00000).isNan = true ∧ fp32.decode false 0x7F800000 = .inf false ∧ fp32.decode false 0xFF800000 = .inf true ∧
    fp32.decode false 0x80000000 = .fin true 0 (-149) ∧ (∃ n g, fp32.decode false 0x3F800000 = .fin false n g ∧ n ≠ 0) ∧
    (∃ n g, fp32.decode false 0xBF800000 = .fin true n g ∧ n ≠ 0) ∧ real (fp32.decode false 0x3F800000) = (1 : Int) ∧
    real (fp32.decode false 0x3F800000) = (2 : ℚ) ^ (0 : Int) :=
  have h : fp32.decode false 0x3F800000 = .fin false 8388608 (-23) := by decide
  ⟨by decide, by decide, by decide, by decide, ⟨_, _, h, by decide⟩, ⟨8388608, -23, by decide, by decide⟩, by rw [h]; norm_num [real], by rw [h]; norm_num [real]⟩

theorem witness_VectorComparesAndMovement :
    bench.Issues (fun x => [.k 1, x.vReg 1, x.vReg 2, .k 0]) ∧ bench.Issues (fun _ => [.k 1, .k 2, .k 3]) ∧ bench.Issues (fun _ => [.k 1, .k 2]) ∧
    bench.Issues (fun x => [x.sReg 3, .k 1]) ∧ 2048 / 8 - 1 < 2048 / 8 ∧ bench.Issues (fun x => [x.vReg 3, x.sReg 1]) ∧ bench.Issues (fun x => [x.sReg 3, x.vReg 1]) ∧
    bench.Issues (fun x => [x.vReg 3, x.vReg 1, x.vReg 2, .k 1]) :=
  ⟨issues _ _ (by decide), issues _ _ (by decide), issues _ _ (by decide), issues _ _ (by decide), by decide, issues _ _ (by decide), issues _ _ (by decide),
   issues _ _ (by decide)⟩

theorem witness_VectorReductions : bench.Issues (fun x => [x.vReg 3, x.vReg 1, .k 1]) ∧ (Ty.ui8, 8, false) ∈ laneInts := ⟨issues _ _ (by decide), by decide⟩

/-- The largest part of a conversion from FP32 to INT8 and to E2M1. -/
theorem witness_VectorConversions : bench.Issues (fun x => [x.vReg 3, x.vReg 1, .k 1]) ∧ 3 < 2048 / (2048 / max 32 8 * min 32 8) ∧
    7 < 2048 / (2048 / max 32 4 * min 32 4) := ⟨issues _ _ (by decide), by decide, by decide⟩

/-- The last part of each format; a NaN among the elements; all elements zero, and one that is not. -/
theorem witness_MxBlocks : bench.Issues (fun x => [x.vReg 3, x.sReg 4, x.vReg 1]) ∧ bench.Issues (fun x => [x.vReg 3, x.vReg 1, x.sReg 4]) ∧ 7 < 8 ∧
    (∀ n k g, fp32.decode false 0x7FC00000 ≠ .fin n k g) ∧ (∃ n k g, fp32.decode false 0 = .fin n k g ∧ real (.fin n k g) = 0) ∧
    real (fp32.decode false 0x3F800000) ≠ 0 :=
  have h : fp32.decode false 0x7FC00000 = .nan false false := by decide
  have h1 : fp32.decode false 0x3F800000 = .fin false 8388608 (-23) := by decide
  ⟨issues _ _ (by decide), issues _ _ (by decide), by decide, by simp [h], ⟨false, 0, -149, by decide, by norm_num [real]⟩, by rw [h1]; norm_num [real]⟩

/-- Tile 0 of the bench in a state, held by a context. -/
def tileAs (st : TState) (holder : Nat) : State := tileTo 0 { st := st, holder := holder } bench
def planesAs (h : Option Nat) (s : State := bench) : State := planesTo h s

theorem witness_TileInstructions :
    Names bench 0 0 ∧ Names bench 7 7 ∧ Names (tileAs .allocated 1) 0 0 ∧ bench.Issues (fun x => [x.sReg 3]) ∧
    ((tileIn (tileAs .allocated 1) 0).st ≠ .free ∧ (tileIn (tileAs .allocated 1) 0).holder ≠ (tileAs .allocated 1).iss.ctx ∧ (tileAs .allocated 1).Issues (fun x => [x.sReg 3])) ∧
    ((planesAs (some 1)).myCore.planeHolder = some 1 ∧ 1 ≠ (planesAs (some 1)).iss.ctx ∧ (tileIn (planesAs (some 1)) 0).st = .free) ∧
    ((tileIn bench 0).st = .free ∧ bench.myCore.planeHolder = none ∧ ¬ Holds bench 0) ∧
    (Holds (tileAs .drainable 0) 0 ∧ ¬ Broken (tileAs .drainable 0) 0 ∧ (tileAs .drainable 0).Clear 3 [.tile 0 false] ∧
      (planesAs (some 0) (tileAs .drainable 0)).Clear 3 [.planes]) ∧
    (Holds (tileAs .poison 0) 0 ∧ Broken (tileAs .poison 0) 0 ∧ (tileAs .poison 0).Clear 3 [.tile 0 false]) ∧
    ((me rt).me.mode = true ∧ (me fun x => { x with hdl := true }).me.hdl = true ∧ bench.me.mode = false ∧ bench.me.hdl = false) ∧
    (∀ e ∈ [(Ty.f32, 32, 1), (.f16, 16, 2), (.bf16, 16, 2), (.i32, 32, 1)], 62 + e.2.2 ≤ 64) ∧ (tileAs .drainable 0).Issues (fun x => [x.vReg 1]) ∧
    (bench.myCore.act.fmt ∈ none :: mxTypes.map some ∧ (tileIn bench 0).holder < 4 ∧ (tileIn bench 0).ops < 2 ^ 32 ∧ (tileIn bench 0).src < 4 ∧
      (tileIn bench 0).next < 128 ∧ (tileIn bench 0).loc < 2 ^ 23) :=
  ⟨names _ _ _ (by decide), names _ _ _ (by decide), names _ _ _ (by decide), issues _ _ (by decide), ⟨by decide, by decide, issues _ _ (by decide)⟩, by decide,
   ⟨by decide, by decide, by unfold Holds; decide⟩,
   ⟨by unfold Holds; decide, by unfold Broken; decide, clear _ _ _ (by decide), clear _ _ _ (by decide)⟩,
   ⟨by unfold Holds; decide, by unfold Broken; decide, clear _ _ _ (by decide)⟩, by decide, by decide, issues _ _ (by decide), by decide⟩

/-- The planes held by context 0, tile 0 in a state and held by it, the active plane filled in E2M1. -/
def matrixReady (st : TState) : State := (planesAs (some 0) (tileAs st 0)).updMyCore fun k => { k with act := { k.act with st := .loaded, fmt := some .e2m1 } }

theorem witness_MatrixQueue :
    (bench.myCore.planeHolder ≠ some bench.iss.ctx ∧ bench.Clear 3 [.matrix] ∧ bench.Issues (fun _ => [])) ∧
    (let s := matrixReady .allocated
     s.myCore.planeHolder = some s.iss.ctx ∧ s.Clear 3 [.matrix] ∧ Names s 0 0 ∧ s.Clear 3 [.tile 0 true] ∧ Holds s 0 ∧ ¬ Broken s 0 ∧
     s.Clear 3 (operandHolds s .e2m3 1 2 64) ∧ s.Issues (fun x => [x.sReg 1, x.sReg 2]) ∧ RangesOk s .e2m3 1 2 64 ∧
     (∀ o ∈ s.myCore.mq, ∀ f x y, o.kind ≠ .tload f x y) ∧
     (∃ w, activeAfter s.myCore = some w ∧ blocksOf w = blocksOf .e2m3) ∧ ¬ (∃ w, activeAfter s.myCore = some w ∧ blocksOf w = blocksOf .mxi8) ∧
     1 ≤ 1 ∧ 63 + 1 ≤ 64 ∧ s.Issues (fun x => (List.range 1).map fun i => x.vReg (63 + i))) ∧
    (let s := matrixReady .poison
     Holds s 0 ∧ Broken s 0 ∧ s.myCore.planeHolder = some s.iss.ctx) ∧
    (let s := (matrixReady .allocated).updMe (sc 1 0 true)
     (s.visible.rs 1).poison = true) ∧
    (let s := (matrixReady .allocated).updMe (sc 1 (2 ^ 23 - 64))
     (s.visible.rs 1).poison = false ∧ (s.visible.rs 1).val.toNat % 64 = 0 ∧ (s.visible.rs 2).val.toNat % 4 = 0 ∧
     ¬ allowed s ((s.visible.rs 1).val.toNat + 64) ∧ ∀ l < 64, allowed s ((s.visible.rs 1).val.toNat + l)) ∧
    (let s := (matrixReady .allocated).updMe (sc 2 (2 ^ 23 - 64))
     (s.visible.rs 1).poison = false ∧ (s.visible.rs 2).poison = false ∧ (s.visible.rs 1).val.toNat % 64 = 0 ∧ (s.visible.rs 2).val.toNat % 4 = 0 ∧
     (∀ l < 64 * 192, allowed s ((s.visible.rs 1).val.toNat + l)) ∧ ¬ allowed s ((s.visible.rs 2).val.toNat + 64) ∧
     ∀ l < 64, allowed s ((s.visible.rs 2).val.toNat + l)) := by
  refine ⟨⟨by decide, clear _ _ _ (by decide), issues _ _ (by decide)⟩,
    ⟨by decide, clear _ _ _ (by decide), names _ _ _ (by decide), clear _ _ _ (by decide), by unfold Holds; decide, by unfold Broken; decide,
     clear _ _ _ (by decide), issues _ _ (by decide), ⟨by decide, by decide, by decide, by decide, fun o ho => banks_all _ (by decide) _ ?_, fun o ho => banks_all _ (by decide) _ ?_⟩,
     ?_, ⟨.e2m1, by decide, by decide⟩, ?_, by decide, by decide, issues _ _ (by decide)⟩, ⟨by unfold Holds; decide, by unfold Broken; decide, by decide⟩, by decide,
    ⟨by decide, by decide, by decide, ?_, fun l hl => banks_all _ (by decide) _ ?_⟩,
    by decide, by decide, by decide, by decide, fun l hl => banks_all _ (by decide) _ ?_, ?_, fun l hl => banks_all _ (by decide) _ ?_⟩
  · have : o < 64 * 192 := ho
    have h1 : ((matrixReady .allocated).visible.rs 1).val.toNat = 0 := by decide
    omega
  · have : o < 64 * 4 := ho
    have h1 : ((matrixReady .allocated).visible.rs 2).val.toNat = 0 := by decide
    omega
  · have h1 : (matrixReady .allocated).myCore.mq = [] := by decide
    simp [h1]
  · rintro ⟨w, h1, h2⟩
    have h3 : activeAfter (matrixReady .allocated).myCore = some .e2m1 := by decide
    rw [h3] at h1
    injection h1 with h4
    subst h4
    exact absurd h2 (by decide)
  · rintro ⟨h, -⟩
    exact absurd h (by decide)
  · have h1 : (((matrixReady .allocated).updMe (sc 1 (2 ^ 23 - 64))).visible.rs 1).val.toNat = 2 ^ 23 - 64 := by decide
    omega
  · have h1 : (((matrixReady .allocated).updMe (sc 2 (2 ^ 23 - 64))).visible.rs 1).val.toNat = 0 := by decide
    omega
  · rintro ⟨h, -⟩
    exact absurd h (by decide)
  · have h1 : (((matrixReady .allocated).updMe (sc 2 (2 ^ 23 - 64))).visible.rs 2).val.toNat = 2 ^ 23 - 64 := by decide
    omega

/-- Two operations in the queue, the first with all its rows entered, and a row of the second in the pipeline. -/
def rowsReady (po : Option (Nat × Bool × Nat)) : State :=
  ((tileTo 0 { st := .accumulating } bench).updMyCore fun k =>
    { k with mq := [⟨3, 0, .tswap, 0, 0, 0, 0⟩, ⟨4, 0, .tanchor 0 5, 0, 63, 0, 0⟩], pipe := [⟨0, 4, 0, 62, some 5, [], po, false⟩] })

theorem witness_MatrixRows :
    (let s := { rowsReady none with cycle := 1 }
     (s.core 0).mq = [⟨3, 0, .tswap, 0, 0, 0, 0⟩] ++ ⟨4, 0, .tanchor 0 5, 0, 63, 0, 0⟩ :: [] ∧ rowsOf .tswap ≤ 0 ∧ 63 < rowsOf (.tanchor 0 5) ∧ 0 < s.cycle ∧
     (s.core 0).rowAt ≤ s.cycle) ∧
    (∀ po ∈ [none, some (2, true, 7)], let k := (rowsReady po).core 0
      k.pipe = [⟨0, 4, 0, 62, some 5, [], po, false⟩] ∧ 0 ≤ (rowsReady po).cycle ∧ (k.tiles.get {} 0).st = .accumulating ∧
      (k.ctx.get {} (k.tiles.get {} 0).holder).st ∉ [CState.done, .cancelled, .free] ∧ (k.tiles.get {} 0).elems = [] ∧
      ((rowsReady po).tasks.get none 0).any (fun t => t.core == 0 && !t.saved && !t.freed && t.tiles.contains 0) = true ∧
      (rowsReady po).tasks.length = 1) := by decide +kernel

theorem witness_MatrixContribution :
    let k : Core := { act := { fmt := some .e2m1 }, wrAt := 1 }
    let o : MOp := ⟨4, 0, .tmm .e2m3 0 0 0 64 0, 0, 63, 0, 0⟩
    let q : MOp := ⟨4, 0, .tmmV .e2m3 0 [({}, 5)] 1 0, 0, 0, 0, 0⟩
    Ty.e2m1 ∈ mxTypes ∧ k.act.fmt = some .e2m1 ∧ k.wrAt ≠ 0 ∧ blocksOf .e2m3 = blocksOf .e2m1 ∧ o.kind = .tmm .e2m3 0 0 0 64 0 ∧
    q.kind = .tmmV .e2m3 0 [({}, 5)] 1 0 ∧ [(({}, 5) : VVal × Nat)][q.entered]? = some ({}, 5) := by decide +kernel

theorem witness_Planes :
    let l : MOp := ⟨3, 0, .tload .e2m3 0 0, 0, 0, 0, 34⟩
    let w : MOp := ⟨4, 0, .tswap, 0, 0, 0, 0⟩
    let s := { core fun k => { k with mq := [l, w], wrAt := 1 } with cycle := 34 }
    let z := core fun k => { k with mq := [w] }
    (s.core 0).mq = [] ++ l :: [w] ∧ w.id ≠ l.id ∧ l.kind = .tload .e2m3 0 0 ∧ l.due ≤ s.cycle ∧ (s.core 0).wrAt ≠ s.cycle ∧
    (z.core 0).mq = [] ++ w :: [] ∧ w.kind = .tswap := by decide

/-- Context 0 with a handle in h1. -/
def hd (f : Handle → Handle) : State := me fun x => { x with h := [(1, f { valid := true, frame := 0, size := 0, r := true, w := true })] }
def adM : Addr := ⟨false, 1, 1, 0⟩
def adS : Addr := ⟨true, 0, 1, 0⟩

theorem witness_AddressChecks :
    (let s := me (sc 1 0 true); (s.rs adS.a).poison = true) ∧
    (let s := me (sc 1 (2 ^ 23 - 8)); (s.rs 1).poison = false ∧ ((s.rs 1).val + wordOfInt 0).toNat % 8 = 0 ∧ ∀ i < 8, allowed s (2 ^ 23 - 8 + i)) ∧
    (let s := (me (sc 1 (2 ^ 21))).updTask 0 fun t => { t with img := { t.img with banks := 1 } }; ¬ allowed s (2 ^ 21)) ∧
    (bench.me.readH 1).valid = false ∧
    (let s := hd fun h => { h with lost := true }; (s.me.readH 1).valid = true ∧ (s.me.readH 1).lost = true) ∧
    (let s := hd fun h => { h with frame := 2 ^ 47 }; (s.me.readH 1).valid = true ∧ (s.me.readH 1).lost = false ∧ (s.me.readH 1).tier = 2) ∧
    (let s := (hd id).updMe (sc 1 (2 ^ 13 - 8)); let u := s.me.readH 1
     u.valid = true ∧ u.lost = false ∧ u.tier ≠ 2 ∧ (s.rs 1).val.toNat % 8 = 0 ∧ (s.rs 1).val.toNat + 8 ≤ 2 ^ (13 + 10 * u.size) ∧ u.r = true ∧ u.w = true ∧ u.tier ≠ 3 ∧ u.cow = false) ∧
    (let s := (hd id).updMe (sc 1 (2 ^ 13)); 2 ^ (13 + 10 * (s.me.readH 1).size) < (s.rs 1).val.toNat + 8) ∧
    (let s := hd fun h => { h with r := false, w := false }; (s.me.readH 1).r = false) ∧
    (let s := hd fun h => { h with cow := true }; (s.me.readH 1).cow = true) ∧
    (let s := hd fun h => { h with frame := 3 * 2 ^ 46 }; (s.me.readH 1).tier = 3) := by
  refine ⟨by decide, ⟨by decide, by decide, fun i hi => banks_all _ (by decide) _ (by omega)⟩, banks_none _ _ (by decide), by decide, by decide, by decide,
    by decide, by decide, by decide, by decide, by decide⟩

theorem witness_LoadInstructions :
    (∀ ad ∈ [adM, adS], bench.Issues (fun x => [x.sReg 3] ++ addressNames ad x ++ [])) ∧ handleOk bench adM ∧ handleOk bench adS ∧
    bench.Clear 4 (loadHolds bench adS 8 fun _ => true) ∧ (hd id).Clear 4 (loadHolds (hd id) adM 256 (reaches (.vector 3 (some 1)))) ∧ bench.Issues (fun x => [x.vReg 3] ++ addressNames adS x ++ [.k 1]) ∧
    bench.Issues (fun _ => []) ∧ (hd id).Issues (fun x => [x.sReg 1, .h 1]) ∧
    (let u := (hd id).visible.me.readH 1; u.valid = true ∧ u.lost = false ∧ u.tier ≠ 2 ∧ ((hd id).visible.rs 1).val.toNat + 1 ≤ 2 ^ (13 + 10 * u.size)) :=
  ⟨fun _ _ => issues _ _ (by decide), hOk _ _ (by decide), hOk _ _ (by decide), clear _ _ _ (by decide), clear _ _ _ (by decide), issues _ _ (by decide),
   issues _ _ (by decide), issues _ _ (by decide), by decide⟩

/-- A message from context 0 to its own core. -/
def heldMsg : Access := { id := 0, core := 0, ctx := 0, step := 0, op := .store [some 7], place := .spad 0 (2 ^ 23 - 1), n := 1, send := true }

theorem witness_StoresAndMessages :
    bench.Issues (fun x => [x.sReg 3] ++ addressNames adM x) ∧ handleOk bench adM ∧ bench.Clear 5 [.acquire, .earlier false] ∧
    bench.heldBehind 0 (some 7 :: []) = [] ∧ bench.storeAhead 0 (some 7 :: []) = false ∧
    (core fun k => { k with mq := [⟨4, 0, .tmm .e2m1 0 0 0 1 0, 0, 0, 0, 0⟩] }).heldBehind 0 (some 7 :: []) = [4] ∧
    ({ bench with accs := [{ heldMsg with place := .spad 0 0, send := false, behind := [4] }] } : State).storeAhead 0 (some 7 :: []) = true ∧
    bench.Issues (fun x => [x.vReg 3, .k 1] ++ [x.sReg 1]) ∧ bench.Clear 5 [.sends, .acquire, .earlier false] ∧
    (let s := me (sc 1 (2 ^ 63 + 2 ^ 23 - 64))
     let w := (s.visible.rs 1).val.toNat
     (s.visible.rs 1).poison = false ∧ w / 2 ^ 23 % 2 ^ 9 = 0 ∧ w / 2 ^ 39 % 2 ^ 24 = 0 ∧ w / 2 ^ 32 % 2 ^ 7 = 0 ∧ w % 2 ^ 23 % 64 = 0 ∧
     (∀ i < 8, allowed s (w % 2 ^ 23 + i)) ∧ ∃ k, s.myTask = some k ∧ ∃ e ∈ s.tasks, ∃ j, e.2 = some j ∧ j.launch = k.launch ∧ j.core = 0) ∧
    (let s := { bench with accs := [heldMsg], cycle := 1 }
     s.accs.find? (fun e => decide (e.id = 0)) = some heldMsg ∧ s.running = true ∧ s.canPerform heldMsg = true ∧ (s.core 0).wrAt ≠ s.cycle) := by
  refine ⟨issues _ _ (by decide), hOk _ _ (by decide), clear _ _ _ (by decide), by decide, by decide, by decide, by decide, issues _ _ (by decide), clear _ _ _ (by decide),
    ⟨by decide +kernel, by decide +kernel, by decide +kernel, by decide +kernel, by decide +kernel, fun i hi => banks_all _ (by decide) _ ?_, ?_⟩, by decide⟩
  · have : ((me (sc 1 (2 ^ 63 + 2 ^ 23 - 64))).visible.rs 1).val.toNat % 2 ^ 23 = 2 ^ 23 - 64 := by decide +kernel
    omega
  · exact ⟨_, rfl, _, List.mem_cons_self, _, rfl, rfl, rfl⟩

theorem witness_AtomicInstructions :
    bench.Issues (fun x => [x.sReg 3, x.sReg 1, x.sReg 2] ++ addressNames adS x) ∧ handleOk bench adS ∧ bench.Clear 5 (loadHolds bench adS 8 (fun _ => true) ++ [Wait.earlier false]) ∧
    (two 0 0).Issues (fun x => [x.sReg 3, x.sReg 1, x.sReg 2] ++ addressNames adM x) ∧ ((two 0 0).visible.rs 1).poison = false ∧ ((two 0 0).visible.rs 2).poison = false ∧
    ((me (sc 1 0 true)).visible.rs 1).poison = true ∧ 2 ^ 64 - 1 < 2 ^ (8 * 8) :=
  ⟨issues _ _ (by decide), hOk _ _ (by decide), clear _ _ _ (by decide), issues _ _ (by decide), by decide, by decide, by decide, by decide⟩

/-! Accesses, translation, queues and copies -/

def acc (op : AccOp) (place : Place) (id step : Nat := 0) : Access := { id := id, core := 0, ctx := 0, step := step, op := op, place := place, n := 8, grp := some 9 }
def grp : Group := { id := 9, core := 0, ctx := 0, step := 0, dest := .scalar 3, regs := [.s 3], n := 8, left := 0 }
def withAccs (l : List Access) : State := { bench with accs := l, groups := [{ grp with left := 1 }] }
def roCore (k : Core) : Core := { k with roc := [⟨0, List.replicate 64 5⟩] }

theorem witness_AccessesAndResults :
    (∀ op ∈ [AccOp.load, .ro true, .ro false, .store (List.replicate 8 (some 1)), .amo .cas 1 0],
      let a := acc op (.phys 0)
      let s := withAccs [a]
      s.accs.find? (fun e => decide (e.id = 0)) = some a ∧ s.running = true ∧ s.canPerform a = true ∧ s.roHit a = none ∧ tierOf 0 ≠ 3 ∧ s.lostAt 0 = false ∧
      0 < a.n ∧ a.n ≤ 64) ∧
    (let e := acc (.store (List.replicate 8 (some 1))) (.phys 7) 1
     let a := { acc .load (.phys 0) 0 1 with n := 8 }
     let s := withAccs [e, a]
     s.accs.find? (fun e => decide (e.id = 0)) = some a ∧ s.roHit a = none ∧ e ∈ s.accs ∧ e.step < a.step ∧ 7 / 8 < (0 + a.n + 7) / 8 ∧ 0 / 8 < (7 + e.n + 7) / 8) ∧
    (let e := acc .load (.phys 0) 1 3
     let a := acc (.store (List.replicate 8 (some 1))) (.phys 7) 0 3
     let s := withAccs [e, a]
     s.accs.find? (fun e => decide (e.id = 0)) = some a ∧ e ∈ s.accs ∧ e.step = a.step ∧ s.roHit a = none ∧ s.roHit e = none ∧ e.op = .load ∧ 0 / 8 < (7 + a.n + 7) / 8 ∧
      7 / 8 < (0 + e.n + 7) / 8) ∧
    (∀ f ∈ [fun a : Access => { a with near := true }, fun a => { a with place := .phys (3 * 2 ^ 46) }],
      let e := f (acc .load (.phys 0) 1 0)
      let a := f (acc .load (.phys 64) 0 1)
      let s := withAccs [e, a]
      s.accs.find? (fun e => decide (e.id = 0)) = some a ∧ e ∈ s.accs ∧ e.step < a.step ∧ s.roHit a = none ∧ s.roHit e = none ∧
        ((e.near = true ∧ a.near = true) ∨ (tierOf (3 * 2 ^ 46) = 3 ∧ e.place = .phys (3 * 2 ^ 46)))) ∧
    (let e := { acc .load (.phys 0) 1 3 with acq := true }
     let a := { acc (.store (List.replicate 8 (some 1))) (.phys 64) 0 3 with grp := none }
     let s := { withAccs [e, a] with lands := [⟨9, 0, 0, 3, .s 3, .val (.w 1), true⟩] }
     s.accs.find? (fun e => decide (e.id = 0)) = some a ∧ e ∈ s.accs ∧ e.step = a.step ∧ s.roHit a = none ∧ a.acq = false ∧ e.acq = true ∧ e.grp ≠ a.grp ∧
      ∃ l ∈ s.lands, l.acq = true ∧ l.core = a.core ∧ l.ctx = a.ctx ∧ l.step = a.step) ∧
    (let a := { acc .load (.phys 0) with heldFor := [(64, 0)] }
     (withAccs [a]).roHit a = none ∧ a.heldFor ≠ []) ∧
    (let s := { withAccs [acc .load (.phys 0)] with empty := [(0, true)] }
     s.roHit (acc .load (.phys 0)) = none ∧ s.empty.get false 0 = true ∧ 0 < 8 * 0 + 8 ∧ 8 * 0 < 0 + 8) ∧
    (let s := (withAccs [acc .load (.phys 0)]).updCore 0 fun k => { k with lostq := 1 }
     s.lostAt 0 = true ∧ s.canPerform (acc .load (.phys 0)) = true ∧ s.running = true ∧ s.roHit (acc .load (.phys 0)) = none) ∧
    (let s := (withAccs [acc (.ro true) (.phys 8)]).updCore 0 roCore
     s.running = true ∧ s.roHit (acc (.ro true) (.phys 8)) = some (List.replicate 8 5)) ∧
    (let s := { bench with groups := [grp] }
     s.groups.find? (fun e => decide (e.id = 9)) = some grp ∧ (s.cx 0 0).inflight ++ (s.cx 0 0).snap ++ (s.cx 0 0).snapT = [] ∧ grp.left = 0 ∧ grp.poison = []) ∧
    (let s := { (bench.updMe fun x => { x with inflight := [⟨.s 3, .w 0, false, 0, 9, 0, 0, 0⟩] }) with groups := [{ grp with step := 1 }] }
     ∃ r ∈ grp.regs, ∃ e ∈ (s.cx 0 0).inflight, e.reg = r ∧ e.seq < 1) ∧
    (let l : Land := ⟨9, 0, 0, 0, .s 3, .val (.w 1), false⟩
     let s := { bench with lands := [l] }
     s.groups.find? (fun e => decide (e.id = 9)) = none ∧ s.lands.find? (fun e => decide (e.id = 9)) = some l) :=
  by repeat' refine And.intro ?_ ?_
     all_goals decide +kernel

theorem witness_HostSide :
    bench.mg.power ≠ .off ∧ (bench.lq 31).thr.length = 8 ∧ 127 < 128 ∧ 3 < 4 ∧ 0xC000 < 0x16000 ∧
    (bench.counts = true ∧ 2 ^ 34 - 1 + 1 ≤ 2 ^ 34 ∧ (bench.hwBase.toNat + (2 ^ 34 - 1)) / 2 ^ 46 % 4 = 0 ∧
      (bench.hwBase.toNat + (2 ^ 34 - 1)) / 2 ^ 38 % 2 ^ 8 = 0 ∧ bench.hwBase.toNat + (2 ^ 34 - 1) + 1 ≤ 2 ^ 38) ∧
    (∃ w, ({ bench with empty := [(0, true)] } : State).empty.get false w = true ∧ 0 < 8 * w + 8 ∧ 8 * w < 0 + 1) ∧
    (∀ w, bench.empty.get false w = true → 8 * w + 8 ≤ 0 ∨ 0 + 1 ≤ 8 * w) ∧ ¬ State.reset.counts = true :=
  ⟨by decide, by decide, by decide, by decide, by decide, by decide, ⟨0, by decide⟩, fun w h => absurd h (by simp [show bench.empty = [] by decide, SMap.get]), by decide⟩

/-- No quarter of a vault is lost. -/
theorem witness_quarters : ∀ v < 128, ∀ q < 16, State.reset.quarterLost v q = false := by decide +kernel

/-- Tables of two levels at 0x2000: an 8 GiB page at address 0, with the leaf word at 0x4000. -/
def tables (l : Nat) (s : State := bench) : State := { s with mem := [(0x2000, 1), (0x2001, 0x40), (0x4000, BitVec.ofNat 8 l), (0x4001, 1)] }
def xr : Word := 0x2001

theorem tables_translate (l : Nat) (h : l ∈ [0x0B, 0x8B]) : Translates (tables l) 0 xr (0x100 + l) 0x4000 := by
  fin_cases h <;>
    exact ⟨by unfold isCanonical; decide, by decide, by decide, by decide, by decide,
      .inr ⟨by unfold GoodPointer; decide +kernel, by decide +kernel, .inl ⟨by decide, by decide +kernel, by unfold GoodLeaf; decide +kernel⟩⟩⟩

theorem no_tables (s : State) (va : Word) (e a : Nat) : ¬ Translates s va 0 e a := fun h => absurd h.2.1 (by decide)

def entry (leaf : Word) : TlbEntry := ⟨0, 0, 1, leaf⟩
def translating (f : Core → Core := id) : State := (me (sc 1 0x2008)).updMyCore fun k => f { k with xroot := [(0, xr)] }

theorem witness_Handles :
    (let s := translating fun k => { k with tlb1 := [entry 0x103] }
     s.Issues (fun x => [.h 1, x.sReg 1]) ∧ handleIn s 15 ∧ (s.visible.rs 1).poison = false ∧ isCanonical (s.visible.rs 1).val.toNat ∧
     (s.myCore.xroot.get 0 s.iss.ctx).getLsbD 0 = true ∧ s.myCore.tlb1 = [] ++ entry 0x103 :: [] ∧ Matches (entry 0x103) 0 (s.visible.rs 1).val ∧
     ¬ Refuses 0x103 1 false ∧ Refuses 0x103 2 false ∧ Refuses (0x103 + 3 * 2 ^ 46) 1 false) ∧
    (let s := translating; (∀ q ∈ s.myCore.tlb1, ¬ Matches q 0 (s.visible.rs 1).val) ∧ (s.visible.rs 1).poison = false) ∧
    (let s := me (sc 1 (2 ^ 52)); ¬ isCanonical (s.visible.rs 1).val.toNat ∧ (s.visible.rs 1).poison = false) ∧
    ((bench.myCore.xroot.get 0 bench.iss.ctx).getLsbD 0 ≠ true) ∧ ((me (sc 1 0 true)).visible.rs 1).poison = true ∧
    ((hd id).visible.me.readH 1).valid = true ∧ ((hd id).visible.me.readH 1).frame < 2 ^ 48 ∧ (bench.visible.me.readH 1).valid = false ∧
    bench.Issues (fun x => [.h 1, x.sReg 3]) ∧ bench.Issues (fun _ => [.h 1]) :=
  ⟨⟨issues _ _ (by decide), .inr ⟨_, rfl, by decide⟩, by decide, by unfold isCanonical; decide, by decide, by decide, by unfold Matches; decide, by unfold Refuses; decide,
      by unfold Refuses; decide, by unfold Refuses; decide⟩,
    ⟨by intro q hq; exact absurd hq (by simp [show (translating).myCore.tlb1 = [] by decide]), by decide⟩, ⟨by unfold isCanonical; decide +kernel, by decide +kernel⟩,
    by decide, by decide, by decide, by decide, by decide, issues _ _ (by decide), issues _ _ (by decide)⟩

def walking (xroot : Word) : Walk := { id := 5, core := 0, ctx := 0, step := 0, va := 0, intent := 1, spec := false, hreg := 1, gen := 1, xpc := 0, runtime := false, xroot := xroot }

theorem witness_PageWalks :
    (∃ e a, Translates (tables 0x0B) 0 xr e a ∧ e.testBit 7 = false) ∧ (∃ e a, Translates (tables 0x8B) 0 xr e a ∧ e.testBit 7 = true) ∧
    (∀ e a, ¬ Translates bench 0 0 e a) ∧
    (let s := { tables 0x0B with walks := [walking xr] }
     s.walks.find? (fun v => decide (v.id = 5)) = some (walking xr) ∧ (walking xr).cur.busy = none ∧ (walking xr).cur.next = none ∧ s.running = true ∧ (s.cx 0 0).inflight ++ (s.cx 0 0).snap ++ (s.cx 0 0).snapT = [] ∧
     ¬ Refuses 0x10B (walking xr).intent (walking xr).runtime ∧ Refuses 0x10B 2 false ∧ (s.core 0).tlb2 = []) ∧
    (let q : TlbEntry := ⟨0, 2, 0, 0x10B⟩
     ((tables 0x0B (core fun k => { k with tlb2 := [q] })).core 0).tlb2 = [] ++ q :: [] ∧ Matches q 0 0 ∧ field 2 2 q.leaf.toNat = q.size) ∧
    (¬ RootOk bench 0 0 ∧ ReadsAt (tables 0x0B) 0 xr none 3 0x2000 ∧ slotOf 0 3 0x2000 = 0x2000 ∧ (tables 0x0B).poisoned 0x2000 8 = false ∧
      GoodPointer (tables 0x0B) 3 (entryAt (tables 0x0B) 0x2000) ∧ ({ tables 0x0B with poison := [(0x80, true)] } : State).poisoned 0x2000 8 = true) ∧
    (∀ l ∈ [0x0B, 0x8B], ReadsAt (tables l) 0 xr (some (2, 0x4000)) 2 0x4000 ∧ slotOf 0 2 0x4000 = 0x4000 ∧ GoodLeaf (tables l) 2 0 (entryAt (tables l) 0x4000) ∧
      (entryAt (tables l) 0x4000).testBit 7 = decide (l = 0x8B)) ∧
    (ReadsAt (tables 0) 0 xr (some (2, 0x4000)) 2 0x4000 ∧ ¬ GoodLeaf (tables 0) 2 0 (entryAt (tables 0) 0x4000) ∧ ¬ GoodPointer (tables 0) 2 (entryAt (tables 0) 0x4000)) :=
  ⟨⟨_, _, tables_translate 0x0B (by decide), by decide⟩, ⟨_, _, tables_translate 0x8B (by decide), by decide⟩, no_tables _ _,
   ⟨by decide, by decide, by decide, by decide, by decide, by unfold Refuses; decide, by unfold Refuses; decide, by decide⟩,
   ⟨by decide, by unfold Matches; decide, by decide⟩,
   ⟨fun h => absurd h.2.1 (by decide), ⟨by decide, .inr ⟨rfl, ⟨by unfold isCanonical; decide, by decide, by decide, by decide⟩, rfl, by decide⟩⟩, by decide, by decide,
    by unfold GoodPointer; decide +kernel, by decide⟩,
   by
    intro l h
    fin_cases h <;> exact ⟨⟨by decide, .inl rfl⟩, by decide, by unfold GoodLeaf; decide +kernel, by decide +kernel⟩,
   ⟨⟨by decide, .inl rfl⟩, by unfold GoodLeaf; decide +kernel, by unfold GoodPointer; decide +kernel⟩⟩

def revoking (cleared : Bool) (accs : List Nat) : Revoke :=
  { id := 5, core := 0, ctx := 0, step := 0, mode := 2, cleared := cleared, pd := some (.p 1), accs := accs }
def moving (stage : Nat) (xroot : Word := xr) : Mig :=
  { id := 5, core := 0, ctx := 0, step := 0, va := 0, dst := 8 * 2 ^ 30, reg := some (.s 3), xroot := xroot, stage := stage, leafAt := 0x4000, src := 0, size := 0 }
def migLeaf : State := { bench with mem := [(0x2000, 1), (0x2001, 0x40), (0x4000, 0x0B), (0x4001, 1), (0x4006, 1)], migs := [moving 0] }

theorem migLeaf_translates : Translates migLeaf 0 xr (2 ^ 48 + 0x10B) 0x4000 :=
  ⟨by unfold isCanonical; decide, by decide, by decide, by decide, by decide,
      .inr ⟨by unfold GoodPointer; decide +kernel, by decide +kernel, .inl ⟨by decide, by decide +kernel, by unfold GoodLeaf; decide +kernel⟩⟩⟩

theorem witness_RevocationAndMigration :
    (bench.Issues (fun x => [x.pReg 1, x.sReg 1, x.sReg 2]) ∧ bench.me.mode = false ∧ (me rt).Issues (fun x => [x.pReg 1, x.sReg 1, x.sReg 2]) ∧ (me rt).me.mode = true ∧
      ((me rt).visible.rs 1).poison = false ∧ ((me rt).visible.rs 2).poison = false ∧ (((me rt).updMe (sc 1 0 true)).visible.rs 1).poison = true ∧
      2 ^ 48 ≤ (((me rt).updMe (sc 2 (2 ^ 48))).visible.rs 2).val.toNat ∧ ((me rt).visible.rs 2).val.toNat < 2 ^ 48) ∧
    (let s := { bench with revokes := [revoking false []] }
     s.revokes.find? (fun v => decide (v.id = 5)) = some (revoking false []) ∧ (revoking false []).mode ≤ 2) ∧
    (let s := { bench with revokes := [revoking true [7]], accs := [acc .load (.phys 0) 7] }; ∃ a ∈ s.accs, a.id ∈ (revoking true [7]).accs) ∧
    (let s := { bench with revokes := [revoking true [7]] }
     (∀ a ∈ s.accs, a.id ∉ (revoking true [7]).accs) ∧ (revoking true [7]).cmds = [] ∧ (revoking true [7]).calls = [] ∧ (revoking true [7]).mig = none) ∧
    (migLeaf.migs.find? (fun v => decide (v.id = 5)) = some (moving 0) ∧ (moving 0).stage = 0 ∧ (∀ w ∈ migLeaf.walks, w.id ≠ 5) ∧
      (∃ e a, Translates migLeaf 0 xr e a ∧ e.testBit 7 = false ∧ e.testBit 48 = true) ∧ field 46 2 (moving 0).dst < 2 ∧ (moving 0).dst % pageOf 2 = 0 ∧
      migLeaf.badRange (moving 0).dst (pageOf 2) false = false) ∧
    (let s := { migLeaf with migs := [{ moving 0 with cur := { next := some (2, 0x4000) } }] }
     ReadsAt s 0 xr (some (2, 0x4000)) 2 0x4000 ∧ GoodLeaf s 2 0 (entryAt s 0x4000) ∧ s.running = true ∧ (entryAt s 0x4000).testBit 48 = true ∧
      (entryAt s 0x4000).testBit 7 = false ∧ (entryAt s 0x4000).testBit 51 = false ∧ anyQuarter 0 (pageOf 2) s.quarterLost = false ∧
      anyQuarter (8 * 2 ^ 30) (pageOf 2) (fun a b => decide ((s.core a).hal.get 0 b = 2)) = false) ∧
    ({ bench with chipRoute := 2 ^ 63 } : State).routeStalled (2 * 2 ^ 46) = false ∧
    (∀ e a, ¬ Translates bench 0 0 e a) ∧
    (let s := { tables 0x8B with migs := [moving 2] }
     s.migs.find? (fun v => decide (v.id = 5)) = some (moving 2) ∧ (moving 2).stage = 2 ∧ s.running = true ∧ s.routeStalled (moving 2).src = false ∧
     s.routeLost (moving 2).src = false ∧ 64 * (moving 2).line < pageOf (moving 2).size ∧ (moving 2).src % 64 = 0 ∧ (moving 2).dst % 64 = 0 ∧
     pageOf (moving 2).size ≤ 64 * 128 ∧ (entryAt s 0x4000).testBit 7 = true ∧ anyQuarter 0 (pageOf 0) s.quarterLost = false ∧
     anyQuarter 0 (pageOf 0) (s.updCore 0 fun k => { k with lostq := 1 }).quarterLost = true) :=
  ⟨⟨issues _ _ (by decide), by decide, issues _ _ (by decide), by decide +kernel⟩, by decide, by decide, by decide,
   ⟨by decide, by decide, by decide, ⟨_, _, migLeaf_translates, by decide, by decide⟩, by decide, by decide +kernel, by decide +kernel⟩,
   ⟨⟨by decide, .inl rfl⟩, by unfold GoodLeaf; decide +kernel, by decide +kernel⟩, by decide +kernel, no_tables _ _, by decide +kernel⟩

def cmd (w0 : Word) (id : Nat := 100) : Cmd := { id := id, ctx := 0, task := 0, w0 := w0, w1 := 0, w2 := 0, w3 := 0 }
def queued (q : Nat) (l : List Cmd) : State := { core fun k => { k with queues := k.queues.put {} q { cmds := l } } with cycle := 1 }

theorem witness_Push :
    bench.Issues (fun x => [x.sReg 4, x.sReg 5, x.sReg 6, x.sReg 7, x.pReg 1]) ∧ bench.Clear 6 [.acquire] ∧ 7 < 8 ∧ queueIn bench 0 ∧
    ¬ queueIn (task fun t => { t with img := { t.img with queues := 0 } }) 0 ∧ (∀ i < 4, (bench.visible.rs (4 + i)).poison = false) ∧
    ¬ (∀ i < 4, ((me (sc 7 0 true)).visible.rs (4 + i)).poison = false) ∧ HeaderOk bench 0 (bench.visible.rs 4).val ∧ ¬ HeaderOk bench 4 (bench.visible.rs 4).val ∧
    depthOf 0 ≤ (cmdsOf (queued 0 ((List.range 32).map fun i => cmd 0 (100 + i))) 0 0).length ∧ (cmdsOf bench 0 0).length < depthOf 0 ∧
    (∀ u ∈ cmdsOf bench 0 0, u.id ≠ bench.ids) := by
  refine ⟨issues _ _ (by decide), clear _ _ _ (by decide), by decide, ⟨_, rfl, by decide⟩, ?_, by decide, by decide, ⟨by decide, fun h => (h (by decide)).elim, fun h => (h (by decide)).elim, fun h => (h (by decide)).elim⟩,
    fun h => absurd h.1 (by decide), by decide +kernel, by decide, by decide⟩
  rintro ⟨k, h, hq⟩
  injection h with h
  subst h
  exact absurd hq (by decide)

theorem semIn_of (s : State) (n : Nat) (h : s.myTask.map (fun k => decide (k.img.semLo ≤ n ∧ n ≤ k.img.semHi)) = some true) : semIn s n := by
  obtain ⟨k, h1, h2⟩ := Option.map_eq_some_iff.mp h
  exact ⟨k, h1, of_decide_eq_true h2⟩

def sems (v : Nat) : State := core fun k => { k with sems := [(255, v)] }
def armedAt (thr : Nat) : Armed := { que := false, who := 0, dec := true, idx := 255, thr := thr, at_ := 0 }

theorem witness_Semaphores :
    (¬ semIn (task fun t => { t with img := { t.img with semLo := 4, semHi := 7 } }) 3 ∧ ¬ semIn (task fun t => { t with img := { t.img with semLo := 4, semHi := 7 } }) 8) ∧
    (semIn bench 0 ∧ semIn bench 255 ∧ bench.Clear 7 [.earlier false] ∧ bench.Issues (fun _ => []) ∧ bench.visible.me.resv = none ∧
      (∀ w ∈ bench.myCore.armed, w.que = true ∨ w.who ≠ bench.iss.ctx) ∧ 0 ≤ semOf bench 0 255 ∧ 7 ≤ semOf (sems 7) 0 255 ∧ semOf (sems 7) 0 255 < 8) ∧
    ((me fun x => { x with resv := some (255, 1) }).visible.me.resv ≠ none ∧ (me fun x => { x with resv := some (255, 1) }).Issues (fun _ => [])) ∧
    (semOf (sems (2 ^ 32 - 2)) 0 255 + 1 < 2 ^ 32 ∧ 2 ^ 32 ≤ semOf (sems (2 ^ 32 - 1)) 0 255 + 1) ∧
    (bench.Issues (fun x => [x.sReg 1]) ∧ (bench.visible.rs 1).poison = false ∧ ((me (sc 1 0 true)).visible.rs 1).poison = true ∧ bench.Issues (fun x => [x.pReg 1]) ∧
      bench.Issues (fun x => [x.sReg 1, x.pReg 1]) ∧ queueIn bench 7 ∧ (cmdsOf bench 0 7).length ≤ depthOf 7) ∧
    (let s := (sems 7).updMyCore fun k => { k with armed := [armedAt 7] }
     (s.core 0).swept = false ∧ (s.core 0).armed = armedAt 7 :: [] ∧ (armedAt 7).que = false ∧ (s.cx 0 0).st ≠ .frozen ∧ (s.cx 0 0).held = false ∧
     (armedAt 7).thr ≤ semOf s 0 255) ∧
    (let s := (sems 6).updMyCore fun k => { k with armed := [armedAt 7] }; ∀ a ∈ (s.core 0).armed, semOf s 0 a.idx < a.thr) ∧
    ((core fun k => { k with swept := true }).core 0).swept = true ∧
    (let w := { armedAt 7 with que := true, who := 3 }
     let m := cmd (7 * 2 ^ 1 + 255 * 2 ^ 17)
     let s := (queued 3 [m]).updMyCore fun k => { k with sems := [(255, 7)], armed := [w] }
     (s.core 0).swept = false ∧ (s.core 0).armed = [w] ∧ w.who < 4 ∧ w.thr ≤ semOf s 0 w.idx ∧ FirstUnstarted s 0 3 [] [] m ∧ Unheld m ∧ m.again = false) := by
  refine ⟨⟨?_, ?_⟩, ⟨semIn_of _ _ (by decide), semIn_of _ _ (by decide), clear _ _ _ (by decide), issues _ _ (by decide), by decide, by decide, by decide, by decide, by decide⟩,
    ⟨by decide, issues _ _ (by decide)⟩, by decide +kernel,
    ⟨issues _ _ (by decide), by decide, by decide, issues _ _ (by decide), issues _ _ (by decide), ⟨_, rfl, by decide⟩, by decide⟩, by decide, by decide, by decide,
    by decide, by decide, by decide, by decide +kernel, ⟨by decide +kernel, by decide, by decide, by decide⟩, by unfold Unheld; decide, by decide⟩
  all_goals
    rintro ⟨k, h, h1, h2⟩
    injection h with h
    subst h
    first | exact absurd h1 (by decide) | exact absurd h2 (by decide)

theorem witness_CommandEnds :
    (let m := { cmd (3 * 2 ^ 61 + 2 ^ 41 + 2 ^ 33 + 2 ^ 25) with st := 3 }
     let s := queued 7 [m]
     (cmdsOf s 0 7).find? (fun u => decide (u.id = 100)) = some m ∧ m.st = 3 ∧ m.endAt < s.cycle ∧ (s.core 0).swept = false ∧ ({ s with cycle := 0 } : State).cycle ≤ m.endAt) ∧
    (let m := { cmd 0 with st := 2, status := 255, detail := 127, prog := 2 ^ 48 - 1 }
     let s := queued 0 [m]
     (cmdsOf s 0 0).find? (fun u => decide (u.id = 100)) = some m ∧ m.st = 2 ∧ m.status < 2 ^ 8 ∧ m.detail < 2 ^ 7 ∧ m.prog < 2 ^ 48 ∧ (s.core 0).wrAt ≠ s.cycle ∧
     RecordTaken s 0 0 ∧ RecordTaken s 0 1 ∧ ¬ RecordTaken (s.updCore 0 fun k => { k with port := [(0, 2)] }) 0 1) ∧
    (let m := { cmd 0 with st := 1, items := 4, w3 := 4 }
     let s := queued 0 [m]
     (cmdsOf s 0 0).find? (fun u => decide (u.id = 100)) = some m ∧ field 55 9 m.w3.toNat = 0 ∧ m.revoked = [] ∧ m.wm = false ∧ m.stale = false ∧ m.startAt ≤ s.cycle ∧
     m.lastAt ≤ s.cycle ∧ field 0 22 m.w3.toNat ≤ m.items ∧ m.unchecked = false ∧ m.stopping = false ∧ m.lost = false ∧ m.status = 0 ∧ (∀ b ∈ s.beats, b.cmd ≠ 100) ∧
     ∃ b ∈ ({ s with beats := [⟨7, 0, 0, 100, none, 0, [(5, false)]⟩] } : State).beats, b.cmd = 100) ∧
    (let m := { cmd (3 * 2 ^ 61) with st := 1 }
     let s := queued 7 [m]
     cmdsOf s 0 7 = [] ++ m :: [] ∧ m.st = 1 ∧ m.unchecked = false ∧ m.note = false ∧ s.accs = [] ∧ s.holding.length < 512 ∧
     (s.tasks.get none m.task).bind (fun k => (s.launches.get none k.launch).map fun l => decide (l.lq < 32 ∧ l.seq < 2 ^ 32)) = some true) ∧
    (let m := cmd (3 * 2 ^ 61)
     FirstUnstarted (queued 7 [m]) 0 7 [] [] m ∧ Startable (queued 7 [m]) m) :=
  ⟨by decide +kernel, by unfold RecordTaken; decide +kernel, by decide +kernel, by decide +kernel, ⟨by decide +kernel, by decide, by decide, by decide⟩,
   by unfold Startable Unheld; decide +kernel⟩

/-- A copy of 64 bytes from page h0 to page h1. -/
def copying (f : Cmd → Cmd := id) : Cmd :=
  f { cmd 0 with w2 := 2 ^ 60, w3 := 5 * 2 ^ 51 + 5 * 2 ^ 47 + 64,
                 snaps := [(0, { valid := true, r := true, frame := 0 }), (1, { valid := true, w := true, frame := 2 ^ 13 })] }
def src_ : Handle := { valid := true, r := true, frame := 0 }
def dst_ : Handle := { valid := true, w := true, frame := 2 ^ 13 }

theorem copying_plain : Plain (copying) src_ dst_ 0 0 64 0 1 := ⟨by decide +kernel, by decide +kernel, by decide +kernel, by decide +kernel, by decide +kernel⟩

theorem witness_Copies :
    (3 < 4 ∧ FirstUnstarted (queued 3 [copying]) 0 3 [] [] copying ∧ Startable (queued 3 [copying]) copying ∧ copying.revoked = [] ∧
      ∃ a b so do_ n start e, Plain copying a b so do_ n start e ∧ a.valid = true ∧ b.valid = true ∧ a.lost = false ∧ b.lost = false ∧ a.r = true ∧ b.w = true ∧
        b.cow = false ∧ so + n * e ≤ pageOf a.size ∧ do_ + n * e ≤ pageOf b.size ∧ a.frame + so + n * e ≤ b.frame + do_) ∧
    (∀ f ∈ [fun m : Cmd => { m with snaps := [] }, fun m => { m with snaps := [(0, { src_ with lost := true }), (1, dst_)] },
        fun m => { m with snaps := [(0, { src_ with r := false }), (1, dst_)] }, fun m => { m with snaps := [(0, src_), (1, { dst_ with cow := true })] },
        fun m => { m with w1 := 2 ^ 13 - 63 }, fun m => { m with snaps := [(0, src_), (1, { dst_ with frame := 0 })] }],
      FirstUnstarted (queued 0 [copying f]) 0 0 [] [] (copying f) ∧ Startable (queued 0 [copying f]) (copying f) ∧ (copying f).revoked = []) ∧
    (let m := copying fun m => { m with st := 1, items := 63 }
     let s := queued 0 [m]
     (cmdsOf s 0 0).find? (fun u => decide (u.id = 100)) = some m ∧ Moving s 0 0 64 m ∧ m.batch = none ∧ InMemory src_ ∧ InMemory dst_) ∧
    (let k : Batch := { n := 64, h := 0, off := 0, len := 64 }
     let m := copying fun m => { m with st := 1, batch := some k }
     let s := queued 0 [m]
     (cmdsOf s 0 0).find? (fun u => decide (u.id = 100)) = some m ∧ Moving s 0 0 64 m ∧ k.h = field 60 4 m.w1.toNat ∧ k.ready = false ∧ k.got.length < k.len ∧
     s.lostAt 0 = false ∧ s.lostAt (0 + min 64 64 - 1) = false) ∧
    (let k : Batch := { n := 64, h := 0, off := 0, len := 64, ready := true, out := [(0, [(5, false)])] }
     let m := copying fun m => { m with st := 1, batch := some k }
     let s := queued 0 [m]
     (cmdsOf s 0 0).find? (fun u => decide (u.id = 100)) = some m ∧ Moving s 0 0 64 m ∧ k.ready = true ∧ k.out = (0, [(5, false)]) :: []) ∧
    (let b : Beat := ⟨7, 0, 0, 100, none, 2 ^ 46 - 1, [(5, false)]⟩
     let s := { queued 0 [copying fun m => { m with st := 1 }] with beats := [b] }
     (∀ e ∈ s.accs, e.id ≠ 7) ∧ (∀ e ∈ s.callStores, e.id ≠ 7) ∧ s.beats.find? (fun e => decide (e.id = 7)) = some b ∧ b.dst = none ∧ field 46 2 b.lo < 2 ∧
     s.lostAt b.lo = false ∧ s.running = true ∧ b.data ≠ [] ∧ ((cmdsOf s b.core b.q).find? fun u => decide (u.id = b.cmd)).isSome = true) ∧
    (bench.Issues (fun x => [x.pReg 1, x.sReg 1, x.sReg 2]) ∧ queueIn bench 3 ∧ ¬ queueIn (task fun t => { t with img := { t.img with queues := 0 } }) 3 ∧
      ((core fun k => { k with wms := [(3, { st := 2 })] }).myCore.wms.get {} 3).st = 2 ∧ (bench.myCore.wms.get {} 3).st = 0) ∧
    (let s := two (2 ^ 23 - 64) 64
     s.Issues (fun x => [x.pReg 1, x.sReg 1, x.sReg 2]) ∧ (s.visible.rs 1).poison = false ∧ (s.visible.rs 2).poison = false ∧ (s.visible.rs 1).val.toNat % 64 = 0 ∧
     (s.visible.rs 2).val.toNat = 64 ∧ ∀ o < 64, allowed s ((s.visible.rs 1).val.toNat % 2 ^ 23 + o)) ∧
    (let s := two (2 ^ 23 - 64) 128; ¬ allowed s ((s.visible.rs 1).val.toNat % 2 ^ 23 + 64)) ∧
    bench.Issues (fun x => [x.sReg 3]) ∧ (∀ u ∈ cmdsOf bench 0 3, u.st ≠ 1) ∧
    (let m := copying fun m => { m with st := 1 }; cmdsOf (queued 3 [m]) (queued 3 [m]).iss.core 3 = [] ++ m :: [] ∧ m.st = 1) := by
  have h1 : ((two (2 ^ 23 - 64) 64).visible.rs 1).val.toNat % 2 ^ 23 = 2 ^ 23 - 64 := by decide +kernel
  have h2 : ((two (2 ^ 23 - 64) 128).visible.rs 1).val.toNat % 2 ^ 23 = 2 ^ 23 - 64 := by decide +kernel
  refine ⟨⟨by decide, ⟨by decide +kernel, by decide, by decide, by decide⟩, by unfold Startable Unheld; decide +kernel, by decide,
      ⟨_, _, _, _, _, _, _, copying_plain, by decide +kernel⟩⟩, ?_, ⟨by decide +kernel, by unfold Moving; decide +kernel, by decide +kernel, by unfold InMemory; decide, by unfold InMemory; decide⟩,
    ⟨by decide +kernel, by unfold Moving; decide +kernel, by decide +kernel⟩, ⟨by decide +kernel, by unfold Moving; decide +kernel, by decide +kernel⟩, by decide +kernel,
    ⟨issues _ _ (by decide), ⟨_, rfl, by decide⟩, ?_, by decide, by decide⟩,
    ⟨issues _ _ (by decide), by decide +kernel, by decide +kernel, by decide +kernel, by decide +kernel, fun o ho => banks_all _ (by decide) _ (by omega)⟩, ?_, issues _ _ (by decide), by decide, by decide +kernel⟩
  · intro f hf
    simp only [List.mem_cons, List.not_mem_nil, or_false] at hf
    rcases hf with rfl | rfl | rfl | rfl | rfl | rfl <;>
      exact ⟨⟨by decide +kernel, by decide, by decide, by decide⟩, by unfold Startable Unheld; decide +kernel, by decide⟩
  · rintro ⟨k, h, hq⟩
    injection h with h
    subst h
    exact absurd hq (by decide)
  · show ¬ allowed (two (2 ^ 23 - 64) 128) (((two (2 ^ 23 - 64) 128).visible.rs 1).val.toNat % 2 ^ 23 + 64)
    rintro ⟨h, -⟩
    rw [h2] at h
    omega

/-! The crossbar bank, barriers, domains and groups -/

def xa (l : List (Nat × XArr)) (s : State := bench) : State := s.updMyCore fun k => { k with xb := l }
def served : XArr := { st := .active }
def spareOne : XArr := { st := .verified, cal := true }

theorem arr_masks (s : State) (a : Nat) (h : s.myTask.map (fun k => k.img.xbarrays.testBit a) = some true) : arrIn s a := by
  obtain ⟨k, h1, h2⟩ := Option.map_eq_some_iff.mp h
  exact ⟨k, h1, h2⟩

theorem no_mask (a : Nat) : ¬ arrIn (task fun t => { t with img := { t.img with xbarrays := 0 } }) a := by
  rintro ⟨k, h, hb⟩
  injection h with h
  subst h
  simp at hb

/-- Two words that the crossbar instructions take: array 1, bit line 1023 with spare 31, slice column 511 with a coefficient word. -/
theorem witness_CrossbarInstructions :
    bench.Issues (fun x => [x.pReg 1, x.sReg 1]) ∧ bench.Issues (fun x => [x.pReg 1, x.sReg 1, x.sReg 2]) ∧ bench.Issues (fun x => [x.sReg 3, x.sReg 1]) ∧
    XbPasses (me (sc 1 31)) 1 0 (fun w => w < 32) (fun _ => True) true ∧
    ((me (sc 1 0 true)).visible.rs 1).poison = true ∧ (((me (sc 1 32)).visible.rs 1).poison = false ∧ ¬ ((me (sc 1 32)).visible.rs 1).val.toNat < 32) ∧
    ¬ arrIn (task fun t => { t with img := { t.img with xbarrays := 0 } }) 0 ∧
    XbPasses (two (2 ^ 18 - 2 ^ 8) 31) 1 2 (fun w => field 18 46 w = 0 ∧ field 5 3 w = 0) (fun w => w < 32 ∨ w = 63) true ∧
    XbPasses (two (511 * 2 ^ 8) (2 ^ 32 - 1)) 1 2 (fun w => (field 18 46 w = 0 ∧ field 5 3 w = 0) ∧ field 8 10 w < 512) (fun w => w < 2 ^ 32) true ∧
    XbPasses (two 0 0x40080001) 1 2 (fun w => w < 32) (fun w => field 32 32 w = 0 ∧ field 1 15 w = 0) true ∧
    (bench.me.mode = false ∧ (me rt).me.mode = true) ∧
    (Swaps (xa [(0, spareOne)]) 0 0 [(0, .active)] ∧ Swaps (xa [(0, served)]) 0 0 [(0, .shadow)] ∧
      Swaps (xa [(0, { served with pair := true }), (1, spareOne)]) 0 0 [(1, .active), (0, .shadow)] ∧ ∀ l, ¬ Swaps bench 0 0 l) ∧
    (¬ Waits spareOne ∧ Waits { spareOne with swapPend := true } ∧ (bench.core 0).arrayBusy 0 = false) ∧
    (quietX bench 0 ∧ (arrOf bench 0 0).pendAt = 0 ∧ 0 < ({ bench with cycle := 1 } : State).cycle) ∧
    ((arrOf bench 0 0).rows.wf 0 = true ∧ (arrOf bench 0 0).spare.wf 0 = true ∧ (arrOf bench 0 0).total < 2 ^ 32) := by
  refine ⟨issues _ _ (by decide), issues _ _ (by decide), issues _ _ (by decide), ⟨by decide, by decide, by decide, trivial, fun _ => arr_masks _ _ (by decide)⟩,
    by decide, by decide, no_mask 0, ⟨by decide +kernel, by decide +kernel, by decide +kernel, by decide +kernel, fun _ => arr_masks _ _ (by decide +kernel)⟩,
    ⟨by decide +kernel, by decide +kernel, by decide +kernel, by decide +kernel, fun _ => arr_masks _ _ (by decide +kernel)⟩,
    ⟨by decide +kernel, by decide +kernel, by decide +kernel, by decide +kernel, fun _ => arr_masks _ _ (by decide +kernel)⟩, by decide,
    ⟨.inr (.inr (.inr (.inl ⟨by unfold isPaired; decide, by unfold CanServe; decide, rfl⟩))), .inr (.inr (.inr (.inr ⟨by unfold isPaired; decide, by unfold Serves; decide, rfl⟩))),
      .inl ⟨by unfold isPaired; decide, by unfold Serves; decide, by unfold CanServe; decide, rfl⟩, ?_⟩,
    ⟨by unfold Waits; decide, by unfold Waits; decide, by decide⟩, ⟨by unfold quietX; decide, by decide, by decide⟩, by decide⟩
  have h1 : ¬ Serves (arrOf bench 0 0) := by unfold Serves; decide
  have h2 : ¬ CanServe (arrOf bench 0 0) := by unfold CanServe; decide
  have h3 : ¬ isPaired bench 0 0 := by unfold isPaired; decide
  rintro l (⟨h, -⟩ | ⟨h, -⟩ | ⟨h, -⟩ | ⟨-, h, -⟩ | ⟨-, h, -⟩)
  · exact h3 h
  · exact h3 h
  · exact h3 h
  · exact h2 h
  · exact h1 h

/-- A crossbar command of operation `op` on array 0 with word 2 and a scratchpad input at 0. -/
def xcmd (op w2 : Nat) (sp : Bool := true) : Cmd :=
  { cmd (2 ^ 61) with w1 := wordOf (op * 2 ^ 61 + if sp then 2 ^ 51 else 0), w2 := wordOf w2, taken := some 0, arr := 0 }
def xprog : Cmd := xcmd 0 (1024 * 2 ^ 43 + 2 ^ 37)
def xmvm : Cmd := xcmd 4 (2 ^ 47 + 2 ^ 43 + 8 * 2 ^ 36 + 2 ^ 27)
def xstate (m : Cmd) (x : XArr := {}) : State := { (xa [(0, x)] (queued 4 [m])) with cycle := 10, now := 36 * 20000 }

theorem mem_banks (s : State) (m : Cmd) (h : (s.tasks.get none m.task).map (·.img.banks) = some 15) (o n : Nat) (hn : o + n ≤ 2 ^ 23) : cmdAllowed s m o n := by
  obtain ⟨k, h1, h2⟩ := Option.map_eq_some_iff.mp h
  have hb : ∀ i < 4, (15 : Nat).testBit i = true := by decide
  intro i hi
  refine ⟨by omega, k, h1, ?_⟩
  rw [h2]
  exact hb _ (by omega)

theorem xb_none (m : Cmd) (x : XArr) (hm : m ∈ [xprog, xmvm, xcmd 1 (1024 * 2 ^ 43 + 2 ^ 35), xcmd 2 0 false, xcmd 3 0 false])
    (hx : (xop m = 0 → x = {}) ∧ (xop m ≠ 0 → x = served)) : xbFirst (xstate m x) 0 m = none := by
  have hf : XbFields m := by
    simp only [List.mem_cons, List.not_mem_nil, or_false] at hm
    rcases hm with rfl | rfl | rfl | rfl | rfl
    · exact ⟨by decide +kernel, by decide +kernel, by decide +kernel, by decide +kernel, by simp only [show xop xprog = 0 by decide +kernel]; decide +kernel⟩
    · exact ⟨by decide +kernel, by decide +kernel, by decide +kernel, by decide +kernel, by simp only [show xop xmvm = 4 by decide +kernel]; decide +kernel⟩
    · exact ⟨by decide +kernel, by decide +kernel, by decide +kernel, by decide +kernel,
        by simp only [show xop (xcmd 1 (1024 * 2 ^ 43 + 2 ^ 35)) = 1 by decide +kernel]; decide +kernel⟩
    · exact ⟨by decide +kernel, by decide +kernel, by decide +kernel, by decide +kernel, by simp only [show xop (xcmd 2 0 false) = 2 by decide +kernel]; decide +kernel⟩
    · exact ⟨by decide +kernel, by decide +kernel, by decide +kernel, by decide +kernel, by simp only [show xop (xcmd 3 0 false) = 3 by decide +kernel]; decide +kernel⟩
  have ht : ∃ k, (xstate m x).tasks.get none m.task = some k ∧ k.img.xbarrays.testBit (xarr m) = true := by
    simp only [List.mem_cons, List.not_mem_nil, or_false] at hm
    rcases hm with rfl | rfl | rfl | rfl | rfl <;> exact ⟨_, rfl, by decide +kernel⟩
  have hp : ¬ (xop m = 4 ∧ isPaired (xstate m x) 0 (xarr m) ∧ ¬ ∃ k, (xstate m x).tasks.get none m.task = some k ∧ k.img.xbarrays.testBit (mate (xarr m)) = true) := by
    rintro ⟨h4, h, -⟩
    have hx := hx.2 (by omega)
    subst hx
    simp only [List.mem_cons, List.not_mem_nil, or_false] at hm
    rcases hm with rfl | rfl | rfl | rfl | rfl <;> exact absurd h (by unfold isPaired; decide +kernel)
  have hb := mem_banks (xstate m x) m (by
    simp only [List.mem_cons, List.not_mem_nil, or_false] at hm
    rcases hm with rfl | rfl | rfl | rfl | rfl <;> rfl)
  have hs : ¬ ((xop m = 0 ∧ (arrOf (xstate m x) 0 (xarr m)).st ∈ [XState.active, .drifting, .retired]) ∨
      (1 ≤ xop m ∧ xop m ≤ 3 ∧ (arrOf (xstate m x) 0 (xarr m)).st ∈ [XState.empty, .retired])) := by
    by_cases h0 : xop m = 0
    · have hx := hx.1 h0
      subst hx
      simp only [List.mem_cons, List.not_mem_nil, or_false] at hm
      rcases hm with rfl | rfl | rfl | rfl | rfl <;> first | exact absurd h0 (by decide +kernel) | decide +kernel
    · have hx := hx.2 h0
      subst hx
      simp only [List.mem_cons, List.not_mem_nil, or_false] at hm
      rcases hm with rfl | rfl | rfl | rfl | rfl <;> first | exact absurd (by decide +kernel) h0 | decide +kernel
  have hq : ¬ ((xop m ≤ 1 ∨ xop m = 4) ∧ m.w1.getLsbD 51 = false) := by
    simp only [List.mem_cons, List.not_mem_nil, or_false] at hm
    rcases hm with rfl | rfl | rfl | rfl | rfl <;> decide +kernel
  have hz : field 0 33 m.w1.toNat = 0 ∧ w2 m 0 23 = 0 ∧ xbIn m ≤ 2 ^ 18 ∧ xbReport m = 0 ∧ w2 m 47 7 * (256 * (selected m).length) ≤ 2 ^ 20 ∧ m.w2.getLsbD 63 = false := by
    simp only [List.mem_cons, List.not_mem_nil, or_false] at hm
    rcases hm with rfl | rfl | rfl | rfl | rfl <;> decide +kernel
  obtain ⟨z1, z2, z3, z4, z5, z6⟩ := hz
  refine (if_neg (not_not.mpr hf)).trans ((if_neg ?_).trans ((if_neg hs).trans ((if_neg fun h => hq h.1).trans ((if_neg fun h => hq h.1).trans
    ((if_neg fun h => hq h.1).trans ((if_neg ?_).trans ((if_neg ?_).trans (if_neg ?_))))))))
  · rintro (h | h)
    · exact h ht
    · exact hp h
  · rw [z1, z2]
    simp
  · rw [z1, z2, z4]
    rintro (⟨-, -, h⟩ | h | ⟨-, -, h⟩)
    · exact h (hb _ _ (by omega))
    · exact h (hb _ _ (by omega))
    · exact h (hb _ _ (by omega))
  · rintro ⟨-, h, -⟩
    rw [z6] at h
    exact absurd h (by decide)

/-- An input whose conversion has ended, and what every item of a command under way asks. -/
def input : Input := ⟨List.replicate 256 1, false, 0, 36 * 600, 0⟩
def underWay (s : State) (m : Cmd) : Prop :=
  (cmdsOf s 0 4).find? (fun u => decide (u.id = 100)) = some m ∧ m.st = 1 ∧ m.stopping = false ∧ m.hold = false ∧ m.revoked = [] ∧ m.w1.getLsbD 51 = true ∧
  s.running = true ∧ (∀ u ∈ cmdsOf s 0 4, u.st = 1 ∨ u.id = 100 → u = m) ∧ m.tAt ≤ s.now ∧ (∀ b ∈ m.buf, b.poison = false ∧ b.due + 36 * 24 ≤ s.now) ∧
  (s.core 0).wrAt ≠ s.cycle

/-- A command fails its first check, and one of each operation passes all; an array that serves and one that does not; a row, a vector and a delivery whose
time has come; each operation about to end. The guarantee of R302 holds for some values of the free `Config.tierWithin` (log entry 5). -/
theorem witness_CrossbarCommands :
    (let m := xcmd 5 0
     FirstUnstarted (xstate m) 0 4 [] [] m ∧ m.taken = some 0 ∧ 0 = m.pushed ∧ 0 + 4 ≤ (xstate m).cycle ∧ (xstate m).myCore.tiles = [] ∧ xbFirst (xstate m) 0 m = some 3 ∧
     (xstate m).running = true ∧ Unheld m ∧ m.revoked = [] ∧ m.unchecked = false ∧ FreeX (xstate m) 0 0) ∧
    (xbFirst (xstate xprog) 0 xprog = none ∧ FirstUnstarted (xstate xprog) 0 4 [] [] xprog ∧ FreeX (xstate xprog) 0 0 ∧ FreeX (xstate xmvm served) 0 0 ∧
      ¬ isPaired (xstate xmvm served) 0 0) ∧
    (xbFirst (xstate xmvm served) 0 xmvm = none ∧ Serves (arrOf (xstate xmvm served) 0 0) ∧ ¬ Serves (arrOf (xstate xmvm) 0 0)) ∧
    (xbFirst (xstate (xcmd 1 (1024 * 2 ^ 43 + 2 ^ 35)) served) 0 (xcmd 1 (1024 * 2 ^ 43 + 2 ^ 35)) = none ∧ xbFirst (xstate (xcmd 2 0 false) served) 0 (xcmd 2 0 false) = none ∧
      xbFirst (xstate (xcmd 3 0 false) served) 0 (xcmd 3 0 false) = none) ∧
    (∀ b ∈ [[], [input]],
     let m := { xprog with st := 1, items := 1023, buf := b }
     let s := xstate m
     underWay s m ∧ xop m = 0 ∧ m.arr = xarr m ∧ m.refRow = 1024 ∧ m.items < w2 m 43 11 ∧ (s.core 0).spadPoisoned (256 * 1023) 256 = false ∧ w2 m 0 23 = 0 ∧
     (arrOf s 0 m.arr).spare = []) ∧
    (∀ b ∈ [[], [input]],
     let m := { xcmd 1 (1024 * 2 ^ 43 + 2 ^ 35) with st := 1, buf := b }
     underWay (xstate m served) m ∧ xop m = 1 ∧ m.items < w2 m 43 11 ∧ ((xstate m served).core 0).spadPoisoned 0 256 = false) ∧
    (let m := { xmvm with st := 1 }
     underWay (xstate m served) m ∧ xop m = 4 ∧ m.items + m.buf.length < w2 m 47 7 ∧ ((xstate m served).core 0).spadPoisoned 0 (64 * w2 m 27 5) = false) ∧
    (∀ dt ∈ [false, true], ∀ o ∈ [[], [(0, List.replicate 64 (1 : Byte))]],
     let m := { xmvm with st := 1, buf := [input], out := o, w2 := if dt then wordOf (2 ^ 63 + 2 ^ 47 + 2 ^ 43 + 8 * 2 ^ 36 + 2 ^ 27) else xmvm.w2 }
     let s := xstate m served
     underWay s m ∧ xop m = 4 ∧ m.w2.getLsbD 63 = dt ∧ (arrOf s 0 m.arr).parity = [] ∧ m.lastAt = 0 ∧ selected m = [0] ∧ (s.core 0).portFree s.cycle 0 64 = true ∧
     (s.core 0).mq = []) ∧
    (∀ m ∈ [{ xprog with st := 1, items := 1024 }, { xcmd 1 (1024 * 2 ^ 43 + 2 ^ 35) with st := 1, items := 1024 }, { xcmd 2 0 false with st := 1 }, { xcmd 3 0 false with st := 1 },
        { xmvm with st := 1, items := 1 }, { xprog with st := 1, revoked := [0] }, { xprog with st := 1, stopping := true }], let s := xstate m served
      (cmdsOf s 0 4).find? (fun u => decide (u.id = 100)) = some m ∧ m.st = 1 ∧ m.lastAt < s.cycle ∧ m.refRow = 1024 ∧ m.buf = [] ∧ m.out = [] ∧ m.unchecked = false ∧
      xbReport m = 0 ∧ m.arr = xarr m ∧
      (s.core 0).tiles = [] ∧ (arrOf s 0 m.arr).parity = [] ∧ m.tAt ≤ s.now ∧ (m.items = 0 ∨ m.items = w2 m 43 11 ∨ m.items = w2 m 47 7)) := by
  have first (m : Cmd) (h : cmdsOf (xstate m) 0 4 = [m] ∧ m.st = 0) : FirstUnstarted (xstate m) 0 4 [] [] m := ⟨h.1, h.2, by simp, by simp⟩
  refine ⟨⟨first _ (by decide +kernel), by decide +kernel, by decide +kernel, by decide +kernel, by decide +kernel, if_pos ?_, by decide +kernel, by unfold Unheld; decide,
      by decide, by decide, by unfold FreeX isPaired; decide +kernel⟩,
    ⟨xb_none _ _ (by simp) ⟨fun _ => rfl, fun h => absurd (by decide +kernel) h⟩, first _ (by decide +kernel), by unfold FreeX isPaired; decide +kernel,
      by unfold FreeX isPaired; decide +kernel, by unfold isPaired; decide +kernel⟩,
    ⟨xb_none _ _ (by simp) ⟨fun h => absurd h (by decide +kernel), fun _ => rfl⟩, by unfold Serves; decide +kernel, by unfold Serves; decide +kernel⟩,
    ⟨xb_none _ _ (by simp) ⟨fun h => absurd h (by decide +kernel), fun _ => rfl⟩, xb_none _ _ (by simp) ⟨fun h => absurd h (by decide +kernel), fun _ => rfl⟩,
      xb_none _ _ (by simp) ⟨fun h => absurd h (by decide +kernel), fun _ => rfl⟩⟩, by unfold underWay; decide +kernel, by unfold underWay; decide +kernel, by unfold underWay; decide +kernel, by unfold underWay; decide +kernel,
    by decide +kernel⟩
  rintro ⟨-, -, -, -, h⟩
  have h5 : xop (xcmd 5 0) = 5 := by decide +kernel
  rw [h5] at h
  exact h

/-- Context 0 of core 0 and context 1 as the members of custom domain 63. -/
def dom63 : Domain := { valid := true, cores := 1, ctxs := [(0, 3)] }
def bar63 (f : Barrier → Barrier := id) : Barrier := f { members := [0, 1] }
def member (b : Barrier := bar63) : State := { bench with doms := [(63, dom63)], bars := [(63, some b)] }
def arrivedAt (released : Bool) (s : State := member) : State := s.updMe fun x => { x with arr := [(63, ⟨63, 0, released, true⟩)] }
def sent (m : Msg) (s : State := bench) : State := { s with msgs := [⟨9, 0, m⟩] }

theorem witness_Barriers :
    bench.Issues (fun _ => []) ∧ bench.Issues (fun x => [x.pReg 1]) ∧ bench.Issues (fun x => [x.sReg 1]) ∧ Arrived (arrivedAt false) 63 ∧ ¬ Arrived member 63 ∧
    MemberOf member 63 ∧ BarrierOf member 63 63 bar63 ∧ ¬ MemberOf bench 63 ∧ MemberOf bench 0x80 ∧
    (bar63.phase < 2 ^ 32 ∧ bar63.arrived.length < 2 ^ 10 ∧ bar63.members.length < 2 ^ 10) ∧
    (MessageIs (sent (.arrival 63 0 0 []) member) 9 (.arrival 63 0 0 []) ∧ bar63.st ≠ .delivering ∧ 0 ∈ bar63.members ∧ 0 ∉ bar63.arrived ∧ member.accs = []) ∧
    ((member (bar63 fun b => { b with st := .delivering, arrived := [0, 1] })).bars.get none 63 = some (bar63 fun b => { b with st := .delivering, arrived := [0, 1] }) ∧
      (bar63 fun b => { b with st := .delivering, arrived := [0, 1] }).covered = []) ∧
    MessageIs (sent (.release 63 0 0 true) (arrivedAt false)) 9 (.release 63 0 0 true) := by
  refine ⟨issues _ _ (by decide), issues _ _ (by decide), issues _ _ (by decide), by unfold Arrived; decide, by unfold Arrived; decide, ?_, ⟨by decide, by decide⟩, ?_, ?_,
    by decide, ⟨by unfold MessageIs; decide, by decide⟩, by decide, by unfold MessageIs; decide⟩
  · exact (if_pos (by decide)).mpr (.inr ⟨bar63, by decide, by decide⟩)
  · intro h
    rcases (if_pos (by decide)).mp h with h | ⟨b, h, -⟩
    · exact absurd h.1 (by unfold InMasks; decide)
    · exact absurd h (by simp [show bench.bars = [] by decide, SMap.get])
  · exact (if_neg (by decide)).mpr (by decide)

/-- Operation words of `domset`: add, remove, clear, chips, and a bad one. -/
def opWord (op : Nat) : State := ((member).updMe fun x => sc 1 (wordOf (op * 2 ^ 62 + if op = 2 then 0 else 1)) false (rt x))

theorem witness_Domains :
    (63 < 64 ∧ bench.iss.opened = false ∧ bench.me.mode = false) ∧
    ((me rt).me.mode = true ∧ (me rt).Issues (fun x => [x.sReg 1]) ∧ (((me rt).updMe (sc 1 0 true)).visible.rs 1).poison = true) ∧
    (let s := (me rt).updMe (sc 1 (2 ^ 15)); (s.visible.rs 1).poison = false ∧ BadOperation (s.visible.rs 1).val) ∧
    (∀ op ∈ [0, 1, 2], ((opWord op).visible.rs 1).poison = false ∧ ¬ BadOperation ((opWord op).visible.rs 1).val ∧ (opWord op).me.mode = true ∧
      (opWord op).iss.opened = false ∧ (opWord op).me.pend = []) ∧
    (member.Issues (fun x => [x.sReg 1]) ∧ (member.doms.get {} 63).valid = true ∧ MemberOf member 63 ∧ (bench.doms.get {} 63).valid = false ∧ 64 ≤ 0x83) ∧
    (let s := { bench with doms := [(62, { dom63 with cores := 2 })] }; (s.doms.get {} 62).valid = true ∧ ¬ MemberOf s 62) ∧
    (let l : Land := ⟨9, 0, 0, 0, .s 1, .domget 63 0, false⟩; CanLand { member with lands := [l] } 9 l) ∧
    (let l : Land := ⟨9, 0, 0, 0, .s 1, .domget 0x83 0, false⟩; CanLand { member with lands := [l] } 9 l ∧ (member.taskOf 0 0).isSome = true ∧ member.chip < 16) := by
  refine ⟨by decide, ⟨by decide, issues _ _ (by decide), by decide⟩, ⟨by decide, by unfold BadOperation; decide +kernel⟩,
    by unfold BadOperation; decide +kernel, ⟨issues _ _ (by decide), by decide, (if_pos (by decide)).mpr (.inr ⟨bar63, by decide, by decide⟩), by decide⟩, ⟨by decide, ?_⟩,
    ⟨by decide, by decide, by decide⟩, ⟨by decide, by decide, by decide⟩, by decide, by decide⟩
  intro h
  rcases (if_pos (by decide)).mp h with h | ⟨b, h, -⟩
  · exact absurd h.1 (by unfold InMasks; decide)
  · exact absurd h (by simp [show bench.bars = [] by decide, SMap.get])

/-- The bench as sibling 0 of a group of two with its ballot in slot 0. -/
def ballot (f : Ballot → Ballot := id) : Ballot := f { launch := 0, q := 2, n := 2 }
def sibling (f : Ballot → Ballot := id) : State :=
  let s := (task fun t => { t with sib := some 0 }).updLaunch 0 fun l => { l with ballot := some 0 }
  { s with ballots := [(0, some (ballot f))], cycle := 1 }

theorem in_group : InGroup sibling 0 0 := ⟨_, _, rfl, rfl, by decide, by decide⟩
theorem alone : ∀ slot sib, ¬ InGroup bench slot sib := by
  rintro slot sib ⟨k, l, h, -, h1, -⟩
  injection h with h
  subst h
  cases h1

def postMsg : Msg := .post 0 0 7 0 0 0 (some (.p 1))
def seventeen : List Hash := (List.range 16).map fun i => ⟨wordOf (100 + i), 1, 1, 1⟩

theorem witness_Groups :
    (bench.Issues (fun x => [x.sReg 1, x.pReg 1]) ∧ bench.Clear 7 [.earlier false] ∧ bench.Issues (fun x => [x.sReg 1]) ∧ InGroup sibling 0 0 ∧
      (∀ slot sib, ¬ InGroup bench slot sib) ∧ (bench.visible.rs 1).poison = false ∧ ((me (sc 1 0 true)).visible.rs 1).poison = true) ∧
    (let s := ({ bench with accs := [acc .load (.phys 0)] } : State).updMe fun x => { x with step := 1 }
     ∃ e ∈ s.accs, e.core = s.iss.core ∧ e.ctx = s.iss.ctx ∧ e.step < s.me.step) ∧
    (let l : Land := ⟨9, 0, 0, 0, .s 1, .bread 0 0, false⟩
     CanLand { sibling with lands := [l] } 9 l ∧ sibling.ballots.get none 0 = some ballot ∧ bench.ballots.get none 0 = none ∧ ballot.cw.length = 5 ∧
     (∀ v ∈ [ballot.winsib, ballot.q, ballot.n], v < 2 ^ 8) ∧ ∀ v ∈ ballot.cw, v < 2 ^ 64) ∧
    (∀ f ∈ [fun b => b, fun b => { b with st := .decided }, fun b => { b with posted := [0] }, fun b => { b with hashes := [⟨7, 1, 1, 1⟩], posted := [1] },
        fun b => { b with hashes := seventeen }, fun b => { b with q := 1 }],
      MessageIs (sent postMsg (sibling f)) 9 postMsg ∧ ¬ TooLate (sibling f) (ballot f) 0) ∧
    TooLate (sibling fun b => { b with at_ := 1, place := 1 }) (ballot fun b => { b with at_ := 1, place := 1 }) 0 ∧
    (seventeen.length = 16 ∧ (∀ g ∈ seventeen, g.x ≠ 7) ∧ ([⟨7, 1, 1, 1⟩] : List Hash).find? (fun g => decide (g.x = 7)) = some ⟨7, 1, 1, 1⟩ ∧ 1 + 1 = ballot.q) ∧
    (MessageIs (sent (.gcancel 0 0 3) sibling) 9 (.gcancel 0 0 3) ∧ ¬ TooLate sibling ballot 64 ∧ ballot.abst < 2 ^ 16) ∧
    (MessageIs (sent (.endNotice 0 1) sibling) 9 (.endNotice 0 1) ∧ ¬ TooLate sibling ballot 65) ∧
    (let b := ballot fun b => { b with posted := [0, 1], hashes := [⟨7, 1, 0, 0⟩, ⟨8, 1, 1, 1⟩] }
     b.st = .open ∧ (∀ i < b.n, i ∈ b.posted) ∧ (b.hashes.map (·.x)).Nodup ∧ b.hashes ≠ [] ∧ (ballot fun b => { b with cancelled := [0, 1] }).hashes = []) ∧
    (let s := { sibling (fun b => { b with st := .closed }) with launches := [] }; s.launches.get none 0 = none ∧ ∀ r ∈ s.holding, r.slot ≠ some 0) := by
  refine ⟨⟨issues _ _ (by decide), clear _ _ _ (by decide), issues _ _ (by decide), in_group, alone, by decide, by decide⟩, by decide, ⟨⟨by decide, by decide, by decide⟩, by decide⟩,
    by unfold MessageIs TooLate; decide +kernel, by unfold TooLate; decide, by decide +kernel, ⟨by unfold MessageIs; decide, by unfold TooLate; decide, by decide⟩,
    ⟨by unfold MessageIs; decide, by unfold TooLate; decide⟩, by decide, by decide⟩

def canceled (f : Ctx → Ctx) : State := me fun x => f { x with canreq := true }

theorem witness_Cancellation :
    (let s := sent (.pennant 0 0 0)
     s.msgs.find? (fun m => match m.msg with | .pennant c' x' _ => decide (c' = 0 ∧ x' = 0) | _ => false) = some ⟨9, 0, .pennant 0 0 0⟩ ∧ (s.cx 0 0).task = some 0 ∧
     (s.cx 0 0).st ∉ [CState.done, .cancelled, .free] ∧ (s.cx 0 0).canreq = false) ∧
    (let y := (canceled fun x => { x with stopNext := true }).cx 0 0; Live y ∧ y.canreq = true ∧ Outside y ∧ y.stopNext = true) ∧
    (let y := (me fun x => { x with killNext := true }).cx 0 0; Live y ∧ y.killNext = true) ∧
    (let s := canceled fun x => { x with grace := 65536 }; Live (s.cx 0 0) ∧ (s.cx 0 0).canreq = true ∧ s.grace ≤ (s.cx 0 0).grace) := by
  unfold Live Outside
  decide +kernel

/-! Reclaiming, calls, traps, debugging, results, kernel instructions, launch queues -/

/-- The tables of an 8 GiB page at 0; a descriptor at 0x10000 with one page in the list of sibling 0, whose count is 1, and a pool with room. -/
def reclaiming : State :=
  { sibling (fun b => { b with cancelled := [0] }) with
    mem := [(0x2000, 1), (0x2001, 0x40), (0x4000, 0x0B), (0x4001, 1), (0x10002, 2), (0x1000A, 4), (0x20000, 1), (0x20012, 6), (0x2001A, 5), (0x40008, 4), (0x50000, 1)]
    tasks := [(0, some { launch := 0, core := 0, ctxs := [0], img := {}, tiles := [], tb := 0, sib := some 0, freed := true })]
    launches := [(0, some { seq := 0, lq := 0, words := [0, 0x10000, 0, 0, xr] ++ List.replicate 11 0, kid := 0, cls := 0, img := {}, tasks := [0], ballot := some 0 })] }

/-- A state whose tables are those above translates every address below 8 GiB to itself. -/
theorem translates_of (s : State) (va : Word) (hv : va.toNat < 2 ^ 33) (e1 : entryAt s 0x2000 = 0x4001) (e2 : entryAt s 0x4000 = 0x10B)
    (hp : s.poisoned 0x2000 8 = false ∧ s.poisoned 0x4000 8 = false) (hb : s.badRange 0x2000 (2 ^ 13) false = false) (hg : GoodPointer s 3 0x4001)
    (hl : GoodLeaf s 2 0 0x10B) : Translates s va xr 0x10B 0x4000 := by
  have h3 : slotOf va (2 + 1) 0x2000 = 0x2000 := by unfold slotOf field; norm_num; omega
  have h2 : slotOf va (1 + 1) 0x4000 = 0x4000 := by unfold slotOf field; norm_num; omega
  have hr : field 13 35 xr.toNat * 2 ^ 13 = 0x2000 := by decide
  have hf : field 13 35 0x4001 * 2 ^ 13 = 0x4000 := by decide
  have hs : field 52 12 xr.toNat = 0 := by decide
  have l2 : LeafAt s va 0 0x10B 0x4000 2 0x4000 := by
    unfold LeafAt
    simp only [h2, e2]
    exact ⟨hp.2, .inl ⟨trivial, trivial, hl⟩⟩
  have l3 : LeafAt s va 0 0x10B 0x4000 3 0x2000 := by
    unfold LeafAt
    simp only [h3, e1, hf]
    exact ⟨hp.1, .inr ⟨hg, l2⟩⟩
  unfold Translates
  simp only [hr, hs]
  exact ⟨.inl (by unfold field; omega), by decide, by decide, hb, l3⟩

theorem translates_reclaiming (va : Word) (hv : va.toNat < 2 ^ 33) : Translates reclaiming va xr 0x10B 0x4000 :=
  translates_of _ _ hv (by decide +kernel) (by decide +kernel) (by decide +kernel) (by decide +kernel) (by unfold GoodPointer; decide +kernel) (by unfold GoodLeaf; decide +kernel)

theorem at_reclaiming (va : Word) (hv : va.toNat < 2 ^ 33) (hl : reclaiming.lostAt va.toNat = false) : At reclaiming va xr va.toNat := by
  refine ⟨_, _, translates_reclaiming va hv, by decide, ?_, by decide, hl⟩
  have h1 : field 13 35 0x10B = 0 := by decide
  have h2 : pageOf (field 2 2 0x10B) = 2 ^ 33 := by decide
  rw [h1, h2]
  omega

/-- What is written outside the tables changes no translation. -/
theorem at_kept_of (s s' : State) (va : Word) (z : Nat) (he : ∀ b, b + 8 ≤ 0x40000 → entryAt s' b = entryAt s b)
    (hb : ∀ a n l, s'.badRange a n l = s.badRange a n l) (hp : ∀ a n, s'.poisoned a n = s.poisoned a n) (hl : ∀ a, s'.lostAt a = s.lostAt a)
    (hs : ∀ i < 1024, ∀ e ∈ [(0x2000, 0x4001), (0x4000, 0x10B)], (entryAt s (e.1 + 8 * i)).testBit 0 = true → entryAt s (e.1 + 8 * i) = e.2)
    (h : At s va xr z) : At s' va xr z := by
  have hr : field 13 35 xr.toNat * 2 ^ 13 = 0x2000 := by decide
  have hf : field 13 35 0x4001 * 2 ^ 13 = 0x4000 := by decide
  have b3 : slotOf va (2 + 1) 0x2000 + 8 ≤ 0x40000 := by unfold slotOf field; omega
  have b2 : slotOf va (1 + 1) 0x4000 + 8 ≤ 0x40000 := by unfold slotOf field; omega
  have good : ∀ lvl sp e, GoodLeaf s lvl sp e → GoodLeaf s' lvl sp e := by
    intro lvl sp e h
    unfold GoodLeaf at h ⊢
    simpa only [hb] using h
  have ptr : ∀ lvl e, GoodPointer s lvl e → GoodPointer s' lvl e := by
    intro lvl e h
    unfold GoodPointer at h ⊢
    simpa only [hb] using h
  have kept : ∀ sp e a, LeafAt s va sp e a 3 0x2000 → LeafAt s' va sp e a 3 0x2000 := by
    intro sp e a hl
    unfold LeafAt at hl ⊢
    simp only [he _ b3, hp] at hl ⊢
    obtain ⟨hp, ⟨-, -, hg⟩ | ⟨hg, hl⟩⟩ := hl
    · exact absurd hg.2.2.2.1 (by omega)
    have e3 : entryAt s (slotOf va (2 + 1) 0x2000) = 0x4001 := hs (field 43 10 va.toNat) (by unfold field; omega) (0x2000, 0x4001) (by simp) hg.1
    rw [e3] at hl hg ⊢
    refine ⟨hp, .inr ⟨ptr _ _ hg, ?_⟩⟩
    rw [hf] at hl ⊢
    unfold LeafAt at hl ⊢
    simp only [he _ b2, hp] at hl ⊢
    obtain ⟨hp2, ⟨ha, hv, hl⟩ | ⟨hg2, -⟩⟩ := hl
    · exact ⟨by simpa only [‹∀ a n, s'.poisoned a n = s.poisoned a n›] using hp2, .inl ⟨ha, hv, good _ _ _ hl⟩⟩
    · have e2 : entryAt s (slotOf va (1 + 1) 0x4000) = 0x10B := hs (field 33 10 va.toNat) (by unfold field; omega) (0x4000, 0x10B) (by simp) hg2.1
      rw [e2] at hg2
      exact absurd hg2.2.1 (by decide)
  unfold At Translates at h ⊢
  simp only [hb, hl, hr] at h ⊢
  obtain ⟨e, a, ⟨hc, hx, h1, h2, hk⟩, hrest⟩ := h
  exact ⟨e, a, ⟨hc, hx, h1, h2, kept _ _ _ hk⟩, hrest⟩

theorem entries_kept (s : State) (m : SMap Byte) (hm : ∀ x, (x < 0x50000 ∨ 0x50004 ≤ x) → (x < 0x40000 ∨ 0x40010 ≤ x) → m.get 0 x = s.mem.get 0 x) (b : Nat)
    (hb : b + 8 ≤ 0x40000) : entryAt { s with mem := m } b = entryAt s b := by
  unfold Claims.entryAt number
  congr 1
  refine List.map_congr_left fun i hi => ?_
  have := List.mem_range.mp hi
  exact congrArg (fun b : Byte => b.toNat * 256 ^ i) (hm (b + i) (by omega) (by omega))

theorem get_unlisted (m : SMap Byte) (x : Nat) (h : ∀ e ∈ m, e.1 ≠ x) : m.get 0 x = 0 := by
  induction m with
  | nil => rfl
  | cons e m ih => obtain ⟨k, v⟩ := e; exact (if_neg (h (k, v) (by simp))).trans (ih fun e he => h e (by simp [he]))

theorem entry_unlisted (s : State) (b : Nat) (h : ∀ e ∈ s.mem, e.1 < b ∨ b + 8 ≤ e.1) : entryAt s b = 0 := by
  have h0 : ∀ i < 8, s.mem.get 0 (b + i) = 0 := fun i hi => get_unlisted _ _ fun e he hx => by have := h e he; omega
  refine List.sum_eq_zero fun x hx => ?_
  obtain ⟨i, hi, rfl⟩ := List.mem_map.mp hx
  have h1 := h0 i (List.mem_range.mp hi)
  exact (congrArg (fun v : Byte => v.toNat * 256 ^ i) h1).trans (Nat.zero_mul _)

theorem tables_entries (i : Nat) (hi : i < 1024) : ∀ e ∈ [(0x2000, 0x4001), (0x4000, 0x10B)],
    (entryAt reclaiming (e.1 + 8 * i)).testBit 0 = true → entryAt reclaiming (e.1 + 8 * i) = e.2 := by
  intro e he ht
  rcases Nat.eq_zero_or_pos i with rfl | hp
  · rcases List.mem_pair.mp he with rfl | rfl <;> decide +kernel
  · have : entryAt reclaiming (e.1 + 8 * i) = 0 := by
      refine entry_unlisted _ _ fun u hu => ?_
      have hm : ∀ u ∈ reclaiming.mem, u.1 ∈ [0x2000, 0x2001, 0x4000, 0x4001] ∨ 0x10000 ≤ u.1 := by decide +kernel
      have := hm u hu
      simp only [List.mem_cons, List.not_mem_nil, or_false] at this
      rcases List.mem_pair.mp he with rfl | rfl <;> simp only <;> omega
    rw [this] at ht
    exact absurd ht (by decide)

theorem at_kept (m : SMap Byte) (hm : ∀ x, (x < 0x50000 ∨ 0x50004 ≤ x) → (x < 0x40000 ∨ 0x40010 ≤ x) → m.get 0 x = reclaiming.mem.get 0 x) (va : Word) (z : Nat)
    (h : At reclaiming va xr z) : At { reclaiming with mem := m } va xr z := at_kept_of _ _ va z (entries_kept _ m hm) (fun _ _ _ => rfl) (fun _ _ => rfl) (fun _ => rfl) tables_entries h

theorem witness_GroupReclaims :
    reclaiming.ballots.get none 0 = some (ballot fun b => { b with cancelled := [0] }) ∧ (reclaiming.sibling 0 0).map (·.1) = some 0 ∧
    (reclaiming.launches.get none 0).isSome = true ∧ reclaiming.callsOpen 0 = false ∧
    (∀ va ∈ [0x10000, 0x20000, 0x40000, 0x20010, 0x20018, 0x60000, 0x50000, 0x40008, 0x40010], At reclaiming va xr va.toNat) ∧
    (∀ i < 8, reclaiming.poisoned (0x10000 + 8 * i) 8 = false ∧ reclaiming.lostAt (0x10000 + 8 * i) = false ∧ (2 ≤ i → entryAt reclaiming (0x10000 + 8 * i) = 0)) ∧
    (entryAt reclaiming 0x10000 = 0x20000 ∧ entryAt reclaiming 0x10008 = 0x40000 ∧ entryAt reclaiming 0x20000 = 1 ∧ entryAt reclaiming 0x20010 = 0x60000 ∧
      entryAt reclaiming 0x20018 = 0x50000 ∧ number 4 (fun i => reclaiming.mem.get 0 (0x50000 + i)) = 1 ∧ entryAt reclaiming 0x40000 = 0 ∧ entryAt reclaiming 0x40008 = 4) ∧
    (∀ m : SMap Byte, (∀ x, (x < 0x50000 ∨ 0x50004 ≤ x) → (x < 0x40000 ∨ 0x40008 ≤ x) → m.get 0 x = reclaiming.mem.get 0 x) →
      ∀ va z, At reclaiming va xr z → At { reclaiming with mem := m } va xr z) ∧
    (∀ e a, ¬ Translates reclaiming 0x10000 0 e a) :=
  ⟨by decide +kernel, by decide +kernel, by decide +kernel, by decide +kernel,
   fun va hv => by
     simp only [List.mem_cons, List.not_mem_nil, or_false] at hv
     rcases hv with rfl | rfl | rfl | rfl | rfl | rfl | rfl | rfl | rfl <;> exact at_reclaiming _ (by decide) (by decide +kernel),
   by decide +kernel, by decide +kernel, fun m hm => at_kept m fun x h1 h2 => hm x h1 (by omega), no_tables _ _⟩

/-- The bench with a callable at entry 0 and a handle to the vault in h1. -/
def calling (f : Ctx → Ctx := id) : State :=
  let s := ((hd id).updMe f).updTask 0 fun t => { t with img := { t.img with base := 0x100000, ctN := 1 } }
  { s with mem := [(0x100007, 0x80)] }
def slotAt (r : Reply) : State := me fun x => { x with y := [(31, r)] }
def callMsg : CallMsg :=
  { fn := 0, off := 0, args := List.replicate 8 {}, target := { valid := true, r := true, w := true }, extra1 := none, extra2 := none, seq := 5, nth := 5, chip := 0, core := 0, ctx := 0,
    slot := 31, deadline := 1000, task := 0, img := {} }

theorem call_handles (s : State) (n : Nat) (h : s.myTask.map (fun k => decide (n < k.img.handles)) = some true) : handleIn s n := by
  obtain ⟨k, h1, h2⟩ := Option.map_eq_some_iff.mp h
  exact .inr ⟨k, h1, of_decide_eq_true h2⟩

theorem witness_Calls :
    (calling.myTask.isSome = true ∧ calling.myCore.ctx.wf {} = true ∧
      calling.Issues (fun x => x.sReg 1 :: (((List.range 8).filter fun i => (255 : Nat).testBit i).map (fun i => x.sReg (i + 1)) ++ (named 1 2 2 3).map .h)) ∧
      (∀ n ∈ named 1 2 14 15, handleIn calling n) ∧ calling.Clear 6 [.acquire, .earlier false] ∧ calling.myCore.waitingCalls < 32 ∧ (calling.visible.rs 1).poison = false ∧
      (∃ k off, calling.myTask = some k ∧ HasEntry calling k.img 0 off) ∧ (calling.me.y.get {} 31).st = 0 ∧ (calling.visible.me.readH 1).valid = true ∧
      (calling.visible.rs 1).val.toNat < pageOf (calling.visible.me.readH 1).size ∧ (calling.visible.me.readH 1).lost = false ∧
      field 46 2 ((calling.visible.me.readH 1).frame + (calling.visible.rs 1).val.toNat) = 0 ∧ Beside 0 (.vault 0)) ∧
    (((calling (sc 1 0 true)).visible.rs 1).poison = true ∧ (∀ k, bench.myTask = some k → ∀ off, ¬ HasEntry bench k.img 0 off) ∧
      ((slotAt { st := 1 }).me.y.get {} 31).st = 1 ∧ (bench.visible.me.readH 1).valid = false ∧ ((hd fun h => { h with lost := true }).visible.me.readH 1).lost = true ∧
      field 46 2 ((hd fun h => { h with frame := 3 * 2 ^ 46 }).visible.me.readH 1).frame = 3) ∧
    32 ≤ (core fun k => { k with ctx := k.ctx.put {} 1 { y := (List.range 32).map fun i => (i, { st := 1 }) } }).myCore.waitingCalls ∧
    bench.Issues (fun x => (List.range 5).map (fun i => x.sReg (59 + i)) ++ [x.pReg 1]) ∧
    (∀ st ∈ [0, 1, 2], ((slotAt { st := st }).me.y.get {} 31).st = st) ∧ ((slotAt { st := 2, pend := true }).me.y.get {} 31).pend = true ∧
    (∀ status ∈ [0, 1, 4], ((slotAt { st := 2, status := status }).me.y.get {} 31).status = status) ∧
    (MessageIs (sent (.call (.vault 0) callMsg)) 9 (.call (.vault 0) callMsg) ∧ (execOf bench (.vault 0)).seen = [] ∧ callMsg.cmd = none ∧
      ∃ n ∈ (execOf { bench with vaultEx := [(0, { seen := [(0, 0, 5)] })] } (.vault 0)).seen, n.1 = callMsg.chip ∧ n.2.1 = callMsg.core ∧ n.2.2 = callMsg.nth) ∧
    (let s := { bench with vaultEx := [(0, { buf := [(9, callMsg)] })] }
     (execOf s (.vault 0)).buf = (9, callMsg) :: [] ∧ 0 < slotsOf (.vault 0) ∧ (execOf s (.vault 0)).slots = [] ∧ ¬ callMsg.deadline ≤ s.now / 36 ∧ callMsg.target.valid = true) ∧
    (let s := { bench with vaultEx := [(0, { slots := (List.range 8).map fun i => (i, { id := i, msg := callMsg, pc := 0 }) })] }
     ∀ n < slotsOf (.vault 0), ∃ z ∈ (execOf s (.vault 0)).slots, z.1 = n) ∧
    (let s := sent (.reply callMsg 4 0 0 [] false) (slotAt { st := 1, seq := 5 })
     MessageIs s 9 (.reply callMsg 4 0 0 [] false) ∧ (s.cx 0 0).st ≠ .cancelled ∧ (s.cx 0 0).st ≠ .free ∧ ((s.cx 0 0).y.get ({} : Reply) 31).st = 1 ∧ ((s.cx 0 0).y.get ({} : Reply) 31).seq = callMsg.seq) ∧
    (let s := { bench with pendCalls := [(4, callMsg)] }; s.pendCalls.find? (fun e => decide (e.1 = 4)) = some (4, callMsg) ∧ s.callStores = [] ∧ callMsg.chip = s.chip) ∧
    (let s := sent (.notice callMsg) (slotAt { st := 2, seq := 5, pend := true })
     MessageIs s 9 (.notice callMsg) ∧ ((s.cx 0 0).y.get ({} : Reply) 31).st = 2 ∧ ((s.cx 0 0).y.get ({} : Reply) 31).seq = callMsg.seq) ∧
    (let s := { slotAt { st := 1, deadline := 1000 } with now := 36000 }; ((s.cx 0 0).y.get ({} : Reply) 31).deadline ≤ s.now / 36) ∧
    (let z : CallStore := ⟨9, 4, .vaultExec 0 0, 0, [1], false, false⟩
     let s := { bench with callStores := [z] }
     s.callStores.find? (fun e => decide (e.id = 9)) = some z ∧ s.running = true ∧ field 46 2 z.addr < 2 ∧ s.lostAt 0 = false ∧ s.accs = [] ∧
     ∀ u ∈ s.callStores, u.call = z.call → z.id ≤ u.id) := by
  refine ⟨⟨by decide, by decide, issues _ _ (by decide), fun n hn => ?_, clear _ _ _ (by decide), by decide, by decide, ⟨_, 0, rfl, by decide +kernel, by decide +kernel, by decide +kernel⟩,
      by decide, by decide, by decide, by decide, by decide, .inl (by decide)⟩, ⟨by decide, fun k hk off h => ?_, by decide, by decide, by decide, by decide⟩, by decide +kernel,
    issues _ _ (by decide), by decide, by decide, by decide, ⟨by unfold MessageIs; decide, by decide⟩, by decide, by decide +kernel, by unfold MessageIs; decide, by decide,
    by unfold MessageIs; decide, by decide, by decide⟩
  · simp only [named, List.mem_cons] at hn
    rcases hn with rfl | hn
    · exact call_handles _ _ (by decide)
    · simp at hn
      rcases hn with rfl | rfl <;> exact call_handles _ _ (by decide)
  · injection hk with hk
    subst hk
    exact absurd h.1 (by decide)

/-- A call in slot 0 of the executor of vault 0 whose next word is that of `i`. -/
def wordFor (i : Instr) : Word := (encode ⟨false, 0⟩ i).getD 0
def callSlot : CallSlot := { id := 4, msg := { callMsg with img := { textLen := 64 } }, s := [(1, ⟨0x1000, false⟩)], p := [], pc := 0, readyAt := 0 }
def calleeOf (w : Word) : State :=
  { bench with vaultEx := [(0, { slots := [(0, callSlot)] })], mem := writeBytes [] 0 (leBytes 8 w.toNat) }
def calleeWords : List Instr := [.add 1 2 3, .addi 1 1 8, .cmp .eq 1 2 3, .br 0, .ld 8 .rlx .normal 2 ⟨false, 0, 1, 0⟩, .st 8 .rlx .normal 2 ⟨false, 0, 1, 0⟩,
  .amoAdd 8 .rlx .normal 2 ⟨false, 0, 1, 0⟩ 3]

/-- A command of KIND 2 with its callee's result bytes in the vault. -/
def vxCmd (f : Cmd → Cmd := id) : Cmd :=
  f { cmd (2 * 2 ^ 61) with w2 := 2 ^ 60, snaps := [(0, { valid := true, r := true }), (1, { valid := true, w := true })] }

theorem witness_Executors :
    (∀ i ∈ calleeWords, let s := calleeOf (wordFor i)
      (execOf s (.vault 0)).slot 0 = some callSlot ∧ callSlot.words < 4096 ∧ callSlot.readyAt ≤ s.now ∧ callSlot.part = none ∧ s.running = true ∧ s.callStores = [] ∧ s.empty = [] ∧ ahead callSlot 0 = callSlot ∧ callSlot.word < 8 ∧
      callSlot.pc + 64 ≤ callSlot.msg.img.textLen ∧ codeAt s callSlot ≠ 0 ∧ decodeSlot false (homeSlot (codeAt s callSlot).toNat) (codeAt s callSlot) = .ok (⟨false, 0⟩, i)) ∧
    (let t := { callSlot with pc := 64 }; t.msg.img.textLen < t.pc + 64 ∧ t.word < 8) ∧
    (4096 ≤ { callSlot with words := 4096 }.words ∧ ¬ inSubset 0x80 ∧ inSubset 1 ∧ calleeP callSlot 0 ≠ false ∧ (calleeS callSlot 2).poison = false) ∧
    (let w := codeAt (calleeOf 0x8500000008000000) callSlot
     field 54 10 w.toNat = 0x214 ∧ field 41 8 w.toNat = 0 ∧ field 28 13 w.toNat = 0 ∧ field 0 19 w.toNat = 0 ∧ field 25 3 w.toNat = 4) ∧
    (∀ k ∈ [AccKind.load, .store, .rmw], handleCheck (calleeH callSlot 0) (calleeS callSlot 1).val 8 8 k true true = .ok (.home 0x1000 (calleeH callSlot 0) 0x1000)) ∧
    (Beside 0x1000 (.vault 0) ∧ ¬ Beside 0x1000 (.vault 1) ∧ (calleeOf 0).lostAt 0x1000 = false ∧ (calleeOf 0).poisoned 0x1000 8 = false) ∧
    (FirstUnstarted (queued 6 [vxCmd]) 0 6 [] [] vxCmd ∧ Startable (queued 6 [vxCmd]) vxCmd) ∧
    (let m := vxCmd fun m => { m with st := 1, note := true }
     let s := queued 6 [m]
     (cmdsOf s 0 6).find? (fun u => decide (u.id = 100)) = some m ∧ m.st = 1 ∧ m.note = true ∧ m.unchecked = false ∧ s.callStores = [] ∧ (m.snaps.get {} (field 60 4 m.w2.toNat)).frame = 0 ∧
     ∀ k < 4, s.lostAt (8 * k) = false) := by
  refine ⟨by decide +kernel, by decide, ⟨by decide, by unfold inSubset; decide, by unfold inSubset; decide, by decide, by decide⟩, by decide +kernel, by decide +kernel,
    ⟨.inl (by decide), ?_, by decide +kernel, by decide +kernel⟩, ⟨⟨by decide +kernel, by decide, by decide, by decide⟩, by unfold Startable Unheld; decide +kernel⟩, by decide +kernel⟩
  rintro (⟨-, h⟩ | ⟨h, -⟩)
  · exact absurd h (by decide)
  · exact absurd h (by decide)

def inHandler (x : Ctx) : Ctx := { x with hdl := true, frame := { pc := 64 } }
def flying (x : Ctx) : Ctx := { x with inflight := [⟨.s 3, .w 0, false, 0, 9, 0, 0, 0⟩] }

theorem witness_Traps :
    (Outside (bench.cx 0 0) ∧ bench.iss.stepping = false ∧ ({ bench with iss := { bench.iss with stepping := true } } : State).iss.stepping = true ∧ ¬ Outside ((me rt).cx 0 0) ∧
      ¬ Outside ((me inHandler).cx 0 0)) ∧
    (bench.Issues (fun _ => []) ∧ Outside bench.me ∧ ((me fun x => { x with ctl := [(0x0A, 1)] }).visible.me.ctl.get 0 0x0A).getLsbD 0 = true) ∧
    ((me rt).Issues (fun _ => []) ∧ (me rt).me.hdl = false ∧ (me rt).me.mode = true) ∧
    ((me inHandler).me.hdl = true ∧ (me inHandler).visible.me.inflight = [] ∧ (me inHandler).visible.me.frame.pc < 2 ^ 64 ∧
      (me fun x => flying (inHandler x)).visible.me.inflight ≠ [] ∧ (me fun x => flying (rt x)).visible.me.inflight ≠ []) ∧
    ((me fun x => { rt x with ctl := [(0x12, BitVec.twoPow 64 63)] }).visible.me.ctl.get 0 0x12).getLsbD 63 = true ∧ ((me rt).visible.me.ctl.get 0 0x12).getLsbD 63 = false ∧
    (({ bench with iss := { bench.iss with opened := true, words := 2 } } : State).iss.words ≠ 1) :=
  ⟨by unfold Outside; decide, ⟨issues _ _ (by decide), by unfold Outside; decide⟩, ⟨issues _ _ (by decide), by decide⟩, by decide, by decide, by decide, by decide⟩

theorem witness_ContextEvents :
    (let s := sent (.freeze 0 0 0)
     s.msgs.find? (fun m => match m.msg with | .freeze c' x' d => decide (c' = 0 ∧ x' = 0 ∧ d ≤ s.cycle) | _ => false) = some ⟨9, 0, .freeze 0 0 0⟩ ∧ 0 ≤ s.cycle ∧ Live (s.cx 0 0)) ∧
    (∀ own ∈ [none, some (8 : Word)], let s := sent (.guidon 0 0 0 0 own)
      s.msgs.find? (fun m => match m.msg with | .guidon c' x' _ d _ => decide (c' = 0 ∧ x' = 0 ∧ d ≤ s.cycle) | _ => false) = some ⟨9, 0, .guidon 0 0 0 0 own⟩ ∧
      (s.cx 0 0).st ∉ [CState.free, .done, .cancelled, .trapped, .saved]) ∧
    (let p : Watch := { st := 2, owner := 0, addr := 8 }
     (core fun k => { k with wps := [(3, p)] }).myCore.wps = [] ++ (3, p) :: [] ∧ p.st = 2 ∧ p.owner = 0 ∧ p.hitAt = 0) ∧
    (let y := (me fun x => { x with st := .blocked, waits := [.acquire] }).cx 0 0
     y.st = .blocked ∧ y.killNext = false ∧ y.canreq = false ∧ ∀ w ∈ y.waits, (me fun x => { x with st := .blocked, waits := [.acquire] }).holds 0 0 w = false) ∧
    (∀ f ∈ [fun x : Ctx => { x with watch := some 8 }, fun x => { x with xfaults := [⟨1, 8, false, 64, 0⟩] }, fun x => { x with budgetCause := true }, fun x => { x with stepTrap := true }],
      let s := me f
      s.canIssue 0 = true ∧ (s.core 0).stepping = none ∧ (s.core 0).pick s.cycle = some 0 ∧ s.iss.stepping = false ∧ Outside (s.cx 0 0)) ∧
    (let s := me fun x => { x with st := .frozen, stepper := some (0, 1, 0, .p 1) }
     let y := s.cx 0 0
     y.st = .frozen ∧ y.stepper = some (0, 1, 0, .p 1) ∧ y.resv = none ∧ Outside y ∧ y.stepTrap = false ∧ y.watch = none ∧ y.xfaults = [] ∧ y.budgetCause = false ∧
     y.syncHold = none ∧ y.pend = [] ∧ (y.ctl.get 0 0x0A).getLsbD 0 = false ∧ y.snap = [] ∧ y.inflight = [] ∧ s.fetchOk 0 0 = true ∧ ∀ i < 8, (s.core 0).slotWord y.f0 i = 0) := by
  unfold Live Outside
  refine ⟨by decide +kernel, fun own ho => ?_, by decide +kernel, by decide +kernel, fun f hf => ?_, by decide +kernel⟩
  · simp only [List.mem_cons, List.not_mem_nil, or_false] at ho
    rcases ho with rfl | rfl <;> exact ⟨by decide +kernel, by decide +kernel⟩
  · simp only [List.mem_cons, List.not_mem_nil, or_false] at hf
    rcases hf with rfl | rfl | rfl | rfl <;> decide +kernel

def debugging (w : Word) (other : Ctx → Ctx := id) : State := (me fun x => sc 1 w false (rt x)).updCx 0 1 other

theorem witness_DebugInstructions :
    (bench.me.mode = false ∧ bench.iss.opened = false) ∧
    ((debugging 1).me.mode = true ∧ (debugging 1).Issues (fun x => [x.sReg 1, x.pReg 1]) ∧ ((debugging 1).visible.rs 1).poison = false ∧
      field 2 30 ((debugging 1).visible.rs 1).val.toNat = 0 ∧ field 39 25 ((debugging 1).visible.rs 1).val.toNat = 0 ∧ ¬ Live ((debugging 1).cx 0 1) ∧
      Live ((debugging 1 fun y => { y with st := .ready }).cx 0 1) ∧ ((debugging 1 fun y => { y with st := .frozen }).cx 0 1).st = .frozen ∧ ((debugging 1).cx 0 1).stepper = none) ∧
    ((((me rt).updMe (sc 1 0 true)).visible.rs 1).poison = true ∧ field 2 30 ((debugging 4).visible.rs 1).val.toNat ≠ 0 ∧ field 39 25 ((debugging (2 ^ 39)).visible.rs 1).val.toNat ≠ 0) ∧
    ((debugging 8).myTask.isSome = true ∧ (debugging 8).Issues (fun x => [x.sReg 1]) ∧ Watched 0 ((debugging 8).visible.rs 1).val false 8 ∧
      Watched 0 ((debugging (2 ^ 63 + 2 ^ 23 - 8)).visible.rs 1).val true (2 ^ 23 - 8) ∧ (∀ sp ad, ¬ Watched 0 ((debugging 4).visible.rs 1).val sp ad) ∧
      (debugging 8).Issues (fun _ => [])) ∧
    (let s := core fun k => { k with wps := [(0, { st := 1, kinds := 6, addr := 8, dsel := 63 })] }
     let s := { s with doms := [(63, { valid := true, cores := 2, ctxs := [(1, 1)] })] }
     let w := (s.core 0).wps.get {} 0
     w.sp = false ∧ 15 < w.addr + 8 ∧ w.addr < 16 ∧ w.kinds.testBit (4 / 2) = true ∧ w.kinds.testBit (2 / 2) = true ∧ w.st = 1 ∧ agentOf (.host) = (5, 0, 0) ∧ Chosen s 0 w 1 0) := by
  refine ⟨by decide, ⟨by decide, issues _ _ (by decide), by decide, by decide, by decide, by unfold Live; decide, by unfold Live; decide, by decide, by decide⟩, by decide +kernel,
    ⟨by decide, issues _ _ (by decide), ⟨by decide +kernel, by decide +kernel, by decide +kernel, by decide +kernel⟩, ⟨by decide +kernel, by decide +kernel, by decide +kernel, by decide +kernel⟩,
      ?_, issues _ _ (by decide)⟩, ⟨by decide, by decide, by decide, by decide, by decide, by decide, by decide, ?_⟩⟩
  · rintro sp ad ⟨h, -⟩
    exact absurd h (by decide)
  · exact (if_pos (by decide)).mpr ⟨by unfold InMasks; decide, by decide, by decide⟩

/-- An earlier access of the context, far or near. -/
def behindOne (near : Bool) : State :=
  ({ bench with accs := [{ acc .load (.phys (2 ^ 31)) with near := near }] } : State).updMe fun x => { x with step := 1 }

theorem witness_FencesAndHints :
    bench.Issues (fun _ => []) ∧ bench.accs = [] ∧ bench.me.dloss = none ∧ (me fun x => { x with dloss := some 8 }).me.dloss = some 8 ∧
    (∃ a ∈ (behindOne false).accs, a.core = 0 ∧ a.ctx = 0 ∧ a.step < (behindOne false).me.step ∧ a.near = false ∧ ∃ p, a.place = .phys p) ∧
    (∃ a ∈ (behindOne true).accs, a.core = 0 ∧ a.ctx = 0 ∧ a.step < (behindOne true).me.step) ∧ (∀ a ∈ (behindOne true).accs, a.near ≠ false) ∧
    (let s := me fun x => { x with canreq := true }; s.me.canreq = true ∧ Outside s.me ∧ s.NoStep) ∧
    (bench.iss.opened = false ∧ bench.visible.me.mode = false) ∧
    (let s := me fun x => { rt x with diag := true }; s.visible.me.mode = true ∧ s.visible.me.diag = true ∧ s.Issues (fun x => [x.sReg 3])) :=
  ⟨issues _ _ (by decide), by decide, by decide, by decide, ⟨_, List.mem_cons_self, by decide, by decide, by decide, by decide, ⟨_, rfl⟩⟩,
   ⟨_, List.mem_cons_self, by decide, by decide, by decide⟩, by decide, ⟨by decide, by unfold Outside; decide, .inl (by decide)⟩, by decide,
   ⟨by decide, by decide, issues _ _ (by decide)⟩⟩

/-- Two results for one register due together, of which the one of the higher slot stands. -/
theorem witness_ResultsAtIssue :
    bench.NoStep ∧ bench.visible.me.task = some 0 ∧
    (let a : Res := ⟨.s 3, .w 1, false, fnx, 4, 0, 3, 3⟩
     let b : Res := ⟨.s 3, .w 2, true, fuf, 4, 1, 3, 3⟩
     let x : Ctx := { step := 4, inflight := [a, b, ⟨.s 5, .w 7, false, 0, 5, 0, 3, 3⟩] }
     a ∈ x.inflight ∧ a.due ≤ x.step ∧ b.due ≤ x.step ∧ a.reg = b.reg ∧ a.due = b.due ∧ a.slot < b.slot ∧ ∀ r ∈ x.inflight, r.due ≤ x.step → r.reg ≠ .ctl 1) :=
  ⟨.inl (by decide), by decide, by decide⟩

theorem witness_KernelInstructions :
    bench.Issues (fun _ => []) ∧ (∃ a ∈ (behindOne false).accs, a.near = false ∧ ∃ p, a.place = .phys p) ∧ bench.accs = [] ∧ bench.me.dloss = none ∧
    bench.myTask.bind (fun k => bench.launches.get none k.launch) ≠ none ∧ (bench.me.task = some 0 ∧ (bench.tasks.get none 0).isSome = true) ∧
    (me (sc 1 (2 ^ 48 - 1))).Issues (fun x => [x.sReg 1]) ∧ field 48 16 ((me (sc 1 (2 ^ 48 - 1))).visible.rs 1).val.toNat = 0 ∧
    field 48 16 ((me (sc 1 (2 ^ 48))).visible.rs 1).val.toNat ≠ 0 ∧ ((me (sc 1 0 true)).visible.rs 1).poison = true ∧
    bench.Issues (fun x => [x.sReg 4, x.sReg 5, x.sReg 6, x.sReg 7, x.pReg 1]) ∧ (∀ i < 4, (bench.visible.rs (4 + i)).poison = false) ∧
    ¬ (∀ i < 4, ((me (sc 7 0 true)).visible.rs (4 + i)).poison = false) ∧ Word0 ((me (sc 4 0x1FF00)).visible.rs 4).val ∧ ¬ Word0 (bench.visible.rs 4).val :=
  ⟨issues _ _ (by decide), ⟨_, List.mem_cons_self, by decide, ⟨_, rfl⟩⟩, by decide, by decide, by decide, by decide, issues _ _ (by decide), by decide +kernel, by decide +kernel,
   by decide, issues _ _ (by decide), by decide, by decide, by unfold Word0; decide +kernel, by unfold Word0; decide +kernel⟩

def rec_ (seq : Nat) (w0 : Nat) : Record := ⟨seq, wordOf w0 :: List.replicate 15 0, 0, 0, none⟩
def ring (head tail : Nat) : State :=
  { bench with crEn := true, crHead := head, crTail := tail, holding := [{ words := List.replicate 16 1, cmd := some (0, 100) }] }

theorem witness_LaunchQueuesAndRing :
    (0x1F000 / 0x1000 < 32 ∧ 0x1FF80 % 128 = 0 ∧ 32 ≤ 0x20000 / 0x1000 ∧ ¬ 0x1F008 % 128 = 0 ∧ (List.replicate 16 (0 : Word)).length = 16) ∧
    (let s := { bench with aperture := [(31, List.replicate 16 0)] }; s.aperture = (31, List.replicate 16 0) :: []) ∧
    ((ring 31 0).crEn = true ∧ ((ring 31 0).crHead + 2 ^ 32 - (ring 31 0).crTail) % 2 ^ 32 < ringEntries (ring 31 0) ∧
      ¬ ((ring 32 0).crHead + 2 ^ 32 - (ring 32 0).crTail) % 2 ^ 32 < ringEntries (ring 32 0) ∧
      ((ring 5 (2 ^ 32 - 26)).crHead + 2 ^ 32 - (ring 5 (2 ^ 32 - 26)).crTail) % 2 ^ 32 < ringEntries (ring 5 (2 ^ 32 - 26)) ∧ bench.holding = []) := by
  decide +kernel

/-! Placement, preemption, checkpoints, ends, halyards, links, management, decoding, the turns of the agenda -/

/-- The kernel table at 0x10000 whose entry 0 names the image at 0x20000: one context, bank 0, four handles, 64 bytes of text at offset 0x100. -/
def imgMem : SMap Byte := [(0x2000, 1), (0x2001, 0x40), (0x4000, 0x0B), (0x4001, 1), (0x10002, 2), (0x10009, 0x10), (0x1000F, 0x80), (0x20000, 0x4D), (0x20001, 0x42), (0x20002, 0x41),
  (0x20003, 0x54), (0x20004, 0x45), (0x20005, 0x58), (0x20007, 1), (0x20008, 1), (0x20019, 1), (0x2001C, 64), (0x20030, 1), (0x20032, 1), (0x20033, 4), (0x20036, 0xFF)]
def img : Image := { base := 0x20000, len := 0x1000, textOff := 0x100, textLen := 64, banks := 1, handles := 4 }

/-- A record of one task with one input copy of 64 bytes to an offset of the scratchpad. -/
def asking (w0 : Nat := 0x1FF00) (place : Nat := 0) : Record :=
  ⟨0, [wordOf w0, 0, 0, 0, xr, 0, 0x30000, wordOf (2 ^ 63 + 64 * 2 ^ 24 + place)] ++ List.replicate 8 0, 0, 0, none⟩

/-- No task is placed; preloading is allowed or not. -/
def free (preload : Bool := false) : State := { bench with tasks := [], launches := [], preload := preload }

/-- The scheduler with one record; core 0 is out of reset, the others are not. -/
def placing (r : Record) (s : State := free) : State :=
  { s with mem := imgMem, ktBase := 0x10001, lqs := [(0, { recs := [r] })], cores := [(0, { inReset := false })], mg := { s.mg with power := .a0 } }

theorem turns_of (s : State) (r : Record) (h1 : s.ktBase.getLsbD 0 = true ∧ s.holding.length < 512 ∧ s.mg.power = .a0 ∧ s.mg.capHold = false)
    (h2 : s.lqs = [(0, { recs := [r] })]) : Turns s r := by
  refine ⟨h1.1, h1.2.1, by rw [h1.2.2.1]; decide, h1.2.2.2, ⟨_, by rw [h2]; exact List.mem_cons_self, List.mem_cons_self⟩, fun e he r' hr hn => ?_⟩
  rw [h2] at he
  obtain rfl := List.mem_singleton.mp he
  exact absurd (List.mem_singleton.mp hr) hn

theorem image_of (s : State) (h : s.mem = imgMem ∧ s.ktBase = 0x10001) : ImageAt s 0 img := by
  unfold ImageAt memNum
  rw [h.1, h.2]
  repeat refine ⟨by decide +kernel, ?_⟩
  exact ⟨fun low _ o ho => absurd ho (by simp [img]), by unfold bundleOf; decide, nofun, fun i hi => absurd hi (by simp [img])⟩

/-- A core out of reset whose tasks are all gone has room at its start. -/
theorem room_of (s : State) (m : Image) (old : Option Nat) (gone : List Nat) (h : (s.core 0).inReset = false) (hn : ∀ k, ¬ Holder s 0 gone k) (h1 : m.ctx = 1) (h2 : m.tiles = 0)
    (h3 : m.textLen ≤ 0x3C000) (ho : ∀ a, old = some a → a = 0) : Room s 0 m old gone ⟨0, [0], [], 0⟩ := by
  have hf : ∀ (f : Task → List Nat) (n : Nat) (d : ∀ x : Nat, Decidable (∀ k, Holder s 0 gone k → x ∉ f k)),
      (List.range n).filter (fun x => @decide (∀ k, Holder s 0 gone k → x ∉ f k) (d x)) = List.range n := fun f n d =>
    List.filter_eq_self.mpr fun x _ => @decide_eq_true _ (d x) fun k hk => absurd hk (hn k)
  refine ⟨h, rfl, fun k hk => absurd hk (hn k), ?_, by rw [h1]; rfl, ?_, by rw [h2]; rfl, ⟨by show 0 + m.textLen ≤ 0x3C000; omega, fun k hk => absurd hk (hn k)⟩, fun a ha => (ho a ha).symm, fun _ a ha => absurd ha (Nat.not_lt_zero a)⟩
  · simp only [hf, h1]; rfl
  · simp only [hf, h2]; rfl

theorem no_room (s : State) (c : Nat) (m : Image) (old : Option Nat) (gone : List Nat) (p : Spot) (h : (s.core c).inReset = true) : ¬ Room s c m old gone p :=
  fun hr => by rw [hr.1] at h; exact absurd h (by decide)

theorem placing_core (r : Record) (s : State) (c : Nat) (h : c ≠ 0) : ((placing r s).core c).inReset = true := by
  have : (placing r s).core c = {} := if_neg fun e => h e.symm
  rw [this]

theorem first_place (s : State) (m : Image) (gone : List Nat) (hr : Room s 0 m none gone ⟨0, [0], [], 0⟩) (hc : ∀ c, c ≠ 0 → (s.core c).inReset = true) :
    FirstPlace s 0 m gone ⟨0, [0], [], 0⟩ := by
  refine ⟨show 0 < 128 by decide, hr, fun c _ h2 h3 => ?_⟩
  obtain ⟨q, hq⟩ := h3
  exact absurd hq (no_room s c m none gone q (hc c h2))

theorem no_holder (r : Record) (b : Bool) (c : Nat) (gone : List Nat) (k : Task) : ¬ Holder (placing r (free b)) c gone k := fun ⟨_, h, _⟩ => by cases h

theorem reads_placing (r : Record) (s : State) (va : Word) (hv : va.toNat < 2 ^ 33) (hr : recordWord r 4 = xr) (hl : (placing r s).lostAt va.toNat = false)
    (hb : (placing r s).badRange 0x2000 (2 ^ 13) false = false ∧ (placing r s).badRange 0x4000 (2 ^ 13) false = false ∧ (placing r s).badRange 0 (2 ^ 33) false = false)
    (hp : (placing r s).poisoned 0x2000 8 = false ∧ (placing r s).poisoned 0x4000 8 = false) : Reads (placing r s) r va va.toNat := by
  have he : entryAt (placing r s) 0x2000 = 0x4001 ∧ entryAt (placing r s) 0x4000 = 0x10B := by
    have h1 : number 8 (fun i => imgMem.get 0 (0x2000 + i)) = 0x4001 := by decide +kernel
    have h2 : number 8 (fun i => imgMem.get 0 (0x4000 + i)) = 0x10B := by decide +kernel
    exact ⟨h1, h2⟩
  refine ⟨0x10B, 0x4000, ?_, by decide, by decide, hl, ?_⟩
  · rw [hr]
    exact translates_of _ _ hv he.1 he.2 hp hb.1 ⟨by decide, by decide, by decide, by decide, by decide, by decide, hb.2.1⟩
      ⟨by decide, by decide, by decide, by decide, by decide, by decide, by decide, by decide, by decide, hb.2.2⟩
  · have h1 : field 13 35 0x10B = 0 := by decide
    have h2 : pageOf (field 2 2 0x10B) = 2 ^ 33 := by decide
    rw [h1, h2]
    omega

theorem asking_copies (place i : Nat) (hp : place = 0 ∨ place = 0x200000) (h : copyValid (asking 0x1FF00 place) i) :
    i = 0 ∧ lengthOf (asking 0x1FF00 place) i = 64 ∧ placeOf (asking 0x1FF00 place) i = place := by
  have : i < 5 := h.1
  have h2 := h.2
  rcases hp with rfl | rfl <;> interval_cases i <;> first | exact absurd h2 (by decide) | decide

theorem asking_ok (place : Nat) (hp : place = 0 ∨ place = 0x200000) : RecordOk (asking 0x1FF00 place) := by
  rcases hp with rfl | rfl <;> unfold RecordOk Word0 copyValid <;> decide +kernel

theorem asking_reads (b : Bool) (i : Nat) (h : copyValid (asking) i) (o : Nat) (ho : o < lengthOf (asking) i) :
    ∃ q, Reads (placing (asking) (free b)) (asking) (recordWord (asking) (6 + 2 * i) + wordOf o) q := by
  obtain ⟨rfl, h1, -⟩ := asking_copies 0 i (.inl rfl) h
  rw [h1] at ho
  refine ⟨_, reads_placing _ _ _ ?_ (by decide) ?_ (by cases b <;> decide +kernel) (by cases b <;> decide +kernel)⟩
  · interval_cases o <;> decide +kernel
  · cases b <;> interval_cases o <;> decide +kernel

theorem asking_inside (i o : Nat) (h : Covers (asking) i o) : o < 2 ^ 23 ∧ img.banks.testBit (o / 2 ^ 21) = true := by
  obtain ⟨rfl, h1, h2⟩ := asking_copies 0 i (.inl rfl) h.1
  have h3 := h.2
  rw [h1, h2] at h3
  have : o / 2 ^ 21 = 0 := by omega
  exact ⟨by omega, by rw [this]; rfl⟩

theorem witness_DispatchAndPreloading :
    bench.ktBase.getLsbD 0 = false ∧ (Turns (placing (asking 1)) (asking 1) ∧ ¬ RecordOk (asking 1)) ∧
    (let r := asking (0x1FF00 + 2 ^ 52); Turns (placing r) r ∧ r.resume = none ∧ RecordOk r ∧ ∀ m, ¬ ImageAt (placing r) (r0 r 52 12) m) ∧
    (∀ place ∈ [0, 0x200000], let r := asking 0x1FF00 place
      Turns (placing r) r ∧ r.resume = none ∧ RecordOk r ∧ ImageAt (placing r) (r0 r 52 12) img ∧ r0 r 39 1 = 0 ∧ r0 r 16 9 = 1 ∧ r0 r 8 8 = 0xFF ∧
      Preferred (placing r) r (fun c => ∃ q, Room (placing r) c img none [] q) 0 ∧ FirstPlace (placing r) 0 img [] ⟨0, [0], [], 0⟩) ∧
    ¬ (∀ i o, Covers (asking 0x1FF00 0x200000) i o → o < 2 ^ 23 ∧ img.banks.testBit (o / 2 ^ 21) = true) ∧
    (∀ i o, Covers (asking) i o → o < 2 ^ 23 ∧ img.banks.testBit (o / 2 ^ 21) = true) ∧
    (∀ i, copyValid (asking) i → ∀ o < lengthOf (asking) i, ∃ q, Reads (placing (asking)) (asking) (recordWord (asking) (6 + 2 * i) + wordOf o) q) ∧
    (placing (asking)).memWf = true ∧ Tidy ((placing (asking)).core 0) ∧
    (∀ b, let s := placing (asking) (free b)
     let r := asking
     First s r ∧ r.lq = 0 ∧ r.seq = 0 ∧ r.resume = none ∧ RecordOk r ∧ ImageAt s (r0 r 52 12) img ∧ (∀ n, n ∈ [] ↔ ∃ k, (n, some k) ∈ s.tasks ∧ k.core = 0 ∧ k.freed = false ∧ k.saved = false) ∧
     Preferred s r (fun c => ∃ q, Room s c img none [] q) 0 ∧ FirstPlace s 0 img [] ⟨0, [0], [], 0⟩ ∧
     (s.preload = b ∧ s.mg.power ∈ [Power.a0, .a1, .a2, .a3] ∧ s.mg.capHold = false ∧ s.ktBase.getLsbD 0 = true ∧ (s.core 0).inReset = false ∧ 0 < 128 ∧
       ∀ k, Holder s 0 [] k → k.img.banks &&& img.banks = 0) ∧
     s.memWf = true ∧ Tidy (s.core 0) ∧ ∀ i, copyValid r i → ∀ o < lengthOf r i, ∃ q, Reads s r (recordWord r (6 + 2 * i) + wordOf o) q) := by
  have hr : ∀ r b, Room (placing r (free b)) 0 img none [] ⟨0, [0], [], 0⟩ := fun r b => room_of _ _ _ _ rfl (no_holder r b 0 []) rfl rfl (by decide) (fun _ h => nomatch h)
  have ht : ∀ b, Turns (placing (asking) (free b)) (asking) := fun b => turns_of _ _ (by cases b <;> decide) rfl
  have hw : ∀ b, (placing (asking) (free b)).memWf = true ∧ Tidy ((placing (asking) (free b)).core 0) := fun b => by unfold Tidy; cases b <;> decide +kernel
  refine ⟨by decide, ⟨turns_of _ _ (by decide) rfl, fun h => absurd h.1.1 (by decide)⟩, ⟨turns_of _ _ (by decide) rfl, rfl, by unfold RecordOk Word0 copyValid; decide +kernel, fun m h => ?_⟩,
    fun place hp => ?_, fun h => ?_, asking_inside, asking_reads false, (hw false).1, (hw false).2, fun b => ⟨(ht b).2.2.2.2, rfl, rfl, rfl, asking_ok 0 (.inl rfl), image_of _ ⟨rfl, rfl⟩,
      fun n => ⟨nofun, fun ⟨_, h, _⟩ => by cases h⟩, .inl ⟨rfl, rfl⟩, first_place _ _ _ (hr _ b) fun c hc => placing_core _ _ c hc,
      ⟨rfl, by cases b <;> decide, rfl, by cases b <;> decide, rfl, by decide, fun k h => absurd h (no_holder _ b 0 [] k)⟩, (hw b).1, (hw b).2, asking_reads b⟩⟩
  · exact absurd h.1 (by decide +kernel)
  · have hp : place = 0 ∨ place = 0x200000 := by simpa using hp
    have h0 : ∀ p, r0 (asking 0x1FF00 p) 52 12 = 0 ∧ r0 (asking 0x1FF00 p) 39 1 = 0 ∧ r0 (asking 0x1FF00 p) 16 9 = 1 ∧ r0 (asking 0x1FF00 p) 8 8 = 0xFF := fun p => by
      change field 52 12 (wordOf 0x1FF00).toNat = 0 ∧ field 39 1 (wordOf 0x1FF00).toNat = 0 ∧ field 16 9 (wordOf 0x1FF00).toNat = 1 ∧ field 8 8 (wordOf 0x1FF00).toNat = 0xFF
      decide
    exact ⟨turns_of _ _ (by rcases hp with rfl | rfl <;> decide) rfl, rfl, asking_ok _ hp, by rw [(h0 place).1]; exact image_of _ ⟨rfl, rfl⟩, (h0 place).2.1, (h0 place).2.2.1, (h0 place).2.2.2, .inl ⟨rfl, rfl⟩,
      first_place _ _ _ (hr _ false) fun c hc => placing_core _ _ c hc⟩
  · exact absurd (h 0 0x200000 ⟨⟨by decide, by decide⟩, by decide, by decide⟩).2 (by decide)

/-- The scheduler with a record of class 1, and a task of class 0 that holds the bank it needs. -/
def victim (est : Nat) (ckpt : Bool) : Task := { launch := 0, core := 0, ctxs := [0], img := { img with ckpt := ckpt }, tiles := [], tb := 0, est := est }
def urgent : Record := asking (0x1FF00 + 2 ^ 49)
def oldLaunch : Launch := { seq := 0, lq := 0, words := [], kid := 0, cls := 0, img := img, tasks := [0] }
def crowded (est : Nat) (ckpt : Bool) : State :=
  (placing urgent { bench with tasks := [(0, some (victim est ckpt))], launches := [(0, some oldLaunch)], drainThr := 5, preempt := true }).updCore 0 fun k =>
    { k with ctx := [(0, { st := .running })], ctxsave := [(0, 0x1000001)] }

theorem crowded_core (est : Nat) (ckpt : Bool) (c : Nat) (h : c ≠ 0) : ((crowded est ckpt).core c).inReset = true := by
  have : (crowded est ckpt).core c = {} := if_neg fun e => h e.symm
  rw [this]

theorem crowded_holds (est : Nat) (ckpt : Bool) : Holder (crowded est ckpt) 0 [] (victim est ckpt) := ⟨0, List.mem_cons_self, by decide, rfl, rfl, rfl⟩

theorem witness_Preemption : ∀ e ∈ [(0, true), (100, true), (100, false)], let s := crowded e.1 e.2
    let k := victim e.1 e.2
    Turns s urgent ∧ urgent.resume = none ∧ RecordOk urgent ∧ ImageAt s (r0 urgent 52 12) img ∧ r0 urgent 39 1 = 0 ∧ r0 urgent 16 9 = 1 ∧ r0 urgent 8 8 = 0xFF ∧
    Preferred s urgent (fun _ => False) 0 ∧ (∀ c p, ¬ Room s c img none [] p) ∧ (∀ e ∈ s.lqs, ∀ r' ∈ e.2.recs, r' = urgent) ∧ s.preempt = true ∧
    FirstVictim s urgent 0 0 k oldLaunch ∧ (∃ c < 128, ∃ p, Room s c img none [0] p) ∧ s.tasks.get none 0 = some k ∧ (∀ e ∈ s.tasks, e.1 = 0 → e.2 = some k) ∧
    k.ended = false ∧ k.saving = false ∧ (∃ x ∈ k.ctxs, (s.cx k.core x).st ∉ [CState.done, .cancelled]) ∧ urgent.seq ∉ k.drain ∧
    (k.est - (s.cycle - k.estAt) ≤ s.drainThr ↔ e.1 = 0) ∧
    (((s.core k.core).ctxsave.get 0 0).getLsbD 0 = true ∧ k.sib = none ∧ (s.cx 0 0).mode = false ∧ (s.cx 0 0).hdl = false ∧ (s.cx 0 0).st = .running) := by
  intro e he s k
  have hs : s = crowded e.1 e.2 := rfl
  have hr : Room s 0 img none [0] ⟨0, [0], [], 0⟩ := room_of _ _ _ _ rfl (fun k hk => by
    obtain ⟨n, hn, hg, -⟩ := hk
    have := List.mem_singleton.mp hn
    injection this with h1 _
    exact hg (by simp [h1])) rfl rfl (by decide) (fun _ h => nomatch h)
  refine ⟨turns_of _ _ ⟨show (0x10001 : Word).getLsbD 0 = true by decide, show bench.holding.length < 512 by decide, rfl, rfl⟩ rfl, rfl, by unfold RecordOk Word0 copyValid; decide +kernel, image_of _ ⟨rfl, rfl⟩, rfl, rfl, rfl, .inl ⟨rfl, rfl⟩, fun c p hp => ?_, ?_,
    rfl, ⟨⟨List.mem_cons_self, rfl, rfl, rfl, by decide, by decide⟩, show 0 < 128 by decide, fun n' k' l' h hn => ?_⟩, ⟨0, by decide, _, hr⟩, rfl, ?_, rfl, rfl, ⟨0, List.mem_cons_self, show CState.running ∉ [CState.done, .cancelled] by decide⟩, List.not_mem_nil, ?_,
    show (0x1000001 : Word).getLsbD 0 = true by decide, rfl, rfl, rfl, rfl⟩
  · by_cases hc : c = 0
    · subst hc
      have := (hp.2.2.1 _ (crowded_holds e.1 e.2)).2.1
      exact absurd this (by change ¬ (1 &&& 1 = 0); decide)
    · exact no_room s c img none [] p (crowded_core _ _ c hc) hp
  · exact fun e he r' hr => by obtain rfl := List.mem_singleton.mp he; exact List.mem_singleton.mp hr
  · have := List.mem_singleton.mp h.1
    injection this with h1 _
    exact absurd h1 hn
  · exact fun e he _ => by obtain rfl := List.mem_singleton.mp he; rfl
  · have : e.1 = 0 ∨ e.1 = 100 := by rcases List.mem_cons.mp he with rfl | h <;> [exact .inl rfl; exact .inr (by simp at h; rcases h with rfl | rfl <;> rfl)]
    change e.1 - (bench.cycle - 0) ≤ 5 ↔ e.1 = 0
    have hb : bench.cycle = 0 := by decide
    omega

/-- A task that is being saved, and one that has been. -/
def saved (k : Task → Task) : State :=
  let r : Record := { asking with resume := some 0 }
  placing r { bench with tasks := [(0, some (k (victim 0 true)))], launches := [(0, some oldLaunch)] }

def laid (k : Task) : Task := { k with saved := true, bases := [0x1000000] }
def returning : Record := { asking with resume := some 0 }
def resumable (po : Bool) : State := { saved laid with poison := if po then [(0x40000, true)] else [] }

theorem witness_CheckpointAndResumption :
    (victim 0 true).saving = false ∧
    (let s := (saved fun k => { k with saving := true }).updCore 0 fun k => { k with ctx := [(0, { st := .ready, f0 := 64, y := [(7, { st := 2 })] })], ctxsave := [(0, 0x1000001)] }
     let k : Task := { victim 0 true with saving := true }
     s.tasks.get none 0 = some k ∧ k.ctxs = [0] ∧ k.tiles = [] ∧ k.img.tiles = 0 ∧ k.img.semHi < 256 ∧ s.launches.get none k.launch = some oldLaunch ∧ Still s k.core 0 ∧
       (Outside (s.cx 0 0) ∧ (s.cx 0 0).st ≠ .trapped ∧ (s.cx 0 0).st ≠ .frozen) ∧ (∃ e ∈ (s.cx 0 0).y, e.2.st = 2) ∧ (∀ e ∈ (s.cx 0 0).y, e.2.st ≠ 1 ∧ e.2.pend = false) ∧
       (s.cx 0 0).pend = [] ∧ (s.cx 0 0).resv = none ∧ Bounded (s.cx 0 0) ∧ s.memWf = true ∧ (s.core 0).spad.wf 0 = true ∧ (s.cx 0 0).f0 < 2 ^ 64 ∧ k.budget < 2 ^ 64) ∧
    ∀ poison : Bool, let s := resumable poison
      let r := returning
      let k := laid (victim 0 true)
      Turns s r ∧ s.tasks.get none 0 = some k ∧ k.cmds = [] ∧ k.img.ctx = 1 ∧ (∀ e ∈ s.tasks, ∀ j, e.2 = some j → j.launch = k.launch → j = k ∨ j.freed = true) ∧ k.freed = false ∧ k.saved = true ∧
      s.launches.get none k.launch = some oldLaunch ∧ Preferred s r (fun c => ∃ q, Room s c k.img (some k.tb) [] q) 0 ∧ Room s 0 k.img (some k.tb) [] ⟨0, [0], [], 0⟩ ∧
      (∀ c < 128, c ≠ 0 → (∃ q, Room s c k.img (some k.tb) [] q) → Nearer 0 0 c) ∧ s.poisoned 0x1000000 0x150 = poison ∧
      (poison = false → (∀ i < 16, (memNum s (0x1000000 + 0x600 + 16 * i) 8).testBit 63 = false) ∧ (∀ i < 64, (memNum s (0x1000000 + 0x1000 + 8 * i) 8).testBit 36 = false) ∧
        s.memWf = true ∧ Tidy (s.core 0) ∧ s.lostAt (0x1000000 + 0x10000) = false) := by
  refine ⟨rfl, ⟨by decide +kernel, rfl, rfl, rfl, by decide, by decide +kernel, by unfold Still; decide +kernel, by unfold Outside; decide +kernel, ⟨_, List.mem_cons_self, by decide⟩, by decide +kernel,
    by decide +kernel, by decide +kernel, by unfold Bounded; decide +kernel, by decide +kernel,
    by decide +kernel, by decide +kernel, by decide⟩, ?_⟩
  intro poison s r k
  have hh : ∀ c j, ¬ Holder s c [] j := fun c j ⟨n, hn, _, _, _, hs⟩ => by
    have hm : s.tasks = [(0, some (laid (victim 0 true)))] := rfl
    rw [hm] at hn
    have := List.mem_singleton.mp hn
    injection this with _ h2
    injection h2 with h3
    rw [h3] at hs
    exact absurd hs (by decide)
  have hc : ∀ c, c ≠ 0 → (s.core c).inReset = true := fun c h => by
    have : s.core c = {} := if_neg fun e => h e.symm
    rw [this]
  have hz : ∀ b, 0x1000000 ≤ b → memNum s b 8 = 0 := fun b hb => by
    have := entry_unlisted s b fun e he => by
      have hm : ∀ u ∈ imgMem, u.1 < 0x1000000 := by decide +kernel
      have he : e ∈ imgMem := he
      have := hm e he
      omega
    exact this
  refine ⟨turns_of _ _ (by cases poison <;> decide +kernel) rfl, rfl, rfl, rfl, ?_, rfl, rfl, rfl, .inl ⟨rfl, rfl⟩,
    room_of _ _ _ _ rfl (hh 0) rfl rfl (by decide) (fun a ha => by injection ha with ha; exact ha.symm), fun c _ h ⟨q, hq⟩ => absurd hq (no_room _ _ _ _ _ _ (hc c h)),
    by cases poison <;> decide +kernel, fun hp => ?_⟩
  · intro e he j hj _
    have he : e ∈ [(0, some (laid (victim 0 true)))] := he
    obtain rfl := List.mem_singleton.mp he
    injection hj with hj
    exact .inl hj.symm
  · subst hp
    exact ⟨fun i _ => by rw [hz _ (by omega)]; rfl, fun i _ => by rw [hz _ (by omega)]; rfl, by decide +kernel, by unfold Tidy; decide +kernel, by decide +kernel⟩

def ending (f : Task → Task) (y : Ctx → Ctx := fun y => { y with st := .done }) : State := (me y).updTask 0 f
def endedTask (t : Task) : Task := { t with ended := true }
def freedTask (t : Task) : Task := { t with ended := true, freed := true }
def trappedAs (esc : Option (Bool × Nat)) : State := me fun y => { y with st := .trapped, esc := esc, task := some 0 }

theorem witness_TaskAndLaunchEnds :
    (∃ k, bench.tasks.get none 0 = some k ∧ k.expired = false ∧ k.ended = false ∧ k.saved = false ∧ k.freed = false ∧ k.saving = false ∧ ¬ Ended bench k ∧ (bench.launches.get none k.launch).isSome = true) ∧
    (∃ k, (task fun t => { t with expired := true, saved := true }).tasks.get none 0 = some k ∧ k.saved = true) ∧
    (∃ k, (task fun t => { t with expired := true }).tasks.get none 0 = some k ∧ k.expired = true ∧ k.saved = false) ∧
    ((bench.cx 0 0).st ≠ .trapped) ∧
    (∀ esc ∈ [some (false, 300), some (true, 1)], ((trappedAs esc).cx 0 0).st = .trapped ∧ ((trappedAs esc).cx 0 0).esc = esc ∧ ((trappedAs esc).cx 0 0).task = some 0 ∧
      ((trappedAs esc).tasks.get none 0).map (fun k => (k.saved, k.freed, k.saving, ((trappedAs esc).launches.get none k.launch).isSome)) = some (false, false, false, true)) ∧
    (∃ k, (ending id).tasks.get none 0 = some k ∧ k.ended = false ∧ Ended (ending id) k) ∧
    (let s := ending endedTask
     ∃ k, s.tasks.get none 0 = some k ∧ k.ended = true ∧ k.freed = false ∧ (∀ a ∈ s.accs, ¬ (a.core = k.core ∧ a.ctx ∈ k.ctxs)) ∧ (∀ q < 8, ∀ m ∈ cmdsOf s k.core q, m.task ≠ 0) ∧
       (∀ b ∈ s.beats, ¬ (b.core = k.core ∧ k.img.queues.testBit b.q = true)) ∧ (∀ o ∈ (s.core k.core).mq, o.ctx ∉ k.ctxs) ∧ (∀ w ∈ (s.core k.core).pipe, w.tile ∉ k.tiles) ∧ k.ctxs.Nodup) ∧
    (let s := { ending endedTask with accs := [acc .load (.spad 0 0)] }
     ∃ k, s.tasks.get none 0 = some k ∧ k.ended = true ∧ k.freed = false ∧ ∃ a ∈ s.accs, a.core = k.core ∧ a.ctx ∈ k.ctxs) ∧
    (let s := { ending endedTask with beats := [⟨0, 0, 3, 0, none, 0, []⟩] }
     ∃ k, s.tasks.get none 0 = some k ∧ k.ended = true ∧ k.freed = false ∧ ∃ b ∈ s.beats, b.core = k.core ∧ k.img.queues.testBit b.q = true) ∧
    (let s := ending freedTask
     ∃ k l, s.tasks.get none 0 = some k ∧ k.ended = true ∧ k.freed = true ∧ s.launches.get none k.launch = some l ∧ l.ballot = none ∧
       ∀ j ∈ l.tasks, ∀ u, s.tasks.get none j = some u → u.freed = true ∧ s.callsOpen j = false ∧ ∀ e ∈ s.pendCalls, e.2.task ≠ j) ∧
    (let s := { ending freedTask with pendCalls := [(4, callMsg)] }
     ∃ k l, s.tasks.get none 0 = some k ∧ k.ended = true ∧ k.freed = true ∧ s.launches.get none k.launch = some l ∧ l.tasks = [0] ∧ ∃ e ∈ s.pendCalls, e.2.task = 0) ∧
    (endingOf oldLaunch false = some (0, 0) ∧ endingOf { oldLaunch with failed := true, retry := true, words := [wordOf (2 ^ 40)] } false = none) := by
  refine ⟨⟨_, rfl, by decide, by decide, by decide, by decide, by decide, fun h => ?_, by decide⟩, ⟨_, rfl, by decide⟩, ⟨_, rfl, by decide, by decide⟩, by decide, by decide +kernel,
    ⟨_, rfl, by decide, by unfold Ended; decide +kernel⟩, ⟨_, rfl, by decide, by decide, by decide, by decide +kernel, by decide, by decide, by decide, by decide⟩,
    ⟨_, rfl, by decide, by decide, _, List.mem_cons_self, by decide, by decide⟩,
    ⟨_, rfl, by decide, by decide, _, List.mem_cons_self, by decide, by decide⟩, ⟨_, _, rfl, by decide, by decide, rfl, by decide, fun j hj u hu => ?_⟩,
    ⟨_, _, rfl, by decide, by decide, rfl, by decide, _, List.mem_cons_self, by decide⟩, by decide, by decide⟩
  · rcases h.2 0 (by decide) with h | h
    · exact absurd h (by decide)
    · exact absurd h.1 (by decide)
  · have hj : j = 0 := List.mem_singleton.mp hj
    subst hj
    have : (ending freedTask).tasks.get none 0 = some (freedTask _) := rfl
    rw [this] at hu
    injection hu with hu
    subst hu
    exact ⟨rfl, by decide +kernel, by decide⟩

def hal (l : SMap Nat) (f : Core → Core := id) : State := core fun k => f { k with hal := l }
def lk (f : Link → Link) : State := { bench with links := [(7, f {})] }
def flit (seqNo : Nat) (crcOk : Bool := true) : Flit := ⟨crcOk, seqNo, 0, 0, 0, [1]⟩
def upLink (f : Link → Link := id) : State := lk fun l => f { l with st := .up, en := true, width := 16 }

/-- A link that has a parcel to send on channel 0, before the last number and with one flit still to be acknowledged. -/
def sending (f : Link → Link := id) : Link :=
  f { st := .up, en := true, width := 16, txSeq := 4095, retry := [flit 4094], out := [(0, [⟨1, 1, .write 64 [7]⟩])] }

/-- What a payload carries is open (`Config.parcel`): of the clauses about a payload that is taken, the other premises are met here. -/
theorem witness_HalyardsAndLinks :
    ((sending).txSeq < 2 ^ 12 ∧ Carries (sending) ∧ (sending).stopRx.getLsbD 0 = false ∧ (∀ d, d ≠ 0 → (sending).out.get [] d = []) ∧
      min ((sending).out.get [] 0).length (512 - (sending).retry.length) = 1 ∧ ¬ Carries (sending fun l => { l with st := .repairing })) ∧
    (let s := upLink fun l => { l with rx := [(1, [[5], [6]])] }
     (linkOf s 7).rx.get [] 1 = [5] :: [[6]] ∧ (⟨s.chip + 1, 3, .arrival 0⟩ : Parcel).chip ≠ s.chip ∧ field 46 2 (2 ^ 46) < 2 ∧ s.lostAt (2 ^ 46) = false) ∧
    (let v := linkOf (upLink fun l => { l with txSeq := 3, retry := [flit 1, flit 2] }) 7
     v.out = [] ∧ (∀ e ∈ v.retry, e.seqNo ≠ (flit 0).ack) ∧ v.txSeq ≠ (flit 0).ack) ∧
    (let v := linkOf (upLink fun l => { l with txSeq := 1, retry := [flit 4095, flit 0] }) 7
     v.out = [] ∧ v.retry = [flit 4095] ++ flit 0 :: [] ∧ (flit 4095).seqNo ≠ (flit 0).ack ∧ (flit 0).seqNo = (flit 0).ack) ∧
    (halOf bench 0 17 = 0 ∨ halOf bench 0 17 = 5) ∧ halOf bench 0 15 = 0 ∧ halOf (hal [(17, 1)]) 0 17 = 1 ∧ halOf (hal [(17, 0)]) 0 17 = 0 ∧
    (halOf (hal [(15, 1)]) 0 15 = 1 ∧ 15 ∉ ((hal [(15, 1)]).core 0).steer ∧ ¬ NoSpare (hal [(15, 1)]) 0 ∧ NoSpare (hal [(15, 1), (16, 0), (17, 0)]) 0 ∧
      15 ∈ ((hal [(15, 1)] fun k => { k with steer := [15] }).core 0).steer) ∧
    halOf (hal [(15, 2)]) 0 15 = 2 ∧ 3 ≤ halOf (hal [(15, 3)]) 0 15 ∧ FreeSpare bench 0 16 ∧ FreeSpare (hal [(16, 0)]) 0 17 ∧ NoSpare (hal [(16, 0), (17, 0)]) 0 ∧
    (let s := hal [(16, 0)] fun k => { k with sp16 := some 15 }; (s.core 0).sp16 = some 15 ∧ halOf s 0 17 = 5) ∧
    (let s := hal [(16, 0), (17, 0)] fun k => { k with sp17 := some 15 }; (s.core 0).sp17 = some 15 ∧ halOf s 0 16 ≠ 5) ∧
    (bench.core 0).sp16 = none ∧
    (let s := hal [(15, 1)] fun k => { k with steer := [15] }; (s.core 0).steer = [15] ∧ halOf s 0 15 = 1 ∧ FreeSpare s 0 16) ∧
    (let s := hal [(15, 1), (16, 0), (17, 0)] fun k => { k with steer := [15] }; (s.core 0).steer = [15] ∧ halOf s 0 15 = 1 ∧ NoSpare s 0) ∧
    (let s := hal [(15, 3)] fun k => { k with steer := [15] }; (s.core 0).steer = [15] ∧ halOf s 0 15 ≠ 1) ∧
    ((linkOf bench 7).en = false ∧ (linkOf bench 7).st = .down ∧ (linkOf (lk fun l => { l with st := .failed }) 7).st ≠ .down ∧ (linkOf upLink 7).en = true ∧ (linkOf upLink 7).st ≠ .down ∧
      (linkOf (lk fun l => { l with en := true }) 7).en = true) ∧
    (let s := lk fun l => { l with st := .training, peer := 15 }
     (linkOf s 7).st = .training ∧ 31 % 16 = (linkOf s 7).peer ∧ 0 % 16 ≠ (linkOf s 7).peer ∧ ¬ (linkOf s 7).trainAt + 360000000 ≤ s.now ∧
       (linkOf s 7).trainAt + 360000000 ≤ ({ s with now := 360000000 } : State).now) ∧
    (¬ Carries (linkOf bench 7) ∧ Carries (linkOf upLink 7) ∧ (linkOf upLink 7).retln.getLsbD 17 = false ∧
      (let v := linkOf (upLink fun l => { l with st := .degraded, good := 8, spused := 2 }) 7; Carries v ∧ v.st = .degraded ∧ v.good ≤ 8 ∧ 2 ≤ v.spused) ∧
      (let v := linkOf (upLink fun l => { l with st := .degraded, good := 9, spused := 2 }) 7; Carries v ∧ ¬ (v.st = .degraded ∧ v.good ≤ 8 ∧ 2 ≤ v.spused))) ∧
    (let v := linkOf (lk fun l => { l with st := .repairing, badLane := 17 }) 7; v.st = .repairing ∧ v.spused < 2 ∧ v.badLane < 18) ∧
    (2 ≤ (linkOf (lk fun l => { l with st := .repairing, spused := 2 }) 7).spused) ∧
    ((flit 0).crcOk = true ∧ (flit 0).seqNo = (linkOf upLink 7).expect ∧ ¬ 256 ≤ ((linkOf upLink 7).rx.get [] 0).length ∧
      256 ≤ ((linkOf (upLink fun l => { l with rx := [(0, List.replicate 256 [])] }) 7).rx.get [] 0).length ∧ (flit 0).vc < 3 ∧ 3 ≤ (⟨true, 0, 3, 0, 0, []⟩ : Flit).vc) ∧
    ((flit 5).seqNo ≠ (linkOf (upLink fun l => { l with discarding := true }) 7).expect ∧ (flit 0 false).crcOk = false ∧ (linkOf upLink 7).tries < 16 ∧
      16 ≤ (linkOf (upLink fun l => { l with tries := 16 }) 7).tries) := by
  unfold FreeSpare NoSpare Carries
  refine ⟨⟨by decide, by decide, by decide, fun d h => if_neg fun e => h e.symm, by decide, by decide⟩, ?_⟩
  repeat' refine And.intro ?_ ?_
  all_goals decide +kernel

def told (op : Nat) (a b : Word) (f : Mgmt → Mgmt := id) : State := mgTo (fun m => f { m with mbst := 1, op := op, arg0 := a, arg1 := b }) bench
def capped (f : Mgmt → Mgmt) : State := mgTo (fun m => f { m with capEn := true, capW := 500 }) bench

/-- Which images verify is open (`Config.verifyVendor`, `Config.verifyKernel`), and so is the limit of the cap (`Config.qrl9m`): of those clauses the other
premises are met here. -/
theorem witness_Management :
    (let s := told 7 0 0; s.mg.mbst = 1 ∧ s.mg.outcome = none ∧ s.mg.moving = false ∧ ¬ Arguments s.mg.op 0 0) ∧
    (¬ (Commanded bench 1 ∧ Arguments 1 0 0)) ∧
    (Commanded (told 1 6 0 fun m => { m with power := .idle, capEn := true }) 1 ∧ Arguments 1 6 0 ∧ powerNumber .a3 = (6 : Word).toNat ∧ ¬ Arguments 1 7 0 ∧
      (told 1 6 0 fun m => { m with power := .idle, capEn := true }).mg.power = .idle ∧ (told 1 6 0 fun m => { m with power := .idle, capEn := true }).mg.trip = false) ∧
    (let s := told 1 4 0 fun m => { m with power := .a0, trip := true }; atPoint s.mg.power ∧ s.mg.trip = true ∧ powerNumber .a1 = (4 : Word).toNat ∧ 3 < powerNumber .a1) ∧
    (let s := told 1 6 0 fun m => { m with power := .a0 }; atPoint s.mg.power ∧ s.mg.trip = false ∧ s.mg.capEn = false) ∧
    (Commanded (told 2 2047 0) 2 ∧ Arguments 2 2047 0 ∧ ¬ Arguments 2 2048 0 ∧ 1500 < (2047 : Word).toNat ∧ ¬ 1500 < (1500 : Word).toNat) ∧
    (let s := told 2 0 0 fun m => { m with power := .a3 }; Commanded s 2 ∧ Arguments 2 0 0 ∧ s.mg.power = .a3) ∧
    (Commanded (told 3 0x100000 0) 3 ∧ Arguments 3 0x100000 0 ∧ (told 3 0x100000 0).mg.measures < 2 ^ 64 ∧ (told 3 0 0).now / 36 < 2 ^ 64) ∧
    (let s := { told 4 4095 0 with ktBase := 0x10001, mem := [(0x2FFE2, 3), (0x2FFEF, 0x80), (0x3000C, 1), (0x30054, 0xED), (0x30055, 0x0C)] }
     Commanded s 4 ∧ Arguments 4 4095 0 ∧ ¬ Arguments 4 4096 0 ∧ field 13 35 s.ktBase.toNat * 2 ^ 13 + 32 * 4095 = 0x2FFE0 ∧ (memNum s (0x2FFE0 + 8) 8).testBit 63 = true ∧
       field 0 48 (memNum s 0x2FFE0 8) = 0x30000 ∧ (memNum s (0x30000 + 8) 8).testBit 32 = true ∧ memNum s (0x30000 + 0x54) 4 = 3309) ∧
    (Commanded (told 6 0 64) 6 ∧ Commanded (told 5 0 0) 5 ∧ Arguments 5 0 0) ∧
    (let s := told 5 1 0
     Commanded s 5 ∧ s.mg.arg0 = 1 ∧ s.mg.arg1.toNat < 128 ∧ ∃ k, s.tasks.get none 0 = some k ∧ (∀ e ∈ s.tasks, e.1 = 0 → e.2 = some k) ∧ k.core = 0 ∧ k.freed = false ∧ k.saved = false) ∧
    (bench.mg.mbst ≠ 1 ∧ (told 1 0 0).mg.outcome = none ∧ (told 1 0 0 fun m => { m with outcome := some (2, 0, 0) }).mg.outcome = some (2, 0, 0) ∧
      (∀ p ∈ [Power.idle, .a1, .standby, .off], ∀ b, let m := (told 1 0 0 fun m => { m with moving := true, target := p, power := .a0, tripped := b }).mg
        m.mbst = 1 ∧ m.moving = true ∧ m.target = p ∧ m.tripped = b ∧ m.power ≠ .standby) ∧
      (∀ b, let m := (told 1 0 0 fun m => { m with moving := true, target := .a0, power := .standby, tripped := b }).mg
        atPoint m.target ∧ m.power = .standby ∧ m.moving = true ∧ m.tripped = b) ∧ bench.accs = [] ∧
      (withAccs [acc .load (.spad 0 0)]).accs ≠ []) ∧
    ((capped id).mg.capEn = true ∧ 500 ≤ (capped id).mg.capW ∧ (capped id).mg.capW < 501 ∧ bench.mg.capEn = false ∧ ¬ (20 ≤ (capped fun m => { m with overCount := 18 }).mg.overCount + 1) ∧
      20 ≤ (capped fun m => { m with overCount := 19 }).mg.overCount + 1 ∧ (capped id).mg.overEsc = false) ∧
    ((told 1 0 0 fun m => { m with power := .off }).mg.power = .off ∧ bench.mg.power ≠ .off) ∧
    (∀ q ∈ [Power.idle, .a1], let m := (told 1 0 0 fun m => { m with power := q }).mg; m.trip = false ∧ 2 ≤ powerNumber m.power ∧ m.moving = false) ∧
    (let m := (told 1 0 0 fun m => { m with power := .standby, moving := true, target := .a3 }).mg; m.trip = false ∧ ¬ 2 ≤ powerNumber m.power ∧ m.moving = true) ∧
    (let m := (told 1 0 0 fun m => { m with power := .standby }).mg; ¬ (m.moving = true ∨ 2 ≤ powerNumber m.power)) ∧
    (let s := { mgTo (fun m => { m with trip := true, belowSince := some 0 }) bench with now := 3600000000 }
     s.mg.trip = true ∧ s.mg.belowSince = some 0 ∧ 0 + 3600000000 ≤ s.now ∧ (∀ since, s.mg.belowSince = some since → ¬ s.now < since + 3600000000)) ∧
    ((95 < 96 ∧ bench.mg.freeze = false ∧ (told 1 0 0 fun m => { m with freeze := true }).mg.freeze = true)) := by
  unfold Arguments Commanded atPoint
  refine ⟨by decide, by decide, by decide, by decide, by decide, by decide, by decide, by decide, by decide +kernel, by decide, ⟨by decide, by decide, by decide, _, rfl, by decide, by decide, by decide, by decide⟩,
    by decide, by decide, by decide, by decide, by decide, by decide, ⟨by decide, by decide, by decide, fun since h => ?_⟩, by decide⟩
  have : since = 0 := by injection h with h; exact h.symm
  subst this
  decide

/-! Decoding, the turns of the agenda, memory -/

def vend : Word := wordOf (0x3C5 * 2 ^ 54 + 9 * 2 ^ 43 + 77)

theorem witness_DecodeOfEncode :
    (∀ e ∈ [((⟨true, 15⟩ : Guard), Instr.add 63 1 2, 0), (⟨false, 0⟩, .nop, 7), (⟨false, 0⟩, .lim 3 (-4), 0), (⟨false, 15⟩, .bstat 15 63, 7)],
      e.1.wf = true ∧ e.2.1.wf = true ∧ (∃ w, encode e.1 e.2.1 = some w ∧ e.2.2 ∈ homes (w.toNat / 2 ^ 54)) ∧ e.2.1 ≠ .handlerReturn ∧ ∀ o d r, e.2.1 ≠ .vendorDiagnostic o d r) ∧
    (encode ⟨false, 0⟩ (.vendorDiagnostic 5 9 77) = some vend ∧ 7 ∈ homes (vend.toNat / 2 ^ 54)) ∧ decodeSlot true 7 vend = .ok (⟨false, 0⟩, .vendorDiagnostic 5 9 77) := by
  refine ⟨fun e he => ?_, by decide, by decide⟩
  simp only [List.mem_cons, List.not_mem_nil, or_false] at he
  rcases he with rfl | rfl | rfl | rfl
  · exact ⟨by decide, by decide, ⟨_, rfl, by decide⟩, nofun, nofun⟩
  · exact ⟨by decide, by decide, ⟨_, rfl, by decide⟩, nofun, nofun⟩
  · exact ⟨by decide, by decide, ⟨_, rfl, by decide⟩, nofun, nofun⟩
  · exact ⟨by decide, by decide, ⟨_, rfl, by decide⟩, nofun, nofun⟩

theorem witness_DecodeFaults :
    let o (w : Word) := w.toNat / 2 ^ 54
    (homes (o (wordOf (0x30 * 2 ^ 54))) = [] ∧ homes (o (wordOf (0x10B * 2 ^ 54))) = []) ∧ (0x3C0 ≤ o vend ∧ o vend ≤ 0x3FF) ∧ o (wordOf (0x214 * 2 ^ 54)) = 0x214 ∧
    (let w := wordOf (2 ^ 54); w ≠ 0 ∧ homes (o w) ≠ [] ∧ ¬ 0x3C0 ≤ o w ∧ o w ≠ 0x214 ∧ 7 ∉ homes (o w) ∧ 0 ∈ homes (o w)) ∧
    (o 1 = 0 ∧ homes (o 1) ≠ [] ∧ 7 ∈ homes (o 1)) ∧
    (let w := wordOf (2 ^ 54 + 2 ^ 53); o w ≠ 0 ∧ o w ≠ 0x2F ∧ w.getLsbD 53 = true ∧ field 49 4 w.toNat = 0 ∧ 0 ∈ homes (o w)) := by
  decide

/-- The bench's core before it issues the bundle at its pc, with one word in it. -/
def ready (w : Nat) (f : Ctx → Ctx := id) : State := (State.reset.withFetchWord 64 w).updCx 0 0 f

theorem fetches_iff (s : State) (c x n : Nat) (b : Bool) (h1 : (s.cx c x).mode = false) (h2 : (s.cx c x).task = some n)
    (h3 : (s.tasks.get none n).map (fun k => decide (k.tb ≤ (s.cx c x).f0 ∧ (s.cx c x).f0 + 64 ≤ k.tb + k.img.textLen)) = some b) : Fetches s c x ↔ b = true := by
  obtain ⟨k, hk, hb⟩ := Option.map_eq_some_iff.mp h3
  unfold Fetches
  rw [if_neg (by rw [h1]; decide), ← hb, decide_eq_true_iff]
  refine ⟨fun ⟨m, j, hm, hj, h⟩ => ?_, fun h => ⟨n, k, h2, hk, h⟩⟩
  rw [h2] at hm
  injection hm with hm
  subst hm
  rw [hk] at hj
  injection hj with hj
  subst hj
  exact h

def runs : List (Nat × Guard × Instr) → State → Option State
  | [], s => some s
  | (n, g, i) :: r, s => match exec i ({ s with iss := { s.iss with slot := n, guard := g } } : State) with | .next u => runs r u | _ => none

theorem slotsRun_of (l : List (Nat × Guard × Instr)) : ∀ s t, runs l s = some t → SlotsRun l s t := by
  induction l with
  | nil => intro s t h; injection h with h; exact h.symm
  | cons e r ih =>
    intro s t h
    obtain ⟨n, g, i⟩ := e
    unfold runs at h
    split at h
    · exact ⟨_, ‹_›, ih _ _ h⟩
    · exact absurd h (by nofun)

def issuing (f : Ctx → Ctx := id) : State := { ready 0x070018A300000600 f with agenda := [] }
def issued (f : Ctx → Ctx := id) : State := ((issuing f).select 0 0).visible
def oneWord : List (Guard × Instr) := (⟨false, 0⟩, Instr.cmp .ltu 3 5 6) :: List.replicate 7 ((⟨false, 0⟩ : Guard), Instr.nop)

theorem oneWord_decodes : ∀ n g i, oneWord[n]? = some (g, i) → DecodesTo issued.me n (slotWordOf issued 0 0 n) g i := by
  have hw : ∀ n < 8, slotWordOf issued 0 0 n = if n = 0 then 0x070018A300000600 else 0 := by decide +kernel
  have hd : (issued.me.mode && issued.me.diag) = false := by decide +kernel
  intro n g i hi
  have hn : n < 8 := (List.getElem?_eq_some_iff.mp hi).1
  unfold DecodesTo
  rw [hw n hn, hd]
  rcases Nat.eq_zero_or_pos n with rfl | hp
  · injection hi with hi
    injection hi with h1 h2
    subst h1; subst h2
    exact ⟨.cmp .ltu 3 5 6, by decide, by rw [if_neg (fun h => by nomatch h.1)]⟩
  · obtain ⟨m, rfl⟩ := Nat.exists_eq_add_of_le' hp
    have hm : m < 7 := by omega
    have hg : (g, i) = (⟨false, 0⟩, Instr.nop) := by
      have h := hi
      unfold oneWord at h
      simp only [List.getElem?_cons_succ, List.getElem?_replicate, if_pos hm] at h
      injection h with h
      exact h.symm
    injection hg with h1 h2
    subst h1; subst h2
    exact ⟨.nop, by rw [if_neg (by omega)]; interval_cases m <;> decide, by rw [if_neg (fun h => by nomatch h.1)]⟩

/-- The device in a power state with nothing placed and one event as its next turn. -/
def asleep (p : Power) (i : Instr) : State := mgTo (fun m => { m with power := p }) { State.reset with agenda := [.event i] }

theorem witness_StepRunsDecodedInstructions :
    (let s : State := { bench with agenda := [.event .dispatch] }
     s.agenda = .event .dispatch :: [] ∧ s.dueBefore (.event .dispatch) = some (.issue 0)) ∧
    (∀ p ∈ [Power.off, .standby, .idle, .a0], ∀ i ∈ [Instr.dispatch, .mailboxCap, .powerUp], let s := asleep p i
     s.agenda = .event i :: [] ∧ s.fixedTurn = none ∧ s.dueBefore (.event i) = none ∧ s.mg.power = p ∧ encode ⟨false, 0⟩ i = none ∧
       (match exec i s with | .next _ => true | _ => false) = true) ∧
    (ofManagement .dispatch = false ∧ ofManagement .mailboxCap = true ∧ Instr.dispatch ≠ .powerUp ∧ atPoint .a0) ∧
    ((asleep .a0 .dispatch).agenda ≠ [] ∧ (let s : State := { asleep .a0 .dispatch with agenda := [], lands := [] }; s.agenda = [] ∧ s.defaultTurn = .tick)) ∧
    (issuing.agenda = [] ∧ issuing.defaultTurn = .issue 0) ∧
    ((ready 0).agenda = [.issue 0]) ∧ TakesBundle issuing 0 0 ∧
    (TakesBundle (issuing fun y => { y with f0 := 2 ^ 18 }) 0 0 ∧ ¬ Fetches (issued fun y => { y with f0 := 2 ^ 18 }) 0 0) ∧ Fetches issued 0 0 ∧
    (∀ n g i, oneWord[n]? = some (g, i) → DecodesTo issued.me n (slotWordOf issued 0 0 n) g i) ∧
    issued.iss.opened = false ∧ (∀ e ∈ issued.me.pend, e.1 ≠ .p 0) ∧ slotWordOf issued 0 0 0 ≠ 0 ∧ (∀ m < 8, m ≠ 0 → slotWordOf issued 0 0 m = 0) ∧
    0 = homeSlot (slotWordOf issued 0 0 0).toNat ∧ (∃ t, exec (.cmp .ltu 3 5 6) (issuing.select 0 0) = .next t) ∧
    ∃ t, SlotsRun (oneWord.mapIdx fun n e => (n, e)) (issued.openBundle 0 1 ⟨false, 0⟩) t := by
  refine ⟨by decide +kernel, by decide +kernel, by unfold atPoint; decide, by decide +kernel, by decide +kernel, by decide, by unfold TakesBundle; decide +kernel, ⟨by unfold TakesBundle; decide +kernel, fun h => ?_⟩, ?_, oneWord_decodes, by decide +kernel, by decide +kernel,
    by decide +kernel, by decide +kernel, by decide +kernel, ?_, ?_⟩
  · exact absurd ((fetches_iff _ 0 0 0 false (by decide +kernel) (by decide +kernel) (by decide +kernel)).mp h) (by decide)
  · exact (fetches_iff _ 0 0 0 true (by decide +kernel) (by decide +kernel) (by decide +kernel)).mpr rfl
  · have h : (match exec (.cmp .ltu 3 5 6) (issuing.select 0 0) with | .next _ => true | _ => false) = true := by decide +kernel
    split at h
    · exact ⟨_, ‹_›⟩
    · exact absurd h (by decide)
  · have h : (runs (oneWord.mapIdx fun n e => (n, e)) (issued.openBundle 0 1 ⟨false, 0⟩)).isSome = true := by decide +kernel
    obtain ⟨t, ht⟩ := Option.isSome_iff_exists.mp h
    exact ⟨t, slotsRun_of _ _ _ ht⟩

/-- The end of a cycle in which the bench's bundle has been tried: a placed context, an access to memory, a local store behind an operation that is gone. -/
def ticking : State :=
  { bench.updCx 0 1 fun y => { y with st := .loaded } with
    agenda := [.tick], begun := true, accs := [acc .load (.phys 0) 4 0, { acc (.store [some 1]) (.spad 0 64) 5 0 with behind := [3] }] }

theorem witness_ClockCycle :
    (∀ p ∈ [Power.off, .standby, .idle, .a0, .a3], let s := mgTo (fun m => { m with power := p }) ticking
      s.agenda = .tick :: [] ∧ s.fixedTurn = none ∧ s.mg.clamps = [] ∧ s.mg.power = p ∧ ∀ l c, (linkOf s l).rx.get [] c = []) ∧
    (ticking.tasks.get none 0 = bench.tasks.get none 0 ∧ Live (ticking.cx 0 0) ∧ (ticking.cx 0 1).st = .loaded ∧ (ticking.cx 0 0).st ≠ .loaded ∧
      (∃ a ∈ ticking.accs, a.behind = []) ∧
      ∃ a ∈ ticking.accs, a.behind = [3] ∧ a.place = .spad 0 64 ∧ ∀ d o, a.place = .spad d o → ∀ m ∈ (ticking.core d).mq, m.id ∉ a.behind) ∧
    (∃ k, bench.tasks.get none 0 = some k ∧ k.ended = false ∧ k.unlimited = true ∧ ∃ x ∈ k.ctxs, Live (bench.cx k.core x)) ∧
    (∃ k, (task fun t => { t with unlimited := false, budget := 1 }).tasks.get none 0 = some k ∧ k.unlimited = false ∧ k.budget = 1 ∧ k.expired = false) ∧
    (∃ k, (task fun t => { t with ended := true }).tasks.get none 0 = some k ∧ k.ended = true) ∧
    (let s := me fun y => { y with canreq := true }; (s.cx 0 0).canreq = true ∧ Live (s.cx 0 0)) ∧ (bench.cx 0 0).canreq = false := by
  unfold Live
  exact ⟨fun p hp => ⟨rfl, by revert p; decide +kernel, rfl, rfl, fun _ _ => rfl⟩,
    ⟨by decide, by decide, by decide, by decide, ⟨_, List.mem_cons_self, rfl⟩, _, List.mem_cons_of_mem _ List.mem_cons_self, rfl, rfl, fun d o h m hm => by
      injection h with h _; subst h; exact absurd hm List.not_mem_nil⟩, ⟨_, rfl, by decide, by decide, 0, by decide, by decide⟩, ⟨_, rfl, by decide, by decide, by decide⟩, ⟨_, rfl, by decide⟩, by decide, by decide⟩

theorem witness_MemoryReadsAfterWrites :
    SMap.wf 0 ([(5, 7)] : SMap Byte) = true ∧ (7 : Byte) = SMap.get 0 ([(5, 7)] : SMap Byte) 5 ∧ (0 : Byte) = SMap.get 0 ([(5, 7)] : SMap Byte) 6 ∧ 2 ^ 64 - 1 < 256 ^ 8 := by decide

theorem witness_MemoryStaysCanonical : let s := mgTo (fun m => { m with power := .off }) { bench with agenda := [.tick], mem := [(5, 7)] }
    ∃ t, s.memWf = true ∧ step s = .next t := ⟨_, by decide +kernel, rfl⟩

end Sys2Proof.Tests
end

section
/-! ## Canonical form of the memories (O59)

Most of the model never touches the memories: for each such function one equation says so (`memories_X`).
The few functions that write a memory keep its canonical form (`wf_X`), because `SMap.put` does.
The theorem follows the step: its turn, the turn's event or bundle, the bundle's slots. -/

namespace Sys2Proof.Machine

/-- What canonical form speaks of: the memory of the device, that of the host, the marks of poisoned lines and those of EMPTY words. -/
structure Memories where
  mem : SMap Byte
  host : SMap Byte
  poison : SMap Bool
  empty : SMap Bool

/-- The memories of a state. A part of a step that touches none of them is one equation about this function. -/
def State.memories (s : State) : Memories := ⟨s.mem, s.host, s.poison, s.empty⟩

/-- An update of any other field leaves the memories. -/
@[simp] theorem State.memories_mk {x0 x1 x2 x3 x4 x5 x6 x7 m p e h x12 x13 x14 x15 x16 x17 x18 x19 x20 x21 x22 x23 x24 x25 x26 x27 x28 x29 x30 x31 x32 x33 x34 x35 x36 x37 x38 x39 x40 x41 x42 x43 x44 x45 x46 x47 x48 x49 x50 x51 x52} :
    State.memories (State.mk x0 x1 x2 x3 x4 x5 x6 x7 m p e h x12 x13 x14 x15 x16 x17 x18 x19 x20 x21 x22 x23 x24 x25 x26 x27 x28 x29 x30 x31 x32 x33 x34 x35 x36 x37 x38 x39 x40 x41 x42 x43 x44 x45 x46 x47 x48 x49 x50 x51 x52) = ⟨m, h, p, e⟩ := rfl

@[simp] theorem Memories.of_state (s : State) : Memories.mk s.mem s.host s.poison s.empty = s.memories := rfl

@[simp] theorem State.memories_ite (c : Prop) [Decidable c] (s t : State) : (if c then s else t).memories = if c then s.memories else t.memories := apply_ite _ _ _ _

theorem foldl_leaves {α β γ : Type} (g : β → γ) (f : β → α → β) (hf : ∀ b a, g (f b a) = g b) (l : List α) (b : β) : g (l.foldl f b) = g b :=
  foldl_keeps (fun t => g t = g b) f (fun t a ht => (hf t a).trans ht) l b rfl

@[simp] theorem State.memories_foldl {α : Type} (f : State → α → State) (hf : ∀ s a, (f s a).memories = s.memories) (l : List α) (s : State) :
    (l.foldl f s).memories = s.memories := foldl_leaves State.memories f hf l s

/-- The state that an answer leaves: the next one, or `s` where there is none. -/
def State.left (s : State) : Res' → State
  | .next t => t
  | _ => s

@[simp] theorem State.left_next (s t : State) : s.left (.next t) = t := rfl
@[simp] theorem State.left_fault (s : State) (f : Fault) : s.left (.fault f) = s := rfl
@[simp] theorem State.left_refused (s : State) (f : Refusal) : s.left (.refused f) = s := rfl

/-- The state that the operation of a slot leaves: that of one that ran, or `s` where it faults. -/
def State.ran {ε : Type} (s : State) : Except ε State → State
  | .ok t => t
  | .error _ => s

@[simp] theorem State.ran_ok {ε : Type} (s t : State) : s.ran (.ok t : Except ε State) = t := rfl
@[simp] theorem State.ran_error {ε : Type} (s : State) (e : ε) : s.ran (.error e) = s := rfl

@[simp] theorem State.ran_ite {ε : Type} (s : State) (c : Prop) [Decidable c] (a b : Except ε State) :
    s.ran (if c then a else b) = if c then s.ran a else s.ran b := apply_ite _ _ _ _

/-! ### What leaves the memories -/

/-! #### Registers, traps and the context that issues -/

@[simp] theorem State.memories_setCore (s : State) (c : Nat) (k : Core) : (s.setCore c k).memories = s.memories := (rfl)

@[simp] theorem State.memories_updCore (s : State) (c : Nat) (f : Core → Core) : (s.updCore c f).memories = s.memories := (rfl)

@[simp] theorem State.memories_setCx (s : State) (c x : Nat) (v : Ctx) : (s.setCx c x v).memories = s.memories := (rfl)

@[simp] theorem State.memories_updCx (s : State) (c x : Nat) (f : Ctx → Ctx) : (s.updCx c x f).memories = s.memories := (rfl)

@[simp] theorem State.memories_updMe (s : State) (f : Ctx → Ctx) : (s.updMe f).memories = s.memories := (rfl)

@[simp] theorem State.memories_updMyCore (s : State) (f : Core → Core) : (s.updMyCore f).memories = s.memories := (rfl)

@[simp] theorem State.memories_updTask (s : State) (t : Nat) (f : Task → Task) : (s.updTask t f).memories = s.memories := (rfl)

@[simp] theorem State.memories_updLaunch (s : State) (l : Nat) (f : Launch → Launch) : (s.updLaunch l f).memories = s.memories := (rfl)

@[simp] theorem State.memories_newId (s : State) : (s.newId).2.memories = s.memories := (rfl)

@[simp] theorem State.memories_draw (s : State) : (s.draw).2.memories = s.memories := (rfl)

@[simp] theorem State.memories_escalate (s : State) (e : Escalation) : (s.escalate e).memories = s.memories := (rfl)

@[simp] theorem State.memories_sendMsg (s : State) (m : Msg) : (s.sendMsg m).memories = s.memories := (rfl)

@[simp] theorem State.memories_flushBudget (s : State) (c x : Nat) : (s.flushBudget c x).memories = s.memories := by
  unfold State.flushBudget
  dsimp only
  (repeat' split) <;> simp

@[simp] theorem State.memories_emit (s : State) (reg : RegId) (val : RVal) (lat : Nat) (poison : Bool) (flags : FlagBits) :
    (s.emit reg val lat poison flags).memories = s.memories := (rfl)

@[simp] theorem State.memories_emitS (s : State) (d : Nat) (w : Word) (lat : Nat) (poison : Bool) (flags : FlagBits) :
    (s.emitS d w lat poison flags).memories = s.memories := (rfl)

@[simp] theorem State.memories_emitP (s : State) (d : Nat) (b : Bool) (lat : Nat) : (s.emitP d b lat).memories = s.memories := (rfl)

@[simp] theorem State.memories_emitV (s : State) (d : Nat) (w : VWord) (lat : Nat) (poison : Bool) (flags : FlagBits) :
    (s.emitV d w lat poison flags).memories = s.memories := (rfl)

@[simp] theorem State.memories_emitK (s : State) (d : Nat) (w : KWord) (lat : Nat) (flags : FlagBits) :
    (s.emitK d w lat flags).memories = s.memories := (rfl)

@[simp] theorem State.memories_emitFlags (s : State) (f : FlagBits) : (s.emitFlags f).memories = s.memories := by
  unfold State.emitFlags
  simp

@[simp] theorem State.memories_mark (s : State) (rs : List RegId) : (s.mark rs).memories = s.memories := (rfl)

@[simp] theorem State.memories_returnResv (s : State) (c x : Nat) : (s.returnResv c x).memories = s.memories := by
  unfold State.returnResv
  (repeat' split) <;> simp

@[simp] theorem State.memories_disarm (s : State) (c x : Nat) : (s.disarm c x).memories = s.memories := (rfl)

@[simp] theorem State.memories_verdict (s : State) (v : Verdict) : (s.verdict v).memories = s.memories := (rfl)

theorem memories_slotStep {o : SlotOp} (s : State) (h : ∀ t : State, (t.ran (o.run t)).memories = t.memories) :
    (slotStep o s).memories = s.memories := by
  unfold slotStep
  dsimp only
  split
  · exact State.memories_verdict _ _
  split
  · exact State.memories_verdict _ _
  split
  · split
    · exact State.memories_verdict _ _
    · split
      · next t ht =>
        have hs := h s
        rwa [ht, State.ran_ok] at hs
      · exact State.memories_verdict _ _
  · rfl

@[simp] theorem State.memories_afterCommit (s : State) (a : After) : (s.afterCommit a).memories = s.memories := (rfl)

@[simp] theorem State.memories_cancelPoint (s : State) : (s.cancelPoint).memories = s.memories := (rfl)

@[simp] theorem State.memories_branchTo (s : State) (t : Nat) : (s.branchTo t).memories = s.memories := (rfl)

@[simp] theorem State.memories_escCtx (s : State) (c x : Nat) (what : String) (cause mask pc : Nat) :
    (s.escCtx c x what cause mask pc).memories = s.memories := (rfl)

@[simp] theorem State.memories_doubleTrap (s : State) (c x cause mask : Nat) : (s.doubleTrap c x cause mask).memories = s.memories := by
  unfold State.doubleTrap
  simp

@[simp] theorem State.memories_trap (s : State) (c x cause mask : Nat) (bad : Option Word) : (s.trap c x cause mask bad).memories = s.memories := by
  unfold State.trap
  simp

@[simp] theorem State.memories_visible (s : State) : (s.visible).memories = s.memories := by
  unfold State.visible
  simp

@[simp] theorem State.memories_openBundle (s : State) (slot words : Nat) (g : Guard) : (s.openBundle slot words g).memories = s.memories := (rfl)

@[simp] theorem State.memories_closed (s : State) : (s.closed).memories = s.memories := (rfl)

@[simp] theorem State.memories_block (s : State) (ws : List Wait) : (s.block ws).memories = s.memories := by
  unfold State.block
  simp

@[simp] theorem State.memories_runAfter (s : State) (a : After) : (s.runAfter a).memories = s.memories := by
  unfold State.runAfter
  (repeat' split) <;> simp

@[simp] theorem State.memories_runAll (s : State) (x0 : Ctx) (l : List After) : (s.runAll x0 l).memories = s.memories := by
  unfold State.runAll
  simp

@[simp] theorem State.memories_countBundle (s : State) (x0 : Ctx) : (s.countBundle x0).memories = s.memories := by
  unfold State.countBundle
  (repeat' split) <;> simp

@[simp] theorem State.memories_commit (s : State) (x0 : Ctx) : (s.commit x0).memories = s.memories := by
  unfold State.commit
  simp

theorem memories_closeBundle {s t : State} (h : t.memories = s.memories) : (closeBundle s t).memories = s.memories := by
  unfold closeBundle
  dsimp only
  (repeat' split) <;> simp [h]

theorem memories_runSlot {home : Nat} {o : SlotOp} {s : State} (h : ∀ t : State, (t.ran (o.run t)).memories = t.memories) :
    (s.left (runSlot home o s)).memories = s.memories := by
  unfold runSlot
  rw [State.left_next]
  split
  · exact memories_slotStep s h
  · refine (memories_closeBundle ?_).trans (State.memories_visible s)
    exact (memories_slotStep _ h).trans (State.memories_openBundle ..)

@[simp] theorem State.memories_updMg (s : State) (f : Mgmt → Mgmt) : (s.updMg f).memories = s.memories := (rfl)

@[simp] theorem left_runEvent (s : State) (b : Bool) (f : State → State) : s.left (runEvent b f s) = if b = true then f s else s := rfl

/-! #### Accesses to memory -/

@[simp] theorem State.memories_sendParcel (s : State) (p : Parcel) : (s.sendParcel p).memories = s.memories := by
  unfold State.sendParcel
  (repeat' split) <;> simp

@[simp] theorem State.memories_sendPeer (s : State) (chip : Nat) (i : LinkItem) : (s.sendPeer chip i).memories = s.memories := by
  unfold State.sendPeer
  simp

@[simp] theorem State.memories_guidon (s : State) (o : Nat) (w : Watch) : (s.guidon o w).memories = s.memories := by
  unfold State.guidon
  simp

@[simp] theorem State.memories_watchOne (s : State) (o : Nat) (sp : Bool) (lo hi kind : Nat) (ag : Agent) (n : Nat) :
    (s.watchOne o sp lo hi kind ag n).memories = s.memories := by
  unfold State.watchOne
  simp

@[simp] theorem State.memories_watch (s : State) (o : Nat) (sp : Bool) (lo n kind : Nat) (ag : Agent) :
    (s.watch o sp lo n kind ag).memories = s.memories := by
  unfold State.watch
  simp

@[simp] theorem State.memories_watchPhys (s : State) (a n kind : Nat) (ag : Agent) : (s.watchPhys a n kind ag).memories = s.memories := by
  unfold State.watchPhys
  simp

@[simp] theorem State.memories_spadStore (s : State) (c o : Nat) (data : List (Option Byte)) (ag : Agent) :
    (s.spadStore c o data ag).memories = s.memories := by
  unfold State.spadStore
  simp

@[simp] theorem State.memories_spadLoad (s : State) (c o n : Nat) (ag : Agent) : (s.spadLoad c o n ag).2.memories = s.memories := by
  unfold State.spadLoad
  simp

@[simp] theorem State.memories_amoSpad (s : State) (core : Nat) (op : AmoOp) (o n b c : Nat) (ag : Agent) :
    (s.amoSpad core op o n b c ag).2.memories = s.memories := by
  unfold State.amoSpad
  dsimp only
  (repeat' split) <;> simp

/-! #### Scalar forms -/

@[simp] theorem memories_aluOp (s : State) (lat d a b : Nat) (f : Word → Word → Word × FlagBits) :
    (s.ran ((aluOp lat d a b f).run s)).memories = s.memories := (rfl)

@[simp] theorem memories_aluOp1 (s : State) (lat d a : Nat) (f : Word → Word) : (s.ran ((aluOp1 lat d a f).run s)).memories = s.memories := (rfl)

@[simp] theorem memories_predOp (s : State) (d a b : Nat) (f : Bool → Bool → Bool) : (s.ran ((predOp d a b f).run s)).memories = s.memories := (rfl)

@[simp] theorem State.ran_poisonFault (s : State) : s.ran poisonFault = s := rfl

@[simp] theorem memories_cmpOp (s : State) (cc : CC) (d a : Nat) (nm : List Nat) (b : State → SVal) :
    (s.ran ((cmpOp cc d a nm b).run s)).memories = s.memories := by
  unfold cmpOp
  simp

@[simp] theorem State.memories_ctlWrite (s : State) (num : Nat) (w : Word) : (s.ctlWrite num w).memories = s.memories := by
  unfold State.ctlWrite
  simp

@[simp] theorem memories_ctlwOp (s : State) (num a : Nat) : (s.ran ((ctlwOp num a).run s)).memories = s.memories := by
  unfold ctlwOp
  simp

@[simp] theorem State.memories_take (s : State) (t : Nat) : (s.take t).memories = s.memories := by
  unfold State.take
  simp

@[simp] theorem State.memories_link (s : State) : (s.link).memories = s.memories := (rfl)

@[simp] theorem memories_indirect (s : State) (a : Nat) (k : Nat → State) (h : ∀ n, (k n).memories = s.memories) :
    (s.ran (indirect s a k)).memories = s.memories := by
  unfold indirect poisonFault
  dsimp only
  (repeat' split) <;> simp [h]

@[simp] theorem State.memories_loop (s : State) (off : Int) : (s.loop off).memories = s.memories := by
  unfold State.loop
  simp

/-! #### Loads, stores and messages -/

@[simp] theorem State.memories_localLoad (s : State) (f : LoadForm) (o : Nat) : (s.localLoad f o).memories = s.memories := by
  unfold State.localLoad
  simp

@[simp] theorem State.memories_issue (s : State) (a : Access) : (s.issue a).memories = s.memories := (rfl)

@[simp] theorem State.memories_homeLoad (s : State) (f : LoadForm) (pa : Nat) (hd : Handle) (va : Word) (op : AccOp) :
    (s.homeLoad f pa hd va op).memories = s.memories := by
  unfold State.homeLoad
  simp [State.newId]

@[simp] theorem LoadForm.memories_op (s : State) (f : LoadForm) (mask : List RegId) : (s.ran ((LoadForm.op f mask).run s)).memories = s.memories := by
  unfold LoadForm.op
  dsimp only
  (repeat' split) <;> simp

@[simp] theorem State.memories_roinv (s : State) (c : Nat) (hit : Nat → Bool) : (s.roinv c hit).memories = s.memories := (rfl)

@[simp] theorem memories_roinvOp (s : State) (h a : Nat) (disp : Int) : (s.ran ((roinvOp h a disp).run s)).memories = s.memories := by
  unfold roinvOp
  dsimp only
  (repeat' split) <;> simp

@[simp] theorem State.memories_localStore (s : State) (o : Nat) (data : List (Option Byte)) : (s.localStore o data).memories = s.memories := by
  unfold State.localStore
  simp

@[simp] theorem State.memories_homeStore (s : State) (pa : Nat) (data : List (Option Byte)) (hd : Handle) (va : Word) :
    (s.homeStore pa data hd va).memories = s.memories := by
  unfold State.homeStore
  simp

@[simp] theorem StoreForm.memories_op (s : State) (f : StoreForm) : (s.ran ((StoreForm.op f).run s)).memories = s.memories := by
  unfold StoreForm.op
  dsimp only
  (repeat' split) <;> simp

@[simp] theorem memories_sendOp (s : State) (vec rel : Bool) (d a : Nat) (disp : Int) (k : Nat) :
    (s.ran ((sendOp vec rel d a disp k).run s)).memories = s.memories := by
  unfold sendOp
  dsimp only
  (repeat' split) <;> simp

@[simp] theorem memories_amoOp (s : State) (op : AmoOp) (n : Nat) (ord : MemOrd) (d : Nat) (ad : Addr) (b c : Nat) :
    (s.ran ((amoOp op n ord d ad b c).run s)).memories = s.memories := by
  unfold amoOp
  dsimp only
  (repeat' split) <;> simp

/-! #### Pages, walks and migration -/

@[simp] theorem State.memories_reportWalk (s : State) (c x cause : Nat) (pois : Option Nat) :
    (s.reportWalk c x cause pois).memories = s.memories := by
  unfold State.reportWalk
  (repeat' split) <;> simp

@[simp] theorem State.memories_tlbInstall (s : State) (c sp : Nat) (va : Word) (e : Nat) : (s.tlbInstall c sp va e).memories = s.memories := (rfl)

@[simp] theorem memories_xlatOp (s : State) (h a intent : Nat) (spec : Bool) : (s.ran ((xlatOp h a intent spec).run s)).memories = s.memories := by
  unfold xlatOp
  dsimp only
  (repeat' split) <;> simp

@[simp] theorem State.memories_landHandle (s : State) (c x hreg step : Nat) (hd : Handle) :
    (s.landHandle c x hreg step hd).memories = s.memories := by
  unfold State.landHandle
  simp

@[simp] theorem State.memories_putXfault (s : State) (c x : Nat) (f : XFault) : (s.putXfault c x f).memories = s.memories := (rfl)

@[simp] theorem State.memories_endWalk (s : State) (w : Walk) (r : Option Nat) (cause : Nat) (pois : Option Nat) :
    (s.endWalk w r cause pois).memories = s.memories := by
  unfold State.endWalk
  (repeat' split) <;> simp

@[simp] theorem State.memories_setCursor (s : State) (id : Nat) (c : Cursor) : (s.setCursor id c).memories = s.memories := (rfl)

@[simp] theorem State.memories_completeWalk (s : State) (w : Walk) : (s.completeWalk w).memories = s.memories := by
  unfold State.completeWalk
  dsimp only
  (repeat' split) <;> simp

@[simp] theorem State.memories_clearHandles (s : State) (r : Revoke) : (s.clearHandles r).memories = s.memories := (rfl)

@[simp] theorem State.memories_addLand (s : State) (c x step : Nat) (reg : RegId) (v : LandVal) (acq : Bool) :
    (s.addLand c x step reg v acq).memories = s.memories := (rfl)

@[simp] theorem State.memories_landIf (s : State) (c x step : Nat) (reg : Option RegId) (v : RVal) :
    (s.landIf c x step reg v).memories = s.memories := by
  unfold State.landIf
  (repeat' split) <;> simp

@[simp] theorem State.memories_startRevoke (s : State) (r : Revoke) : (s.startRevoke r).memories = s.memories := (rfl)

@[simp] theorem State.memories_stepRevoke (s : State) (r : Revoke) : (s.stepRevoke r).memories = s.memories := by
  unfold State.stepRevoke
  (repeat' split) <;> simp

@[simp] theorem memories_execRevocationComplete (id : Nat) (s : State) : (s.left (execRevocationComplete id s)).memories = s.memories := by
  unfold execRevocationComplete
  (repeat' split) <;> simp

@[simp] theorem memories_tlbinvOp (s : State) (pd a b mode : Nat) (dev : Bool) :
    (s.ran ((tlbinvOp pd a b mode dev).run s)).memories = s.memories := by
  unfold tlbinvOp
  simp

@[simp] theorem memories_pgmigOp (s : State) (a b : Nat) : (s.ran ((pgmigOp a b).run s)).memories = s.memories := by
  unfold pgmigOp
  simp

@[simp] theorem State.memories_endMig (s : State) (m : Mig) (status : Nat) : (s.endMig m status).memories = s.memories := by
  unfold State.endMig
  simp

@[simp] theorem State.memories_updMig (s : State) (id : Nat) (f : Mig → Mig) : (s.updMig id f).memories = s.memories := (rfl)

@[simp] theorem memories_execWalkBusyRestart (id : Nat) (s : State) : (s.left (execWalkBusyRestart id s)).memories = s.memories := by
  unfold execWalkBusyRestart
  (repeat' split) <;> simp

@[simp] theorem State.memories_loseHandles (s : State) (v q : Nat) : (s.loseHandles v q).memories = s.memories := (rfl)

/-! #### Vector forms -/

@[simp] theorem memories_laneOp (s : State) (lat : Nat) (ty : Ty) (d k : Nat) (vs ss : List Nat) (f : Ctx → Nat → Nat × FlagBits) :
    (s.ran ((laneOp lat ty d k vs ss f).run s)).memories = s.memories := (rfl)

@[simp] theorem memories_vcmpOp (s : State) (cc : CC) (ty : Ty) (d a b k : Nat) :
    (s.ran ((vcmpOp cc ty d a b k).run s)).memories = s.memories := (rfl)

@[simp] theorem memories_vselOp (s : State) (ty : Ty) (d a b k : Nat) : (s.ran ((vselOp ty d a b k).run s)).memories = s.memories := (rfl)

@[simp] theorem memories_vinsOp (s : State) (ty : Ty) (d a lane : Nat) : (s.ran ((vinsOp ty d a lane).run s)).memories = s.memories := (rfl)

@[simp] theorem memories_wholeOp (s : State) (lat : Nat) (d a k : Nat) (f : Bool → KWord → VWord → VWord × FlagBits) :
    (s.ran ((wholeOp lat d a k f).run s)).memories = s.memories := (rfl)

@[simp] theorem memories_vcvtOp (s : State) (ty ty2 : Ty) (md : Rnd) (d a part k : Nat) :
    (s.ran ((vcvtOp ty ty2 md d a part k).run s)).memories = s.memories := (rfl)

@[simp] theorem memories_vmxqOp (s : State) (ty2 : Ty) (md : Rnd) (d c a part : Nat) :
    (s.ran ((vmxqOp ty2 md d c a part).run s)).memories = s.memories := by
  unfold vmxqOp
  simp

@[simp] theorem memories_vmxdqOp (s : State) (ty2 : Ty) (d a c part : Nat) : (s.ran ((vmxdqOp ty2 d a c part).run s)).memories = s.memories := (rfl)

/-! #### The tile array -/

@[simp] theorem State.memories_putTile (s : State) (t : Nat) (v : Tile) : (s.putTile t v).memories = s.memories := (rfl)

@[simp] theorem State.memories_tileCheck (s : State) (t : Nat) (planes bad : Bool) (k : Except (Nat × Option Word) State) (h : (s.ran k).memories = s.memories) :
    (s.ran (s.tileCheck t planes bad k)).memories = s.memories := by
  unfold State.tileCheck
  (repeat' split) <;> simp [h]

@[simp] theorem memories_tallocOp (s : State) (t a : Nat) (pl : Bool) : (s.ran ((tallocOp t a pl).run s)).memories = s.memories := by
  unfold tallocOp
  simp

@[simp] theorem memories_tfreeOp (s : State) (t : Nat) (pl : Bool) : (s.ran ((tfreeOp t pl).run s)).memories = s.memories := by
  unfold tfreeOp
  simp

@[simp] theorem memories_tzeroOp (s : State) (t : Nat) (anchor : Int) : (s.ran ((tzeroOp t anchor).run s)).memories = s.memories := by
  unfold tzeroOp
  simp

@[simp] theorem memories_tdrainOp (s : State) (ty : Ty) (md : Rnd) (t a row : Nat) (zr : Bool) :
    (s.ran ((tdrainOp ty md t a row zr).run s)).memories = s.memories := by
  unfold tdrainOp
  simp

@[simp] theorem memories_tclrOp (s : State) (t : Nat) : (s.ran ((tclrOp t).run s)).memories = s.memories := by
  unfold tclrOp
  simp

@[simp] theorem State.memories_enqueue (s : State) (kind : MKind) (due : Nat) : (s.enqueue kind due).memories = s.memories := (rfl)

@[simp] theorem State.memories_operandCheck (s : State) (ty : Ty) (a b n : Nat) (k : Except (Nat × Option Word) State) (h : (s.ran k).memories = s.memories) :
    (s.ran (s.operandCheck ty a b n k)).memories = s.memories := by
  unfold State.operandCheck poisonFault
  dsimp only
  (repeat' split) <;> simp [h]

@[simp] theorem memories_tloadOp (s : State) (ty : Ty) (a b : Nat) : (s.ran ((tloadOp ty a b).run s)).memories = s.memories := by
  unfold tloadOp
  simp

@[simp] theorem memories_tswapOp (s : State)  : (s.ran ((tswapOp).run s)).memories = s.memories := by
  unfold tswapOp
  simp

@[simp] theorem memories_tanchorOp (s : State) (t : Nat) (anchor : Int) : (s.ran ((tanchorOp t anchor).run s)).memories = s.memories := by
  unfold tanchorOp
  simp

@[simp] theorem memories_tmmOp (s : State) (ty : Ty) (t : Nat) (va : Bool) (a b n row0 : Nat) :
    (s.ran ((tmmOp ty t va a b n row0).run s)).memories = s.memories := by
  have hgo (kind : MKind) :
      (s.ran (if s.myCore.fits ty = true then .ok (s.enqueue kind 0) else .error (3, none) : Except (Nat × Option Word) State)).memories = s.memories := by
    split <;> simp
  unfold tmmOp
  refine State.memories_tileCheck _ _ _ _ _ ?_
  dsimp only
  split
  · exact hgo _
  · exact State.memories_operandCheck _ _ _ _ _ _ (hgo _)

@[simp] theorem memories_execTileRowEnter (c : Nat) (s : State) : (s.left (execTileRowEnter c s)).memories = s.memories := by
  unfold execTileRowEnter
  simp

@[simp] theorem State.memories_countRow (s : State) (c : Nat) : (s.countRow c).memories = s.memories := by
  unfold State.countRow
  (repeat' split) <;> simp

@[simp] theorem memories_execTileRowApply (c : Nat) (s : State) : (s.left (execTileRowApply c s)).memories = s.memories := by
  unfold execTileRowApply
  simp

@[simp] theorem memories_execTloadComplete (c : Nat) (s : State) : (s.left (execTloadComplete c s)).memories = s.memories := by
  unfold execTloadComplete
  simp

@[simp] theorem memories_execTswapTakeEffect (c : Nat) (s : State) : (s.left (execTswapTakeEffect c s)).memories = s.memories := by
  unfold execTswapTakeEffect
  simp

/-! #### Queues and semaphores -/

@[simp] theorem State.memories_updCmd (s : State) (c q id : Nat) (f : Cmd → Cmd) : (s.updCmd c q id f).memories = s.memories := (rfl)

@[simp] theorem memories_execSemaphoreGrant (c : Nat) (s : State) : (s.left (execSemaphoreGrant c s)).memories = s.memories := by
  unfold execSemaphoreGrant
  simp

@[simp] theorem State.memories_startCmd (s : State) (c q : Nat) (m : Cmd) (f : Cmd → Cmd) : (s.startCmd c q m f).memories = s.memories := (rfl)

@[simp] theorem State.memories_failStart (s : State) (c q : Nat) (m : Cmd) (cause prog : Nat) :
    (s.failStart c q m cause prog).memories = s.memories := (rfl)

@[simp] theorem State.memories_putRecord (s : State) (c q : Nat) (m : Cmd) : (s.putRecord c q m).memories = s.memories := by
  unfold State.putRecord
  simp

@[simp] theorem State.memories_signal (s : State) (c q : Nat) (m : Cmd) : (s.signal c q m).memories = s.memories := (rfl)

@[simp] theorem State.memories_holdTile (s : State) (q : Nat) (m : Cmd) : (s.holdTile q m).memories = s.memories := by
  unfold State.holdTile
  (repeat' split) <;> simp

@[simp] theorem State.memories_enqueueCmd (s : State) (q : Nat) (m : Cmd) : (s.enqueueCmd q m).memories = s.memories := by
  unfold State.enqueueCmd
  simp

@[simp] theorem memories_pushOp (s : State) (q a pd : Nat) : (s.ran ((pushOp q a pd).run s)).memories = s.memories := by
  unfold pushOp
  simp

@[simp] theorem memories_semwaitOp (s : State) (n thr : Nat) (ord : MemOrd) (dec : Bool) :
    (s.ran ((semwaitOp n thr ord dec).run s)).memories = s.memories := by
  unfold semwaitOp
  simp

/-! #### Copies -/

@[simp] theorem State.memories_startCopy (s : State) (c q : Nat) (m : Cmd) : (s.startCopy c q m).memories = s.memories := by
  unfold State.startCopy
  (repeat' split) <;> simp

@[simp] theorem memories_execCopyCommand (c q : Nat) (s : State) : (s.left (execCopyCommand c q s)).memories = s.memories := by
  unfold execCopyCommand
  (repeat' split) <;> simp

@[simp] theorem State.memories_engineRead (s : State) (sp : Span) (ag : Agent) : (s.engineRead sp ag).2.memories = s.memories := by
  unfold State.engineRead
  (repeat' split) <;> simp

@[simp] theorem State.memories_readBeat (s : State) (sp : Span) (ag : Agent) : (s.readBeat sp ag).2.memories = s.memories := by
  unfold State.readBeat
  simp

@[simp] theorem State.memories_countCopy (s : State) (m : Cmd) (dst vault : Nat) : (s.countCopy m dst vault).memories = s.memories := (rfl)

@[simp] theorem State.memories_noteMark (s : State) (c q : Nat) (m : Cmd) (sp : Span) : (s.noteMark c q m sp).memories = s.memories := by
  unfold State.noteMark
  simp

@[simp] theorem State.memories_table (s : State) (c off n : Nat) (ag : Agent) : (s.table c off n ag).2.memories = s.memories := by
  unfold State.table
  simp

@[simp] theorem State.memories_kvRow (s : State) (c : Nat) (m : Cmd) (pos : Nat) (ag : Agent) : (s.kvRow c m pos ag).2.memories = s.memories := by
  unfold State.kvRow
  dsimp only
  (repeat' split) <;> simp

@[simp] theorem State.memories_planKv (s : State) (c : Nat) (m : Cmd) (ag : Agent) : (s.planKv c m ag).2.memories = s.memories := by
  unfold State.planKv
  dsimp only
  (repeat' split) <;> simp

@[simp] theorem State.memories_planItems (s : State) (c : Nat) (m : Cmd) (ag : Agent) : (s.planItems c m ag).2.memories = s.memories := by
  unfold State.planItems
  dsimp only
  (repeat' split) <;> simp

@[simp] theorem memories_setBits (s : State) (c base i : Nat) (ag : Agent) (l : List Bool) : (setBits s c base i ag l).memories = s.memories := by
  induction l generalizing s i with
  | nil => rfl
  | cons b r ih => exact (ih _ _).trans (by simp)

@[simp] theorem State.memories_putKv (s : State) (c q : Nat) (m : Cmd) : (s.putKv c q m).memories = s.memories := by
  unfold State.putKv
  dsimp only
  split <;> simp

@[simp] theorem State.memories_finishCopy (s : State) (c q : Nat) (m : Cmd) (status detail : Nat) :
    (s.finishCopy c q m status detail).memories = s.memories := by
  unfold State.finishCopy
  simp

@[simp] theorem State.memories_useBeat (s : State) (c q : Nat) : (s.useBeat c q).memories = s.memories := (rfl)

@[simp] theorem State.memories_takePlan (s : State) (c q : Nat) (m : Cmd) (p : Plan) : (s.takePlan c q m p).memories = s.memories := by
  cases p <;> rfl

@[simp] theorem State.memories_issueBeat (s : State) (c q : Nat) (m : Cmd) (off : Nat) (data : List (Byte × Bool)) :
    (s.issueBeat c q m off data).memories = s.memories := by
  unfold State.issueBeat
  simp

@[simp] theorem State.memories_crossBeat (s : State) (lo : Nat) (i : LinkItem) : (s.crossBeat lo i).memories = s.memories := by
  unfold State.crossBeat
  simp

@[simp] theorem State.memories_readMore (s : State) (c q : Nat) (m : Cmd) (b : Batch) (ag : Agent) :
    (s.readMore c q m b ag).memories = s.memories := by
  unfold State.readMore
  simp

@[simp] theorem memories_cpwmOp (s : State) (pd q a b : Nat) : (s.ran ((cpwmOp pd q a b).run s)).memories = s.memories := by
  unfold cpwmOp
  simp

/-! #### The crossbar -/

@[simp] theorem State.memories_updArr (s : State) (c a : Nat) (f : XArr → XArr) : (s.updArr c a f).memories = s.memories := (rfl)

@[simp] theorem State.memories_xbRead (s : State) (c q : Nat) (m : Cmd) (off n : Nat) : (s.xbRead c q m off n).2.memories = s.memories := by
  unfold State.xbRead
  simp

@[simp] theorem State.memories_endXb (s : State) (c q : Nat) (m : Cmd) (status detail prog : Nat) :
    (s.endXb c q m status detail prog).memories = s.memories := (rfl)

@[simp] theorem State.memories_beginXb (s : State) (c q : Nat) (m : Cmd) : (s.beginXb c q m).memories = s.memories := by
  unfold State.beginXb
  dsimp only
  (repeat' split) <;> simp

@[simp] theorem State.memories_startXb (s : State) (c q : Nat) (m : Cmd) : (s.startXb c q m).memories = s.memories := by
  unfold State.startXb
  (repeat' split) <;> simp

@[simp] theorem memories_startOp (op c q : Nat) (s : State) : (s.left (startOp op c q s)).memories = s.memories := by
  unfold startOp
  (repeat' split) <;> simp

@[simp] theorem State.memories_takeInput (s : State) (c q : Nat) (m : Cmd) : (s.takeInput c q m).memories = s.memories := by
  unfold State.takeInput
  dsimp only
  (repeat' split) <;> simp

@[simp] theorem State.memories_progEnd (s : State) (c q : Nat) (m : Cmd) (b : Input) : (s.progEnd c q m b).memories = s.memories := by
  unfold State.progEnd
  simp

@[simp] theorem State.memories_progStep (s : State) (c q : Nat) (m : Cmd) : (s.progStep c q m).memories = s.memories := by
  unfold State.progStep
  (repeat' split) <;> simp

@[simp] theorem memories_execXbprog (c q : Nat) (s : State) : (s.left (execXbprog c q s)).memories = s.memories := by
  unfold execXbprog
  simp

@[simp] theorem memories_execXbprogRow (c q id : Nat) (s : State) : (s.left (execXbprogRow c q id s)).memories = s.memories := by
  unfold execXbprogRow
  (repeat' split) <;> simp

@[simp] theorem State.memories_verifyRow (s : State) (c q : Nat) (m : Cmd) (b : Input) : (s.verifyRow c q m b).memories = s.memories := by
  unfold State.verifyRow
  simp

@[simp] theorem State.memories_verifyStep (s : State) (c q : Nat) (m : Cmd) : (s.verifyStep c q m).memories = s.memories := by
  unfold State.verifyStep
  (repeat' split) <;> simp

@[simp] theorem memories_execXbverify (c q : Nat) (s : State) : (s.left (execXbverify c q s)).memories = s.memories := by
  unfold execXbverify
  (repeat' split) <;> simp

@[simp] theorem State.memories_putReport (s : State) (c q : Nat) (m : Cmd) (bs : List Byte) : (s.putReport c q m bs).memories = s.memories := by
  unfold State.putReport
  simp

@[simp] theorem State.memories_endVerify (s : State) (c q : Nat) (m : Cmd) : (s.endVerify c q m).memories = s.memories := by
  unfold State.endVerify
  simp

@[simp] theorem memories_execXbcal (c q : Nat) (s : State) : (s.left (execXbcal c q s)).memories = s.memories := by
  unfold execXbcal
  simp

@[simp] theorem memories_execXbprobe (c q : Nat) (s : State) : (s.left (execXbprobe c q s)).memories = s.memories := by
  unfold execXbprobe
  simp

@[simp] theorem State.memories_endCal (s : State) (c q : Nat) (m : Cmd) : (s.endCal c q m).memories = s.memories := by
  unfold State.endCal State.draw
  simp

@[simp] theorem State.memories_endProbe (s : State) (c q : Nat) (m : Cmd) : (s.endProbe c q m).memories = s.memories := by
  unfold State.endProbe State.draw
  simp

@[simp] theorem memories_execXbmvm (c q : Nat) (s : State) : (s.left (execXbmvm c q s)).memories = s.memories := by
  unfold execXbmvm
  (repeat' split) <;> simp

@[simp] theorem State.memories_feedClamps (s : State) (c n : Nat) : (s.feedClamps c n).memories = s.memories := by
  unfold State.feedClamps
  simp

@[simp] theorem State.memories_deliverSpan (s : State) (c q : Nat) (m : Cmd) (o : Nat × List Byte) (r : List (Nat × List Byte)) :
    (s.deliverSpan c q m o r).memories = s.memories := by
  unfold State.deliverSpan
  simp

@[simp] theorem State.memories_deliver (s : State) (c q : Nat) (m : Cmd) (b : Input) : (s.deliver c q m b).memories = s.memories := by
  unfold State.deliver
  dsimp only
  (repeat' split) <;> simp

@[simp] theorem State.memories_parityEnd (s : State) (c q : Nat) (m : Cmd) : (s.parityEnd c q m).memories = s.memories := by
  unfold State.parityEnd
  simp

@[simp] theorem State.memories_stepVector (s : State) (c q : Nat) (m : Cmd) : (s.stepVector c q m).memories = s.memories := by
  unfold State.stepVector
  (repeat' split) <;> simp

@[simp] theorem memories_execXbmvmVectorDelivery (c q id : Nat) (s : State) : (s.left (execXbmvmVectorDelivery c q id s)).memories = s.memories := by
  unfold execXbmvmVectorDelivery
  (repeat' split) <;> simp

@[simp] theorem State.memories_endMvm (s : State) (c q : Nat) (m : Cmd) (stop : Option Nat) : (s.endMvm c q m stop).memories = s.memories := (rfl)

theorem State.memories_xbEnd {s t : State} {c q : Nat} {m : Cmd} (h : s.xbEnd c q m = some t) : t.memories = s.memories := by
  unfold State.xbEnd at h
  dsimp only at h
  (repeat' split at h) <;> cases h <;> simp

@[simp] theorem memories_xbGuard (s : State) (a : Nat) (b : Option Nat) (okA okB : Word → Bool) (mask : Bool) (k : Word → Word → Except (Nat × Option Word) State)
    (h : ∀ u v, (s.ran (k u v)).memories = s.memories) : (s.ran (xbGuard s a b okA okB mask k)).memories = s.memories := by
  unfold xbGuard poisonFault
  dsimp only
  (repeat' split) <;> simp [h]

@[simp] theorem State.memories_takeSwap (s : State) (c x : Nat) : (s.takeSwap c x).memories = s.memories := (rfl)

@[simp] theorem memories_execXbswapTakeEffect (c arr : Nat) (s : State) : (s.left (execXbswapTakeEffect c arr s)).memories = s.memories := by
  unfold execXbswapTakeEffect
  simp

@[simp] theorem State.memories_takeRetire (s : State) (c x : Nat) : (s.takeRetire c x).memories = s.memories := (rfl)

@[simp] theorem memories_execXbretireTakeEffect (c arr : Nat) (s : State) : (s.left (execXbretireTakeEffect c arr s)).memories = s.memories := by
  unfold execXbretireTakeEffect
  simp

@[simp] theorem memories_xbcolRead (s : State) (b a : Nat) (f : XArr → Nat → Word) (g : State → Nat → Nat → State)
    (h : ∀ s x q, (g s x q).memories = s.memories) : (s.ran ((xbcolRead b a f g).run s)).memories = s.memories := by
  unfold xbcolRead
  simp [h]

/-! #### Calls and executors -/

@[simp] theorem State.memories_updExec (s : State) (e : ExecId) (f : Exec → Exec) : (s.updExec e f).memories = s.memories := by
  unfold State.updExec
  (repeat' split) <;> simp

@[simp] theorem State.memories_call (s : State) (y h a fn smask nx xa xb : Nat) : (s.call y h a fn smask nx xa xb).memories = s.memories := by
  unfold State.call
  dsimp only
  (repeat' split) <;> simp

@[simp] theorem memories_rcallOp (s : State) (y h a fn smask : Nat) (rel : Bool) (nx xa xb : Nat) :
    (s.ran ((rcallOp y h a fn smask rel nx xa xb).run s)).memories = s.memories := by
  unfold rcallOp
  dsimp only
  (repeat' split) <;> simp

@[simp] theorem memories_rwaitOp (s : State) (ord : MemOrd) (y d pd : Nat) (trap : Bool) :
    (s.ran ((rwaitOp ord y d pd trap).run s)).memories = s.memories := by
  unfold rwaitOp
  simp

@[simp] theorem State.memories_dropMsg (s : State) (id : Nat) : (s.dropMsg id).memories = s.memories := (rfl)

@[simp] theorem memories_execCallMessageArrive (id : Nat) (s : State) : (s.left (execCallMessageArrive id s)).memories = s.memories := by
  unfold execCallMessageArrive
  (repeat' split) <;> simp

@[simp] theorem State.memories_replyCall (s : State) (m : CallMsg) (id status cause : Nat) (vals : List SVal) (words : Nat) :
    (s.replyCall m id status cause vals words).memories = s.memories := by
  unfold State.replyCall
  (repeat' split) <;> simp

@[simp] theorem State.memories_startCall (s : State) (e : ExecId) : (s.startCall e).memories = s.memories := by
  unfold State.startCall
  dsimp only
  (repeat' split) <;> simp

@[simp] theorem memories_execCallStart (e : ExecId) (s : State) : (s.left (execCallStart e s)).memories = s.memories := by
  unfold execCallStart
  simp

@[simp] theorem State.memories_countVault (s : State) (task pa n : Nat) : (s.countVault task pa n).memories = s.memories := by
  unfold State.countVault
  simp

@[simp] theorem State.memories_issueCallStore (s : State) (e : ExecId) (t : CallSlot) (a : Nat) (data : List Byte) (read : Bool) :
    (s.issueCallStore e t a data read).memories = s.memories := (rfl)

@[simp] theorem State.memories_remoteLoad (s : State) (pa n : Nat) (ag : Agent) : (s.remoteLoad pa n ag).2.memories = s.memories := by
  unfold State.remoteLoad
  (repeat' split) <;> simp

@[simp] theorem State.memories_endCall (s : State) (e : ExecId) (n : Nat) (t : CallSlot) (status cause : Nat) (vals : List SVal) :
    (s.endCall e n t status cause vals).memories = s.memories := by
  unfold State.endCall
  simp

@[simp] theorem State.memories_endCallWhen (s : State) (e : ExecId) (n : Nat) (t : CallSlot) (status cause : Nat) (vals : List SVal) :
    (s.endCallWhen e n t status cause vals).memories = s.memories := by
  unfold State.endCallWhen
  simp

@[simp] theorem memories_execCallWordLimit (e : ExecId) (slot : Nat) (s : State) : (s.left (execCallWordLimit e slot s)).memories = s.memories := by
  unfold execCallWordLimit
  (repeat' split) <;> simp

@[simp] theorem State.memories_callBack (s : State) (c x y seq : Nat) : (s.callBack c x y seq).memories = s.memories := (rfl)

@[simp] theorem memories_execCallReplyArrive (id : Nat) (s : State) : (s.left (execCallReplyArrive id s)).memories = s.memories := by
  unfold execCallReplyArrive
  (repeat' split) <;> simp

@[simp] theorem memories_execCompletionNoticeSend (id : Nat) (s : State) : (s.left (execCompletionNoticeSend id s)).memories = s.memories := by
  unfold execCompletionNoticeSend
  (repeat' split) <;> simp

@[simp] theorem memories_execCompletionNoticeArrive (id : Nat) (s : State) : (s.left (execCompletionNoticeArrive id s)).memories = s.memories := by
  unfold execCompletionNoticeArrive
  (repeat' split) <;> simp

@[simp] theorem memories_execCallDeadline (c x y : Nat) (s : State) : (s.left (execCallDeadline c x y s)).memories = s.memories := by
  unfold execCallDeadline
  simp

@[simp] theorem memories_execHostNotifyCommand (c : Nat) (s : State) : (s.left (execHostNotifyCommand c s)).memories = s.memories := by
  unfold execHostNotifyCommand
  (repeat' split) <;> simp

@[simp] theorem State.memories_recordOf (s : State) (c q id : Nat) : (s.recordOf c q id).memories = s.memories := by
  unfold State.recordOf
  (repeat' split) <;> simp

/-! #### Barriers and ballots -/

@[simp] theorem State.memories_setBar (s : State) (b : Nat) (v : Option Barrier) : (s.setBar b v).memories = s.memories := (rfl)

@[simp] theorem State.memories_release (s : State) (bar key phase : Nat) (full : Bool) : (s.release bar key phase full).memories = s.memories := by
  unfold State.release
  (repeat' split) <;> simp

@[simp] theorem State.memories_dropArrivals (s : State) (bar : Nat) (drop : Nat → Bool) : (s.dropArrivals bar drop).memories = s.memories := by
  unfold State.dropArrivals
  simp

@[simp] theorem State.memories_setMembers (s : State) (bar : Nat) (ms : List Nat) : (s.setMembers bar ms).memories = s.memories := by
  unfold State.setMembers
  (repeat' split) <;> simp

@[simp] theorem State.memories_eraseBar (s : State) (bar : Nat) : (s.eraseBar bar).memories = s.memories := by
  unfold State.eraseBar
  (repeat' split) <;> simp

@[simp] theorem State.memories_formBar (s : State) (n : Nat) (ms : List Nat) : (s.formBar n ms).memories = s.memories := (rfl)

@[simp] theorem State.memories_putDom (s : State) (n : Nat) (d : Domain) : (s.putDom n d).memories = s.memories := by
  unfold State.putDom
  dsimp only
  (repeat' split) <;> simp

@[simp] theorem State.memories_clearDom (s : State) (n : Nat) : (s.clearDom n).memories = s.memories := by
  unfold State.clearDom
  simp

@[simp] theorem State.memories_formFixed (s : State) (l : Nat) : (s.formFixed l).memories = s.memories := by
  unfold State.formFixed
  simp

@[simp] theorem State.memories_refreshFixed (s : State) (l : Nat) : (s.refreshFixed l).memories = s.memories := by
  unfold State.refreshFixed
  refine State.memories_foldl _ (fun s sel => State.memories_foldl _ (fun s c => ?_) _ _) _ _
  dsimp only
  (repeat' split) <;> simp

@[simp] theorem State.memories_dropFixed (s : State) (l : Nat) : (s.dropFixed l).memories = s.memories := (rfl)

@[simp] theorem State.memories_permArrive (s : State) (key : Nat) : (s.permArrive key).memories = s.memories := (rfl)

@[simp] theorem State.memories_register (s : State) (n : Nat) : (s.register n).memories = s.memories := by
  unfold State.register
  dsimp only
  (repeat' split) <;> simp

@[simp] theorem State.ran_notMember (s : State) (n : Nat) : s.ran (notMember n) = s := rfl

@[simp] theorem memories_barriveOp (s : State) (n : Nat) (hold : Bool) : (s.ran ((barriveOp n hold).run s)).memories = s.memories := by
  unfold barriveOp
  simp

@[simp] theorem State.memories_tellHome (s : State) (bar : Nat) : (s.tellHome bar).memories = s.memories := by
  unfold State.tellHome
  simp

@[simp] theorem memories_execBarrierArrivalCounted (id : Nat) (s : State) : (s.left (execBarrierArrivalCounted id s)).memories = s.memories := by
  unfold execBarrierArrivalCounted
  (repeat' split) <;> simp

@[simp] theorem State.memories_peersIn (s : State) (bar : Nat) (b : Barrier) : (s.peersIn bar b).2.memories = s.memories := by
  unfold State.peersIn
  dsimp only
  (repeat' split) <;> simp

@[simp] theorem State.memories_tellPeers (s : State) (bar : Nat) : (s.tellPeers bar).memories = s.memories := by
  unfold State.tellPeers
  simp

@[simp] theorem State.memories_nextPhase (s : State) (bar : Nat) (b : Barrier) : (s.nextPhase bar b).memories = s.memories := by
  unfold State.nextPhase
  simp

@[simp] theorem memories_execBarrierRelease (bar : Nat) (s : State) : (s.left (execBarrierRelease bar s)).memories = s.memories := by
  unfold execBarrierRelease
  (repeat' split) <;> simp

@[simp] theorem memories_execBarrierReleaseArrive (id : Nat) (s : State) : (s.left (execBarrierReleaseArrive id s)).memories = s.memories := by
  unfold execBarrierReleaseArrive
  (repeat' split) <;> simp

@[simp] theorem memories_bwaitOp (s : State) (n pd : Nat) : (s.ran ((bwaitOp n pd).run s)).memories = s.memories := by
  unfold bwaitOp
  simp

@[simp] theorem State.memories_tellDomain (s : State) (n : Nat) (op : Word) : (s.tellDomain n op).memories = s.memories := by
  unfold State.tellDomain
  simp

@[simp] theorem memories_domsetOp (s : State) (n a : Nat) : (s.ran ((domsetOp n a).run s)).memories = s.memories := by
  unfold domsetOp
  dsimp only
  (repeat' split) <;> simp

@[simp] theorem memories_domgetOp (s : State) (n a sel : Nat) : (s.ran ((domgetOp n a sel).run s)).memories = s.memories := by
  unfold domgetOp
  simp

/-! #### Fetch -/

@[simp] theorem State.memories_select (s : State) (c x : Nat) : (s.select c x).memories = s.memories := (rfl)

@[simp] theorem State.memories_noteIssue (s : State) (c x : Nat) : (s.noteIssue c x).memories = s.memories := (rfl)

@[simp] theorem State.memories_endStep (s : State) (c x step0 : Nat) : (s.endStep c x step0).memories = s.memories := by
  unfold State.endStep
  dsimp only
  (repeat' split) <;> simp

/-! #### Contexts and tasks -/

@[simp] theorem State.memories_noteLeft (s : State) (c x : Nat) : (s.noteLeft c x).memories = s.memories := (rfl)

@[simp] theorem State.memories_dropResults (s : State) (c x : Nat) : (s.dropResults c x).memories = s.memories := (rfl)

@[simp] theorem State.memories_failStep (s : State) (c x : Nat) : (s.failStep c x).memories = s.memories := by
  unfold State.failStep
  (repeat' split) <;> simp

@[simp] theorem State.memories_stopCtx (s : State) (c x : Nat) : (s.stopCtx c x).memories = s.memories := by
  unfold State.stopCtx
  simp

@[simp] theorem State.memories_leaveSlots (s : State) (tid : Nat) (t : Task) (f : Ctx → Ctx) : (s.leaveSlots tid t f).memories = s.memories := by
  unfold State.leaveSlots
  simp

@[simp] theorem State.memories_killCtx (s : State) (c x : Nat) : (s.killCtx c x).memories = s.memories := by
  unfold State.killCtx
  simp

@[simp] theorem State.memories_killTask (s : State) (t : Nat) : (s.killTask t).memories = s.memories := by
  unfold State.killTask
  (repeat' split) <;> simp

@[simp] theorem State.memories_noteFault (s : State) (l cause : Nat) : (s.noteFault l cause).memories = s.memories := (rfl)

@[simp] theorem memories_execCancellationStop (c x : Nat) (s : State) : (s.left (execCancellationStop c x s)).memories = s.memories := by
  unfold execCancellationStop
  simp

@[simp] theorem memories_execGraceExpiry (c x : Nat) (s : State) : (s.left (execGraceExpiry c x s)).memories = s.memories := by
  unfold execGraceExpiry
  simp

@[simp] theorem memories_execContextUnblock (c x : Nat) (s : State) : (s.left (execContextUnblock c x s)).memories = s.memories := by
  unfold execContextUnblock
  simp

@[simp] theorem State.memories_takeCause (s : State) (c x : Nat) : (s.takeCause c x).memories = s.memories := by
  unfold State.takeCause
  dsimp only
  (repeat' split) <;> simp

@[simp] theorem memories_execTrapEntry (c x : Nat) (s : State) : (s.left (execTrapEntry c x s)).memories = s.memories := by
  unfold execTrapEntry
  simp

@[simp] theorem State.memories_freezeCtx (s : State) (c x : Nat) : (s.freezeCtx c x).memories = s.memories := by
  unfold State.freezeCtx
  simp

@[simp] theorem State.memories_guidonFreeze (s : State) (c x h due : Nat) : (s.guidonFreeze c x h due).memories = s.memories := by
  unfold State.guidonFreeze
  simp

@[simp] theorem State.memories_guidonOwner (s : State) (c x h due : Nat) (a : Word) : (s.guidonOwner c x h due a).memories = s.memories := by
  unfold State.guidonOwner
  dsimp only
  (repeat' split) <;> simp

@[simp] theorem memories_execGuidonArrive (c x : Nat) (s : State) : (s.left (execGuidonArrive c x s)).memories = s.memories := by
  unfold execGuidonArrive
  (repeat' split) <;> simp

@[simp] theorem memories_execFreezeArrive (c x : Nat) (s : State) : (s.left (execFreezeArrive c x s)).memories = s.memories := by
  unfold execFreezeArrive
  (repeat' split) <;> simp

@[simp] theorem memories_targetOp (s : State) (pd a : Nat) (f : Nat → Nat → State → State) (h : ∀ c x s, (f c x s).memories = s.memories) :
    (s.ran ((targetOp pd a f).run s)).memories = s.memories := by
  unfold targetOp
  dsimp only
  (repeat' split) <;> simp [h]

@[simp] theorem memories_softTrap (s : State) (cause code : Nat) : (s.ran (softTrap cause code s)).memories = s.memories := by
  unfold softTrap
  split <;> simp

@[simp] theorem memories_handlerReturnOp (s : State)  : (s.ran ((handlerReturnOp).run s)).memories = s.memories := by
  unfold handlerReturnOp
  simp

@[simp] theorem memories_wsetOp (s : State) (n a kinds dsel : Nat) : (s.ran ((wsetOp n a kinds dsel).run s)).memories = s.memories := by
  unfold wsetOp
  dsimp only
  (repeat' split) <;> simp

@[simp] theorem memories_latchCheck (s : State) (k : State → State) (h : (k s).memories = s.memories) :
    (s.ran (latchCheck s k)).memories = s.memories := by
  unfold latchCheck
  split <;> simp [h]

@[simp] theorem memories_vendorOp (s : State) (d : Nat) : (s.ran ((vendorOp d).run s)).memories = s.memories := (rfl)

/-! #### Groups -/

@[simp] theorem State.memories_setSlot (s : State) (n : Nat) (b : Option Ballot) : (s.setSlot n b).memories = s.memories := (rfl)

@[simp] theorem State.memories_pennant (s : State) (slot sib : Nat) : (s.pennant slot sib).memories = s.memories := by
  unfold State.pennant
  dsimp only
  (repeat' split) <;> simp

@[simp] theorem State.memories_readOpen (s : State) (slot : Nat) : (s.readOpen slot).memories = s.memories := (rfl)

@[simp] theorem State.memories_postAt (s : State) (slot : Nat) (b : Ballot) (sib : Nat) (x : Word) :
    (s.postAt slot b sib x).2.memories = s.memories := by
  unfold State.postAt
  (repeat' split) <;> simp

@[simp] theorem memories_execBallotPostArrive (id : Nat) (s : State) : (s.left (execBallotPostArrive id s)).memories = s.memories := by
  unfold execBallotPostArrive
  (repeat' split) <;> simp

@[simp] theorem State.memories_cancelAt (s : State) (slot : Nat) (b : Ballot) (mask : Word) : (s.cancelAt slot b mask).memories = s.memories := by
  unfold State.cancelAt
  simp

@[simp] theorem memories_execGcancelRequestArrive (id : Nat) (s : State) : (s.left (execGcancelRequestArrive id s)).memories = s.memories := by
  unfold execGcancelRequestArrive
  (repeat' split) <;> simp

@[simp] theorem memories_execEndNoticeArrive (id : Nat) (s : State) : (s.left (execEndNoticeArrive id s)).memories = s.memories := by
  unfold execEndNoticeArrive
  (repeat' split) <;> simp

@[simp] theorem State.memories_groupTick (s : State) : s.groupTick.memories = s.memories := by
  unfold State.groupTick
  simp only [State.memories_mk, Memories.of_state]
  refine (State.memories_foldl _ (fun s e => by split <;> simp) _ _).trans (State.memories_foldl _ (fun s e => ?_) _ _)
  (repeat' split) <;> simp

@[simp] theorem memories_execBallotSlotFree (slot : Nat) (s : State) : (s.left (execBallotSlotFree slot s)).memories = s.memories := by
  unfold execBallotSlotFree
  (repeat' split) <;> simp

@[simp] theorem memories_execPennantArrive (c x : Nat) (s : State) : (s.left (execPennantArrive c x s)).memories = s.memories := by
  unfold execPennantArrive
  (repeat' split) <;> simp

@[simp] theorem State.memories_rcerr (s : State) (slot : Nat) (pois : Option Nat) : (s.rcerr slot pois).memories = s.memories := by
  unfold State.rcerr
  dsimp only
  (repeat' split) <;> simp

@[simp] theorem State.ran_noGroup (s : State) : s.ran noGroup = s := rfl

@[simp] theorem memories_bpostOp (s : State) (a pd : Nat) : (s.ran ((bpostOp a pd).run s)).memories = s.memories := by
  unfold bpostOp
  dsimp only
  (repeat' split) <;> simp

@[simp] theorem memories_breadOp (s : State) (ord : MemOrd) (a sel : Nat) : (s.ran ((breadOp ord a sel).run s)).memories = s.memories := by
  unfold breadOp
  dsimp only
  (repeat' split) <;> simp

@[simp] theorem memories_gcancelOp (s : State) (a : Nat) : (s.ran ((gcancelOp a).run s)).memories = s.memories := by
  unfold gcancelOp
  dsimp only
  (repeat' split) <;> simp

/-! #### Saved tasks -/

@[simp] theorem State.memories_holdCtx (s : State) (c x : Nat) : (s.holdCtx c x).memories = s.memories := by
  unfold State.holdCtx
  simp

@[simp] theorem State.memories_beginSave (s : State) (tid : Nat) (t : Task) : (s.beginSave tid t).memories = s.memories := by
  unfold State.beginSave
  simp

/-! #### Launches and records -/

@[simp] theorem State.memories_complete (s : State) (r : CRec) : (s.complete r).memories = s.memories := (rfl)

@[simp] theorem State.memories_endRecord (s : State) (r : Record) (status cause : Nat) : (s.endRecord r status cause).memories = s.memories := (rfl)

@[simp] theorem State.memories_updLq (s : State) (q : Nat) (f : LQueue → LQueue) : (s.updLq q f).memories = s.memories := (rfl)

@[simp] theorem State.memories_countRefused (s : State) (q : Nat) : (s.countRefused q).memories = s.memories := (rfl)

@[simp] theorem State.memories_refuse (s : State) (r : Record) : (s.refuse r).memories = s.memories := (rfl)

@[simp] theorem State.memories_endSaved (s : State) (tid : Nat) (t : Task) : (s.endSaved tid t).memories = s.memories := by
  unfold State.endSaved
  simp

@[simp] theorem State.memories_endSave (s : State) (tid : Nat) (t : Task) : (s.endSave tid t).memories = s.memories := by
  unfold State.endSave
  simp

@[simp] theorem State.memories_endTask (s : State) (tid : Nat) : (s.endTask tid).memories = s.memories := by
  unfold State.endTask
  (repeat' split) <;> simp

@[simp] theorem State.memories_shed (s : State) (v : Record) : (s.shed v).memories = s.memories := by
  unfold State.shed
  (repeat' split) <;> simp

@[simp] theorem State.memories_enter (s : State) (r : Record) : (s.enter r).2.memories = s.memories := by
  unfold State.enter
  dsimp only
  (repeat' split) <;> simp

@[simp] theorem State.memories_arrive (s : State) (q : Nat) (l : List Word) : (s.arrive q l).2.memories = s.memories := by
  unfold State.arrive
  simp

@[simp] theorem memories_execLaunchRecordWrite (off size : Nat) (words : List Word) (s : State) :
    (s.left (execLaunchRecordWrite off size words s)).memories = s.memories := by
  unfold execLaunchRecordWrite
  simp

@[simp] theorem memories_execLaunchRecordAccept (s : State) : (s.left (execLaunchRecordAccept s)).memories = s.memories := by
  unfold execLaunchRecordAccept
  (repeat' split) <;> simp

@[simp] theorem memories_endOp (s : State) (f : State → State) (h : ∀ s, (f s).memories = s.memories) :
    (s.ran ((endOp f).run s)).memories = s.memories := by
  unfold endOp
  simp [h]

@[simp] theorem State.memories_killSoon (s : State) (c x : Nat) : (s.killSoon c x).memories = s.memories := by
  unfold State.killSoon
  simp

@[simp] theorem State.memories_failLaunch (s : State) (retry : Bool) : (s.failLaunch retry).memories = s.memories := by
  unfold State.failLaunch
  split
  · rfl
  · refine (State.memories_foldl _ (fun s e => ?_) _ _).trans (State.memories_updLaunch ..)
    dsimp only
    (repeat' split) <;> simp

@[simp] theorem memories_klaunchOp (s : State) (pd a lq : Nat) : (s.ran ((klaunchOp pd a lq).run s)).memories = s.memories := by
  unfold klaunchOp
  simp

/-! #### Kernel services -/

@[simp] theorem State.memories_fill (s : State) (c pa n off : Nat) : (s.fill c pa n off).memories = s.memories := (rfl)

@[simp] theorem State.memories_loadBanks (s : State) (c : Nat) (m : Image) (cps : List (Nat × Nat × List CopyPiece)) :
    (s.loadBanks c m cps).memories = s.memories := by
  unfold State.loadBanks
  simp

@[simp] theorem State.memories_loadImage (s : State) (r : Record) (m : Image) (sp : Spot) (cps : List (Nat × Nat × List CopyPiece)) :
    (s.loadImage r m sp cps).memories = s.memories := by
  unfold State.loadImage
  simp

@[simp] theorem State.memories_placeTask (s : State) (r : Record) (l : Nat) (m : Image) (dom : Option Nat) (cps : List (Nat × Nat × List CopyPiece)) (sp : Spot) (sib : Option Nat) :
    (s.placeTask r l m dom cps sp sib).2.memories = s.memories := by
  unfold State.placeTask
  simp

@[simp] theorem State.memories_dequeue (s : State) (r : Record) : (s.dequeue r).memories = s.memories := (rfl)

@[simp] theorem State.memories_place (s : State) (r : Record) (m : Image) (sps : List Spot) (cps : List (Nat × Nat × List CopyPiece)) :
    (s.place r m sps cps).memories = s.memories := by
  unfold State.place
  dsimp only
  generalize hz : List.foldl _ _ _ = z
  have h : z.2.memories = s.memories := by
    rw [← hz]
    refine foldl_keeps (fun a : List Nat × State => a.2.memories = s.memories) _ (fun a e ha => ?_) _ _ (by simp)
    exact (State.memories_placeTask ..).trans ha
  (repeat' split) <;> simp [h]

@[simp] theorem State.memories_strike (s : State) (r : Record) (tid : Nat) : (s.strike r tid).memories = s.memories := by
  unfold State.strike
  (repeat' split) <;> simp

@[simp] theorem State.memories_reportAll (s : State) (l : List Nat) : (s.reportAll l).memories = s.memories := by
  unfold State.reportAll
  simp

@[simp] theorem memories_execDispatch (s : State) : (s.left (execDispatch s)).memories = s.memories := by
  unfold execDispatch
  (repeat' split) <;> simp

@[simp] theorem State.memories_requeue (s : State) (l : Launch) (resume : Option Nat) (reruns : Nat) :
    (s.requeue l resume reruns).memories = s.memories := (rfl)

@[simp] theorem State.memories_keysOut (s : State) (tid : Nat) (t : Task) : (s.keysOut tid t).memories = s.memories := (rfl)

@[simp] theorem State.memories_keysIn (s : State) (tid : Nat) (t : Task) (sp : Spot) : (s.keysIn tid t sp).memories = s.memories := (rfl)

@[simp] theorem State.memories_restoreBanks (s : State) (c : Nat) (m : Image) (tb : Nat) : (s.restoreBanks c m tb).memories = s.memories := by
  unfold State.restoreBanks
  simp

@[simp] theorem State.memories_resumeTask (s : State) (tid : Nat) (t : Task) (sp : Spot) (ys : List Ctx) (cmds : List (Nat × Cmd)) (ren : Nat → Nat) :
    (s.resumeTask tid t sp ys cmds ren).memories = s.memories := by
  unfold State.resumeTask
  simp only [State.newId, State.memories_refreshFixed, State.memories_formFixed]
  split <;> simp

@[simp] theorem memories_execTaskResume (tid : Nat) (s : State) : (s.left (execTaskResume tid s)).memories = s.memories := by
  unfold execTaskResume
  dsimp only
  (repeat' split) <;> simp

@[simp] theorem memories_execBudgetExpiry (tid : Nat) (s : State) : (s.left (execBudgetExpiry tid s)).memories = s.memories := by
  unfold execBudgetExpiry
  (repeat' split) <;> simp

@[simp] theorem State.memories_endedTask (s : State) (tid : Nat) (t : Task) : (s.endedTask tid t).memories = s.memories := by
  unfold State.endedTask
  simp

@[simp] theorem State.memories_freeTask (s : State) (tid : Nat) (t : Task) : (s.freeTask tid t).memories = s.memories := by
  unfold State.freeTask
  simp only [State.memories_updTask, State.memories_updCore, State.memories_updCx, State.memories_foldl, implies_true]
  refine State.memories_foldl _ (fun s x => ?_) _ _
  split <;> simp

@[simp] theorem State.memories_endLaunch (s : State) (n : Nat) (l : Launch) : (s.endLaunch n l).memories = s.memories := by
  unfold State.endLaunch
  dsimp only
  (repeat' split) <;> simp

@[simp] theorem memories_execTaskEnd (tid : Nat) (s : State) : (s.left (execTaskEnd tid s)).memories = s.memories := by
  unfold execTaskEnd
  (repeat' split) <;> simp

@[simp] theorem State.memories_preloadRecord (s : State) (c : Nat) (r : Record) (m : Image) : (s.preloadRecord c r m).memories = s.memories := by
  unfold State.preloadRecord
  (repeat' split) <;> simp

@[simp] theorem memories_execPreload (c lq seq : Nat) (s : State) : (s.left (execPreload c lq seq s)).memories = s.memories := by
  unfold execPreload
  (repeat' split) <;> simp

@[simp] theorem State.memories_ctlKill (s : State) (c x : Nat) : (s.ctlKill c x).memories = s.memories := by
  unfold State.ctlKill
  dsimp only
  (repeat' split) <;> simp

@[simp] theorem State.memories_ctlResume (s : State) (c x : Nat) : (s.ctlResume c x).memories = s.memories := by
  unfold State.ctlResume
  (repeat' split) <;> simp

@[simp] theorem memories_execCtxctlResume (c x : Nat) (s : State) : (s.left (execCtxctlResume c x s)).memories = s.memories := by
  unfold execCtxctlResume
  simp

@[simp] theorem memories_execCtxctlKill (c x : Nat) (s : State) : (s.left (execCtxctlKill c x s)).memories = s.memories := by
  unfold execCtxctlKill
  simp

/-! #### Halyards and links -/

@[simp] theorem State.memories_setHalyard (s : State) (c n st : Nat) : (s.setHalyard c n st).memories = s.memories := (rfl)

@[simp] theorem State.memories_spare (s : State) (c q sp : Nat) : (s.spare c q sp).memories = s.memories := by
  unfold State.spare
  simp

@[simp] theorem State.memories_retireQuarter (s : State) (c q : Nat) (lost : Bool) : (s.retireQuarter c q lost).memories = s.memories := (rfl)

@[simp] theorem State.memories_loseQuarter (s : State) (c q : Nat) : (s.loseQuarter c q).memories = s.memories := by
  unfold State.loseQuarter
  simp

@[simp] theorem State.memories_rescue (s : State) (c q : Nat) : (s.rescue c q).memories = s.memories := by
  unfold State.rescue
  (repeat' split) <;> simp

@[simp] theorem memories_execHalyardErrorRateHigh (c n : Nat) (s : State) : (s.left (execHalyardErrorRateHigh c n s)).memories = s.memories := by
  unfold execHalyardErrorRateHigh
  simp

@[simp] theorem memories_execHalyardRateWindow (c n : Nat) (s : State) : (s.left (execHalyardRateWindow c n s)).memories = s.memories := by
  unfold execHalyardRateWindow
  simp

@[simp] theorem memories_execHalyardSteer (c n : Nat) (s : State) : (s.left (execHalyardSteer c n s)).memories = s.memories := by
  unfold execHalyardSteer
  simp

@[simp] theorem memories_execQuiescePoint (c : Nat) (s : State) : (s.left (execQuiescePoint c s)).memories = s.memories := by
  unfold execQuiescePoint
  rw [State.left_next]
  refine (State.memories_foldl _ (fun s n => ?_) _ _).trans (State.memories_updCore ..)
  (repeat' split) <;> simp

@[simp] theorem memories_execHalyardRetire (c n : Nat) (s : State) : (s.left (execHalyardRetire c n s)).memories = s.memories := by
  unfold execHalyardRetire
  simp

@[simp] theorem memories_execHalyardFailure (c n : Nat) (s : State) : (s.left (execHalyardFailure c n s)).memories = s.memories := by
  unfold execHalyardFailure
  (repeat' split) <;> simp

@[simp] theorem State.memories_setLink (s : State) (l : Nat) (v : Link) : (s.setLink l v).memories = s.memories := (rfl)

@[simp] theorem State.memories_moveLink (s : State) (l : Nat) (v : Link) : (s.moveLink l v).memories = s.memories := (rfl)

@[simp] theorem State.memories_enableLink (s : State) (l : Nat) : (s.enableLink l).memories = s.memories := by
  unfold State.enableLink
  simp

@[simp] theorem State.memories_disableLink (s : State) (l : Nat) : (s.disableLink l).memories = s.memories := by
  unfold State.disableLink
  simp

@[simp] theorem memories_execLinkEnable (l : Nat) (s : State) : (s.left (execLinkEnable l s)).memories = s.memories := by
  unfold execLinkEnable
  simp

@[simp] theorem memories_execLinkDisable (l : Nat) (s : State) : (s.left (execLinkDisable l s)).memories = s.memories := by
  unfold execLinkDisable
  simp

@[simp] theorem memories_execLinkTrainingDone (l lanes chip : Nat) (s : State) :
    (s.left (execLinkTrainingDone l lanes chip s)).memories = s.memories := by
  unfold execLinkTrainingDone
  simp

@[simp] theorem memories_execLinkTrainingTimeout (l : Nat) (s : State) : (s.left (execLinkTrainingTimeout l s)).memories = s.memories := by
  unfold execLinkTrainingTimeout
  simp

@[simp] theorem memories_execLaneFault (l lane : Nat) (s : State) : (s.left (execLaneFault l lane s)).memories = s.memories := by
  unfold execLaneFault
  simp

@[simp] theorem memories_execLinkRepair (l : Nat) (s : State) : (s.left (execLinkRepair l s)).memories = s.memories := by
  unfold execLinkRepair
  simp

@[simp] theorem memories_execFlitReceive (l : Nat) (f : Flit) (s : State) : (s.left (execFlitReceive l f s)).memories = s.memories := by
  unfold execFlitReceive
  simp

/-! #### Management -/

@[simp] theorem State.memories_bringUp (s : State) : (s.bringUp).2.memories = s.memories := by
  unfold State.bringUp
  dsimp only
  (repeat' split) <;> simp

@[simp] theorem State.memories_mbStart (s : State) (op : Nat) : (s.mbStart op).memories = s.memories := by
  unfold State.mbStart
  simp

@[simp] theorem State.memories_mbRefuse (s : State) (reason : Nat) : (s.mbRefuse reason).memories = s.memories := (rfl)

@[simp] theorem State.memories_mbRefuseCounted (s : State) (reason : Nat) : (s.mbRefuseCounted reason).memories = s.memories := (rfl)

@[simp] theorem State.memories_mbOk (s : State) (result : Nat) : (s.mbOk result).memories = s.memories := (rfl)

@[simp] theorem memories_execMailboxInvalidOp (s : State) : (s.left (execMailboxInvalidOp s)).memories = s.memories := by
  unfold execMailboxInvalidOp
  simp

@[simp] theorem memories_execMailboxPower (s : State) : (s.left (execMailboxPower s)).memories = s.memories := by
  unfold execMailboxPower
  rw [left_runEvent]
  split
  · dsimp only
    split <;> simp
  · rfl

@[simp] theorem memories_execPowerUp (s : State) : (s.left (execPowerUp s)).memories = s.memories := by
  unfold execPowerUp
  simp

@[simp] theorem memories_execMailboxCap (s : State) : (s.left (execMailboxCap s)).memories = s.memories := by
  unfold execMailboxCap
  simp

@[simp] theorem memories_execCapWindow (avg : Nat) (s : State) : (s.left (execCapWindow avg s)).memories = s.memories := by
  unfold execCapWindow
  simp

@[simp] theorem memories_execMailboxVerify (s : State) : (s.left (execMailboxVerify s)).memories = s.memories := by
  unfold execMailboxVerify
  simp

@[simp] theorem memories_execMailboxFwload (s : State) : (s.left (execMailboxFwload s)).memories = s.memories := by
  unfold execMailboxFwload
  simp

@[simp] theorem State.memories_resetTask (s : State) (tid : Nat) (t : Task) : (s.resetTask tid t).memories = s.memories := by
  unfold State.resetTask
  dsimp only
  (repeat' split) <;> simp

@[simp] theorem State.memories_resetCore (s : State) (c : Nat) : (s.resetCore c).memories = s.memories := by
  unfold State.resetCore
  simp

@[simp] theorem memories_execMailboxResetCore (s : State) : (s.left (execMailboxResetCore s)).memories = s.memories := by
  unfold execMailboxResetCore
  simp

@[simp] theorem memories_execThermalTrip (point code : Nat) (s : State) : (s.left (execThermalTrip point code s)).memories = s.memories := by
  unfold execThermalTrip
  simp

@[simp] theorem memories_execThermalTripRelease (s : State) : (s.left (execThermalTripRelease s)).memories = s.memories := by
  unfold execThermalTripRelease
  simp

@[simp] theorem memories_execMonitorSample (n x : Nat) (s : State) : (s.left (execMonitorSample n x s)).memories = s.memories := by
  unfold execMonitorSample
  simp

@[simp] theorem memories_execMonctlStart (s : State) : (s.left (execMonctlStart s)).memories = s.memories := by
  unfold execMonctlStart
  simp

/-! #### Device-control registers -/

@[simp] theorem State.memories_ctxctl (s : State) (c x act : Nat) : (s.ctxctl c x act).memories = s.memories := by
  unfold State.ctxctl
  simp

@[simp] theorem State.memories_writeCore (s : State) (c off : Nat) (w : Word) : (s.writeCore c off w).memories = s.memories := by
  unfold State.writeCore
  (repeat' split) <;> simp

@[simp] theorem State.memories_writeMgmt (s : State) (off : Nat) (w : Word) : (s.writeMgmt off w).memories = s.memories := by
  unfold State.writeMgmt
  (repeat' split) <;> simp

@[simp] theorem State.memories_writeIo1 (s : State) (off : Nat) (w : Word) : (s.writeIo1 off w).memories = s.memories := by
  unfold State.writeIo1
  (repeat' split) <;> simp

@[simp] theorem State.memories_writeLink (s : State) (l o : Nat) (w : Word) : (s.writeLink l o w).memories = s.memories := by
  unfold State.writeLink
  simp

@[simp] theorem State.memories_writeIo (s : State) (ag : RegAgent) (off : Nat) (w : Word) : (s.writeIo ag off w).memories = s.memories := by
  unfold State.writeIo
  (repeat' split) <;> simp

@[simp] theorem State.memories_writeReg (s : State) (ag : RegAgent) (b : Block) (off : Nat) (w : Word) :
    (s.writeReg ag b off w).memories = s.memories := by
  unfold State.writeReg
  (repeat' split) <;> simp

@[simp] theorem memories_execRegisterWrite (agent : RegAgent) (blk : Block) (off : Nat) (val : Word) (s : State) :
    (s.left (execRegisterWrite agent blk off val s)).memories = s.memories := by
  unfold execRegisterWrite
  simp

@[simp] theorem State.memories_hostLoad (s : State) (a n : Nat) : (s.hostLoad a n).memories = s.memories := by
  unfold State.hostLoad State.draw
  simp

/-! #### What memory performs -/

@[simp] theorem State.memories_comeBack (s : State) (a : Access) (bs : List Byte) (po : Bool) : (s.comeBack a bs po).memories = s.memories := by
  unfold State.comeBack
  (repeat' split) <;> simp

@[simp] theorem State.memories_roInstall (s : State) (c l : Nat) : (s.roInstall c l).memories = s.memories := (rfl)

@[simp] theorem State.memories_lose (s : State) (a : Access) : (s.lose a).memories = s.memories := by
  unfold State.lose
  simp

@[simp] theorem State.memories_performReg (s : State) (a : Access) (p : Nat) : (s.performReg a p).memories = s.memories := by
  unfold State.performReg
  (repeat' split) <;> simp

@[simp] theorem State.memories_countAccess (s : State) (a : Access) (p : Nat) : (s.countAccess a p).memories = s.memories := by
  unfold State.countAccess
  (repeat' split) <;> simp

@[simp] theorem State.memories_performSpad (s : State) (a : Access) (core off : Nat) : (s.performSpad a core off).memories = s.memories := by
  unfold State.performSpad
  (repeat' split) <;> simp

@[simp] theorem State.memories_performCallReg (s : State) (t : CallStore) : (s.performCallReg t).memories = s.memories := by
  unfold State.performCallReg
  dsimp only
  (repeat' split) <;> simp

@[simp] theorem State.memories_landGroup (s : State) (g : Group) : (s.landGroup g).memories = s.memories := (rfl)

@[simp] theorem State.memories_landOne (s : State) (l : Land) : (s.landOne l).memories = s.memories := (rfl)

@[simp] theorem memories_execResultLand (grp : Nat) (s : State) : (s.left (execResultLand grp s)).memories = s.memories := by
  unfold execResultLand
  (repeat' split) <;> simp

/-! ### What writes the memories -/

/-- Canonical form of all four memories: `State.memWf` as a property of the memories alone. -/
def Memories.wf (m : Memories) : Bool := m.mem.wf 0 && m.host.wf 0 && m.poison.wf false && m.empty.wf false

theorem State.memWf_eq (s : State) : s.memWf = s.memories.wf := rfl

@[simp] theorem Memories.wf_mk (m h : SMap Byte) (p e : SMap Bool) :
    (Memories.mk m h p e).wf = true ↔ m.wf 0 = true ∧ h.wf 0 = true ∧ p.wf false = true ∧ e.wf false = true := by
  simp [Memories.wf, and_assoc]

theorem State.memories_wf_iff (s : State) :
    s.memories.wf = true ↔ s.mem.wf 0 = true ∧ s.host.wf 0 = true ∧ s.poison.wf false = true ∧ s.empty.wf false = true := memWf_iff s

/-- A fold keeps canonical form when each of its steps does. -/
theorem State.wf_foldl {α : Type} (f : State → α → State) (hf : ∀ s a, s.memories.wf = true → (f s a).memories.wf = true) (l : List α) {s : State}
    (h : s.memories.wf = true) : (l.foldl f s).memories.wf = true :=
  foldl_keeps (fun s : State => s.memories.wf = true) f hf l s h

@[simp] theorem State.wf_poke {s : State} (a : Nat) (l : List (Option Byte)) (c : Bool) (h : s.memories.wf = true) :
    (s.poke a l c).memories.wf = true :=
  poke_memWf a l c h

@[simp] theorem State.wf_pokeBytes {s : State} (a : Nat) (l : List Byte) (h : s.memories.wf = true) : (s.pokeBytes a l).memories.wf = true :=
  pokeBytes_memWf a l h

@[simp] theorem State.wf_putBlock {s : State} (base len : Nat) (l : List (Nat × List Byte)) (h : s.memories.wf = true) :
    (s.putBlock base len l).memories.wf = true := putBlock_memWf base len l h

/-- A mark of a poisoned line. -/
@[simp] theorem State.wf_poison_put {s : State} (l : Nat) (b : Bool) (h : s.memories.wf = true) :
    (Memories.mk s.mem s.host (s.poison.put false l b) s.empty).wf = true := by
  obtain ⟨hm, hh, hp, he⟩ := s.memories_wf_iff.mp h
  exact (Memories.wf_mk ..).mpr ⟨hm, hh, SMap.wf_put _ _ hp, he⟩

@[simp] theorem State.wf_setPoison {s : State} (core : Option Nat) (u : Nat) (b : Bool) (h : s.memories.wf = true) :
    (s.setPoison core u b).memories.wf = true := by
  cases core with
  | some c => exact h
  | none => exact State.wf_poison_put u b h

@[simp] theorem State.wf_storeHome {s : State} (a : Access) (p : Nat) (data : List (Option Byte)) (h : s.memories.wf = true) :
    (s.storeHome a p data).memories.wf = true := by
  unfold State.storeHome
  simp [-Memories.wf_mk, h]

@[simp] theorem State.wf_amoPhys {s : State} (op : AmoOp) (a n b c : Nat) (ag : Agent) (h : s.memories.wf = true) :
    (s.amoPhys op a n b c ag).2.memories.wf = true := by
  unfold State.amoPhys
  dsimp only
  split <;> simp [h]

@[simp] theorem State.wf_performPhys {s : State} (a : Access) (p : Nat) (h : s.memories.wf = true) : (s.performPhys a p).memories.wf = true := by
  unfold State.performPhys
  dsimp only
  (repeat' split) <;> simp [h]

@[simp] theorem State.wf_performCallStore {s : State} (t : CallStore) (h : s.memories.wf = true) : (s.performCallStore t).memories.wf = true := by
  unfold State.performCallStore
  (repeat' split) <;> simp [h]

@[simp] theorem State.wf_writeBeat {s : State} (sp : Span) (data : List (Byte × Bool)) (ag : Agent) (h : s.memories.wf = true) :
    (s.writeBeat sp data ag).memories.wf = true := by
  unfold State.writeBeat
  dsimp only
  split
  · exact h
  · refine State.wf_foldl _ (fun s v hs => ?_) _ ?_
    · (repeat' split) <;> simp [hs]
    · split <;> simp [h]

@[simp] theorem State.wf_performBeat {s : State} (b : Beat) (h : s.memories.wf = true) : (s.performBeat b).memories.wf = true := by
  unfold State.performBeat
  dsimp only
  (repeat' split) <;> simp [h]

theorem wf_left_runEvent {s : State} (b : Bool) (f : State → State) (h : s.memories.wf = true) (hf : (f s).memories.wf = true) :
    (s.left (runEvent b f s)).memories.wf = true := by
  rw [left_runEvent]
  split
  · exact hf
  · exact h

theorem wf_execAccessPerform {s : State} (id : Nat) (h : s.memories.wf = true) : (s.left (execAccessPerform id s)).memories.wf = true := by
  unfold execAccessPerform
  split
  · refine wf_left_runEvent _ _ h ?_
    dsimp only
    split <;> simp [h]
  · exact wf_left_runEvent _ _ h (by simp [h])
  · split
    · exact wf_left_runEvent _ _ h (by simp [h])
    · exact h

@[simp] theorem State.wf_putEntry {s : State} (m : Mig) (a e : Nat) (h : s.memories.wf = true) : (s.putEntry m a e).memories.wf = true := by
  unfold State.putEntry
  simp [h]

@[simp] theorem State.wf_walkMig {s : State} (m : Mig) (h : s.memories.wf = true) : (s.walkMig m).memories.wf = true := by
  unfold State.walkMig
  dsimp only
  (repeat' split) <;> simp [h]

theorem wf_execWalkComplete {s : State} (id : Nat) (h : s.memories.wf = true) : (s.left (execWalkComplete id s)).memories.wf = true := by
  unfold execWalkComplete
  split
  · exact wf_left_runEvent _ _ h (by simp [h])
  · exact wf_left_runEvent _ _ h (by simp [h])
  · exact h

@[simp] theorem State.wf_moveLine {s : State} (m : Mig) (h : s.memories.wf = true) : (s.moveLine m).memories.wf = true := by
  unfold State.moveLine
  dsimp only
  rw [State.memories_updMig, State.memories_watchPhys, State.memories_mk]
  exact State.wf_poison_put _ _ (State.wf_poke _ _ _ (by split <;> simp [h]))

@[simp] theorem State.wf_moveMig {s : State} (m : Mig) (h : s.memories.wf = true) : (s.moveMig m).memories.wf = true := by
  unfold State.moveMig
  dsimp only
  (repeat' split) <;> simp [h]

theorem wf_execPgmigMove {s : State} (id : Nat) (h : s.memories.wf = true) : (s.left (execPgmigMove id s)).memories.wf = true := by
  unfold execPgmigMove
  split
  · exact wf_left_runEvent _ _ h (by simp [h])
  · exact h

@[simp] theorem State.wf_scatterAdd {s : State} (c q : Nat) (m : Cmd) (b : Batch) (ag : Agent) (h : s.memories.wf = true) :
    (s.scatterAdd c q m b ag).2.memories.wf = true := by
  unfold State.scatterAdd
  dsimp only
  (repeat' split) <;> simp [h]

@[simp] theorem State.wf_stepCopy {s : State} (c q : Nat) (m : Cmd) (h : s.memories.wf = true) : (s.stepCopy c q m).memories.wf = true := by
  unfold State.stepCopy
  dsimp only
  split
  · simp [h]
  split
  · simp [h]
  next b _ =>
    split
    · simp [h]
    split
    · split
      · exact h
      have hs := State.wf_scatterAdd c q m b (.channel c q) h
      split
      · next hd => rw [hd] at hs; simpa using hs
      · next hd => rw [hd] at hs; simpa using hs
    · split <;> simp [h]

theorem wf_execCopyItem {s : State} (c q id : Nat) (h : s.memories.wf = true) : (s.left (execCopyItem c q id s)).memories.wf = true := by
  unfold execCopyItem
  split
  · exact wf_left_runEvent _ _ h (by simp [h])
  · exact h

@[simp] theorem State.wf_startVx {s : State} (c : Nat) (m : Cmd) (h : s.memories.wf = true) : (s.startVx c m).memories.wf = true := by
  unfold State.startVx
  split
  · simp [h]
  split
  · simp [h]
  · dsimp only
    rw [State.memories_updExec, State.memories_mk]
    obtain ⟨hm, hh, hp, he⟩ := s.memories_wf_iff.mp h
    exact (Memories.wf_mk ..).mpr ⟨hm, hh, hp, foldl_keeps (fun e : SMap Bool => e.wf false = true) _ (fun e i he => SMap.wf_put _ _ he) _ _ he⟩

theorem wf_execVaultExecutorCommand {s : State} (c : Nat) (h : s.memories.wf = true) :
    (s.left (execVaultExecutorCommand c s)).memories.wf = true := by
  unfold execVaultExecutorCommand
  split
  · exact State.wf_startVx _ _ h
  · exact h

@[simp] theorem State.wf_putResults {s : State} (c : Nat) (m : Cmd) (h : s.memories.wf = true) : (s.putResults c m).memories.wf = true := by
  unfold State.putResults
  refine State.wf_foldl _ (fun s i hs => ?_) _ h
  dsimp only
  have he : (Memories.mk s.mem s.host s.poison (s.empty.put false ((m.record0 + 8 * i) / 8) false)).wf = true := by
    obtain ⟨hm, hh, hp, he⟩ := s.memories_wf_iff.mp hs
    exact (Memories.wf_mk ..).mpr ⟨hm, hh, hp, SMap.wf_put _ _ he⟩
  (repeat' split) <;> simp [-Memories.wf_mk, hs, he]

@[simp] theorem State.wf_finishVx {s : State} (c : Nat) (m : Cmd) (h : s.memories.wf = true) : (s.finishVx c m).memories.wf = true := by
  unfold State.finishVx
  simp [h]

theorem State.wf_finish {s t : State} {c q : Nat} {m : Cmd} (h : s.memories.wf = true) (ht : s.finish c q m = some t) : t.memories.wf = true := by
  unfold State.finish at ht
  (repeat' split at ht)
  · cases ht
  · cases ht
  · obtain ⟨e, _, rfl⟩ := Option.map_eq_some_iff.mp ht
    simp [h]
  · rw [State.memories_xbEnd ht, h]
  · cases ht
  · cases ht
    exact State.wf_finishVx _ _ h
  · cases ht
  · cases ht

theorem wf_execCommandEnd {s : State} (c q id : Nat) (h : s.memories.wf = true) : (s.left (execCommandEnd c q id s)).memories.wf = true := by
  unfold execCommandEnd
  (repeat' split)
  · exact wf_left_runEvent _ _ h (by simp [h])
  · simp [h]
  · next t ht => simp [State.wf_finish h ht]
  · exact h
  · exact h

@[simp] theorem State.wf_remoteStore {s : State} (pa : Nat) (data : List Byte) (ag : Agent) (h : s.memories.wf = true) :
    (s.remoteStore pa data ag).memories.wf = true := by
  unfold State.remoteStore
  split <;> simp [h]

/-- The state that a word of a callee leaves: that of a word which performs, or the one before it. -/
def State.worded (s : State) : WordOut → State
  | .go t _ | .more t _ => t
  | _ => s

@[simp] theorem State.worded_go (s t : State) (u : CallSlot) : s.worded (.go t u) = t := rfl
@[simp] theorem State.worded_more (s t : State) (u : CallSlot) : s.worded (.more t u) = t := rfl
@[simp] theorem State.worded_wait (s : State) : s.worded .wait = s := rfl
@[simp] theorem State.worded_fault (s : State) (c : Nat) : s.worded (.fault c) = s := rfl
@[simp] theorem State.worded_ret (s : State) (l : List SVal) : s.worded (.ret l) = s := rfl

@[simp] theorem memories_remoteRun (s : State) (t : CallSlot) (f : State → Res') : (s.worded (remoteRun s t f)).memories = s.memories := by
  unfold remoteRun
  dsimp only
  (repeat' split) <;> simp

@[simp] theorem memories_remoteLoadWord (s : State) (e : ExecId) (t : CallSlot) (d n pa : Nat) (got : List (List Byte × Bool)) :
    (s.worded (remoteLoadWord s e t d n pa got)).memories = s.memories := by
  unfold remoteLoadWord
  dsimp only
  (repeat' split) <;> simp

theorem wf_remoteStoreWord {s : State} (e : ExecId) (t : CallSlot) (data : List (List Byte)) (pa : Nat) (done : List (List Byte × Bool))
    (h : s.memories.wf = true) : (s.worded (remoteStoreWord s e t data pa done)).memories.wf = true := by
  unfold remoteStoreWord
  dsimp only
  (repeat' split) <;> simp [h]

@[simp] theorem memories_remoteReg (s : State) (e : ExecId) (t : CallSlot) (d : Nat) (data : Option (List Byte)) (pa : Nat) :
    (s.worded (remoteReg s e t d data pa)).memories = s.memories := by
  unfold remoteReg
  (repeat' split) <;> simp

theorem wf_remoteWords {s : State} (e : ExecId) (t : CallSlot) (d n pa : Nat) (data : Option (List (List Byte))) (done : List (List Byte × Bool))
    (h : s.memories.wf = true) : (s.worded (remoteWords s e t d n pa data done)).memories.wf = true := by
  unfold remoteWords
  split
  · simp [h]
  · split
    · exact wf_remoteStoreWord _ _ _ _ _ h
    · simp [h]

theorem wf_remoteAccess {s : State} (e : ExecId) (t : CallSlot) (acc : RemoteAcc) (ad : Addr) (n : Nat) (h : s.memories.wf = true) :
    (s.worded (remoteAccess s e t acc ad n)).memories.wf = true := by
  have hw := fun d n pa data done => wf_remoteWords e t d n pa data done h
  unfold remoteAccess
  dsimp only
  (repeat' split) <;> simp [h, hw]

theorem wf_remoteWord {s : State} (e : ExecId) (t : CallSlot) (w : Word) (h : s.memories.wf = true) :
    (s.worded (remoteWord s e t w)).memories.wf = true := by
  have hr : (s.worded (remoteRet t w)) = s := by unfold remoteRet; dsimp only; split <;> rfl
  have ha := fun acc ad n => wf_remoteAccess e t acc ad n h
  unfold remoteWord
  dsimp only
  (repeat' split) <;> simp [h, hr, ha]

@[simp] theorem State.wf_stepCall {s : State} (e : ExecId) (n : Nat) (t : CallSlot) (h : s.memories.wf = true) :
    (s.stepCall e n t).memories.wf = true := by
  unfold State.stepCall
  dsimp only
  split
  · simp [h]
  · have hw := wf_remoteWord e (s.skipZeros (t.msg.img.textLen / 8 + 1) t) (s.callWord (s.skipZeros (t.msg.img.textLen / 8 + 1) t)) h
    split <;> simp_all

theorem wf_execRemoteCallWord {s : State} (e : ExecId) (slot : Nat) (h : s.memories.wf = true) :
    (s.left (execRemoteCallWord e slot s)).memories.wf = true := by
  unfold execRemoteCallWord
  split
  · exact wf_left_runEvent _ _ h (by simp [h])
  · exact h

@[simp] theorem State.wf_poolPut {s d : State} (slot core : Nat) (pool xroot pg : Word) (h : s.memories.wf = true) (hd : d.memories.wf = true) :
    ((s.poolPut slot pool xroot pg core).getD d).memories.wf = true := by
  unfold State.poolPut
  dsimp only
  (repeat' split) <;> simp [h, hd]

@[simp] theorem State.wf_dropPage {s d : State} (slot core r : Nat) (pool xroot pg : Word) (h : s.memories.wf = true) (hd : d.memories.wf = true) :
    ((s.dropPage slot pool xroot pg core r).getD d).memories.wf = true := by
  unfold State.dropPage
  dsimp only
  generalize (if (if s.lostAt r = true then ([], true) else s.peek r 4).2 = true then 0 else leNat _) = old
  generalize hu : State.watchPhys _ r 4 4 _ = u
  have hw : u.memories.wf = true := by
    rw [← hu]
    split <;> simp [h]
  (repeat' split) <;> simp [hw, hd]

@[simp] theorem State.wf_reclaimEntry {s d : State} (slot core i : Nat) (ps pool xroot : Word) (h : s.memories.wf = true) (hd : d.memories.wf = true) :
    ((s.reclaimEntry slot ps pool xroot core i).getD d).memories.wf = true := by
  unfold State.reclaimEntry
  dsimp only
  (repeat' split) <;> simp [h, hd]

@[simp] theorem State.wf_reclaimEntries {s d : State} (slot core : Nat) (ps pool xroot : Word) (l : List Nat) (h : s.memories.wf = true)
    (hd : d.memories.wf = true) : ((s.reclaimEntries slot ps pool xroot core l).getD d).memories.wf = true := by
  induction l generalizing s with
  | nil => exact h
  | cons i r ih =>
    have he := State.wf_reclaimEntry slot core i ps pool xroot h hd
    unfold State.reclaimEntries
    split
    · next hu =>
      rw [hu] at he
      exact ih he
    · exact hd

@[simp] theorem State.wf_reclaimPages {s d : State} (slot sib core : Nat) (aff xroot : Word) (h : s.memories.wf = true) (hd : d.memories.wf = true) :
    ((s.reclaimPages slot sib core aff xroot).getD d).memories.wf = true := by
  unfold State.reclaimPages
  dsimp only
  (repeat' split) <;> simp [h, hd]

theorem wf_execGroupReclaim {s : State} (slot sib : Nat) (h : s.memories.wf = true) : (s.left (execGroupReclaim slot sib s)).memories.wf = true := by
  unfold execGroupReclaim
  split
  · exact h
  split
  · next tid t l _ _ =>
    split
    · split
      · next u hu =>
        have hw := State.wf_reclaimPages slot sib t.core ((l.words[1]?).getD 0) ((l.words[4]?).getD 0) h h
        rw [hu] at hw
        rw [State.left_next]
        split <;> simp [show u.memories.wf = true from hw]
      · exact h
    · exact h
  · exact h

@[simp] theorem State.wf_putBanks {s : State} (t : Task) (base : Nat) (h : s.memories.wf = true) : (s.putBanks t base).memories.wf = true := by
  obtain ⟨hm, hh, hp, he⟩ := s.memories_wf_iff.mp h
  refine (State.memories_wf_iff _).mpr ⟨?_, hh, ?_, he⟩
  · refine foldl_keeps (fun m : SMap Byte => m.wf 0 = true) _ (fun m e hm => ?_) _ _ hm
    dsimp only
    split
    · exact SMap.wf_put _ _ hm
    · exact hm
  · refine foldl_keeps (fun m : SMap Bool => m.wf false = true) _ (fun m e hm => ?_) _ _ hp
    dsimp only
    split
    · exact SMap.wf_put _ _ hm
    · exact hm

@[simp] theorem State.wf_saveTask {s : State} (tid : Nat) (t : Task) (h : s.memories.wf = true) : (s.saveTask tid t).memories.wf = true := by
  unfold State.saveTask
  dsimp only
  rw [State.memories_foldl _ (fun s x => by simp), State.memories_updCore, State.memories_updTask]
  exact State.wf_putBanks _ _ (State.wf_putBlock _ _ _ (State.wf_foldl _ (fun s e hs => State.wf_putBlock _ _ _ hs) _ (by simp [h])))

theorem wf_execTaskSave {s : State} (tid : Nat) (h : s.memories.wf = true) : (s.left (execTaskSave tid s)).memories.wf = true := by
  unfold execTaskSave
  split
  · exact h
  · refine wf_left_runEvent _ _ h ?_
    dsimp only
    split <;> simp [h]

@[simp] theorem State.wf_hostWrite {s : State} (a : Nat) (data : List Byte) (h : s.memories.wf = true) : (s.hostWrite a data).memories.wf = true := by
  unfold State.hostWrite
  refine State.wf_foldl _ (fun s i hs => ?_) _ (State.wf_foldl _ (fun s p hs => ?_) _ h)
  · dsimp only
    split <;> simp [hs]
  · split <;> simp [hs]

theorem wf_execHostMemoryAccess {s : State} (w : Bool) (off n : Nat) (data : List Byte) (h : s.memories.wf = true) :
    (s.left (execHostMemoryAccess w off n data s)).memories.wf = true := by
  unfold execHostMemoryAccess
  dsimp only
  (repeat' split)
  · exact h
  · simp [h]
  · exact wf_left_runEvent _ _ h (by simp [h])

/-- A write of the host's memory. -/
theorem State.wf_host_write {s : State} (a : Nat) (l : List Byte) (h : s.memories.wf = true) :
    (Memories.mk s.mem (writeBytes s.host a l) s.poison s.empty).wf = true := by
  obtain ⟨hm, hh, hp, he⟩ := s.memories_wf_iff.mp h
  exact (Memories.wf_mk ..).mpr ⟨hm, wf_writeBytes _ _ hh, hp, he⟩

@[simp] theorem State.wf_writeRecord {s : State} (r : CRec) (h : s.memories.wf = true) : (s.writeRecord r).memories.wf = true := by
  unfold State.writeRecord
  dsimp only
  split
  · rw [State.memories_updCore]
    exact State.wf_host_write _ _ h
  · exact State.wf_host_write _ _ h

theorem wf_execCompletionRecordWrite {s : State} (h : s.memories.wf = true) : (s.left (execCompletionRecordWrite s)).memories.wf = true := by
  unfold execCompletionRecordWrite
  split
  · exact wf_left_runEvent _ _ h (by simp [h])
  · exact h

theorem wf_execMailboxAttest {s : State} (h : s.memories.wf = true) : (s.left (execMailboxAttest s)).memories.wf = true := by
  have hw (a : Nat) (l : List Byte) (n : Nat) : (({ s with host := writeBytes s.host a l } : State).mbOk n).memories.wf = true := State.wf_host_write a l h
  exact wf_left_runEvent _ _ h (hw _ _ _)

/-- Without power the device memory is lost; the host's stays. -/
@[simp] theorem State.wf_powerLoss {s : State} (h : s.memories.wf = true) : s.powerLoss.memories.wf = true := by
  obtain ⟨_, hh, _, _⟩ := s.memories_wf_iff.mp h
  exact (State.memories_wf_iff _).mpr ⟨rfl, hh, rfl, rfl⟩

@[simp] theorem State.wf_resetDevice {s : State} (h : s.memories.wf = true) : s.resetDevice.memories.wf = true := by
  unfold State.resetDevice
  dsimp only
  split <;> simp [h]

theorem wf_execMailboxResetDevice {s : State} (h : s.memories.wf = true) : (s.left (execMailboxResetDevice s)).memories.wf = true :=
  wf_left_runEvent _ _ h (by simp [h])

@[simp] theorem State.wf_settlePower {s : State} (h : s.memories.wf = true) : s.settlePower.memories.wf = true := by
  unfold State.settlePower
  dsimp only
  split
  · simp [h]
  · simp [h]
  · simp [h]
  · (repeat' split) <;> simp [h]

theorem wf_execMailboxCommandDone {s : State} (h : s.memories.wf = true) : (s.left (execMailboxCommandDone s)).memories.wf = true := by
  unfold execMailboxCommandDone
  dsimp only
  split
  · exact h
  split
  · refine wf_left_runEvent _ _ h ?_
    split <;> simp [h]
  · split <;> simp [h]

@[simp] theorem State.wf_takeItem {s : State} (i : LinkItem) (h : s.memories.wf = true) : (s.takeItem i).memories.wf = true := by
  cases i <;> unfold State.takeItem <;> dsimp only <;> (repeat' split) <;> simp [h]

@[simp] theorem State.wf_takeParcel {s : State} (p : Parcel) (h : s.memories.wf = true) : (s.takeParcel p).memories.wf = true := by
  unfold State.takeParcel
  (repeat' split) <;> simp [h]

@[simp] theorem State.wf_takeFlit {s : State} (l vc : Nat) (h : s.memories.wf = true) : (s.takeFlit l vc).memories.wf = true := by
  unfold State.takeFlit
  dsimp only
  (repeat' split) <;> simp [h]

@[simp] theorem State.wf_takeFlits {s : State} (h : s.memories.wf = true) : s.takeFlits.memories.wf = true :=
  State.wf_foldl _ (fun _ _ hs => State.wf_foldl _ (fun _ _ hs => State.wf_takeFlit _ _ hs) _ hs) _ h

theorem State.wf_tick {s : State} (h : s.memories.wf = true) : s.tick.memories.wf = true := by
  unfold State.tick
  dsimp only
  (repeat' split) <;> simp [h]

/-! ### The step -/

/-- What leaves the memories keeps canonical form. -/
theorem wf_of_memories {s t : State} (ht : t.memories = s.memories) (h : s.memories.wf = true) : t.memories.wf = true := by rw [ht, h]

theorem memories_execKbudget (a : Nat) (s : State) : (s.left (execKbudget a s)).memories = s.memories := by
  unfold execKbudget
  refine memories_runSlot fun t => ?_
  dsimp only
  (repeat' split) <;> simp

/-- Every instruction and event keeps canonical form: those that write the memories by the lemma about what they write, all others because they leave the memories. -/
theorem wf_exec (i : Instr) {s : State} (h : s.memories.wf = true) : (s.left (exec i s)).memories.wf = true := by
  cases i with
  | accessPerform id => exact wf_execAccessPerform id h
  | walkComplete id => exact wf_execWalkComplete id h
  | pgmigMove id => exact wf_execPgmigMove id h
  | copyItem c q id => exact wf_execCopyItem c q id h
  | vaultExecutorCommand c => exact wf_execVaultExecutorCommand c h
  | commandEnd c q id => exact wf_execCommandEnd c q id h
  | remoteCallWord e slot => exact wf_execRemoteCallWord e slot h
  | groupReclaim slot sib => exact wf_execGroupReclaim slot sib h
  | taskSave t => exact wf_execTaskSave t h
  | hostMemoryAccess write off n data => exact wf_execHostMemoryAccess write off n data h
  | completionRecordWrite => exact wf_execCompletionRecordWrite h
  | mailboxAttest => exact wf_execMailboxAttest h
  | mailboxResetDevice => exact wf_execMailboxResetDevice h
  | mailboxCommandDone => exact wf_execMailboxCommandDone h
  | contextUnblock c x => exact wf_of_memories (memories_execContextUnblock c x s) h
  | resultLand grp => exact wf_of_memories (memories_execResultLand grp s) h
  | trapEntry c x => exact wf_of_memories (memories_execTrapEntry c x s) h
  | guidonArrive c x => exact wf_of_memories (memories_execGuidonArrive c x s) h
  | walkBusyRestart id => exact wf_of_memories (memories_execWalkBusyRestart id s) h
  | revocationComplete id => exact wf_of_memories (memories_execRevocationComplete id s) h
  | tileRowEnter c => exact wf_of_memories (memories_execTileRowEnter c s) h
  | tileRowApply c => exact wf_of_memories (memories_execTileRowApply c s) h
  | tloadComplete c => exact wf_of_memories (memories_execTloadComplete c s) h
  | tswapTakeEffect c => exact wf_of_memories (memories_execTswapTakeEffect c s) h
  | semaphoreGrant c => exact wf_of_memories (memories_execSemaphoreGrant c s) h
  | copyCommand c q => exact wf_of_memories (memories_execCopyCommand c q s) h
  | xbprog c q => exact wf_of_memories (memories_execXbprog c q s) h
  | xbprogRow c q id => exact wf_of_memories (memories_execXbprogRow c q id s) h
  | xbverify c q => exact wf_of_memories (memories_execXbverify c q s) h
  | xbcal c q => exact wf_of_memories (memories_execXbcal c q s) h
  | xbprobe c q => exact wf_of_memories (memories_execXbprobe c q s) h
  | xbmvm c q => exact wf_of_memories (memories_execXbmvm c q s) h
  | xbmvmVectorDelivery c q id => exact wf_of_memories (memories_execXbmvmVectorDelivery c q id s) h
  | xbswapTakeEffect c arr => exact wf_of_memories (memories_execXbswapTakeEffect c arr s) h
  | xbretireTakeEffect c arr => exact wf_of_memories (memories_execXbretireTakeEffect c arr s) h
  | hostNotifyCommand c => exact wf_of_memories (memories_execHostNotifyCommand c s) h
  | callMessageArrive id => exact wf_of_memories (memories_execCallMessageArrive id s) h
  | callStart e => exact wf_of_memories (memories_execCallStart e s) h
  | callWordLimit e slot => exact wf_of_memories (memories_execCallWordLimit e slot s) h
  | callReplyArrive id => exact wf_of_memories (memories_execCallReplyArrive id s) h
  | completionNoticeSend id => exact wf_of_memories (memories_execCompletionNoticeSend id s) h
  | completionNoticeArrive id => exact wf_of_memories (memories_execCompletionNoticeArrive id s) h
  | callDeadline c x y => exact wf_of_memories (memories_execCallDeadline c x y s) h
  | barrierArrivalCounted id => exact wf_of_memories (memories_execBarrierArrivalCounted id s) h
  | barrierRelease id => exact wf_of_memories (memories_execBarrierRelease id s) h
  | barrierReleaseArrive id => exact wf_of_memories (memories_execBarrierReleaseArrive id s) h
  | ballotPostArrive id => exact wf_of_memories (memories_execBallotPostArrive id s) h
  | gcancelRequestArrive id => exact wf_of_memories (memories_execGcancelRequestArrive id s) h
  | endNoticeArrive id => exact wf_of_memories (memories_execEndNoticeArrive id s) h
  | pennantArrive c x => exact wf_of_memories (memories_execPennantArrive c x s) h
  | cancellationStop c x => exact wf_of_memories (memories_execCancellationStop c x s) h
  | graceExpiry c x => exact wf_of_memories (memories_execGraceExpiry c x s) h
  | ballotSlotFree slot => exact wf_of_memories (memories_execBallotSlotFree slot s) h
  | launchRecordWrite off size words => exact wf_of_memories (memories_execLaunchRecordWrite off size words s) h
  | preload c lq seq => exact wf_of_memories (memories_execPreload c lq seq s) h
  | taskResume t => exact wf_of_memories (memories_execTaskResume t s) h
  | budgetExpiry t => exact wf_of_memories (memories_execBudgetExpiry t s) h
  | taskEnd t => exact wf_of_memories (memories_execTaskEnd t s) h
  | registerWrite agent blk off val => exact wf_of_memories (memories_execRegisterWrite agent blk off val s) h
  | halyardSteer c n => exact wf_of_memories (memories_execHalyardSteer c n s) h
  | halyardFailure c n => exact wf_of_memories (memories_execHalyardFailure c n s) h
  | quiescePoint c => exact wf_of_memories (memories_execQuiescePoint c s) h
  | linkTrainingDone l lanes chip => exact wf_of_memories (memories_execLinkTrainingDone l lanes chip s) h
  | flitReceive l f => exact wf_of_memories (memories_execFlitReceive l f s) h
  | monitorSample n x => exact wf_of_memories (memories_execMonitorSample n x s) h
  | thermalTrip point code => exact wf_of_memories (memories_execThermalTrip point code s) h
  | freezeArrive c x => exact wf_of_memories (memories_execFreezeArrive c x s) h
  | capWindow avg => exact wf_of_memories (memories_execCapWindow avg s) h
  | ctxctlResume c x => exact wf_of_memories (memories_execCtxctlResume c x s) h
  | ctxctlKill c x => exact wf_of_memories (memories_execCtxctlKill c x s) h
  | halyardErrorRateHigh c n => exact wf_of_memories (memories_execHalyardErrorRateHigh c n s) h
  | halyardRateWindow c n => exact wf_of_memories (memories_execHalyardRateWindow c n s) h
  | halyardRetire c n => exact wf_of_memories (memories_execHalyardRetire c n s) h
  | linkEnable l => exact wf_of_memories (memories_execLinkEnable l s) h
  | linkDisable l => exact wf_of_memories (memories_execLinkDisable l s) h
  | linkTrainingTimeout l => exact wf_of_memories (memories_execLinkTrainingTimeout l s) h
  | laneFault l lane => exact wf_of_memories (memories_execLaneFault l lane s) h
  | linkRepair l => exact wf_of_memories (memories_execLinkRepair l s) h
  | launchRecordAccept => exact wf_of_memories (memories_execLaunchRecordAccept s) h
  | dispatch => exact wf_of_memories (memories_execDispatch s) h
  | monctlStart => exact wf_of_memories (memories_execMonctlStart s) h
  | mailboxPower => exact wf_of_memories (memories_execMailboxPower s) h
  | mailboxCap => exact wf_of_memories (memories_execMailboxCap s) h
  | mailboxVerify => exact wf_of_memories (memories_execMailboxVerify s) h
  | mailboxResetCore => exact wf_of_memories (memories_execMailboxResetCore s) h
  | mailboxFwload => exact wf_of_memories (memories_execMailboxFwload s) h
  | mailboxInvalidOp => exact wf_of_memories (memories_execMailboxInvalidOp s) h
  | thermalTripRelease => exact wf_of_memories (memories_execThermalTripRelease s) h
  | powerUp => exact wf_of_memories (memories_execPowerUp s) h
  | kbudget a => exact wf_of_memories (memories_execKbudget a s) h
  | _ => exact wf_of_memories (memories_runSlot fun t => by simp) h

theorem wf_exec_next {i : Instr} {s t : State} (h : s.memories.wf = true) (ht : exec i s = .next t) : t.memories.wf = true := by
  have he := wf_exec i h
  rwa [ht] at he

theorem wf_runSlots {l : List (Nat × Except DecodeErr (Guard × Instr))} {s t : State} (h : s.memories.wf = true) (ht : runSlots l s = .next t) :
    t.memories.wf = true := by
  induction l generalizing s with
  | nil => cases ht; exact h
  | cons e l ih =>
    obtain ⟨n, e | ⟨g, i⟩⟩ := e
    · unfold runSlots at ht
      exact ih (by simp [h]) ht
    · unfold runSlots at ht
      split at ht
      · next hu => exact ih (wf_exec_next (by simp [h]) hu) ht
      · cases ht
      · cases ht

theorem wf_closeBundle {s t : State} (hs : s.memories.wf = true) (ht : t.memories.wf = true) : (closeBundle s t).memories.wf = true := by
  unfold closeBundle
  dsimp only
  (repeat' split) <;> simp [hs, ht]

theorem wf_issueBundle {s : State} (h : s.memories.wf = true) : (s.left (issueBundle s)).memories.wf = true := by
  have hv : s.visible.memories.wf = true := by rw [State.memories_visible, h]
  unfold issueBundle
  generalize s.visible = v at hv
  dsimp only
  split
  · split
    · next t ht =>
      rw [State.left_next]
      refine wf_closeBundle hv (wf_runSlots ?_ ht)
      rw [State.memories_openBundle, hv]
    · rw [State.left_fault, h]
    · rw [State.left_refused, h]
  · rw [State.left_next, State.memories_trap, hv]

theorem wf_issueBundle_next {s t : State} (h : s.memories.wf = true) (ht : issueBundle s = .next t) : t.memories.wf = true := by
  have he := wf_issueBundle h
  rwa [ht] at he

theorem wf_stepCtx {c x : Nat} {s : State} (h : s.memories.wf = true) : (s.left (stepCtx c x s)).memories.wf = true := by
  unfold stepCtx
  dsimp only
  split
  · simp [h]
  · split
    · next ht =>
      have hw := wf_issueBundle_next (by simp [h]) ht
      simp [hw]
    · exact h
    · exact h

theorem wf_issueCore {c : Nat} {s : State} (h : s.memories.wf = true) : (s.left (issueCore c s)).memories.wf = true := by
  unfold issueCore
  split
  · split
    · exact wf_stepCtx h
    · split
      · exact wf_exec _ h
      · split
        · next ht =>
          have hw := wf_issueBundle_next (by simp [h]) ht
          simp [hw]
        · exact h
        · exact h
    · exact h
  · exact h

theorem wf_noteEvent {i : Instr} {s : State} {r : Res'} (h : (s.left r).memories.wf = true) : (s.left (noteEvent i r)).memories.wf = true := by
  cases r <;> exact h

theorem wf_runTurn (t : Turn) {s : State} (h : s.memories.wf = true) : (s.left (runTurn t s)).memories.wf = true := by
  cases t with
  | event i =>
    unfold runTurn
    dsimp only
    split
    · exact h
    · exact wf_noteEvent (wf_exec i h)
  | issue c => exact wf_issueCore h
  | tick => exact State.wf_tick h

theorem wf_step {s : State} (h : s.memories.wf = true) : (s.left (step s)).memories.wf = true := by
  unfold step
  split
  · next t r _ =>
    split
    · exact wf_runTurn _ h
    · obtain ⟨u, hu⟩ := runTurn_next t { s with agenda := r }
      have hw := wf_runTurn t (s := { s with agenda := r }) (by simp [h])
      rw [hu] at hw ⊢
      exact hw
  · exact wf_runTurn _ h

end Sys2Proof.Machine

open Sys2Proof Sys2Proof.Machine

/-- Settles O59: by the shape of the step. Every turn either leaves the memories or writes them through `SMap.put`, which keeps canonical form. -/
theorem memoryStaysCanonical : Obligations.MemoryStaysCanonical := by
  intro s t h ht
  rw [State.memWf_eq] at h ⊢
  have hw := wf_step h
  rwa [ht] at hw

end

section
/-! ## Reads after writes; canonical maps are extensional (O58) -/

namespace Sys2Proof

theorem SMap.get_of_lt_wfFrom {α : Type} [DecidableEq α] {d : α} {m : SMap α} {lo k : Nat} (h : SMap.wfFrom d lo m) (hk : k < lo) :
    SMap.get d m k = d := by
  induction m generalizing lo with
  | nil => rfl
  | cons e r ih =>
    obtain ⟨a, v⟩ := e
    obtain ⟨h1, _, h3⟩ := h
    rw [SMap.get_cons, if_neg (show a ≠ k by omega)]
    exact ih h3 (by omega)

/-- The entry at the head of a canonical map is the one that its reads show first. -/
theorem SMap.eq_of_get_wfFrom {α : Type} [DecidableEq α] {d : α} {m n : SMap α} {lo : Nat} (hm : SMap.wfFrom d lo m) (hn : SMap.wfFrom d lo n)
    (h : ∀ k, SMap.get d m k = SMap.get d n k) : m = n := by
  induction m generalizing n lo with
  | nil =>
    cases n with
    | nil => rfl
    | cons e r =>
      have hk := h e.1
      rw [SMap.get_nil, SMap.get_cons, if_pos rfl] at hk
      exact absurd hk.symm hn.2.1
  | cons e r ih =>
    obtain ⟨a, v⟩ := e
    obtain ⟨ha, hv, hr⟩ := hm
    cases n with
    | nil =>
      have hk := h a
      rw [SMap.get_nil, SMap.get_cons, if_pos rfl] at hk
      exact absurd hk hv
    | cons e' r' =>
      obtain ⟨b, w⟩ := e'
      obtain ⟨hb, hw, hr'⟩ := hn
      have hga : v = SMap.get d ((b, w) :: r') a := by rw [← h a, SMap.get_cons, if_pos rfl]
      have hgb : SMap.get d ((a, v) :: r) b = w := by rw [h b, SMap.get_cons, if_pos rfl]
      have hab : a = b := by
        rcases Nat.lt_trichotomy a b with hlt | heq | hlt
        · rw [SMap.get_of_lt_wfFrom (show SMap.wfFrom d b ((b, w) :: r') from ⟨Nat.le_refl _, hw, hr'⟩) hlt] at hga
          exact absurd hga hv
        · exact heq
        · rw [SMap.get_of_lt_wfFrom (show SMap.wfFrom d a ((a, v) :: r) from ⟨Nat.le_refl _, hv, hr⟩) hlt] at hgb
          exact absurd hgb.symm hw
      subst hab
      rw [SMap.get_cons, if_pos rfl] at hga
      subst hga
      rw [ih hr hr' fun k => ?_]
      by_cases hk : k = a
      · subst hk
        rw [SMap.get_of_lt_wfFrom hr (Nat.lt_succ_self _), SMap.get_of_lt_wfFrom hr' (Nat.lt_succ_self _)]
      · have hg := h k
        rwa [SMap.get_cons, SMap.get_cons, if_neg (Ne.symm hk), if_neg (Ne.symm hk)] at hg

/-- Canonical maps are equal where all their reads are. -/
theorem SMap.ext_of_wf {α : Type} [DecidableEq α] {d : α} {m n : SMap α} (hm : m.wf d = true) (hn : n.wf d = true)
    (h : ∀ k, SMap.get d m k = SMap.get d n k) : m = n :=
  SMap.eq_of_get_wfFrom ((SMap.wf_iff d m).mp hm) ((SMap.wf_iff d n).mp hn) h

/-- Writing what a key already holds changes nothing. -/
theorem SMap.put_get_self {α : Type} [DecidableEq α] {d : α} {m : SMap α} (k : Nat) (h : m.wf d = true) : m.put d k (m.get d k) = m := by
  refine SMap.ext_of_wf (SMap.wf_put k _ h) h fun j => ?_
  rw [SMap.get_put]
  split
  · next hj => rw [hj]
  · rfl

/-- A number written in `n` little-endian bytes reads back (R4). -/
theorem readNat_writeBytes_leBytes (m : SMap Byte) (a n v : Nat) (h : v < 256 ^ n) : readNat (writeBytes m a (leBytes n v)) a n = v := by
  induction n generalizing m a v with
  | zero => simp at h; simp [readNat, h]
  | succ n ih =>
    have hv : v / 256 < 256 ^ n := by rw [Nat.div_lt_iff_lt_mul (by decide), ← Nat.pow_succ]; exact h
    unfold leBytes writeBytes readNat
    rw [ih _ _ _ hv, get_writeBytes_out _ _ _ (Or.inl (Nat.lt_succ_self a)), SMap.get_put_same, BitVec.toNat_ofNat]
    omega

@[simp] theorem leBytes_length (n v : Nat) : (leBytes n v).length = n := by
  induction n generalizing v with
  | zero => rfl
  | succ n ih => exact congrArg Nat.succ (ih _)

end Sys2Proof

open Sys2Proof

/-- Settles O58: the reads of a map after a write are `SMap.get_put`; canonical maps are extensional because their keys ascend,
so the first key of one is the first key of the other. -/
theorem memoryReadsAfterWrites : Obligations.MemoryReadsAfterWrites := by
  refine ⟨fun m a b v => SMap.get_put 0 m a b v, fun m a v hm => ⟨SMap.wf_put a v hm, ?_⟩,
    fun m n hm hn h => SMap.ext_of_wf hm hn h, fun m a n v hv => ⟨readNat_writeBytes_leBytes m a n v hv, ?_⟩⟩
  · rintro rfl
    exact SMap.put_get_self a hm
  · exact fun b hb => get_writeBytes_out m a _ (by rwa [leBytes_length])

end

section
/-! ## Values at reset (O60) -/

namespace Sys2Proof.Machine

/-- PWRSTAT at reset (R436): STANDBY, and FORM, which the device's form decides. -/
theorem pwrstat_reset : State.reset.pwrstat = wordOf (2 ^ 60 + boolNat Config.qrl9m * 2 ^ 55) := by
  unfold State.pwrstat
  cases Config.qrl9m <;> rfl

/-- Every core's registers at reset (R212, R213, R225, R322, R326). -/
theorem readReg_core_reset (ag : RegAgent) (c off : Nat) : State.reset.readReg ag (.core c) off = ({} : Core).readReg off := rfl

end Sys2Proof.Machine

open Sys2Proof Sys2Proof.Machine

/-- Settles O60: every value is read off the state at reset by evaluation, with PWRSTAT the only one that the form of the device decides. -/
theorem resetValues : Obligations.ResetValues := by
  unfold Obligations.ResetValues
  have hp : State.reset.readReg .host .io 0xC020 = wordOf (2 ^ 60 + boolNat Config.qrl9m * 2 ^ 55) := pwrstat_reset
  simp only [readReg_core_reset, hp]
  refine ⟨rfl, rfl, rfl, rfl, rfl, rfl, rfl, rfl, rfl, fun c => ⟨rfl, fun x => ⟨rfl, rfl, rfl⟩⟩,
    ?_, rfl, rfl, rfl, rfl, rfl, rfl, rfl, rfl, ?_, rfl, rfl, rfl, ?_, ?_, ?_, rfl, ?_, fun c _ => ?_⟩
  · decide +kernel
  · decide +kernel
  · cases Config.qrl9m <;> decide
  · cases Config.qrl9m <;> decide
  · cases Config.qrl9m <;> decide
  · decide +kernel
  · decide +kernel

end

section
/-! ## Device-control registers and the host's window (O23) -/

namespace Sys2Proof.Machine

/-! ### Fields of a register -/

theorem getField_eq (w : Word) (lo n : Nat) : getField w lo n = w.toNat / 2 ^ lo % 2 ^ n := by
  unfold getField
  rw [BitVec.toNat_ushiftRight, Nat.shiftRight_eq_div_pow]

theorem boolNat_getLsbD (w : Word) (i : Nat) : boolNat (w.getLsbD i) = w.toNat / 2 ^ i % 2 ^ 1 := by
  unfold boolNat
  rw [BitVec.getLsbD, Nat.testBit_eq_decide_div_mod_eq]
  split <;> simp_all

/-- A field put into the zeros below the fields of `x` is added to them. -/
theorem insField_wordOf {x lo n : Nat} (v : Nat) (hx : 2 ^ (lo + n) ∣ x) (hn : lo + n ≤ 64) :
    insField (wordOf x) lo n v = wordOf (x + v % 2 ^ n * 2 ^ lo) := by
  obtain ⟨k, rfl⟩ := hx
  have hv : v % 2 ^ n * 2 ^ lo < 2 ^ (lo + n) := by
    rw [Nat.pow_add, Nat.mul_comm]
    exact Nat.mul_lt_mul_of_pos_left (Nat.mod_lt _ (Nat.two_pow_pos n)) (Nat.two_pow_pos lo)
  have hor : 2 ^ (lo + n) * k + v % 2 ^ n * 2 ^ lo = 2 ^ (lo + n) * k ||| v % 2 ^ n * 2 ^ lo := Nat.two_pow_add_eq_or_of_lt hv k
  refine BitVec.eq_of_getLsbD_eq fun i hi => ?_
  unfold insField wordOf
  rw [hor]
  simp only [BitVec.getLsbD_or, BitVec.getLsbD_and, BitVec.getLsbD_not, BitVec.getLsbD_shiftLeft, BitVec.getLsbD_ofNat, Nat.testBit_or,
    Nat.testBit_two_pow_sub_one, Nat.testBit_mul_two_pow, Nat.testBit_mod_two_pow, hi, Nat.testBit_two_pow_mul]
  by_cases h1 : i < lo
  · have h2 : ¬ lo + n ≤ i := by omega
    have h3 : ¬ lo ≤ i := by omega
    simp [h1, h2, h3]
  · have h3 : lo ≤ i := by omega
    have h4 : i - lo < 64 := by omega
    by_cases h2 : i - lo < n
    · have h5 : ¬ lo + n ≤ i := by omega
      simp [h1, h2, h3, h4, h5]
    · simp [h1, h2]

/-- Keeping one more field of `w` below those kept. -/
theorem insField_getField {x lo n : Nat} (w : Word) (hx : 2 ^ (lo + n) ∣ x) (hn : lo + n ≤ 64) :
    insField (wordOf x) lo n (getField w lo n) = wordOf (x + w.toNat / 2 ^ lo % 2 ^ n * 2 ^ lo) := by
  rw [insField_wordOf _ hx hn, getField_eq, Nat.mod_mod]

theorem keepBits_one (w : Word) {lo n : Nat} (hn : lo + n ≤ 64) : keepBits w [(lo, n)] = wordOf (w.toNat / 2 ^ lo % 2 ^ n * 2 ^ lo) := by
  have h := insField_getField w (dvd_zero (2 ^ (lo + n))) hn
  rwa [Nat.zero_add] at h

/-- Fields are kept one below the other. -/
theorem keepBits_snoc (w : Word) {l : List (Nat × Nat)} {x lo n : Nat} (hl : keepBits w l = wordOf x) (hx : 2 ^ (lo + n) ∣ x) (hn : lo + n ≤ 64) :
    keepBits w (l ++ [(lo, n)]) = wordOf (x + w.toNat / 2 ^ lo % 2 ^ n * 2 ^ lo) := by
  rw [← insField_getField w hx hn, ← hl]
  exact List.foldl_append

theorem xrootBits_eq (w : Word) :
    xrootBits w = wordOf (w.toNat / 2 ^ 52 % 2 ^ 12 * 2 ^ 52 + w.toNat / 2 ^ 13 % 2 ^ 35 * 2 ^ 13 + w.toNat / 2 ^ 0 % 2 ^ 1 * 2 ^ 0) :=
  keepBits_snoc w (l := [(52, 12), (13, 35)]) (keepBits_snoc w (l := [(52, 12)]) (keepBits_one w (by decide)) (by omega) (by decide)) (by omega) (by decide)

theorem keepBits_high_enable (w : Word) {lo n : Nat} (h0 : 0 < lo) (hn : lo + n ≤ 64) :
    keepBits w [(lo, n), (0, 1)] = wordOf (w.toNat / 2 ^ lo % 2 ^ n * 2 ^ lo + w.toNat / 2 ^ 0 % 2 ^ 1 * 2 ^ 0) :=
  keepBits_snoc w (l := [(lo, n)]) (keepBits_one w hn) (Dvd.dvd.mul_left (Nat.pow_dvd_pow 2 h0) _) (by decide)

/-! ### Register files -/

theorem entryAt_hit {lo n step i o : Nat} (hi : i < n) (ho : o < step) : entryAt lo n step (lo + step * i + o) = some (i, o) := by
  have hstep : step * i + step ≤ n * step := by
    rw [Nat.mul_comm n, ← Nat.mul_succ]
    exact Nat.mul_le_mul_left _ hi
  have hoff : lo + step * i + o - lo = o + step * i := by omega
  unfold entryAt
  rw [if_pos (by omega), hoff, Nat.add_mul_div_left _ _ (by omega), Nat.div_eq_of_lt ho, Nat.add_mul_mod_self_left, Nat.mod_eq_of_lt ho, Nat.zero_add]

theorem entryAt_above {lo n step off : Nat} (h : lo + n * step ≤ off) : entryAt lo n step off = none := if_neg fun hc => absurd hc.2 (Nat.not_lt.mpr h)

/-! ### A write and the read that follows -/

/-- A write of a register after which it reads `v`; memory stays. -/
def State.WriteReads (s : State) (ag : RegAgent) (b : Block) (off : Nat) (w v : Word) : Prop :=
  ∃ t, exec (.registerWrite ag b off w) s = .next t ∧ t.readReg ag b off = v ∧ t.mem = s.mem

theorem exec_registerWrite {s : State} {off : Nat} (ag : RegAgent) (b : Block) (w : Word) (hp : s.mg.power ≠ .off) (h8 : off % 8 = 0) :
    exec (.registerWrite ag b off w) s = .next (s.writeReg ag b off w) := by
  refine congrArg _ (if_pos ?_)
  rw [h8, decide_eq_true hp]
  rfl

theorem State.writeReads {s : State} {ag : RegAgent} {b : Block} {off : Nat} {w v : Word} (hp : s.mg.power ≠ .off) (h8 : off % 8 = 0)
    (hr : (s.writeReg ag b off w).readReg ag b off = v) : s.WriteReads ag b off w v :=
  ⟨_, exec_registerWrite ag b w hp h8, hr, congrArg Memories.mem (State.memories_writeReg ..)⟩

/-! #### The block of a core -/

theorem writeReads_xroot {s : State} (ag : RegAgent) (w : Word) {c x : Nat} (hp : s.mg.power ≠ .off) (hc : c < 128) (hx : x < 4) :
    s.WriteReads ag (.core c) (0x400 + 8 * x) w (xrootBits w) := by
  have he : entryAt 0x400 4 8 (0x400 + 8 * x) = some (x, 0) := entryAt_hit hx (Nat.zero_lt_succ _)
  refine State.writeReads hp (by omega) ?_
  unfold State.writeReg State.readReg
  simp only [hc, if_true, State.writeCore, Core.readReg, he, State.core_updCore, SMap.get_put_same]

theorem writeReads_xfault {s : State} (ag : RegAgent) (w : Word) {c x : Nat} (hp : s.mg.power ≠ .off) (hc : c < 128) (hx : x < 4) :
    s.WriteReads ag (.core c) (0x420 + 8 * x) w
      (if 2 ^ 63 ≤ w.toNat then insField ((s.core c).xfault.get 0 x) 63 1 0 else (s.core c).xfault.get 0 x) := by
  have h0 : entryAt 0x400 4 8 (0x420 + 8 * x) = none := entryAt_above (by omega)
  have he : entryAt 0x420 4 8 (0x420 + 8 * x) = some (x, 0) := entryAt_hit hx (Nat.zero_lt_succ _)
  have hw : w.getLsbD 63 = true ↔ 2 ^ 63 ≤ w.toNat := by
    rw [← BitVec.msb_eq_getLsbD_last, BitVec.msb_eq_toNat, decide_eq_true_eq]
  refine State.writeReads hp (by omega) ?_
  unfold State.writeReg State.readReg
  simp only [hc, if_true, State.writeCore, Core.readReg, h0, he, hw]
  split <;> simp

theorem writeReads_ctxsave {s : State} (ag : RegAgent) (w : Word) {c x : Nat} (hp : s.mg.power ≠ .off) (hc : c < 128) (hx : x < 4) :
    s.WriteReads ag (.core c) (0x480 + 8 * x) w (keepBits w [(16, 32), (0, 1)]) := by
  have h0 : entryAt 0x400 4 8 (0x480 + 8 * x) = none := entryAt_above (by omega)
  have h1 : entryAt 0x420 4 8 (0x480 + 8 * x) = none := entryAt_above (by omega)
  have he : entryAt 0x480 4 8 (0x480 + 8 * x) = some (x, 0) := entryAt_hit hx (Nat.zero_lt_succ _)
  refine State.writeReads hp (by omega) ?_
  unfold State.writeReg State.readReg
  simp only [hc, if_true, State.writeCore, Core.readReg, h0, h1, he, State.core_updCore, SMap.get_put_same]

/-- WPCFG is read-only. -/
theorem registerWrite_wpcfg {s : State} (ag : RegAgent) (w : Word) {c x : Nat} (hp : s.mg.power ≠ .off) :
    exec (.registerWrite ag (.core c) (0x500 + 16 * x) w) s = .next s := by
  rw [exec_registerWrite ag _ w hp (by omega)]
  have h0 : entryAt 0x400 4 8 (0x500 + 16 * x) = none := entryAt_above (by omega)
  have h1 : entryAt 0x420 4 8 (0x500 + 16 * x) = none := entryAt_above (by omega)
  have h2 : entryAt 0x480 4 8 (0x500 + 16 * x) = none := entryAt_above (by omega)
  have h3 : entryAt 0x4A0 4 8 (0x500 + 16 * x) = none := entryAt_above (by omega)
  unfold State.writeReg State.writeCore
  simp only [h0, h1, h2, h3, ite_self]

/-! #### The block of the I/O die -/

/-- A register of a launch queue, written and read. -/
theorem writeReads_launchQueue {s : State} (ag : RegAgent) (w : Word) {q o off : Nat} (hp : s.mg.power ≠ .off) (hq : q < 32) (ho : o < 32)
    (h8 : o % 8 = 0) (hoff : off = 0x2000 + 0x20 * q + o) : s.WriteReads ag .io off w (((s.lq q).write o w s.mg.runtimeOk).word o) := by
  subst hoff
  have hm : isMgmt (0x2000 + 0x20 * q + o) = false := decide_eq_false (by omega)
  have he : entryAt 0x2000 32 0x20 (0x2000 + 0x20 * q + o) = some (q, o) := entryAt_hit hq ho
  refine State.writeReads hp (by omega) ?_
  unfold State.writeReg State.readReg
  simp only [State.writeIo, State.readIo, hm, he, Bool.false_eq_true, if_false]
  simp [State.updLq, State.lq]

theorem LQueue.word_write_ctl (u : LQueue) (w : Word) (ok : Bool) :
    (u.write 0 w ok).word 0 = wordOf (w.toNat / 2 ^ 1 % 2 ^ 1 * 2 ^ 1 + if ok then w.toNat / 2 ^ 0 % 2 ^ 1 * 2 ^ 0 else 0) := by
  show wordOf (boolNat (w.getLsbD 1) * 2 + boolNat (w.getLsbD 0 && ok)) = _
  cases ok
  · rw [boolNat_getLsbD, Bool.and_false]
    rfl
  · rw [boolNat_getLsbD, Bool.and_true, boolNat_getLsbD, if_pos rfl, Nat.pow_zero, Nat.mul_one, Nat.pow_one]

/-- Four thresholds of nine bits. -/
theorem pack_thresholds (w : Word) :
    pack [(16, getField w (16 * 0) 9), (16, getField w (16 * 1) 9), (16, getField w (16 * 2) 9), (16, getField w (16 * 3) 9)] =
    w.toNat / 2 ^ 0 % 2 ^ 9 * 2 ^ 0 + w.toNat / 2 ^ 16 % 2 ^ 9 * 2 ^ 16 + w.toNat / 2 ^ 32 % 2 ^ 9 * 2 ^ 32 + w.toNat / 2 ^ 48 % 2 ^ 9 * 2 ^ 48 := by
  simp only [getField_eq, pack]
  omega

theorem LQueue.word_write_low (u : LQueue) (w : Word) (ok : Bool) : (u.write 8 w ok).word 8 =
    wordOf (w.toNat / 2 ^ 0 % 2 ^ 9 * 2 ^ 0 + w.toNat / 2 ^ 16 % 2 ^ 9 * 2 ^ 16 + w.toNat / 2 ^ 32 % 2 ^ 9 * 2 ^ 32 + w.toNat / 2 ^ 48 % 2 ^ 9 * 2 ^ 48) := by
  rw [← pack_thresholds]
  rfl

theorem LQueue.word_write_high (u : LQueue) (w : Word) (ok : Bool) (hu : 4 ≤ u.thr.length) : (u.write 16 w ok).word 16 =
    wordOf (w.toNat / 2 ^ 0 % 2 ^ 9 * 2 ^ 0 + w.toNat / 2 ^ 16 % 2 ^ 9 * 2 ^ 16 + w.toNat / 2 ^ 32 % 2 ^ 9 * 2 ^ 32 + w.toNat / 2 ^ 48 % 2 ^ 9 * 2 ^ 48) := by
  obtain ⟨t0, t1, t2, t3, r, hr⟩ : ∃ t0 t1 t2 t3 r, u.thr = t0 :: t1 :: t2 :: t3 :: r := by
    match h : u.thr, hu with
    | t0 :: t1 :: t2 :: t3 :: r, _ => exact ⟨t0, t1, t2, t3, r, rfl⟩
  rw [← pack_thresholds]
  unfold LQueue.write
  rw [hr]
  rfl

/-- The device reaches no register of the management plane (R434). -/
theorem management_device (s : State) (w : Word) {off : Nat} (h1 : 0xC000 ≤ off) (h2 : off < 0x16000) :
    exec (.registerWrite .device .io off w) s = .next s ∧ s.readReg .device .io off = 0 := by
  have hm : isMgmt off = true := decide_eq_true ⟨h1, h2⟩
  have hw : s.writeReg .device .io off w = s := by
    unfold State.writeReg State.writeIo
    rw [if_pos hm]
    rfl
  refine ⟨?_, ?_⟩
  · show Host.Outcome.next (ite _ (s.writeReg .device .io off w) s) = _
    rw [hw, ite_self]
  · unfold State.readReg State.readIo
    dsimp only
    rw [if_pos hm]
    rfl

theorem word_preempt (w : Word) : wordOf (boolNat (w.getLsbD 63) * 2 ^ 63 + boolNat (w.getLsbD 62) * 2 ^ 62 + getField w 0 48 % 2 ^ 48) =
    wordOf (w.toNat / 2 ^ 62 % 2 ^ 2 * 2 ^ 62 + w.toNat / 2 ^ 0 % 2 ^ 48 * 2 ^ 0) := by
  rw [boolNat_getLsbD, boolNat_getLsbD, getField_eq]
  refine congrArg wordOf ?_
  omega

theorem word_ring (w : Word) : wordOf (boolNat (w.getLsbD 8) * 2 ^ 8 + getField w 0 5 % 32) =
    wordOf (w.toNat / 2 ^ 8 % 2 ^ 1 * 2 ^ 8 + w.toNat / 2 ^ 0 % 2 ^ 5 * 2 ^ 0) := by
  rw [boolNat_getLsbD, getField_eq]
  refine congrArg wordOf ?_
  omega

theorem word_low (w : Word) (n : Nat) : wordOf (getField w 0 n) = wordOf (w.toNat / 2 ^ 0 % 2 ^ n * 2 ^ 0) := by
  rw [getField_eq, Nat.pow_zero, Nat.mul_one]

/-! ### Watchpoints leave what a host access needs -/

theorem State.cores_guidon (s : State) (o : Nat) (w : Watch) : (s.guidon o w).cores = s.cores := by
  unfold State.guidon
  dsimp only
  exact (State.cores_sendMsg ..).trans (foldl_leaves State.cores _ (fun _ _ => State.cores_sendMsg ..) _ _)

theorem State.hostRead_guidon (s : State) (o : Nat) (w : Watch) : (s.guidon o w).hostRead = s.hostRead := by
  unfold State.guidon
  dsimp only
  exact (State.hostRead_sendMsg ..).trans (foldl_leaves State.hostRead _ (fun _ _ => State.hostRead_sendMsg ..) _ _)

theorem State.quarterLost_guidon (s : State) (o : Nat) (w : Watch) (v q : Nat) : (s.guidon o w).quarterLost v q = s.quarterLost v q := by
  unfold State.quarterLost State.core
  rw [State.cores_guidon]

theorem State.quarterLost_updCore (s : State) (c v q : Nat) (f : Core → Core) (hf : (f (s.core c)).lostq = (s.core c).lostq) :
    (s.updCore c f).quarterLost v q = s.quarterLost v q := by
  unfold State.quarterLost
  by_cases h : v = c
  · rw [h, State.core_updCore, hf]
  · rw [State.core_updCore_ne _ _ h]

theorem State.quarterLost_watchOne (s : State) (o : Nat) (sp : Bool) (lo hi kind : Nat) (ag : Agent) (n v q : Nat) :
    (s.watchOne o sp lo hi kind ag n).quarterLost v q = s.quarterLost v q := by
  unfold State.watchOne
  dsimp only
  split
  · rfl
  split
  · exact (State.quarterLost_guidon ..).trans (State.quarterLost_updCore _ _ _ _ _ rfl)
  split
  · exact State.quarterLost_updCore _ _ _ _ _ rfl
  · rfl

theorem State.hostRead_watchOne (s : State) (o : Nat) (sp : Bool) (lo hi kind : Nat) (ag : Agent) (n : Nat) :
    (s.watchOne o sp lo hi kind ag n).hostRead = s.hostRead := by
  unfold State.watchOne
  dsimp only
  split
  · rfl
  split
  · exact State.hostRead_guidon ..
  split <;> rfl

/-- What every watchpoint keeps, an access to memory keeps. -/
theorem State.watchPhys_keeps (P : State → Prop) (s : State) (a n kind : Nat) (ag : Agent)
    (h : ∀ t o lo hi k, P t → P (t.watchOne o false lo hi kind ag k)) (hs : P s) : P (s.watchPhys a n kind ag) := by
  unfold State.watchPhys
  split
  · exact foldl_keeps P _ (fun t e ht => h t _ _ _ _ ht) _ _ hs
  · exact hs

theorem State.quarterLost_watchPhys (s : State) (a n kind : Nat) (ag : Agent) (v q : Nat) :
    (s.watchPhys a n kind ag).quarterLost v q = s.quarterLost v q :=
  State.watchPhys_keeps (fun t => t.quarterLost v q = s.quarterLost v q) s a n kind ag
    (fun _ _ _ _ _ ht => (State.quarterLost_watchOne ..).trans ht) rfl

theorem State.hostRead_watchPhys (s : State) (a n kind : Nat) (ag : Agent) : (s.watchPhys a n kind ag).hostRead = s.hostRead :=
  State.watchPhys_keeps (fun t => t.hostRead = s.hostRead) s a n kind ag (fun _ _ _ _ _ ht => (State.hostRead_watchOne ..).trans ht) rfl

theorem State.lostAt_of_quarters {s : State} (h : ∀ v q, s.quarterLost v q = false) (a : Nat) : s.lostAt a = false := by
  unfold State.lostAt
  rw [h, Bool.and_false]

theorem State.mem_watchPhys (s : State) (a n kind : Nat) (ag : Agent) : (s.watchPhys a n kind ag).mem = s.mem :=
  congrArg Memories.mem (State.memories_watchPhys s a n kind ag)

/-! ### The pieces of an access -/

theorem readBytes_append (m : SMap Byte) (a j k : Nat) : readBytes m a j ++ readBytes m (a + j) k = readBytes m a (j + k) := by
  unfold readBytes
  rw [List.range_add, List.map_append, List.map_map]
  simp [Function.comp_def, Nat.add_assoc]

/-- The part of an access to `n` bytes at `a` that lies in its word `i`. -/
def wordPiece (a n i : Nat) : Option (Nat × Nat) :=
  let lo := Nat.max a ((a / 8 + i) * 8)
  let hi := Nat.min (a + n) ((a / 8 + i + 1) * 8)
  if lo < hi then some (lo, hi - lo) else none

theorem wordPieces_eq (a n : Nat) : wordPieces a n = (List.range (n / 8 + 2)).filterMap (wordPiece a n) := rfl

theorem wordPiece_eq_some {a n i : Nat} {p : Nat × Nat} : wordPiece a n i = some p ↔
    0 < p.2 ∧ p.1 = max a ((a / 8 + i) * 8) ∧ p.1 + p.2 = min (a + n) ((a / 8 + i + 1) * 8) := by
  obtain ⟨b, k⟩ := p
  unfold wordPiece
  simp only [Nat.max_eq_max, Nat.min_eq_min]
  split
  · simp only [Option.some.injEq, Prod.mk.injEq]
    omega
  · simp only [reduceCtorEq, false_iff]
    omega

theorem mem_wordPieces {a n : Nat} {p : Nat × Nat} (h : p ∈ wordPieces a n) : a ≤ p.1 ∧ p.1 + p.2 ≤ a + n := by
  rw [wordPieces_eq] at h
  obtain ⟨i, _, hi⟩ := List.mem_filterMap.mp h
  have hp := wordPiece_eq_some.mp hi
  omega

theorem exists_wordPieces_iff (a n x : Nat) : (∃ p ∈ wordPieces a n, p.1 ≤ x ∧ x < p.1 + p.2) ↔ a ≤ x ∧ x < a + n := by
  constructor
  · rintro ⟨p, hp, h1, h2⟩
    have hb := mem_wordPieces hp
    omega
  · rintro ⟨h1, h2⟩
    refine ⟨(max a (x / 8 * 8), min (a + n) (x / 8 * 8 + 8) - max a (x / 8 * 8)), ?_, by dsimp only; omega, by dsimp only; omega⟩
    rw [wordPieces_eq]
    refine List.mem_filterMap.mpr ⟨x / 8 - a / 8, List.mem_range.mpr (by omega), wordPiece_eq_some.mpr ?_⟩
    dsimp only
    omega

/-- The first `k` words of an access, read one after another, are its bytes up to the end of those words. -/
theorem flatMap_wordPiece (m : SMap Byte) (a n k : Nat) :
    (((List.range k).filterMap (wordPiece a n)).flatMap fun p => readBytes m p.1 p.2) = readBytes m a (min (a + n) ((a / 8 + k) * 8) - a) := by
  induction k with
  | zero =>
    have h0 : min (a + n) ((a / 8 + 0) * 8) - a = 0 := by omega
    rw [h0]
    rfl
  | succ k ih =>
    rw [List.range_succ, List.filterMap_append, List.flatMap_append, ih]
    cases hp : wordPiece a n k with
    | none =>
      have hn : ¬ max a ((a / 8 + k) * 8) < min (a + n) ((a / 8 + k + 1) * 8) := fun hlt => by
        have := (wordPiece_eq_some (p := (_, _))).mpr ⟨Nat.sub_pos_of_lt hlt, rfl, Nat.add_sub_cancel' (Nat.le_of_lt hlt)⟩
        rw [hp] at this
        cases this
      have he : min (a + n) ((a / 8 + (k + 1)) * 8) - a = min (a + n) ((a / 8 + k) * 8) - a := by omega
      rw [List.filterMap_cons_none hp, he]
      exact List.append_nil _
    | some p =>
      obtain ⟨h0, h1, h2⟩ := wordPiece_eq_some.mp hp
      have hb : p.1 = a + (min (a + n) ((a / 8 + k) * 8) - a) := by omega
      have he : min (a + n) ((a / 8 + (k + 1)) * 8) - a = min (a + n) ((a / 8 + k) * 8) - a + p.2 := by omega
      rw [List.filterMap_cons_some hp, he, ← readBytes_append, ← hb]
      exact congrArg _ (List.append_nil _)

/-- The words of an access, read one after another, are its bytes. -/
theorem flatMap_wordPieces (m : SMap Byte) (a n : Nat) : ((wordPieces a n).flatMap fun p => readBytes m p.1 p.2) = readBytes m a n := by
  have he : min (a + n) ((a / 8 + (n / 8 + 2)) * 8) - a = n := by omega
  rw [wordPieces_eq, flatMap_wordPiece, he]

/-! ### The bytes of a host write -/

/-- The write of one piece of `data`, which starts at `a`. -/
def writePiece (data : List Byte) (a : Nat) (m : SMap Byte) (p : Nat × Nat) : SMap Byte :=
  writeMasked m p.1 (((data.drop (p.1 - a)).take p.2).map some)

theorem get_writePiece (data : List Byte) (a : Nat) (m : SMap Byte) (p : Nat × Nat) (x : Nat) (h1 : a ≤ p.1) (h2 : p.1 + p.2 ≤ a + data.length) :
    (writePiece data a m p).get 0 x = if p.1 ≤ x ∧ x < p.1 + p.2 then (data[x - a]?).getD 0 else m.get 0 x := by
  have hl : (((data.drop (p.1 - a)).take p.2).map some).length = p.2 := by simp; omega
  unfold writePiece
  split
  · next h =>
    have hx : p.1 + (x - p.1) = x := by omega
    have hi := get_writeMasked_in m p.1 (((data.drop (p.1 - a)).take p.2).map some) (i := x - p.1) (by omega)
    rw [hx] at hi
    simp only [List.getElem_map, List.getElem_take, List.getElem_drop, Option.getD_some] at hi
    rw [hi, List.getElem?_eq_getElem (by omega), Option.getD_some]
    congr 1
    omega
  · exact get_writeMasked_out _ _ _ (by omega)

/-- Pieces that lie in the range of `data` bring it to a byte that one of them holds, or that holds it already. -/
theorem get_foldl_writePiece_in (data : List Byte) (a x : Nat) (l : List (Nat × Nat)) (m : SMap Byte)
    (hl : ∀ p ∈ l, a ≤ p.1 ∧ p.1 + p.2 ≤ a + data.length)
    (hx : (∃ p ∈ l, p.1 ≤ x ∧ x < p.1 + p.2) ∨ m.get 0 x = (data[x - a]?).getD 0) :
    (l.foldl (writePiece data a) m).get 0 x = (data[x - a]?).getD 0 := by
  induction l generalizing m with
  | nil =>
    rcases hx with ⟨p, hp, _⟩ | hx
    · cases hp
    · exact hx
  | cons p r ih =>
    obtain ⟨h1, h2⟩ := hl p List.mem_cons_self
    refine ih _ (fun q hq => hl q (List.mem_cons_of_mem _ hq)) ?_
    rw [get_writePiece data a m p x h1 h2]
    by_cases hp : p.1 ≤ x ∧ x < p.1 + p.2
    · exact Or.inr (if_pos hp)
    · rw [if_neg hp]
      refine hx.imp_left ?_
      rintro ⟨q, hq, hqx⟩
      rcases List.mem_cons.mp hq with rfl | hq
      · exact absurd hqx hp
      · exact ⟨q, hq, hqx⟩

theorem get_foldl_writePiece_out (data : List Byte) (a x : Nat) (l : List (Nat × Nat)) (m : SMap Byte)
    (hl : ∀ p ∈ l, a ≤ p.1 ∧ p.1 + p.2 ≤ a + data.length) (hx : ∀ p ∈ l, ¬ (p.1 ≤ x ∧ x < p.1 + p.2)) :
    (l.foldl (writePiece data a) m).get 0 x = m.get 0 x := by
  induction l generalizing m with
  | nil => rfl
  | cons p r ih =>
    obtain ⟨h1, h2⟩ := hl p List.mem_cons_self
    refine (ih _ (fun q hq => hl q (List.mem_cons_of_mem _ hq)) fun q hq => hx q (List.mem_cons_of_mem _ hq)).trans ?_
    rw [get_writePiece data a m p x h1 h2, if_neg (hx p List.mem_cons_self)]

/-- Where no quarter is lost, a host write is the writes of its pieces. -/
theorem State.mem_hostWrite {s : State} (hq : ∀ v q, s.quarterLost v q = false) (a : Nat) (data : List Byte) :
    (s.hostWrite a data).mem = (wordPieces a data.length).foldl (writePiece data a) s.mem := by
  unfold State.hostWrite
  dsimp only
  rw [foldl_leaves State.mem _ fun t i => by split <;> rfl]
  generalize wordPieces a data.length = l
  induction l generalizing s with
  | nil => rfl
  | cons p r ih =>
    simp only [List.foldl_cons, State.lostAt_of_quarters hq, Bool.false_eq_true, if_false]
    refine (ih fun v q => ?_).trans ?_
    · rw [State.quarterLost_watchPhys]
      exact hq v q
    rw [State.mem_watchPhys]
    rfl

theorem State.get_hostWrite {s : State} (hq : ∀ v q, s.quarterLost v q = false) (a : Nat) (data : List Byte) (x : Nat) :
    (s.hostWrite a data).mem.get 0 x = if a ≤ x ∧ x < a + data.length then (data[x - a]?).getD 0 else s.mem.get 0 x := by
  have hl (p : Nat × Nat) (hp : p ∈ wordPieces a data.length) := mem_wordPieces hp
  rw [State.mem_hostWrite hq]
  split
  · next h => exact get_foldl_writePiece_in _ _ _ _ _ hl (Or.inl ((exists_wordPieces_iff ..).mpr h))
  · next h => exact get_foldl_writePiece_out _ _ _ _ _ hl fun p hp hx => h ((exists_wordPieces_iff ..).mp ⟨p, hp, hx⟩)

/-! ### The bytes of a host read -/

/-- Where no quarter is lost, a host read brings the bytes of memory. -/
theorem State.hostRead_hostLoad {s : State} (hq : ∀ v q, s.quarterLost v q = false) (a n : Nat) :
    (s.hostLoad a n).hostRead = (List.range n).map fun i => s.mem.get 0 (a + i) := by
  have hl := State.lostAt_of_quarters (s := s.draw.2) hq
  unfold State.hostLoad
  simp only [hl, Bool.false_eq_true, if_false]
  exact (foldl_leaves State.hostRead _ (fun _ _ => State.hostRead_watchPhys ..) _ _).trans (flatMap_wordPieces ..)

/-- A word marked EMPTY lies in the range of an access. -/
theorem State.emptyIn_iff (s : State) (a n : Nat) : s.emptyIn a n = true ↔ ∃ w, s.empty.get false w = true ∧ a < 8 * w + 8 ∧ 8 * w < a + n := by
  unfold State.emptyIn
  simp only [List.any_eq_true, List.mem_range, Bool.and_eq_true, decide_eq_true_eq]
  constructor
  · rintro ⟨i, _, hw, he⟩
    exact ⟨a / 8 + i, he, by omega, by omega⟩
  · rintro ⟨w, he, h1, h2⟩
    have hw : a / 8 + (w - a / 8) = w := by omega
    exact ⟨w - a / 8, by omega, by omega, by rw [hw]; exact he⟩

/-- What the host's window reaches (R425): the vaults of chip 0 and HBM. -/
theorem hostReaches_iff (a n : Nat) : hostReaches a n = true ↔
    (a / 2 ^ 46 % 4 = 0 ∧ a / 2 ^ 38 % 2 ^ 8 = 0 ∧ a + n ≤ 2 ^ 38) ∨ (a / 2 ^ 46 % 4 = 1 ∧ a / 2 ^ 39 % 2 ^ 7 = 0 ∧ a % 2 ^ 39 + n ≤ 0x6000000000) := by
  unfold hostReaches tierOf hbmOff bitsOf hbmTop
  split
  · next h => simp only [Bool.and_eq_true, beq_iff_eq, decide_eq_true_eq]; omega
  · next h => simp only [Bool.and_eq_true, beq_iff_eq, decide_eq_true_eq]; omega
  · next h0 h1 =>
    have h0 : a / 2 ^ 46 % 2 ^ 2 ≠ 0 := h0
    have h1 : a / 2 ^ 46 % 2 ^ 2 ≠ 1 := h1
    rw [Bool.false_eq_true, false_iff]
    omega

/-- An access outside the window is an unsupported request, which brings nothing. -/
theorem hostMemoryAccess_unsupported {s : State} {off n : Nat} (w : Bool) (data : List Byte)
    (h : ¬ (s.counts = true ∧ off + n ≤ 2 ^ 34 ∧ hostReaches (s.hwBase.toNat + off) n = true)) :
    exec (.hostMemoryAccess w off n data) s = .next { s with hostRead := [] } := by
  refine if_pos ?_
  simp only [Bool.not_eq_true', ← Bool.not_eq_true]
  by_contra hn
  push Not at hn
  exact h ⟨hn.1, by omega, hn.2.2⟩

theorem hostMemoryAccess_write {s : State} {off n : Nat} {data : List Byte} (hd : data.length = n)
    (h : s.counts = true ∧ off + n ≤ 2 ^ 34 ∧ hostReaches (s.hwBase.toNat + off) n = true) :
    exec (.hostMemoryAccess true off n data) s = .next (s.hostWrite (s.hwBase.toNat + off) data) := by
  have hdata : ((List.range n).map fun i => (data[i]?).getD 0) = data := by
    subst hd
    exact List.ext_getElem (by simp) fun i h1 h2 => by simp [h2]
  obtain ⟨hc, hn, hr⟩ := h
  show execHostMemoryAccess true off n data s = _
  unfold execHostMemoryAccess
  rw [hdata]
  exact (if_neg (by simp [hc, hr]; omega)).trans (if_pos rfl)

theorem hostMemoryAccess_read {s : State} {off n : Nat} (data : List Byte)
    (h : s.counts = true ∧ off + n ≤ 2 ^ 34 ∧ hostReaches (s.hwBase.toNat + off) n = true) :
    exec (.hostMemoryAccess false off n data) s =
      .next (if s.emptyIn (s.hwBase.toNat + off) n = true then s else s.hostLoad (s.hwBase.toNat + off) n) := by
  obtain ⟨hc, hn, hr⟩ := h
  show execHostMemoryAccess false off n data s = _
  unfold execHostMemoryAccess runEvent
  refine (if_neg (by simp [hc, hr]; omega)).trans ?_
  cases s.emptyIn (s.hwBase.toNat + off) n <;> rfl

/-- R414, R425: the host's window. -/
theorem hostWindow (s : State) (off n : Nat) (data : List Byte) (hd : data.length = n) :
    let a := s.hwBase.toNat + off
    let ok := s.counts = true ∧ off + n ≤ 2 ^ 34 ∧
      ((a / 2 ^ 46 % 4 = 0 ∧ a / 2 ^ 38 % 2 ^ 8 = 0 ∧ a + n ≤ 2 ^ 38) ∨ (a / 2 ^ 46 % 4 = 1 ∧ a / 2 ^ 39 % 2 ^ 7 = 0 ∧ a % 2 ^ 39 + n ≤ 0x6000000000))
    (¬ ok → ∀ w, ∃ t, exec (.hostMemoryAccess w off n data) s = .next t ∧ t.mem = s.mem ∧ t.hostRead = []) ∧
    (ok → (∀ v q, s.quarterLost v q = false) →
      (∃ t, exec (.hostMemoryAccess true off n data) s = .next t ∧
        ∀ x, t.mem.get 0 x = if a ≤ x ∧ x < a + n then data[x - a]?.getD 0 else s.mem.get 0 x) ∧
      ((∃ w, s.empty.get false w = true ∧ a < 8 * w + 8 ∧ 8 * w < a + n) → exec (.hostMemoryAccess false off n data) s = .next s) ∧
      ((∀ w, s.empty.get false w = true → 8 * w + 8 ≤ a ∨ a + n ≤ 8 * w) → ∃ t, exec (.hostMemoryAccess false off n data) s = .next t ∧
        t.mem = s.mem ∧ t.hostRead = (List.range n).map fun i => s.mem.get 0 (a + i))) := by
  intro a ok
  have hok : ok ↔ s.counts = true ∧ off + n ≤ 2 ^ 34 ∧ hostReaches a n = true := by rw [hostReaches_iff]
  rw [hok]
  refine ⟨fun h w => ⟨_, hostMemoryAccess_unsupported w data h, rfl, rfl⟩,
    fun h hq => ⟨⟨_, hostMemoryAccess_write hd h, fun x => ?_⟩, fun he => ?_, fun he => ?_⟩⟩
  · rw [State.get_hostWrite hq, hd]
  · rw [hostMemoryAccess_read data h, if_pos ((State.emptyIn_iff ..).mpr he)]
  · refine ⟨_, (hostMemoryAccess_read data h).trans (congrArg _ (if_neg fun hi => ?_)),
      congrArg Memories.mem (State.memories_hostLoad ..), State.hostRead_hostLoad hq a n⟩
    obtain ⟨w, hw, h1, h2⟩ := (State.emptyIn_iff ..).mp hi
    have := he w hw
    omega

end Sys2Proof.Machine

open Sys2Proof Sys2Proof.Machine

/-- Settles O23: each register by its own write and the read that follows, with the kept fields as a sum of fields; the host's window word by word. -/
theorem hostSide : Obligations.HostSide := by
  refine ⟨fun s ag w hp => ?_, fun s off n data hd _ => hostWindow s off n data hd⟩
  intro n after field
  refine ⟨fun c hc x hx => ⟨?_, ?_, ?_, ?_⟩, fun q hq => ⟨?_, fun ht => ⟨?_, ?_⟩⟩, ?_, ?_, ?_, ?_, ?_, ?_, ?_, ?_, ?_, ?_, ?_⟩
  · exact xrootBits_eq w ▸ writeReads_xroot ag w hp hc hx
  · exact writeReads_xfault ag w hp hc hx
  · exact keepBits_high_enable w (lo := 16) (n := 32) (by decide) (by decide) ▸ writeReads_ctxsave ag w hp hc hx
  · exact registerWrite_wpcfg ag w hp
  · exact LQueue.word_write_ctl (s.lq q) w s.mg.runtimeOk ▸ writeReads_launchQueue ag w hp hq (by decide) rfl rfl
  · exact LQueue.word_write_low (s.lq q) w s.mg.runtimeOk ▸ writeReads_launchQueue ag w hp hq (o := 8) (by decide) rfl (by omega)
  · exact LQueue.word_write_high (s.lq q) w s.mg.runtimeOk (by omega) ▸ writeReads_launchQueue ag w hp hq (o := 16) (by decide) rfl (by omega)
  · exact State.writeReads hp rfl (keepBits_one w (by decide))
  · exact State.writeReads hp rfl (word_ring w)
  · exact State.writeReads hp rfl (word_low w 32)
  · exact State.writeReads hp rfl (keepBits_high_enable w (by decide) (by decide))
  · exact State.writeReads hp rfl (word_preempt w)
  · exact State.writeReads hp rfl (word_low w 32)
  · exact State.writeReads hp rfl (keepBits_one w (by decide))
  · exact State.writeReads hp rfl rfl
  · exact State.writeReads hp rfl (word_low w 4)
  · rintro rfl
    exact ⟨State.writeReads hp rfl rfl, State.writeReads hp rfl rfl⟩
  · rintro rfl off h1 h2
    exact management_device s w h1 h2

end

section
/-! ## The end of a core-clock cycle (O57) -/

namespace Sys2Proof

/-- A map whose values are all changed by `f`: a key is listed and reads as `f` of its value, or reads as the default in both. -/
theorem SMap.get_mapValues {α β : Type} (d : α) (d' : β) (f : α → β) (m : SMap α) (k : Nat) :
    SMap.get d' (m.map fun e => (e.1, f e.2)) k = f (SMap.get d m k) ∨
      SMap.get d' (m.map fun e => (e.1, f e.2)) k = d' ∧ SMap.get d m k = d := by
  induction m with
  | nil => exact .inr ⟨rfl, rfl⟩
  | cons e r ih =>
    rw [List.map_cons, SMap.get_cons, SMap.get_cons]
    split
    · exact .inl rfl
    · exact ih

/-- Where `f` keeps the default, every key reads as `f` of what it read. -/
theorem SMap.get_mapValues_of_default {α β : Type} {d : α} {d' : β} {f : α → β} (hd : f d = d') (m : SMap α) (k : Nat) :
    SMap.get d' (m.map fun e => (e.1, f e.2)) k = f (SMap.get d m k) := by
  rcases SMap.get_mapValues d d' f m k with h | ⟨h, hk⟩
  · exact h
  · rw [h, hk, hd]

end Sys2Proof

namespace Sys2Proof.Machine

open Sys2Proof.Claims

/-! ### What the end of a cycle leaves in a core -/

/-- A context without what the semaphore unit may change: its reservation and its results in flight. -/
def Ctx.unswept (y : Ctx) : Ctx := { y with resv := none, inflight := [], snap := [], snapT := [] }

/-- A core's matrix queue and contexts, without what the semaphore unit may change. -/
def Core.unswept (k : Core) : List MOp × (Nat → Ctx) := (k.mq, fun x => (k.ctx.get {} x).unswept)

theorem Core.unswept_congr {k j : Core} (hm : k.mq = j.mq) (hc : k.ctx = j.ctx) : k.unswept = j.unswept := by
  unfold Core.unswept
  rw [hm, hc]

theorem Core.unswept_putCtx {k j : Core} {x : Nat} {y : Ctx} (hm : k.mq = j.mq) (hc : k.ctx = j.ctx.put {} x y)
    (hy : y.unswept = (j.ctx.get {} x).unswept) : k.unswept = j.unswept := by
  unfold Core.unswept
  rw [hm, hc]
  have hz (z : Nat) : (SMap.get {} (j.ctx.put {} x y) z).unswept = (j.ctx.get {} z).unswept := by
    by_cases hz : z = x
    · rw [hz, SMap.get_put_same, hy]
    · rw [SMap.get_put_ne _ _ _ hz]
  rw [funext hz]

theorem Core.mq_of_unswept {k : Core} {m : List MOp} {f : Nat → Ctx} (h : k.unswept = (m, f)) : k.mq = m := congrArg Prod.fst h

theorem Core.ctx_of_unswept {k : Core} {m : List MOp} {f : Nat → Ctx} (h : k.unswept = (m, f)) (x : Nat) : (k.ctx.get {} x).unswept = f x :=
  congrFun (congrArg Prod.snd h) x

@[simp] theorem Core.unswept_armQueue (k : Core) (q cycle : Nat) : (k.armQueue q cycle).unswept = k.unswept := by
  unfold Core.armQueue
  split
  · split <;> rfl
  · rfl

@[simp] theorem Core.unswept_grantOne (k : Core) (cycle : Nat) (a : Armed) : (k.grantOne cycle a).unswept = k.unswept := by
  unfold Core.grantOne
  dsimp only
  split
  · rfl
  · split
    · split
      · exact Core.unswept_armQueue _ _ _
      · rfl
    · exact Core.unswept_putCtx rfl rfl rfl

@[simp] theorem Core.unswept_takeFree (k : Core) (cycle q : Nat) : (k.takeFree cycle q).unswept = k.unswept := by
  unfold Core.takeFree
  split
  · split <;> rfl
  · rfl

@[simp] theorem Core.unswept_sweep (k : Core) (cycle : Nat) : (k.sweep cycle).unswept = k.unswept :=
  (foldl_leaves Core.unswept _ (fun k q => k.unswept_takeFree cycle q) _ _).trans
    (foldl_leaves Core.unswept _ (fun k a => k.unswept_grantOne cycle a) _ _)

@[simp] theorem Core.unswept_spadPut (k : Core) (cycle p o : Nat) (b : Byte) : (k.spadPut cycle p o b).unswept = k.unswept := by
  unfold Core.spadPut
  dsimp only
  split
  · split <;> rfl
  · rfl

@[simp] theorem Core.unswept_spadPuts (cycle p : Nat) (l : List (Option Byte)) (k : Core) (o : Nat) :
    (k.spadPuts cycle p o l).unswept = k.unswept := by
  induction l generalizing k o with
  | nil => rfl
  | cons b r ih =>
    cases b with
    | none => exact ih k (o + 1)
    | some b => exact (ih _ (o + 1)).trans (k.unswept_spadPut cycle p o b)

@[simp] theorem Core.unswept_spadWrite (k : Core) (cycle p o : Nat) (data : List (Option Byte)) :
    (k.spadWrite cycle p o data).unswept = k.unswept := Core.unswept_spadPuts cycle p data k o

@[simp] theorem Core.unswept_decideSsat (k : Core) (cycle : Nat) : (k.decideSsat cycle).unswept = k.unswept := by
  refine foldl_leaves Core.unswept _ (fun k q => foldl_leaves Core.unswept _ (fun k m => ?_) _ k) _ k
  split
  · exact Core.unswept_spadWrite ..
  · rfl

@[simp] theorem Core.unswept_decideSget (k : Core) : k.decideSget.unswept = k.unswept := by
  unfold Core.decideSget
  split
  · rfl
  · exact Core.unswept_putCtx rfl rfl rfl

@[simp] theorem Core.unswept_semTick (k : Core) (cycle : Nat) : (k.semTick cycle).unswept = k.unswept := by
  have hs (j : Core) : ({ j with swept := false } : Core).unswept = j.unswept := rfl
  unfold Core.semTick
  dsimp only
  rw [hs, Core.unswept_decideSget, Core.unswept_decideSsat]
  split
  · rfl
  · exact k.unswept_sweep cycle

@[simp] theorem Core.unswept_freeEnded (k : Core) : k.freeEnded.unswept = k.unswept := by
  unfold Core.freeEnded
  dsimp only
  split
  · split <;> rfl
  · rfl

@[simp] theorem Core.unswept_takeNext (k : Core) : k.takeNext.unswept = k.unswept := by
  unfold Core.takeNext
  split <;> rfl

theorem Ctx.unswept_tick (y : Ctx) (cycle : Nat) : (y.tick cycle).unswept = y.unswept.tick cycle := by
  unfold Ctx.tick
  by_cases h : y.st = .loaded
  · by_cases hc : y.canreq = true <;> simp [Ctx.unswept, h, hc]
  · by_cases hc : y.canreq = true ∧ (y.st = .ready ∨ y.st = .running ∨ y.st = .blocked) <;> simp [Ctx.unswept, h, hc]

theorem Ctx.tick_default (cycle : Nat) : ({} : Ctx).tick cycle = {} := rfl

/-- Ticking every context of a core, read back. -/
theorem Core.unswept_tickCtxs (k : Core) (cycle : Nat) :
    ({ k with ctx := k.ctx.map fun f => (f.1, f.2.tick cycle) } : Core).unswept = (k.mq, fun x => (k.ctx.get {} x).unswept.tick cycle) := by
  have h (x : Nat) : SMap.get {} (k.ctx.map fun f => (f.1, f.2.tick cycle)) x = (k.ctx.get {} x).tick cycle :=
    SMap.get_mapValues_of_default (f := fun y => y.tick cycle) (Ctx.tick_default cycle) k.ctx x
  unfold Core.unswept
  simp only [h, Ctx.unswept_tick]

/-- The end of a cycle ticks every context and leaves the matrix queue. -/
theorem Core.unswept_tick (k : Core) (cycle : Nat) :
    (k.tick cycle).unswept = (k.mq, fun x => ((k.ctx.get {} x).tick cycle).unswept) := by
  have h : (k.semTick cycle).freeEnded.unswept = (k.mq, fun x => (k.ctx.get {} x).unswept) := by
    rw [Core.unswept_freeEnded, Core.unswept_semTick]
    rfl
  unfold Core.tick
  dsimp only
  rw [Core.unswept_takeNext, Core.unswept_tickCtxs, Core.mq_of_unswept h]
  simp only [Core.ctx_of_unswept h, Ctx.unswept_tick]

theorem Core.mq_tick (k : Core) (cycle : Nat) : (k.tick cycle).mq = k.mq := Core.mq_of_unswept (k.unswept_tick cycle)

theorem Core.ctx_tick (k : Core) (cycle x : Nat) : ((k.tick cycle).ctx.get {} x).unswept = ((k.ctx.get {} x).tick cycle).unswept :=
  Core.ctx_of_unswept (k.unswept_tick cycle) x

/-! ### What comes before the count of the cycle -/

/-- What the end notices and the EXHAUSTED tests of a cycle change: messages, identifiers, reads of ballot slots, the slots, and the marks
of the tasks whose end has been noticed. -/
structure State.Noticed (s t : State) : Prop where
  frame : t = { s with tasks := t.tasks, msgs := t.msgs, ids := t.ids, lands := t.lands, ballots := t.ballots }
  task : ∀ n k, s.tasks.get none n = some k → ∃ b, t.tasks.get none n = some { k with noted := b }

theorem State.Noticed.refl (s : State) : s.Noticed s := ⟨rfl, fun _ k hk => ⟨k.noted, hk⟩⟩

theorem State.Noticed.trans {s t u : State} (h : s.Noticed t) (h' : t.Noticed u) : s.Noticed u := by
  refine ⟨?_, fun n k hk => ?_⟩
  · rw [h'.frame, h.frame]
  · obtain ⟨b, hb⟩ := h.task n k hk
    obtain ⟨b', hb'⟩ := h'.task n _ hb
    exact ⟨b', hb'⟩

theorem State.Noticed.agenda {s t : State} (h : s.Noticed t) : t.agenda = s.agenda := by rw [h.frame]
theorem State.Noticed.mg {s t : State} (h : s.Noticed t) : t.mg = s.mg := by rw [h.frame]
theorem State.Noticed.now {s t : State} (h : s.Noticed t) : t.now = s.now := by rw [h.frame]
theorem State.Noticed.cycle {s t : State} (h : s.Noticed t) : t.cycle = s.cycle := by rw [h.frame]
theorem State.Noticed.cores {s t : State} (h : s.Noticed t) : t.cores = s.cores := by rw [h.frame]
theorem State.Noticed.accs {s t : State} (h : s.Noticed t) : t.accs = s.accs := by rw [h.frame]
theorem State.Noticed.mem {s t : State} (h : s.Noticed t) : t.mem = s.mem := by rw [h.frame]
theorem State.Noticed.poison {s t : State} (h : s.Noticed t) : t.poison = s.poison := by rw [h.frame]
theorem State.Noticed.host {s t : State} (h : s.Noticed t) : t.host = s.host := by rw [h.frame]
theorem State.Noticed.launches {s t : State} (h : s.Noticed t) : t.launches = s.launches := by rw [h.frame]
theorem State.Noticed.bars {s t : State} (h : s.Noticed t) : t.bars = s.bars := by rw [h.frame]
theorem State.Noticed.links {s t : State} (h : s.Noticed t) : t.links = s.links := by rw [h.frame]

theorem State.Noticed.core {s t : State} (h : s.Noticed t) (c : Nat) : t.core c = s.core c := by
  unfold State.core
  rw [h.cores]

theorem State.Noticed.cx {s t : State} (h : s.Noticed t) (c x : Nat) : t.cx c x = s.cx c x := by
  unfold State.cx
  rw [h.core]

/-- The end of a task is noticed. -/
theorem State.noticed_end (s : State) (n : Nat) (m : Msg) : s.Noticed ((s.updTask n fun t => { t with noted := true }).sendMsg m) := by
  refine ⟨rfl, fun j k hk => ?_⟩
  rw [State.tasks_sendMsg]
  unfold State.updTask
  by_cases hj : j = n
  · subst hj
    exact ⟨true, (SMap.get_put_same ..).trans (by rw [hk]; rfl)⟩
  · exact ⟨k.noted, (SMap.get_put_ne _ _ _ hj).trans hk⟩

theorem State.noticed_readOpen (s : State) (n : Nat) : s.Noticed (s.readOpen n) := ⟨rfl, fun _ k hk => ⟨k.noted, hk⟩⟩

theorem State.noticed_ballots (s : State) (b : SMap (Option Ballot)) : s.Noticed { s with ballots := b } :=
  ⟨rfl, fun _ k hk => ⟨k.noted, hk⟩⟩

theorem State.noticed_groupTick (s : State) : s.Noticed s.groupTick := by
  unfold State.groupTick
  refine .trans ?_ (State.noticed_ballots _ _)
  refine foldl_keeps s.Noticed _ (fun t e ht => ?_) _ _ (foldl_keeps s.Noticed _ (fun t e ht => ?_) _ _ (.refl s))
  · split
    · exact ht
    · exact ht.trans (t.noticed_readOpen e.1)
  · split
    · split
      · split
        · exact ht.trans (t.noticed_end ..)
        · exact ht
      · exact ht
    · exact ht

/-- Links whose receive buffers are empty deliver nothing. -/
theorem State.takeFlits_of_quiet {s : State} (h : ∀ l c, (linkOf s l).rx.get [] c = []) : s.takeFlits = s := by
  have hf (l vc : Nat) : s.takeFlit l vc = s := by
    unfold State.takeFlit
    dsimp only
    rw [show (s.gleilo l).rx.get [] vc = [] from h l vc]
  unfold State.takeFlits
  refine foldl_keeps (· = s) _ (fun t e ht => ?_) _ _ rfl
  rw [ht]
  exact foldl_keeps (· = s) _ (fun t vc ht => by rw [ht, hf]) _ _ rfl

/-! ### The count of the cycle -/

/-- The count of a cycle in the state in which it ends. -/
def State.countCycle (g : State) : State :=
  { g with
    cycle := g.cycle + 1
    begun := false
    tasks := g.tasks.map fun e => (e.1, e.2.map g.tickTask)
    cores := g.cores.map fun e => (e.1, e.2.tick g.cycle) }

theorem State.running_congr {s t : State} (h : t.mg = s.mg) : t.running = s.running := by
  unfold State.running
  rw [h]

theorem State.counts_congr {s t : State} (h : t.mg = s.mg) : t.counts = s.counts := by
  unfold State.counts
  rw [State.running_congr h, h]

theorem State.period_congr {s t : State} (h : t.mg = s.mg) : t.period = s.period := by
  unfold State.period
  rw [h]

/-- The end of a cycle before TIMEBASE counts it. -/
def State.endCycle (s : State) : State :=
  if s.running then
    let t := s.groupTick.takeFlits.countCycle
    { t with accs := t.accs.map t.letGo }
  else s

/-- Where no clamps wait to be sampled, TIMEBASE counts the cycle where it counts at all, and nothing else happens. -/
theorem State.tick_eq {s : State} (hc : s.endCycle.mg.clamps = []) :
    s.tick = if s.endCycle.counts then { s.endCycle with now := s.endCycle.now + s.endCycle.period } else s.endCycle := by
  have h : s.tick = (let t := s.endCycle
      if !t.counts then t
      else if t.now / 36000 = (t.now + t.period) / 36000 ∨ t.mg.clamps.isEmpty then { t with now := t.now + t.period }
      else { t with now := t.now + t.period, mg := t.mg.sampleClamps }) := rfl
  rw [h]
  cases hs : s.endCycle.counts <;> simp [hs, hc]

theorem State.tick_of_gated {s : State} (hr : s.running = false) (hc : s.mg.clamps = []) :
    s.tick = if s.counts then { s with now := s.now + s.period } else s := by
  have h : s.endCycle = s := by
    unfold State.endCycle
    rw [hr]
    rfl
  rw [State.tick_eq (by rw [h, hc]), h]

/-- Without power to the cores nothing happens (R437). -/
theorem State.tick_of_unclocked {s : State} (hp : s.mg.power ∈ [Power.off, .standby]) (hc : s.mg.clamps = []) : s.tick = s := by
  simp only [List.mem_cons, List.not_mem_nil, or_false] at hp
  rw [State.tick_of_gated _ hc, if_neg]
  all_goals rcases hp with hp | hp <;> simp [State.counts, State.running, hp]

/-- In IDLE a cycle takes 1 ns, and only TIMEBASE goes on (R25, R437). -/
theorem State.tick_of_idle {s : State} (hp : s.mg.power = .idle) (hc : s.mg.clamps = []) : s.tick = { s with now := s.now + 36 } := by
  have hn : s.period = 36 := by
    unfold State.period
    rw [hp]
  rw [State.tick_of_gated _ hc, if_pos, hn]
  all_goals simp [State.counts, State.running, hp]

/-- The end of a cycle at an operating point, with nothing on the links. -/
theorem State.endCycle_of_running {s : State} (hr : s.running = true) (hl : ∀ l c, (linkOf s l).rx.get [] c = []) :
    s.endCycle = { s.groupTick.countCycle with accs := s.accs.map s.groupTick.countCycle.letGo } := by
  have hg := s.noticed_groupTick
  have hq : s.groupTick.takeFlits = s.groupTick := State.takeFlits_of_quiet fun l c => by
    unfold linkOf
    rw [hg.links]
    exact hl l c
  unfold State.endCycle
  rw [if_pos hr, hq, ← hg.accs]
  rfl

theorem State.tick_of_running {s : State} (hr : s.running = true) (hc : s.mg.clamps = []) (hl : ∀ l c, (linkOf s l).rx.get [] c = []) :
    s.tick = { s.groupTick.countCycle with accs := s.accs.map s.groupTick.countCycle.letGo, now := s.now + s.period } := by
  have he := State.endCycle_of_running hr hl
  have hm : s.endCycle.mg = s.mg := by
    rw [he]
    exact s.noticed_groupTick.mg
  have hn : s.endCycle.now = s.now := by
    rw [he]
    exact s.noticed_groupTick.now
  have hs : s.endCycle.counts = true := by
    rw [State.counts_congr hm]
    unfold State.counts
    rw [hr, Bool.true_or]
  rw [State.tick_eq (by rw [hm, hc]), if_pos hs, hn, State.period_congr hm, he]

/-! ### What the count does to tasks, contexts and held stores -/

theorem State.taskLive_iff (s : State) (t : Task) : s.taskLive t = true ↔ ∃ x ∈ t.ctxs, Live (s.cx t.core x) := by
  simp [State.taskLive, Live]

theorem State.tickTask_of_counts {s : State} {t : Task} (h : t.ended = false ∧ t.saved = false ∧ ∃ x ∈ t.ctxs, Live (s.cx t.core x)) :
    s.tickTask t = if t.unlimited then { t with consumed := t.consumed + 1 }
      else { t with consumed := t.consumed + 1, budget := t.budget - 1, expired := t.expired || decide (t.budget = 1) } := by
  obtain ⟨he, hs, hx⟩ := h
  unfold State.tickTask
  rw [if_pos (by rw [he, hs, (s.taskLive_iff t).mpr hx]; rfl)]

theorem State.tickTask_of_not_counts {s : State} {t : Task} (h : ¬ (t.ended = false ∧ t.saved = false ∧ ∃ x ∈ t.ctxs, Live (s.cx t.core x))) :
    s.tickTask t = t := by
  unfold State.tickTask
  refine if_neg fun hc => h ?_
  simpa [State.taskLive_iff, and_assoc] using hc

/-- A task after the count: its budget, its consumption and its expiry. -/
theorem State.tickTask_spec (s : State) (k : Task) (b : Bool) :
    let k' := s.tickTask { k with noted := b }
    let counts := k.ended = false ∧ k.saved = false ∧ ∃ x ∈ k.ctxs, Live (s.cx k.core x)
    k' = { k with budget := k'.budget, consumed := k'.consumed, expired := k'.expired, noted := k'.noted } ∧
      (counts → k'.consumed = k.consumed + 1 ∧
        (k.unlimited = true → k'.budget = k.budget ∧ k'.expired = k.expired) ∧
        (k.unlimited = false → k'.budget = k.budget - 1 ∧ (k'.expired = true ↔ k.expired = true ∨ k.budget = 1))) ∧
      (¬ counts → k'.consumed = k.consumed ∧ k'.budget = k.budget ∧ k'.expired = k.expired) := by
  intro k' counts
  by_cases h : counts
  · have hk : k' = _ := State.tickTask_of_counts (t := { k with noted := b }) h
    refine ⟨?_, fun _ => ?_, fun hn => absurd h hn⟩
    · rw [hk]
      split <;> rfl
    · rw [hk]
      cases hu : k.unlimited <;> simp
  · have hk : k' = _ := State.tickTask_of_not_counts (t := { k with noted := b }) h
    rw [hk]
    exact ⟨rfl, fun hc => absurd hc h, fun _ => ⟨rfl, rfl, rfl⟩⟩

/-- What the semaphore unit leaves of a context reads the same before and after. -/
theorem Ctx.eq_of_unswept {y z : Ctx} (h : z.unswept = y.unswept) :
    z.grace = y.grace ∧ z.st = y.st ∧ z.readyAt = y.readyAt ∧ z.s = y.s ∧ z.step = y.step :=
  ⟨(congrArg Ctx.grace h :), (congrArg Ctx.st h :), (congrArg Ctx.readyAt h :), (congrArg Ctx.s h :), (congrArg Ctx.step h :)⟩

/-- A context after the count. -/
theorem Ctx.tick_spec {y z : Ctx} {cycle : Nat} (h : z.unswept = (y.tick cycle).unswept) :
    let counts := y.canreq = true ∧ (Live y ∨ y.st = .loaded)
    (counts → z.grace = y.grace + 1) ∧ (¬ counts → z.grace = y.grace) ∧
      (y.st = .loaded → z.st = .ready ∧ z.readyAt = cycle) ∧ (y.st ≠ .loaded → z.st = y.st) ∧ z.s = y.s ∧ z.step = y.step := by
  obtain ⟨hg, ht, hr, hs, hp⟩ := Ctx.eq_of_unswept h
  rw [hg, ht, hr, hs, hp]
  unfold Ctx.tick Live
  by_cases hl : y.st = .loaded
  · by_cases hc : y.canreq = true <;> simp [hl, hc]
  · by_cases hc : y.canreq = true ∧ (y.st = .ready ∨ y.st = .running ∨ y.st = .blocked) <;> simp [hl, hc]

/-- The cores after the count: a core that is listed ticks, and one that is not listed reads as before. -/
theorem State.core_countCycle (g : State) (c : Nat) :
    g.countCycle.core c = (g.core c).tick g.cycle ∨ g.countCycle.core c = {} ∧ g.core c = {} :=
  SMap.get_mapValues ({} : Core) ({} : Core) (fun k => k.tick g.cycle) g.cores c

theorem State.mq_countCycle (g : State) (c : Nat) : (g.countCycle.core c).mq = (g.core c).mq := by
  rcases g.core_countCycle c with h | ⟨h, h0⟩
  · rw [h, Core.mq_tick]
  · rw [h, h0]

theorem State.cx_countCycle (g : State) (c x : Nat) : (g.countCycle.cx c x).unswept = ((g.cx c x).tick g.cycle).unswept := by
  unfold State.cx
  rcases g.core_countCycle c with h | ⟨h, h0⟩
  · rw [h, Core.ctx_tick]
  · rw [h, h0]
    rfl

theorem State.task_countCycle (g : State) (n : Nat) : g.countCycle.tasks.get none n = (g.tasks.get none n).map g.tickTask :=
  SMap.get_mapValues_of_default (d := none) (d' := none) (f := Option.map g.tickTask) rfl g.tasks n

theorem State.letGo_id (s : State) (a : Access) : (s.letGo a).id = a.id := by
  unfold State.letGo
  split <;> rfl

/-- An access that no matrix operation holds back is let go; one without a hold stays as it is. -/
theorem State.letGo_of_behind_nil (s : State) {a : Access} (h : a.behind = []) : s.letGo a = a := by
  unfold State.letGo
  split
  · rfl
  · rw [← h]

theorem State.letGo_of_passed {s : State} {a : Access} (h : ∀ d o, a.place = .spad d o → ∀ m ∈ (s.core d).mq, m.id ∉ a.behind) :
    s.letGo a = { a with behind := [] } := by
  have hs : s.stillHeld a = false := by
    unfold State.stillHeld
    split
    · next c o data hp _ =>
      rw [List.any_eq_false]
      intro m hm
      simp [h c o hp m hm]
    · rfl
  unfold State.letGo
  rw [hs]
  rfl

/-! ### The turn that ends a cycle -/

theorem step_tick {s : State} {r : List Turn} (ha : s.agenda = .tick :: r) (hf : s.fixedTurn = none) :
    step s = .next ({ s with agenda := r } : State).tick := by
  have hd : s.dueBefore .tick = none := hf
  unfold step
  rw [ha]
  dsimp only
  rw [hd]
  rfl

theorem State.period_of_point {s : State} (h : s.mg.power ∈ [Power.a0, .a1, .a2, .a3]) : s.running = true ∧ s.period = cycleLength s.mg.power := by
  unfold State.running State.period
  simp only [List.mem_cons, List.not_mem_nil, or_false] at h
  rcases h with h | h | h | h <;> rw [h] <;> exact ⟨rfl, rfl⟩

end Sys2Proof.Machine

open Sys2Proof Sys2Proof.Machine Sys2Proof.Claims

/-- Settles O57: the end of a cycle is its notices, which leave all but the marks of noticed tasks, then the count of tasks, contexts and held
stores, each by its own lemma. -/
theorem clockCycle : Obligations.ClockCycle := by
  intro s r ha hf hc
  rw [step_tick ha hf]
  let u : State := { s with agenda := r }
  refine ⟨fun hp => ?_, fun hp => ?_, fun hp hl => ?_⟩
  · rw [State.tick_of_unclocked (s := u) hp hc]
  · rw [State.tick_of_idle (s := u) hp hc]
  · obtain ⟨hr, hn⟩ := State.period_of_point (s := u) hp
    have hg := u.noticed_groupTick
    refine ⟨_, congrArg _ (State.tick_of_running (s := u) hr hc hl), hg.agenda, rfl, congrArg (· + 1) hg.cycle, congrArg (s.now + ·) hn,
      hg.mem, hg.poison, hg.host, ?_, fun a h => ⟨fun hb => ?_, fun hb => ?_⟩, hg.launches, hg.bars, hg.mg, fun n k hk => ?_, fun c x => ?_⟩
    · exact List.map_map.trans (List.map_congr_left fun a _ => State.letGo_id _ a)
    · exact List.mem_map.mpr ⟨a, h, State.letGo_of_behind_nil _ hb⟩
    · refine List.mem_map.mpr ⟨a, h, State.letGo_of_passed fun d o hd m hm => hb d o hd m ?_⟩
      rw [State.mq_countCycle, hg.core] at hm
      exact hm
    · obtain ⟨b, hb⟩ := hg.task n k hk
      have hs := u.groupTick.tickTask_spec k b
      simp only [hg.cx] at hs
      exact ⟨_, (u.groupTick.task_countCycle n).trans (by rw [hb]; rfl), hs⟩
    · have hx := u.groupTick.cx_countCycle c x
      rw [hg.cx, hg.cycle] at hx
      exact Ctx.tick_spec hx

end

section
/-! ## What a slot of a bundle leaves alone (O56)

A bundle of one word runs `nop` behind the word. The `nop` is held only by a mark on p0, so what the word may not do is to put such a mark on a
context, or to turn to another bundle. For each operation that a slot other than Y runs one equation says that it does neither (`footing_X`). -/

namespace Sys2Proof.Machine

/-- A pending mark on p0 stands on the context. -/
def Ctx.marked (y : Ctx) : Bool := y.pend.any fun e => decide (e.1 = .p 0)

theorem Ctx.marked_eq_false_iff (y : Ctx) : y.marked = false ↔ ∀ e ∈ y.pend, e.1 ≠ .p 0 := by
  simp only [Ctx.marked, List.any_eq_false, decide_eq_true_eq, ne_eq]

/-- What holds a `nop` of the bundle in progress: the bundle with its core and context, and the marks on p0. -/
structure Footing where
  opened : Bool
  core : Nat
  ctx : Nat
  marked : Nat → Nat → Bool

/-- The contexts with a mark on p0. -/
def marksOf (k : SMap Core) (c x : Nat) : Bool := (((k.get {} c).ctx).get {} x).marked

def State.footing (s : State) : Footing := ⟨s.iss.opened, s.iss.core, s.iss.ctx, marksOf s.cores⟩

/-! ### State and cores -/

/-- An update of any other field leaves the footing. -/
@[simp] theorem State.footing_mk {x0 i x2 x3 x4 x5 x6 k x8 x9 x10 x11 x12 x13 x14 x15 x16 x17 x18 x19 x20 x21 x22 x23 x24 x25 x26 x27 x28 x29 x30 x31 x32 x33 x34 x35 x36 x37 x38 x39 x40 x41 x42 x43 x44 x45 x46 x47 x48 x49 x50 x51 x52} :
    State.footing (State.mk x0 i x2 x3 x4 x5 x6 k x8 x9 x10 x11 x12 x13 x14 x15 x16 x17 x18 x19 x20 x21 x22 x23 x24 x25 x26 x27 x28 x29 x30 x31 x32 x33 x34 x35 x36 x37 x38 x39 x40 x41 x42 x43 x44 x45 x46 x47 x48 x49 x50 x51 x52) =
      ⟨i.opened, i.core, i.ctx, marksOf k⟩ := rfl

@[simp] theorem Footing.of_state (s : State) : Footing.mk s.iss.opened s.iss.core s.iss.ctx (marksOf s.cores) = s.footing := rfl

@[simp] theorem State.footing_ite (c : Prop) [Decidable c] (s t : State) : (if c then s else t).footing = if c then s.footing else t.footing :=
  apply_ite _ _ _ _

@[simp] theorem State.footing_foldl {α : Type} (f : State → α → State) (hf : ∀ s a, (f s a).footing = s.footing) (l : List α) (s : State) :
    (l.foldl f s).footing = s.footing := foldl_leaves State.footing f hf l s

theorem State.footing_setCore {s : State} {c : Nat} {k : Core} (h : ∀ x, (k.ctx.get {} x).marked = ((s.core c).ctx.get {} x).marked) :
    (s.setCore c k).footing = s.footing := by
  have hm : marksOf (s.setCore c k).cores = marksOf s.cores := by
    funext d x
    unfold marksOf State.setCore
    rw [SMap.get_put]
    split
    · next hd => rw [hd]; exact h x
    · rfl
  exact congrArg (Footing.mk s.iss.opened s.iss.core s.iss.ctx) hm

@[simp] theorem State.footing_updCore (s : State) (c : Nat) (f : Core → Core) (h : ∀ k, (f k).ctx = k.ctx) :
    (s.updCore c f).footing = s.footing := State.footing_setCore fun x => by rw [h]

theorem State.footing_updCx {s : State} {c x : Nat} {f : Ctx → Ctx} (h : ∀ y, (f y).marked = y.marked) : (s.updCx c x f).footing = s.footing := by
  refine State.footing_setCore fun z => ?_
  dsimp only
  rw [SMap.get_put]
  split
  · next hz => rw [hz]; exact h _
  · rfl

@[simp] theorem State.footing_updCx_pend (s : State) (c x : Nat) (f : Ctx → Ctx) (h : ∀ y, (f y).pend = y.pend) :
    (s.updCx c x f).footing = s.footing := State.footing_updCx fun y => by rw [Ctx.marked, h]; rfl

@[simp] theorem State.footing_updMe (s : State) (f : Ctx → Ctx) (h : ∀ y, (f y).pend = y.pend) : (s.updMe f).footing = s.footing :=
  s.footing_updCx_pend _ _ f h

@[simp] theorem State.footing_updMyCore (s : State) (f : Core → Core) (h : ∀ k, (f k).ctx = k.ctx) : (s.updMyCore f).footing = s.footing :=
  s.footing_updCore _ f h

@[simp] theorem State.footing_updTask (s : State) (t : Nat) (f : Task → Task) : (s.updTask t f).footing = s.footing := (rfl)

@[simp] theorem State.footing_updLaunch (s : State) (t : Nat) (f : Launch → Launch) : (s.updLaunch t f).footing = s.footing := (rfl)

@[simp] theorem State.footing_sendMsg (s : State) (m : Msg) : (s.sendMsg m).footing = s.footing := (rfl)

@[simp] theorem State.footing_emit (s : State) (reg : RegId) (val : RVal) (lat : Nat) (poison : Bool) (flags : FlagBits) :
    (s.emit reg val lat poison flags).footing = s.footing := by
  unfold State.emit
  simp

@[simp] theorem State.footing_emitS (s : State) (d : Nat) (w : Word) (lat : Nat) (poison : Bool) (flags : FlagBits) :
    (s.emitS d w lat poison flags).footing = s.footing := s.footing_emit ..

@[simp] theorem State.footing_emitP (s : State) (d : Nat) (b : Bool) (lat : Nat) : (s.emitP d b lat).footing = s.footing := s.footing_emit ..

@[simp] theorem State.footing_emitV (s : State) (d : Nat) (w : VWord) (lat : Nat) (poison : Bool) (flags : FlagBits) :
    (s.emitV d w lat poison flags).footing = s.footing := s.footing_emit ..

@[simp] theorem State.footing_emitK (s : State) (d : Nat) (w : KWord) (lat : Nat) (flags : FlagBits) :
    (s.emitK d w lat flags).footing = s.footing := s.footing_emit ..

/-- No destination is p0 when it becomes pending (R61, R82). -/
@[simp] theorem State.footing_mark (s : State) (rs : List RegId) : (s.mark rs).footing = s.footing := by
  refine State.footing_updCx fun y => ?_
  unfold Ctx.marked
  rw [List.any_append, Bool.or_eq_left_iff_imp]
  simp

@[simp] theorem State.footing_cancelPoint (s : State) : s.cancelPoint.footing = s.footing := (rfl)

@[simp] theorem State.footing_branchTo (s : State) (t : Nat) : (s.branchTo t).footing = s.footing := (rfl)

/-! ### Operations of the slots S, V and M -/

@[simp] theorem State.footing_ctlWrite (s : State) (num : Nat) (w : Word) : (s.ctlWrite num w).footing = s.footing := by
  unfold State.ctlWrite
  simp

@[simp] theorem State.footing_take (s : State) (t : Nat) : (s.take t).footing = s.footing := by
  unfold State.take
  simp

@[simp] theorem State.footing_link (s : State) : s.link.footing = s.footing := s.footing_emitS ..

@[simp] theorem State.footing_loop (s : State) (off : Int) : (s.loop off).footing = s.footing := by
  unfold State.loop
  simp

@[simp] theorem footing_indirect (s : State) (a : Nat) (k : Nat → State) (h : ∀ n, (k n).footing = s.footing) :
    (s.ran (indirect s a k)).footing = s.footing := by
  unfold indirect
  simp [h]

@[simp] theorem State.footing_putTile (s : State) (t : Nat) (v : Tile) : (s.putTile t v).footing = s.footing := by
  unfold State.putTile
  simp

@[simp] theorem State.footing_enqueue (s : State) (kind : MKind) (due : Nat) : (s.enqueue kind due).footing = s.footing := by
  unfold State.enqueue
  simp only [State.footing_mk, Footing.of_state]
  refine s.footing_updMyCore _ fun k => ?_
  split <;> rfl

@[simp] theorem footing_tileCheck (s : State) (t : Nat) (planes bad : Bool) (k : Except (Nat × Option Word) State) (h : (s.ran k).footing = s.footing) :
    (s.ran (s.tileCheck t planes bad k)).footing = s.footing := by
  unfold State.tileCheck
  simp [h]

@[simp] theorem footing_operandCheck (s : State) (ty : Ty) (a b n : Nat) (k : Except (Nat × Option Word) State) (h : (s.ran k).footing = s.footing) :
    (s.ran (s.operandCheck ty a b n k)).footing = s.footing := by
  unfold State.operandCheck
  dsimp only
  (repeat' split) <;> simp [h]

/-! ### Operations of the slots L and T -/

@[simp] theorem State.footing_issue (s : State) (a : Access) : (s.issue a).footing = s.footing := (rfl)

@[simp] theorem State.footing_guidon (s : State) (o : Nat) (w : Watch) : (s.guidon o w).footing = s.footing := by
  unfold State.guidon
  simp

@[simp] theorem State.footing_watchOne (s : State) (o : Nat) (sp : Bool) (lo hi kind : Nat) (ag : Agent) (n : Nat) :
    (s.watchOne o sp lo hi kind ag n).footing = s.footing := by
  unfold State.watchOne
  simp

@[simp] theorem State.footing_watch (s : State) (o : Nat) (sp : Bool) (lo n kind : Nat) (ag : Agent) :
    (s.watch o sp lo n kind ag).footing = s.footing := by
  unfold State.watch
  simp

@[simp] theorem Core.ctx_spadPut (k : Core) (cycle p o : Nat) (b : Byte) : (k.spadPut cycle p o b).ctx = k.ctx := by
  unfold Core.spadPut
  dsimp only
  (repeat' split) <;> rfl

@[simp] theorem Core.ctx_spadPuts (k : Core) (cycle p o : Nat) (data : List (Option Byte)) : (k.spadPuts cycle p o data).ctx = k.ctx := by
  induction data generalizing k o with
  | nil => rfl
  | cons b r ih =>
    cases b with
    | none => exact ih ..
    | some b => exact (ih ..).trans (k.ctx_spadPut ..)

@[simp] theorem Core.ctx_spadWrite (k : Core) (cycle p o : Nat) (data : List (Option Byte)) : (k.spadWrite cycle p o data).ctx = k.ctx := by
  unfold Core.spadWrite
  simp

@[simp] theorem Core.ctx_usePort (k : Core) (cycle o n : Nat) (ag : Agent) : (k.usePort cycle o n ag).ctx = k.ctx := by
  unfold Core.usePort
  split <;> rfl

@[simp] theorem State.footing_spadStore (s : State) (c o : Nat) (data : List (Option Byte)) (ag : Agent) :
    (s.spadStore c o data ag).footing = s.footing := by
  unfold State.spadStore
  simp

@[simp] theorem State.footing_amoSpad (s : State) (core : Nat) (op : AmoOp) (o n b c : Nat) (ag : Agent) :
    (s.amoSpad core op o n b c ag).2.footing = s.footing := by
  unfold State.amoSpad
  dsimp only
  (repeat' split) <;> simp

@[simp] theorem State.footing_localLoad (s : State) (f : LoadForm) (o : Nat) : (s.localLoad f o).footing = s.footing := by
  unfold State.localLoad
  simp

@[simp] theorem State.footing_homeLoad (s : State) (f : LoadForm) (pa : Nat) (hd : Handle) (va : Word) (op : AccOp) :
    (s.homeLoad f pa hd va op).footing = s.footing := by
  unfold State.homeLoad
  simp [State.newId]

@[simp] theorem State.footing_roinv (s : State) (c : Nat) (hit : Nat → Bool) : (s.roinv c hit).footing = s.footing := by
  unfold State.roinv
  simp only [State.footing_mk, Footing.of_state]
  simp

@[simp] theorem State.footing_localStore (s : State) (o : Nat) (data : List (Option Byte)) : (s.localStore o data).footing = s.footing := by
  unfold State.localStore
  simp

@[simp] theorem State.footing_homeStore (s : State) (pa : Nat) (data : List (Option Byte)) (hd : Handle) (va : Word) :
    (s.homeStore pa data hd va).footing = s.footing := by
  unfold State.homeStore
  simp

/-! ### Operations of the slot E -/

@[simp] theorem Core.ctx_updQueue (k : Core) (q : Nat) (f : Queue → Queue) : (k.updQueue q f).ctx = k.ctx := (rfl)

@[simp] theorem Core.ctx_mapCmds (k : Core) (f : Nat → Cmd → Cmd) : (k.mapCmds f).ctx = k.ctx := (rfl)

@[simp] theorem Core.ctx_armQueue (k : Core) (q cycle : Nat) : (k.armQueue q cycle).ctx = k.ctx := by
  unfold Core.armQueue
  (repeat' split) <;> rfl

@[simp] theorem State.footing_updCmd (s : State) (c q id : Nat) (f : Cmd → Cmd) : (s.updCmd c q id f).footing = s.footing :=
  s.footing_updCore c _ fun _ => rfl

@[simp] theorem State.footing_holdTile (s : State) (q : Nat) (m : Cmd) : (s.holdTile q m).footing = s.footing := by
  unfold State.holdTile
  (repeat' split) <;> simp

@[simp] theorem State.footing_enqueueCmd (s : State) (q : Nat) (m : Cmd) : (s.enqueueCmd q m).footing = s.footing := by
  unfold State.enqueueCmd
  simp

@[simp] theorem State.footing_startRevoke (s : State) (r : Revoke) : (s.startRevoke r).footing = s.footing := (rfl)

@[simp] theorem State.footing_addLand (s : State) (c x step : Nat) (reg : RegId) (v : LandVal) (acq : Bool) :
    (s.addLand c x step reg v acq).footing = s.footing := (rfl)

@[simp] theorem State.footing_updArr (s : State) (c a : Nat) (f : XArr → XArr) : (s.updArr c a f).footing = s.footing :=
  s.footing_updCore c _ fun _ => rfl

@[simp] theorem footing_xbGuard (s : State) (a : Nat) (b : Option Nat) (okA okB : Word → Bool) (mask : Bool) (k : Word → Word → Except (Nat × Option Word) State)
    (h : ∀ u v, (s.ran (k u v)).footing = s.footing) : (s.ran (xbGuard s a b okA okB mask k)).footing = s.footing := by
  unfold xbGuard
  simp [h]

@[simp] theorem State.footing_sendPeer (s : State) (chip : Nat) (i : LinkItem) : (s.sendPeer chip i).footing = s.footing := by
  unfold State.sendPeer State.sendParcel
  (repeat' split) <;> simp

@[simp] theorem State.footing_call (s : State) (y h a fn smask nx xa xb : Nat) : (s.call y h a fn smask nx xa xb).footing = s.footing := by
  unfold State.call Ctx.putReply
  dsimp only
  split
  · simp
  · rw [State.footing_sendPeer]
    simp only [State.footing_mk, Footing.of_state]
    simp

end Sys2Proof.Machine
end

section
/-! ## What a word of a slot does in its bundle (O56)

Every word that decodes runs as one slot operation of its home, and outside Y that operation keeps the footing of the bundle. -/

namespace Sys2Proof.Machine

/-- The same bundle is open in `t` as in `s`, and no context of `t` has a mark on p0 that it had not in `s`. -/
structure State.Keeps (s t : State) : Prop where
  opened : t.iss.opened = s.iss.opened
  core : t.iss.core = s.iss.core
  ctx : t.iss.ctx = s.iss.ctx
  marks : ∀ c x, (t.cx c x).marked = true → (s.cx c x).marked = true

theorem State.Keeps.of_footing {s t : State} (h : t.footing = s.footing) : s.Keeps t where
  opened := congrArg Footing.opened h
  core := congrArg Footing.core h
  ctx := congrArg Footing.ctx h
  marks c x ht := (congrFun (congrFun (congrArg Footing.marked h) c) x).symm.trans ht

theorem State.Keeps.refl (s : State) : s.Keeps s := .of_footing rfl

theorem State.Keeps.trans {s t u : State} (h : s.Keeps t) (h' : t.Keeps u) : s.Keeps u where
  opened := h'.opened.trans h.opened
  core := h'.core.trans h.core
  ctx := h'.ctx.trans h.ctx
  marks c x hu := h.marks c x (h'.marks c x hu)

theorem State.Keeps.ite {s t u : State} {c : Prop} [Decidable c] (ht : s.Keeps t) (hu : s.Keeps u) : s.Keeps (if c then t else u) := by
  split
  · exact ht
  · exact hu

theorem State.Keeps.foldl {α : Type} {f : State → α → State} (hf : ∀ (s : State) a, s.Keeps (f s a)) (l : List α) (s : State) : s.Keeps (l.foldl f s) :=
  foldl_keeps (fun t => s.Keeps t) f (fun t a ht => ht.trans (hf t a)) l s (.refl s)

theorem State.Keeps.congr {s t u : State} (h : u.footing = t.footing) (ht : s.Keeps t) : s.Keeps u := ht.trans (.of_footing h)

/-- An update of a context that sets no mark. -/
theorem State.Keeps.updCx {s : State} {c x : Nat} {f : Ctx → Ctx} (h : ∀ y, (f y).marked = true → y.marked = true) : s.Keeps (s.updCx c x f) where
  opened := rfl
  core := rfl
  ctx := rfl
  marks d z hm := by
    by_cases hz : d = c ∧ z = x
    · obtain ⟨rfl, rfl⟩ := hz
      rw [State.cx_updCx] at hm
      exact h _ hm
    · rwa [State.cx_updCx_ne _ _ (not_and_or.mp hz)] at hm

/-! ### A launch of the kernel kills the tasks whose record it sheds -/

@[simp] theorem Core.ctx_ungrant (k : Core) (m : Cmd) : (k.ungrant m).ctx = k.ctx := by
  unfold Core.ungrant
  split <;> rfl

@[simp] theorem Core.ctx_quieten (k : Core) (p : Nat) : (k.quieten p).ctx = k.ctx := by
  unfold Core.quieten
  dsimp only
  split <;> rfl

@[simp] theorem Core.ctx_untile (k : Core) (id : Nat) : (k.untile id).ctx = k.ctx := by
  unfold Core.untile
  split <;> simp

@[simp] theorem Core.ctx_endCmd (k : Core) (q id status detail prog : Nat) : (k.endCmd q id status detail prog).ctx = k.ctx := (rfl)

theorem Core.ctx_foldl {α : Type} {f : Core → α → Core} (hf : ∀ k a, (f k a).ctx = k.ctx) (l : List α) (k : Core) : (l.foldl f k).ctx = k.ctx :=
  foldl_leaves Core.ctx f hf l k

@[simp] theorem Core.ctx_discardQueued (k : Core) (x cycle : Nat) : (k.discardQueued x cycle).ctx = k.ctx := by
  unfold Core.discardQueued
  refine Core.ctx_foldl (fun k q => ?_) _ k
  rw [Core.ctx_armQueue]
  exact Core.ctx_foldl (fun k m => by simp) _ _

@[simp] theorem Core.ctx_discard (k : Core) (x cycle : Nat) : (k.discard x cycle).ctx = k.ctx := by
  unfold Core.discard
  exact (Core.ctx_foldl (fun k q => Core.ctx_updQueue k q _) _ _).trans (k.ctx_discardQueued x cycle)

@[simp] theorem Core.ctx_stopOps (k : Core) (x : Nat) : (k.stopOps x).ctx = k.ctx := by
  unfold Core.stopOps
  exact Core.ctx_foldl (fun k p => k.ctx_quieten p) _ _

@[simp] theorem Core.ctx_freeEnded (k : Core) : k.freeEnded.ctx = k.ctx := by
  unfold Core.freeEnded
  dsimp only
  (repeat' split) <;> rfl

@[simp] theorem Core.ctx_abandon (k : Core) (x cycle now : Nat) : (k.abandon x cycle now).ctx = k.ctx := by
  unfold Core.abandon
  simp

@[simp] theorem State.footing_noteLeft (s : State) (c x : Nat) : (s.noteLeft c x).footing = s.footing :=
  s.footing_updCore c _ fun k => by split <;> rfl

@[simp] theorem State.footing_returnResv (s : State) (c x : Nat) : (s.returnResv c x).footing = s.footing := by
  unfold State.returnResv Core.semAdd Core.setSem
  split <;> simp

@[simp] theorem State.footing_disarm (s : State) (c x : Nat) : (s.disarm c x).footing = s.footing := s.footing_updCore c _ fun _ => rfl

@[simp] theorem State.footing_failStep (s : State) (c x : Nat) : (s.failStep c x).footing = s.footing := by
  unfold State.failStep
  split <;> simp

@[simp] theorem State.footing_dropResults (s : State) (c x : Nat) : (s.dropResults c x).footing = s.footing := (rfl)

@[simp] theorem State.footing_permArrive (s : State) (key : Nat) : (s.permArrive key).footing = s.footing := (rfl)

@[simp] theorem State.footing_leaveSlots (s : State) (tid : Nat) (t : Task) (f : Ctx → Ctx) (hf : ∀ y, (f y).pend = y.pend) :
    (s.leaveSlots tid t f).footing = s.footing :=
  State.footing_foldl _ (fun s x => s.footing_updCx_pend _ _ _ fun y => by split <;> simp [hf]) _ s

@[simp] theorem State.footing_endSaved (s : State) (tid : Nat) (t : Task) : (s.endSaved tid t).footing = s.footing := by
  unfold State.endSaved
  simp

@[simp] theorem State.footing_endSave (s : State) (tid : Nat) (t : Task) : (s.endSave tid t).footing = s.footing := by
  unfold State.endSave
  simp

/-- A context that is cancelled loses its marks. -/
theorem State.keeps_stopCtx (s : State) (c x : Nat) : s.Keeps (s.stopCtx c x) := by
  unfold State.stopCtx
  refine .congr (State.footing_permArrive ..) (.congr (State.footing_updCore _ c _ fun k => k.ctx_abandon ..) (.trans (.of_footing ?_) (.updCx fun y hy => ?_)))
  · simp
  · exact absurd hy (by simp [Ctx.marked])

theorem State.keeps_killTask (s : State) (t : Nat) : s.Keeps (s.killTask t) := by
  unfold State.killTask
  split
  · split
    · exact .refl s
    · refine .foldl (fun s x => ?_) _ s
      unfold State.killCtx
      dsimp only
      split
      · exact .refl s
      · exact s.keeps_stopCtx ..
  · exact .refl s

theorem State.keeps_endTask (s : State) (tid : Nat) : s.Keeps (s.endTask tid) := by
  unfold State.endTask
  split
  · split
    · exact .of_footing (State.footing_endSaved ..)
    · exact .trans (.of_footing (by simp)) (State.keeps_killTask ..)
  · exact .refl s

theorem State.keeps_shed (s : State) (v : Record) : s.Keeps (s.shed v) := by
  unfold State.shed
  split
  · exact .trans (.of_footing (State.footing_updLaunch ..)) (State.keeps_endTask ..)
  · exact .of_footing rfl

theorem State.keeps_enter (s : State) (r : Record) : s.Keeps (s.enter r).2 := by
  have hr : s.Keeps (s.refuse r) := .of_footing rfl
  have hs (f : LQueue → LQueue) (v : Record) : s.Keeps ((s.updLq r.lq f).shed v) := by
    refine .trans ?_ (State.keeps_shed ..)
    exact .of_footing rfl
  unfold State.enter
  dsimp only
  split
  · exact hr
  split
  · exact .of_footing rfl
  split
  · split
    · exact .of_footing rfl
    · exact hr
  · split
    · exact hs ..
    · exact .congr (by rfl) (hs ..)

theorem State.keeps_arrive (s : State) (q : Nat) (l : List Word) : s.Keeps (s.arrive q l).2 := by
  unfold State.arrive
  refine .trans ?_ (State.keeps_enter ..)
  exact .of_footing rfl

/-! ### A word and its home -/

/-- The operation of the slot turns to no other bundle and sets no mark on p0. -/
def SlotOp.Steady (o : SlotOp) : Prop := ∀ s : State, s.Keeps (s.ran (o.run s))

/-- The instruction is one slot operation in the home `h`. Where a slot follows, the operation is a steady one and the instruction no system call,
which another instruction may replace (R318). -/
def RunsIn (h : Home) (i : Instr) : Prop := ∃ o : SlotOp, (∀ s, exec i s = runSlot h.slot o s) ∧ (h ≠ .y → o.Steady ∧ ∀ n, i ≠ .syscall n)

theorem RunsIn.of_footing {h : Home} {i : Instr} (o : SlotOp) (he : ∀ s, exec i s = runSlot h.slot o s) (hi : ∀ n, i ≠ .syscall n)
    (ho : ∀ s : State, (s.ran (o.run s)).footing = s.footing) : RunsIn h i := ⟨o, he, fun _ => ⟨fun s => .of_footing (ho s), hi⟩⟩

/-- Nothing of a bundle runs behind its Y slot. -/
theorem RunsIn.last {i : Instr} (o : SlotOp) (he : ∀ s, exec i s = runSlot 7 o s) : RunsIn .y i := ⟨o, he, fun h => absurd rfl h⟩

theorem RunsIn.home_of_syscall {h : Home} {n : Nat} (hr : RunsIn h (.syscall n)) : h = .y := by
  obtain ⟨o, -, hs⟩ := hr
  by_contra hy
  exact (hs hy).2 n rfl

end Sys2Proof.Machine
end

section
/-! ## The decoder's instructions run in their homes (O56) -/

namespace Sys2Proof.Machine

/-! ### The operations that several words share -/

@[simp] theorem footing_aluOp (s : State) (lat d a b : Nat) (f : Word → Word → Word × FlagBits) :
    (s.ran ((aluOp lat d a b f).run s)).footing = s.footing := s.footing_emitS ..

@[simp] theorem footing_aluOp1 (s : State) (lat d a : Nat) (f : Word → Word) : (s.ran ((aluOp1 lat d a f).run s)).footing = s.footing :=
  s.footing_emitS ..

@[simp] theorem footing_predOp (s : State) (d a b : Nat) (f : Bool → Bool → Bool) : (s.ran ((predOp d a b f).run s)).footing = s.footing :=
  s.footing_emitP ..

@[simp] theorem footing_cmpOp (s : State) (cc : CC) (d a : Nat) (nm : List Nat) (b : State → SVal) :
    (s.ran ((cmpOp cc d a nm b).run s)).footing = s.footing := by
  unfold cmpOp
  simp

@[simp] theorem footing_ctlwOp (s : State) (num a : Nat) : (s.ran ((ctlwOp num a).run s)).footing = s.footing := by
  unfold ctlwOp
  simp

@[simp] theorem footing_laneOp (s : State) (lat : Nat) (ty : Ty) (d k : Nat) (vs ss : List Nat) (f : Ctx → Nat → Nat × FlagBits) :
    (s.ran ((laneOp lat ty d k vs ss f).run s)).footing = s.footing := s.footing_emitV ..

@[simp] theorem footing_vcmpOp (s : State) (cc : CC) (ty : Ty) (d a b k : Nat) : (s.ran ((vcmpOp cc ty d a b k).run s)).footing = s.footing :=
  s.footing_emitK ..

@[simp] theorem footing_vselOp (s : State) (ty : Ty) (d a b k : Nat) : (s.ran ((vselOp ty d a b k).run s)).footing = s.footing := s.footing_emitV ..

@[simp] theorem footing_vinsOp (s : State) (ty : Ty) (d a lane : Nat) : (s.ran ((vinsOp ty d a lane).run s)).footing = s.footing :=
  s.footing_emitV ..

@[simp] theorem footing_wholeOp (s : State) (lat : Nat) (d a k : Nat) (f : Bool → KWord → VWord → VWord × FlagBits) :
    (s.ran ((wholeOp lat d a k f).run s)).footing = s.footing := s.footing_emitV ..

@[simp] theorem footing_vcvtOp (s : State) (ty ty2 : Ty) (md : Rnd) (d a part k : Nat) :
    (s.ran ((vcvtOp ty ty2 md d a part k).run s)).footing = s.footing := s.footing_emitV ..

@[simp] theorem footing_vmxqOp (s : State) (ty2 : Ty) (md : Rnd) (d c a part : Nat) :
    (s.ran ((vmxqOp ty2 md d c a part).run s)).footing = s.footing := by
  unfold vmxqOp
  simp

@[simp] theorem footing_vmxdqOp (s : State) (ty2 : Ty) (d a c part : Nat) : (s.ran ((vmxdqOp ty2 d a c part).run s)).footing = s.footing :=
  s.footing_emitV ..

@[simp] theorem footing_tallocOp (s : State) (t a : Nat) (pl : Bool) : (s.ran ((tallocOp t a pl).run s)).footing = s.footing := by
  unfold tallocOp
  simp

@[simp] theorem footing_tfreeOp (s : State) (t : Nat) (pl : Bool) : (s.ran ((tfreeOp t pl).run s)).footing = s.footing := by
  unfold tfreeOp
  simp

@[simp] theorem footing_tzeroOp (s : State) (t : Nat) (anchor : Int) : (s.ran ((tzeroOp t anchor).run s)).footing = s.footing := by
  unfold tzeroOp
  simp

@[simp] theorem footing_tdrainOp (s : State) (ty : Ty) (md : Rnd) (t a row : Nat) (zr : Bool) :
    (s.ran ((tdrainOp ty md t a row zr).run s)).footing = s.footing := by
  unfold tdrainOp
  simp

@[simp] theorem footing_tclrOp (s : State) (t : Nat) : (s.ran ((tclrOp t).run s)).footing = s.footing := by
  unfold tclrOp
  simp

@[simp] theorem footing_tloadOp (s : State) (ty : Ty) (a b : Nat) : (s.ran ((tloadOp ty a b).run s)).footing = s.footing := by
  unfold tloadOp
  simp

@[simp] theorem footing_tswapOp (s : State) : (s.ran (tswapOp.run s)).footing = s.footing := by
  unfold tswapOp
  simp

@[simp] theorem footing_tanchorOp (s : State) (t : Nat) (anchor : Int) : (s.ran ((tanchorOp t anchor).run s)).footing = s.footing := by
  unfold tanchorOp
  simp

@[simp] theorem footing_tmmOp (s : State) (ty : Ty) (t : Nat) (va : Bool) (a b n row0 : Nat) :
    (s.ran ((tmmOp ty t va a b n row0).run s)).footing = s.footing := by
  have hgo (kind : MKind) :
      (s.ran (if s.myCore.fits ty = true then .ok (s.enqueue kind 0) else .error (3, none) : Except (Nat × Option Word) State)).footing = s.footing := by
    split <;> simp
  unfold tmmOp
  refine footing_tileCheck _ _ _ _ _ ?_
  dsimp only
  split
  · exact hgo _
  · exact footing_operandCheck _ _ _ _ _ _ (hgo _)

@[simp] theorem LoadForm.footing_op (s : State) (f : LoadForm) (mask : List RegId) : (s.ran ((LoadForm.op f mask).run s)).footing = s.footing := by
  unfold LoadForm.op
  dsimp only
  (repeat' split) <;> simp

@[simp] theorem footing_roinvOp (s : State) (h a : Nat) (disp : Int) : (s.ran ((roinvOp h a disp).run s)).footing = s.footing := by
  unfold roinvOp
  dsimp only
  (repeat' split) <;> simp

@[simp] theorem StoreForm.footing_op (s : State) (f : StoreForm) : (s.ran ((StoreForm.op f).run s)).footing = s.footing := by
  unfold StoreForm.op
  dsimp only
  (repeat' split) <;> simp

@[simp] theorem footing_sendOp (s : State) (vec rel : Bool) (d a : Nat) (disp : Int) (k : Nat) :
    (s.ran ((sendOp vec rel d a disp k).run s)).footing = s.footing := by
  unfold sendOp
  dsimp only
  (repeat' split) <;> simp

@[simp] theorem footing_amoOp (s : State) (op : AmoOp) (n : Nat) (ord : MemOrd) (d : Nat) (ad : Addr) (b c : Nat) :
    (s.ran ((amoOp op n ord d ad b c).run s)).footing = s.footing := by
  unfold amoOp
  dsimp only
  (repeat' split) <;> simp

@[simp] theorem footing_xlatOp (s : State) (h a intent : Nat) (spec : Bool) : (s.ran ((xlatOp h a intent spec).run s)).footing = s.footing := by
  have hu : (s.updMe fun x => { x with gen := (s.me.gen + 1) % 2 ^ 16 }).footing = s.footing := by simp
  unfold xlatOp
  dsimp only
  split
  · split
    · exact (State.footing_emit ..).trans hu
    · rfl
  · exact (State.footing_emit ..).trans hu
  · exact (State.footing_mark ..).trans hu

@[simp] theorem footing_tlbinvOp (s : State) (pd a b mode : Nat) (dev : Bool) :
    (s.ran ((tlbinvOp pd a b mode dev).run s)).footing = s.footing := by
  unfold tlbinvOp
  simp

@[simp] theorem footing_pgmigOp (s : State) (a b : Nat) : (s.ran ((pgmigOp a b).run s)).footing = s.footing := by
  unfold pgmigOp
  simp

@[simp] theorem footing_pushOp (s : State) (q a pd : Nat) : (s.ran ((pushOp q a pd).run s)).footing = s.footing := by
  unfold pushOp
  simp

@[simp] theorem footing_rcallOp (s : State) (y h a fn smask : Nat) (rel : Bool) (nx xa xb : Nat) :
    (s.ran ((rcallOp y h a fn smask rel nx xa xb).run s)).footing = s.footing := by
  unfold rcallOp
  dsimp only
  split <;> simp

@[simp] theorem footing_cpwmOp (s : State) (pd q a b : Nat) : (s.ran ((cpwmOp pd q a b).run s)).footing = s.footing := by
  unfold cpwmOp
  simp

@[simp] theorem footing_xbcolRead (s : State) (b a : Nat) (f : XArr → Nat → Word) (g : State → Nat → Nat → State)
    (h : ∀ s x q, (g s x q).footing = s.footing) : (s.ran ((xbcolRead b a f g).run s)).footing = s.footing := by
  unfold xbcolRead
  simp [h]

@[simp] theorem footing_vendorOp (s : State) (d : Nat) : (s.ran ((vendorOp d).run s)).footing = s.footing := by
  unfold vendorOp
  dsimp only [State.draw]
  rw [State.ran_ok, State.footing_mark, State.footing_addLand, State.footing_updMyCore]
  · rfl
  · exact fun _ => rfl

theorem steady_klaunchOp (pd a lq : Nat) : (klaunchOp pd a lq).Steady := by
  intro s
  have h (l : List Word) (c x step : Nat) (r : RegId) (v : LandVal) : s.Keeps ((((s.arrive lq l).2.addLand c x step r v).mark [r]).cancelPoint) :=
    (s.keeps_arrive lq l).trans (.of_footing (by simp))
  unfold klaunchOp
  simp only [State.ran_ite, State.ran_error, State.ran_ok, State.ran_poisonFault]
  exact .ite (.refl s) (.ite (.refl s) (h ..))

/-! ### What the decoder of a format names -/

/-- Every instruction that a decoder's answer names. -/
def Yields (o : Option Instr) (P : Instr → Prop) : Prop := ∀ i, o = some i → P i

theorem yields_some (i : Instr) (P : Instr → Prop) : Yields (some i) P ↔ P i := ⟨fun h => h i rfl, fun h _ e => Option.some.inj e ▸ h⟩

theorem yields_none (P : Instr → Prop) : Yields none P ↔ True := ⟨fun _ => trivial, fun _ _ e => nomatch e⟩

theorem yields_ite (c : Prop) [Decidable c] (a b : Option Instr) (P : Instr → Prop) :
    Yields (if c then a else b) P ↔ (c → Yields a P) ∧ (¬ c → Yields b P) := by
  split <;> simp [*]

theorem yields_ite_none (c : Prop) [Decidable c] (a : Option Instr) (P : Instr → Prop) : Yields (if c then a else none) P ↔ (c → Yields a P) := by
  rw [yields_ite, yields_none]
  exact and_iff_left fun _ => trivial

theorem yields_only (r : List Nat) (o : Option Instr) (P : Instr → Prop) : Yields (only r o) P ↔ (r.all (· == 0) = true → Yields o P) := by
  rw [only, yields_ite_none]

theorem yields_map {α : Type} (o : Option α) (f : α → Instr) (P : Instr → Prop) : Yields (o.map f) P ↔ ∀ a, o = some a → P (f a) := by
  cases o with
  | none => exact iff_of_true ((yields_none P).mpr trivial) fun _ e => nomatch e
  | some a => simp [yields_some]

theorem yields_bind {α : Type} (o : Option α) (f : α → Option Instr) (P : Instr → Prop) :
    Yields (o.bind f) P ↔ ∀ a, o = some a → Yields (f a) P := by
  cases o with
  | none => exact iff_of_true ((yields_none P).mpr trivial) fun _ e => nomatch e
  | some a => simp

theorem yields_decodeAlu (opc : Nat) (f : AluF) : Yields (decodeAlu opc f) (RunsIn .s) := by
  unfold decodeAlu
  split <;> simp only [alu3, alu2, yields_only, yields_map, yields_some, yields_none]
  all_goals intros; exact .of_footing _ (fun _ => rfl) nofun fun s => by simp

theorem yields_decodeImm (opc : Nat) (f : ImmF) : Yields (decodeImm opc f) (RunsIn .s) := by
  unfold decodeImm
  split <;> simp only [yields_only, yields_map, yields_some, yields_none]
  all_goals intros; exact .of_footing _ (fun _ => rfl) nofun fun s => by simp

theorem runsIn_lim (d : Nat) (imm : Int) : RunsIn .s (.lim d imm) := .of_footing _ (fun _ => rfl) nofun fun s => by simp

theorem yields_decodeBra (opc : Nat) (f : BraF) : Yields (decodeBra opc f) (RunsIn .s) := by
  unfold decodeBra
  split <;> simp only [yields_only, yields_some, yields_none]
  all_goals intros; exact .of_footing _ (fun _ => rfl) nofun fun s => by simp

theorem yields_decodeVec (opc : Nat) (f : AluF) : Yields (decodeVec opc f) (RunsIn .v) := by
  unfold decodeVec
  split <;> simp only [vF3, vF4, vI3, vI2, vMask, yields_only, yields_bind, yields_map, yields_some, yields_none]
  all_goals intros; exact .of_footing _ (fun _ => rfl) nofun fun s => by simp

theorem yields_decodeTil (opc : Nat) (f : TilF) : Yields (decodeTil opc f) (RunsIn .m) := by
  unfold decodeTil
  split <;> simp only [yields_only, yields_bind, yields_map, yields_some, yields_none]
  all_goals intros; exact .of_footing _ (fun _ => rfl) nofun fun s => by simp

theorem yields_decodeRoinv (f : MemF) : Yields (decodeRoinv f) (RunsIn .l) := by
  unfold decodeRoinv
  split <;> simp only [yields_only, yields_some]
  all_goals intros; exact .of_footing _ (fun _ => rfl) nofun fun s => by simp

theorem yields_decodeSend (f : MemF) : Yields (decodeSend f) (RunsIn .t) := by
  have h (vec : Bool) (o : MemOrd) : RunsIn .t (.send vec o f.d f.a (sextNat 22 f.disp) f.k) := .of_footing _ (fun _ => rfl) nofun fun s => by simp
  unfold decodeSend
  simp only [yields_ite, yields_only, yields_map, yields_none, h, implies_true, and_self]

/-- The opcodes of format MEM up to 0x148 are loads. -/
theorem yields_decodeMem (opc : Nat) (f : MemF) : Yields (decodeMem opc f) (RunsIn (if opc ≤ 0x148 then .l else .t)) := by
  unfold decodeMem
  split <;> simp only [memSO, memS, memV, memB, memX, yields_ite_none, yields_only, yields_bind, yields_map, yields_none, Nat.reduceLeDiff, if_true,
    if_false, yields_decodeRoinv, yields_decodeSend]
  all_goals intros; exact .of_footing _ (fun _ => rfl) nofun fun s => by simp

theorem yields_decodeAmo (opc : Nat) (f : AmoF) : Yields (decodeAmo opc f) (RunsIn .t) := by
  unfold decodeAmo
  split <;> simp only [amo2, decodeFadd, yields_ite_none, yields_only, yields_bind, yields_map, yields_some, yields_none]
  all_goals intros; exact .of_footing _ (fun _ => rfl) nofun fun s => by simp

theorem yields_decodeCal (l : List Nat) : Yields (decodeCal l) (RunsIn .e) := by
  unfold decodeCal
  simp only [yields_only, yields_some]
  exact fun _ => .of_footing _ (fun _ => rfl) nofun fun s => by simp

theorem yields_decodeXbcol (f : EngF) : Yields (decodeXbcol f) (RunsIn .e) := by
  unfold decodeXbcol
  rw [yields_only]
  intro
  split <;> simp only [yields_only, yields_some]
  all_goals intros; exact .of_footing _ (fun _ => rfl) nofun fun s => by simp

theorem runsIn_klaunch (pd a lq : Nat) : RunsIn .e (.klaunch pd a lq) := ⟨_, fun _ => rfl, fun _ => ⟨steady_klaunchOp pd a lq, nofun⟩⟩

theorem yields_decodeEng (opc : Nat) (f : EngF) : Yields (decodeEng opc f) (RunsIn .e) := by
  unfold decodeEng
  split <;> simp only [yields_only, yields_some, yields_none, yields_decodeXbcol, runsIn_klaunch, implies_true]
  all_goals intros; exact .of_footing _ (fun _ => rfl) nofun fun s => by simp

theorem yields_decodeSynA (opc : Nat) (f : SynF) : Yields (decodeSynA opc f) (RunsIn .y) := by
  unfold decodeSynA
  split <;> simp only [yields_only, yields_map, yields_some, yields_none]
  all_goals intros; exact .last _ fun _ => rfl

theorem yields_decodeSynB (opc : Nat) (f : SynF) : Yields (decodeSynB opc f) (RunsIn .y) := by
  unfold decodeSynB
  split <;> simp only [yields_only, yields_map, yields_some, yields_none]
  all_goals intros; exact .last _ fun _ => rfl

theorem runsIn_handlerReturn : RunsIn .y .handlerReturn := .last _ fun _ => rfl

theorem runsIn_vendorDiagnostic (o d r : Nat) : RunsIn .all (.vendorDiagnostic o d r) := .of_footing _ (fun _ => rfl) nofun fun s => by simp

/-- What the decoder names for an assigned opcode is an operation of the opcode's home (R65). -/
theorem yields_candidate {opc : Nat} {h : Home} (hh : homeOf opc = some h) (h0 : opc ≠ 0) (w : Nat) : Yields (candidate opc w) (RunsIn h) := by
  unfold candidate
  refine (yields_ite ..).mpr ⟨fun _ => ?_, fun _ => ?_⟩
  · obtain rfl : h = .s := by grind [homeOf]
    exact yields_decodeAlu _ _
  refine (yields_ite ..).mpr ⟨fun _ => ?_, fun _ => ?_⟩
  · obtain rfl : h = .s := by grind [homeOf]
    exact yields_decodeImm _ _
  refine (yields_ite ..).mpr ⟨fun _ => ?_, fun _ => ?_⟩
  · obtain rfl : h = .s := by grind [homeOf]
    exact (yields_some ..).mpr (runsIn_lim ..)
  refine (yields_ite ..).mpr ⟨fun _ => ?_, fun _ => ?_⟩
  · obtain rfl : h = .s := by grind [homeOf]
    exact yields_decodeBra _ _
  refine (yields_ite ..).mpr ⟨fun _ => ?_, fun _ => ?_⟩
  · obtain rfl : h = .v := by grind [homeOf]
    exact yields_decodeVec _ _
  refine (yields_ite ..).mpr ⟨fun _ => ?_, fun _ => ?_⟩
  · obtain rfl : h = .m := by grind [homeOf]
    exact yields_decodeTil _ _
  refine (yields_ite ..).mpr ⟨fun _ => ?_, fun _ => ?_⟩
  · obtain rfl : h = if opc ≤ 0x148 then .l else .t := by grind [homeOf]
    exact yields_decodeMem _ _
  refine (yields_ite ..).mpr ⟨fun _ => ?_, fun _ => ?_⟩
  · obtain rfl : h = .t := by grind [homeOf]
    exact yields_decodeAmo _ _
  refine (yields_ite ..).mpr ⟨fun _ => ?_, fun _ => ?_⟩
  · obtain rfl : h = .e := by grind [homeOf]
    exact yields_decodeCal _
  refine (yields_ite ..).mpr ⟨fun _ => ?_, fun _ => ?_⟩
  · obtain rfl : h = .e := by grind [homeOf]
    exact yields_decodeEng _ _
  refine (yields_ite ..).mpr ⟨fun _ => ?_, fun _ => ?_⟩
  · obtain rfl : h = .y := by grind [homeOf]
    exact yields_decodeSynA _ _
  refine (yields_ite ..).mpr ⟨fun _ => ?_, fun _ => ?_⟩
  · obtain rfl : h = .y := by grind [homeOf]
    exact yields_decodeSynB _ _
  · obtain rfl : h = .all := by grind [homeOf]
    exact (yields_some ..).mpr (runsIn_vendorDiagnostic ..)

/-- A word that is not zero and decodes has a home, and its instruction runs there. -/
theorem runsIn_of_decodeSlot {diag : Bool} {n : Nat} {w : Word} {g : Guard} {i : Instr} (h : decodeSlot diag n w = .ok (g, i)) (hw : w ≠ 0) :
    ∃ k, homeOf (bitsOf 54 10 w.toNat) = some k ∧ RunsIn k i := by
  have hw' : w.toNat ≠ 0 := fun e => hw (BitVec.eq_of_toNat_eq e)
  unfold decodeSlot at h
  dsimp only at h
  rw [if_neg hw'] at h
  split at h
  · nomatch h
  next k hk =>
  refine ⟨k, hk, ?_⟩
  split at h
  · nomatch h
  split at h
  · nomatch h
  split at h
  · nomatch h
  next h0 =>
  split at h
  · next r hr =>
    cases h
    unfold decodeBody at hr
    dsimp only at hr
    split at hr
    · next j hj =>
      split at hr
      · cases hr
        exact yields_candidate hk h0 _ _ hj
      · nomatch hr
    · nomatch hr
  · nomatch h

end Sys2Proof.Machine
end

section
/-! ## A step runs what the bundle's words decode to (O56) -/

namespace Sys2Proof.Machine

open Sys2Proof.Claims

/-! ### `nop` in a bundle -/

/-- A bundle is in progress, and nothing holds a `nop` of it. -/
structure State.Resting (s : State) : Prop where
  opened : s.iss.opened = true
  clear : s.me.marked = false

theorem State.Resting.of_keeps {s t : State} (h : s.Keeps t) (hs : s.Resting) : t.Resting where
  opened := h.opened.trans hs.opened
  clear := by
    unfold State.me
    rw [h.core, h.ctx, ← Bool.not_eq_true]
    exact fun hm => absurd (h.marks _ _ hm) (by rw [Bool.not_eq_true]; exact hs.clear)

/-- The bundle in progress turns to a slot and its guard. -/
def State.inSlot (s : State) (n : Nat) (g : Guard) : State := { s with iss := { s.iss with slot := n, guard := g } }

theorem State.Resting.inSlot {s : State} (h : s.Resting) (n : Nat) (g : Guard) : (s.inSlot n g).Resting := ⟨h.opened, h.clear⟩

theorem Ctx.pReg_zero (y : Ctx) : y.pReg 0 = .p 0 := by
  unfold Ctx.pReg
  simp [physP]

theorem State.Resting.not_held {s : State} (h : s.Resting) : s.holds s.iss.core s.iss.ctx (.reg (.p 0)) = false := by
  simp only [State.holds, List.any_eq_false, decide_eq_true_eq]
  exact fun e he hp => (Ctx.marked_eq_false_iff _).mp h.clear e he hp.1

/-- A `nop` changes nothing of a bundle in which nothing holds it (R54, R78). -/
theorem State.Resting.exec_nop {s : State} (h : s.Resting) (hg : s.iss.guard = ⟨false, 0⟩) : exec .nop s = .next s := by
  have hr : exec .nop s = runSlot 0 { run := fun s => .ok s } s := rfl
  rw [hr]
  unfold runSlot slotStep
  simp [h.opened, hg, Ctx.pReg_zero, h.not_held, State.guardOn, Ctx.readP]

/-! ### The slots in order -/

theorem slotsRun_append {a b : List (Nat × Guard × Instr)} {s t u : State} (ha : SlotsRun a s t) (hb : SlotsRun b t u) : SlotsRun (a ++ b) s u := by
  induction a generalizing s with
  | nil => exact (show t = s from ha) ▸ hb
  | cons e a ih =>
    obtain ⟨v, hv, ha⟩ := ha
    exact ⟨v, hv, ih ha⟩

/-- Words that are `nop` leave the bundle as it stands. -/
theorem slotsRun_nops {l : List (Nat × Guard × Instr)} (hl : ∀ e ∈ l, e.2 = (⟨false, 0⟩, .nop)) {s : State} (hs : s.Resting) :
    ∃ m g, SlotsRun l s (s.inSlot m g) := by
  induction l generalizing s with
  | nil => exact ⟨_, _, rfl⟩
  | cons e l ih =>
    obtain ⟨n, g, i⟩ := e
    obtain ⟨rfl, rfl⟩ := Prod.mk.inj (hl _ List.mem_cons_self)
    have hn := hs.inSlot n ⟨false, 0⟩
    obtain ⟨m, g, hr⟩ := ih (fun e he => hl e (List.mem_cons_of_mem _ he)) hn
    exact ⟨m, g, _, hn.exec_nop rfl, hr⟩

theorem runSlots_of_slotsRun {l : List (Nat × Guard × Instr)} {s t : State} (h : SlotsRun l s t) :
    runSlots (l.map fun e => (e.1, .ok e.2)) s = .next t := by
  induction l generalizing s with
  | nil => exact congrArg _ (show t = s from h).symm
  | cons e l ih =>
    obtain ⟨u, hu, hr⟩ := h
    rw [List.map_cons, runSlots, hu]
    exact ih hr

/-- The end of a bundle looks at neither the slot nor the guard. -/
theorem closeBundle_inSlot (s t : State) (n : Nat) (g : Guard) : closeBundle s (t.inSlot n g) = closeBundle s t := rfl

theorem keeps_slotStep {o : SlotOp} (h : o.Steady) (s : State) : s.Keeps (slotStep o s) := by
  unfold slotStep
  dsimp only
  split
  · exact .of_footing rfl
  split
  · exact .of_footing rfl
  split
  · split
    · exact .of_footing rfl
    · have hs := h s
      split
      · next t ht => rwa [ht] at hs
      · exact .of_footing rfl
  · exact .refl s

/-! ### The bundle as it is fetched -/

theorem number_succ (n : Nat) (bs : Nat → Byte) : number (n + 1) bs = (bs 0).toNat + 256 * number n fun i => bs (i + 1) := by
  unfold number
  rw [List.range_succ_eq_map, List.map_cons, List.sum_cons, List.map_map, ← List.sum_map_mul_left]
  congr 1
  · simp
  · exact congrArg List.sum (List.map_congr_left fun i _ => by simp only [Function.comp_apply, Nat.succ_eq_add_one]; ring)

theorem readNat_eq_number (m : SMap Byte) (a n : Nat) : readNat m a n = number n fun i => m.get 0 (a + i) := by
  induction n generalizing a with
  | zero => rfl
  | succ n ih =>
    rw [readNat, ih, number_succ]
    simp only [Nat.add_zero, Nat.add_comm, Nat.add_left_comm]

theorem Core.slotWord_eq (s : State) (c x n : Nat) : (s.core c).slotWord (s.cx c x).f0 n = slotWordOf s c x n :=
  congrArg wordOf (readNat_eq_number ..)

theorem Ctx.decode_of_decodesTo {y : Ctx} {n : Nat} {w : Word} {g : Guard} {i : Instr} (h : DecodesTo y n w g i) : y.decode n w = .ok (g, i) := by
  obtain ⟨j, hj, rfl⟩ := h
  unfold Ctx.decode
  rw [hj]
  split
  · next he =>
    obtain ⟨rfl, rfl⟩ := Prod.mk.inj (Except.ok.inj he)
    simp
  · next hne => rw [if_neg fun hs => hne g _ (congrArg (fun j => Except.ok (g, j)) hs.1)]

theorem State.bundleWords_eq (s : State) (c x : Nat) :
    s.bundleWords c x = (List.range 8).countP fun n => decide (slotWordOf s c x n ≠ 0) := by
  rw [List.countP_eq_length_filter]
  exact congrArg (fun p => ((List.range 8).filter p).length) (funext fun n => by rw [Core.slotWord_eq])

theorem State.bundle_eq {s : State} {c x : Nat} {l : List (Guard × Instr)} (hl : l.length = 8)
    (h : ∀ n g i, l[n]? = some (g, i) → DecodesTo (s.cx c x) n (slotWordOf s c x n) g i) :
    s.bundle c x = (l.mapIdx fun n e => (n, e)).map fun e => (e.1, .ok e.2) := by
  unfold State.bundle
  refine List.ext_getElem (by rw [List.length_map, List.length_range, List.length_map, List.length_mapIdx, hl]) fun n h1 h2 => ?_
  have hn : n < l.length := by rwa [List.length_map, List.length_mapIdx] at h2
  have hd := Ctx.decode_of_decodesTo (h n l[n].1 l[n].2 (List.getElem?_eq_getElem hn))
  rw [List.getElem_map, List.getElem_range, List.getElem_map, List.getElem_mapIdx]
  exact congrArg (n, ·) (Core.slotWord_eq s c x n ▸ hd)

theorem State.fetchOk_iff (s : State) (c x : Nat) : s.fetchOk c x = true ↔ Fetches s c x := by
  unfold State.fetchOk Fetches
  dsimp only
  split
  · exact decide_eq_true_iff
  · unfold State.inText State.taskOf
    cases ht : (s.cx c x).task with
    | none => simp
    | some n => cases hk : s.tasks.get none n <;> simp [hk]

theorem State.iss_select (s : State) (c x : Nat) : (s.select c x).iss.core = c ∧ (s.select c x).iss.ctx = x := ⟨rfl, rfl⟩

/-- The issue of a bundle outside the fetch region traps (R51). -/
theorem issueBundle_of_not_fetchOk {s : State} (h : ¬ s.visible.fetchOk s.iss.core s.iss.ctx = true) :
    issueBundle s = .next (s.visible.trap s.iss.core s.iss.ctx 1 0xFF (some (wordOf s.visible.me.f0))) := by
  unfold issueBundle
  dsimp only
  rw [State.iss_visible, if_neg h]

/-- The issue of a bundle runs its words in slot order and closes it (R78). -/
theorem issueBundle_of_slotsRun {s t : State} (hf : s.visible.fetchOk s.iss.core s.iss.ctx = true) {l : List (Nat × Guard × Instr)}
    (hl : s.visible.bundle s.iss.core s.iss.ctx = l.map fun e => (e.1, .ok e.2))
    (ht : SlotsRun l (s.visible.openBundle 0 (s.visible.bundleWords s.iss.core s.iss.ctx) ⟨false, 0⟩) t) :
    issueBundle s = .next (closeBundle s.visible t) := by
  unfold issueBundle
  dsimp only
  rw [State.iss_visible, if_pos hf, hl, runSlots_of_slotsRun ht]

/-- The turn of a core that takes a bundle (R91, R92). -/
theorem issueCore_of_takes {s t : State} {c x : Nat} (h : TakesBundle s c x) (ht : issueBundle (s.select c x) = .next t) :
    issueCore c s = .next (t.noteIssue c x) := by
  obtain ⟨hc, hs, hp, hd⟩ := h
  unfold issueCore
  rw [if_pos hc, hs, hp]
  simp only [hd, ht]

/-! ### A bundle of one word -/

/-- A slot beside the one word of a bundle is a `nop`. -/
def NopBut (n : Nat) (l : List (Guard × Instr)) : Prop := ∀ m e, m ≠ n → l[m]? = some e → e = (⟨false, 0⟩, .nop)

theorem NopBut.numbered {n : Nat} {l : List (Guard × Instr)} (h : NopBut n l) {m : Nat} (hm : m ≠ n) {e : Nat × Guard × Instr}
    (he : (l.mapIdx fun n e => (n, e))[m]? = some e) : e.2 = (⟨false, 0⟩, .nop) := by
  rw [List.getElem?_mapIdx, Option.map_eq_some_iff] at he
  obtain ⟨a, ha, rfl⟩ := he
  exact h m a hm ha

/-- The slots of a bundle of one word run as that word; behind slot 7 there is none, and before it `nop`s. -/
theorem slotsRun_one {l : List (Guard × Instr)} {n : Nat} {i : Instr} (hlen : l.length = 8) (hn : l[n]? = some (⟨false, 0⟩, i)) (hl : NopBut n l)
    {s u : State} (hs : s.Resting) (hi : exec i (s.inSlot n ⟨false, 0⟩) = .next u) (hu : n = 7 ∨ u.Resting) :
    ∃ k g, SlotsRun (l.mapIdx fun n e => (n, e)) s (u.inSlot k g) := by
  obtain ⟨hn8, hni⟩ := List.getElem?_eq_some_iff.mp hn
  generalize hL : (l.mapIdx fun n e => (n, e)) = L
  have hlen' : L.length = 8 := by rw [← hL, List.length_mapIdx, hlen]
  have hLn : L[n]'(by omega) = (n, ⟨false, 0⟩, i) := by
    subst hL
    rw [List.getElem_mapIdx, hni]
  have hcut : L = L.take n ++ (n, ⟨false, 0⟩, i) :: L.drop (n + 1) := by
    rw [← hLn, List.getElem_cons_drop, List.take_append_drop]
  have hnop (m : Nat) (hm : m < L.length) (hmn : m ≠ n) : L[m].2 = (⟨false, 0⟩, .nop) :=
    hl.numbered hmn (hL.symm ▸ List.getElem?_eq_getElem hm)
  have hpre : ∀ e ∈ L.take n, e.2 = (⟨false, 0⟩, .nop) := fun e he => by
    obtain ⟨m, hm, rfl⟩ := List.mem_take_iff_getElem.mp he
    exact hnop m (by omega) (by omega)
  have hpost : ∀ e ∈ L.drop (n + 1), e.2 = (⟨false, 0⟩, .nop) := fun e he => by
    obtain ⟨m, hm, rfl⟩ := List.mem_drop_iff_getElem.mp he
    exact hnop _ (by omega) (by omega)
  obtain ⟨m, g, hbefore⟩ := slotsRun_nops hpre hs
  have hafter : ∃ k g, SlotsRun (L.drop (n + 1)) u (u.inSlot k g) := by
    rcases hu with rfl | hu
    · rw [List.drop_of_length_le (by omega)]
      exact ⟨_, _, rfl⟩
    · exact slotsRun_nops hpost hu
  obtain ⟨k, h, hafter⟩ := hafter
  rw [hcut]
  exact ⟨k, h, slotsRun_append hbefore ⟨u, hi, hafter⟩⟩

/-- Zero words are `nop`, and each of them decodes to it alone (R54). -/
theorem nop_of_decodesTo_zero {y : Ctx} {n : Nat} {e : Guard × Instr} (h : DecodesTo y n 0 e.1 e.2) : e = (⟨false, 0⟩, .nop) := by
  obtain ⟨j, hj, hi⟩ := h
  have h0 : decodeSlot (y.mode && y.diag) n 0 = .ok (⟨false, 0⟩, .nop) := rfl
  rw [h0] at hj
  obtain ⟨hg, rfl⟩ := Prod.mk.inj (Except.ok.inj hj)
  rw [if_neg fun h => nomatch h.1] at hi
  exact Prod.ext hg.symm hi

theorem homeSlot_eq {w : Nat} {h : Home} (hh : homeOf (bitsOf 54 10 w) = some h) : homeSlot w = h.slot := by
  unfold homeSlot
  rw [hh]

theorem runsIn_of_decodesTo {y : Ctx} {n : Nat} {w : Word} {g : Guard} {i : Instr} (h : DecodesTo y n w g i) (hw : w ≠ 0) :
    ∃ k, homeSlot w.toNat = k.slot ∧ RunsIn k i := by
  obtain ⟨j, hj, rfl⟩ := h
  obtain ⟨k, hk, hr⟩ := runsIn_of_decodeSlot hj hw
  refine ⟨k, homeSlot_eq hk, ?_⟩
  split
  · next hs =>
    obtain ⟨rfl, -⟩ := hs
    rw [hr.home_of_syscall]
    exact runsIn_handlerReturn
  · exact hr

/-- A home other than Y lies before the last slot of a bundle. -/
theorem home_slot_eq_last_iff (k : Home) : k.slot = 7 ↔ k = .y := by cases k <;> decide

theorem runSlot_opened {home : Nat} {o : SlotOp} {s : State} (h : s.iss.opened = true) : runSlot home o s = .next (slotStep o s) := by
  rw [runSlot, if_pos h]

theorem runSlot_alone {home : Nat} {o : SlotOp} {s : State} (h : s.iss.opened = false) :
    runSlot home o s = .next (closeBundle s.visible (slotStep o (s.visible.openBundle home 1 ⟨false, 0⟩))) := by
  rw [runSlot, if_neg (by rw [h]; decide)]

/-- The one word of a bundle runs in it as it runs alone. -/
theorem slotsRun_alone {s t : State} {l : List (Guard × Instr)} {n : Nat} {i : Instr} {k : Home} (hlen : l.length = 8)
    (hn : l[n]? = some (⟨false, 0⟩, i)) (hl : NopBut n l) (hk : n = k.slot) (hr : RunsIn k i) (ho : s.iss.opened = false)
    (hm : s.visible.me.marked = false) (ht : exec i s = .next t) :
    ∃ u, SlotsRun (l.mapIdx fun n e => (n, e)) (s.visible.openBundle 0 1 ⟨false, 0⟩) u ∧ closeBundle s.visible u = t := by
  obtain ⟨o, he, hsteady⟩ := hr
  rw [he, runSlot_alone ho, ← hk] at ht
  generalize hv : s.visible = v at *
  have hb (m : Nat) : (v.openBundle m 1 ⟨false, 0⟩).Resting := ⟨rfl, hm⟩
  have hi : exec i ((v.openBundle 0 1 ⟨false, 0⟩).inSlot n ⟨false, 0⟩) = .next (slotStep o (v.openBundle n 1 ⟨false, 0⟩)) :=
    (he _).trans (runSlot_opened rfl)
  have hu : n = 7 ∨ (slotStep o (v.openBundle n 1 ⟨false, 0⟩)).Resting := by
    by_cases hy : k = .y
    · exact .inl (hk.trans ((home_slot_eq_last_iff k).mpr hy))
    · exact .inr (.of_keeps (keeps_slotStep (hsteady hy).1 _) (hb n))
  obtain ⟨j, g, hrun⟩ := slotsRun_one hlen hn hl (hb 0) hi hu
  exact ⟨_, hrun, (closeBundle_inSlot ..).trans (Host.Outcome.next.inj ht)⟩

/-! ### The turn -/

/-- The turn that comes next, and the agenda behind it. -/
def NextTurn (s : State) (t : Turn) (r : List Turn) : Prop := (s.agenda = t :: r ∧ s.dueBefore t = none) ∨ (s.agenda = [] ∧ s.defaultTurn = t ∧ r = [])

theorem step_of_nextTurn {s : State} {t : Turn} {r : List Turn} (h : NextTurn s t r) : step s = runTurn t { s with agenda := r } := by
  unfold step
  rcases h with ⟨ha, hd⟩ | ⟨ha, rfl, rfl⟩
  · simp only [ha, hd]
  · simp only [ha]
    rw [← ha]

theorem step_of_dueBefore {s : State} {t u : Turn} {r : List Turn} (ha : s.agenda = t :: r) (h : s.dueBefore t = some u) : step s = runTurn u s := by
  unfold step
  simp only [ha, h]

/-- What must come before a turn is what the cycle brings for certain. -/
theorem State.dueBefore_eq (s : State) (t : Turn) : s.dueBefore t = none ∨ s.dueBefore t = s.fixedTurn := by
  cases t with
  | event i =>
    unfold State.dueBefore
    dsimp only
    split
    · exact .inl rfl
    · exact .inr rfl
  | issue c => exact .inl rfl
  | tick => exact .inr rfl

theorem runTurn_event {i : Instr} (hi : encode ⟨false, 0⟩ i = none) (s : State) :
    runTurn (.event i) s = if s.powered i = true then noteEvent i (exec i s) else .next s := by
  have hs : isSlotInstr i = false := by rw [isSlotInstr, hi]; rfl
  unfold runTurn
  cases hp : s.powered i <;> simp [hs, hp]

theorem State.powered_iff (s : State) (i : Instr) : s.powered i = true ↔
    atPoint s.mg.power ∨ (s.mg.power ∈ [Power.standby, .idle] ∧ ofManagement i = true) ∨ (s.mg.power = .off ∧ i = .powerUp) := by
  unfold State.powered atPoint
  cases s.mg.power <;> simp

/-- A turn waits for nothing but what the cycle brings for certain. -/
theorem step_dueBefore {s : State} {t : Turn} {r : List Turn} (ha : s.agenda = t :: r) :
    (s.fixedTurn = none → s.dueBefore t = none) ∧ ∀ u, s.dueBefore t = some u → s.fixedTurn = some u ∧ step s = runTurn u s := by
  rcases s.dueBefore_eq t with hd | hd
  · exact ⟨fun _ => hd, fun u hu => by rw [hd] at hu; nomatch hu⟩
  · exact ⟨fun hf => hd.trans hf, fun u hu => ⟨hd.symm.trans hu, step_of_dueBefore ha hu⟩⟩

theorem step_event {s : State} {i : Instr} {r : List Turn} (h : NextTurn s (.event i) r) (hi : encode ⟨false, 0⟩ i = none) :
    let u : State := { s with agenda := r }
    (s.mg.power = .off → i ≠ .powerUp → step s = .next u) ∧
    (s.mg.power ∈ [Power.standby, .idle] → ofManagement i = false → step s = .next u) ∧
    ((atPoint s.mg.power ∨ (s.mg.power ≠ .off ∧ ofManagement i = true) ∨ (s.mg.power = .off ∧ i = .powerUp)) →
      ∀ t, exec i u = .next t → step s = .next { t with begun := t.begun || !atBoundary i }) := by
  intro u
  have hs : step s = if u.powered i = true then noteEvent i (exec i u) else .next u := (step_of_nextTurn h).trans (runTurn_event hi u)
  have hp := u.powered_iff i
  have hu : u.mg.power = s.mg.power := rfl
  rw [hu] at hp
  refine ⟨fun ho hn => ?_, fun hm hn => ?_, fun hw t ht => ?_⟩
  · rw [hs, if_neg (by simp [hp, ho, hn, atPoint])]
  · rw [hs, if_neg]
    rw [hp, hn]
    rcases List.mem_cons.mp hm with hm | hm
    · simp [hm, atPoint]
    · simp [List.mem_singleton.mp hm, atPoint]
  · rw [hs, if_pos, ht]
    · rfl
    · rw [hp]
      rcases hw with hw | ⟨hw, hm⟩ | hw
      · exact .inl hw
      · cases hc : s.mg.power <;> simp_all [atPoint]
      · exact .inr (.inr hw)

/-- The issue of a core that takes a bundle is the issue of that bundle. -/
theorem step_issue {s t : State} {c x : Nat} {r : List Turn} (h : NextTurn s (.issue c) r) (hb : TakesBundle { s with agenda := r } c x)
    (ht : issueBundle (State.select { s with agenda := r } c x) = .next t) : step s = .next (t.noteIssue c x) :=
  (step_of_nextTurn h).trans (issueCore_of_takes hb ht)

/-- The one word of a bundle: its instruction, and `nop` in every other slot. -/
theorem nopBut_of_decodesTo {s : State} {c x n : Nat} {l : List (Guard × Instr)} (hlen : l.length = 8)
    (hd : ∀ n g i, l[n]? = some (g, i) → DecodesTo s.me n (slotWordOf s c x n) g i) (h0 : ∀ m < 8, m ≠ n → slotWordOf s c x m = 0) : NopBut n l := by
  intro m e hm he
  obtain ⟨hm8, -⟩ := List.getElem?_eq_some_iff.mp he
  have hw := hd m e.1 e.2 he
  rw [h0 m (hlen ▸ hm8) hm] at hw
  exact nop_of_decodesTo_zero hw

theorem words_of_one {f : Nat → Word} {n : Nat} (hn : n < 8) (h : f n ≠ 0) (h0 : ∀ m < 8, m ≠ n → f m = 0) :
    ((List.range 8).countP fun m => decide (f m ≠ 0)) = 1 := by
  have hc : ((List.range 8).countP fun m => decide (f m ≠ 0)) = (List.range 8).count n := by
    unfold List.count
    refine List.countP_congr fun m hm => ?_
    have hm8 := List.mem_range.mp hm
    by_cases hmn : m = n
    · simpa [hmn] using h
    · simp [hmn, h0 m hm8 hmn]
  rw [hc]
  exact List.count_eq_one_of_mem List.nodup_range (List.mem_range.mpr hn)

/-- The bundle of the context that issues, once its eight words decode (R78, R85, R86). -/
theorem issueBundle_of_decodesTo {u t : State} (hf : u.visible.fetchOk u.iss.core u.iss.ctx = true) {l : List (Guard × Instr)} (hlen : l.length = 8)
    (hd : ∀ n g i, l[n]? = some (g, i) → DecodesTo u.visible.me n (slotWordOf u.visible u.iss.core u.iss.ctx n) g i)
    (ht : SlotsRun (l.mapIdx fun n e => (n, e))
      (u.visible.openBundle 0 ((List.range 8).countP fun n => decide (slotWordOf u.visible u.iss.core u.iss.ctx n ≠ 0)) ⟨false, 0⟩) t) :
    issueBundle u = .next (closeBundle u.visible t) := by
  have hme : u.visible.me = u.visible.cx u.iss.core u.iss.ctx := by rw [State.me, State.iss_visible]
  rw [hme] at hd
  rw [← State.bundleWords_eq] at ht
  exact issueBundle_of_slotsRun hf (State.bundle_eq hlen hd) ht

/-- A bundle of one unguarded word in its home does what that word does alone. -/
theorem issueBundle_of_one {u t : State} (hf : u.visible.fetchOk u.iss.core u.iss.ctx = true) {l : List (Guard × Instr)} (hlen : l.length = 8)
    (hd : ∀ n g i, l[n]? = some (g, i) → DecodesTo u.visible.me n (slotWordOf u.visible u.iss.core u.iss.ctx n) g i) {n : Nat} {i : Instr}
    (ho : u.iss.opened = false) (hp : ∀ e ∈ u.visible.me.pend, e.1 ≠ .p 0) (hi : l[n]? = some (⟨false, 0⟩, i))
    (hw : slotWordOf u.visible u.iss.core u.iss.ctx n ≠ 0) (h0 : ∀ m < 8, m ≠ n → slotWordOf u.visible u.iss.core u.iss.ctx m = 0)
    (hn : n = homeSlot (slotWordOf u.visible u.iss.core u.iss.ctx n).toNat) (ht : exec i u = .next t) : issueBundle u = .next t := by
  obtain ⟨hn8, -⟩ := List.getElem?_eq_some_iff.mp hi
  obtain ⟨k, hk, hr⟩ := runsIn_of_decodesTo (hd n _ i hi) hw
  have hm := (Ctx.marked_eq_false_iff _).mpr hp
  obtain ⟨w, hrun, rfl⟩ := slotsRun_alone hlen hi (nopBut_of_decodesTo hlen hd h0) (hn.trans hk) hr ho hm ht
  rw [← words_of_one (hlen ▸ hn8) hw h0] at hrun
  exact issueBundle_of_decodesTo hf hlen hd hrun

end Sys2Proof.Machine

open Sys2Proof Sys2Proof.Machine Sys2Proof.Claims

/-- Settles O56: the turn is the agenda's, an event runs where its power state lets it, and the issue runs the words of the bundle in slot order; a
bundle of one word runs that word between `nop`s, which leave the bundle as it stands since no word outside Y marks p0. -/
theorem stepRunsDecodedInstructions : Obligations.StepRunsDecodedInstructions := by
  unfold Obligations.StepRunsDecodedInstructions
  refine ⟨fun s t r ha => step_dueBefore ha, fun s i r hn hi => step_event hn hi, fun s c x r hn hb => ?_⟩
  have hissue {t : State} := step_issue (t := t) hn hb
  obtain ⟨hc, hx⟩ := ({ s with agenda := r } : State).iss_select c x
  dsimp only
  generalize ({ s with agenda := r } : State).select c x = u at *
  subst hc hx
  simp only [← State.fetchOk_iff]
  refine ⟨fun hf => hissue (issueBundle_of_not_fetchOk hf), fun hf l hlen hd => ⟨fun t ht => ?_, fun n i t ho hp hi hw h0 hhome ht => ?_⟩⟩
  · exact hissue (issueBundle_of_decodesTo hf hlen hd ht)
  · rw [State.iss_visible] at ho
    exact hissue (issueBundle_of_one hf hlen hd ho hp hi hw h0 hhome ht)
end

section
/-! ## The decoder of a slot (O54, O55, O53) -/

namespace Sys2Proof

open Machine Claims

/-- The slots of R50 that a home accepts. -/
def Home.slots : Home → List Nat
  | .s => [0]
  | .v => [1, 2]
  | .m => [3]
  | .l => [4]
  | .t => [5]
  | .e => [6]
  | .y => [7]
  | .all => [0, 1, 2, 3, 4, 5, 6, 7]

/-- The slots of the statements are the homes of the decoder. -/
theorem homes_eq (o : Nat) : homes o = ((homeOf o).map Home.slots).getD [] := by
  rcases Nat.lt_or_ge o 0x100 with h1 | h1
  · grind [homes, homeOf, Home.slots]
  · rcases Nat.lt_or_ge o 0x180 with h2 | h2
    · grind [homes, homeOf, Home.slots]
    · grind [homes, homeOf, Home.slots]

theorem homes_of_none {o : Nat} (h : homeOf o = none) : homes o = [] := by rw [homes_eq, h]; rfl

theorem homes_of_some {o : Nat} {k : Home} (h : homeOf o = some k) : homes o = k.slots := by rw [homes_eq, h]; rfl

theorem homes_eq_nil_iff {o : Nat} : homes o = [] ↔ homeOf o = none := by
  cases h : homeOf o with
  | none => simp [homes_of_none h]
  | some k => cases k <;> simp [homes_of_some h, Home.slots]

theorem Home.mem_slots (k : Home) {n : Nat} (hn : n < 8) : n ∈ k.slots ↔ k.accepts n = true := by
  cases k <;> interval_cases n <;> decide

theorem Home.lt_of_mem_slots {k : Home} {n : Nat} (h : n ∈ k.slots) : n < 8 := by
  cases k <;> simp only [Home.slots, List.mem_cons, List.not_mem_nil, or_false] at h <;> omega

/-- The opcode has no instruction in the mode of the context (R65, R68 orders 1 and 2, R406). -/
def Illegal (diag : Bool) (o : Nat) : Prop := homes o = [] ∨ (0x3C0 ≤ o ∧ diag = false) ∨ o = 0x214

section
variable {diag : Bool} {slot : Nat} {w : Word}

theorem opcode_eq (w : Word) : bitsOf 54 10 w.toNat = w.toNat / 2 ^ 54 := by
  have := w.isLt
  unfold bitsOf
  omega

theorem decodeSlot_zero (diag : Bool) (slot : Nat) : decodeSlot diag slot 0 = .ok (⟨false, 0⟩, .nop) := rfl

theorem toNat_ne_zero (hw : w ≠ 0) : w.toNat ≠ 0 := fun h => hw (BitVec.eq_of_toNat_eq h)

theorem decodeSlot_illegal (hw : w ≠ 0) (h : Illegal diag (w.toNat / 2 ^ 54)) : decodeSlot diag slot w = .error .illegalOp := by
  rw [← opcode_eq] at h
  unfold decodeSlot
  dsimp only
  rw [if_neg (toNat_ne_zero hw)]
  split
  · rfl
  next k hk =>
    rw [if_pos]
    obtain h | h | h := h
    · rw [homes_eq_nil_iff, hk] at h
      nomatch h
    · simp [h]
    · simp [h]

theorem decodeSlot_legal (hw : w ≠ 0) (h : ¬ Illegal diag (w.toNat / 2 ^ 54)) :
    ∃ k, homeOf (w.toNat / 2 ^ 54) = some k ∧ decodeSlot diag slot w =
      if k.accepts slot = true then
        if w.toNat / 2 ^ 54 = 0 then .error .illegalField
        else match decodeBody w.toNat with | some r => .ok r | none => .error .illegalField
      else .error .illegalSlot := by
  rw [← opcode_eq] at *
  simp only [Illegal, homes_eq_nil_iff, not_or, not_and] at h
  obtain ⟨hn, hd, hr⟩ := h
  obtain ⟨k, hk⟩ := Option.ne_none_iff_exists'.mp hn
  refine ⟨k, hk, ?_⟩
  unfold decodeSlot
  dsimp only
  rw [if_neg (toNat_ne_zero hw), hk]
  dsimp only
  rw [if_neg (by simpa [hr] using hd)]
  cases k.accepts slot <;> rfl

theorem decodeSlot_illegalSlot (hw : w ≠ 0) (hl : ¬ Illegal diag (w.toNat / 2 ^ 54)) (hs : slot < 8) (h : slot ∉ homes (w.toNat / 2 ^ 54)) :
    decodeSlot diag slot w = .error .illegalSlot := by
  obtain ⟨k, hk, hd⟩ := decodeSlot_legal (slot := slot) hw hl
  rw [homes_of_some hk, Home.mem_slots k hs] at h
  rw [hd, if_neg h]

theorem decodeSlot_home (hw : w ≠ 0) (hl : ¬ Illegal diag (w.toNat / 2 ^ 54)) (h : slot ∈ homes (w.toNat / 2 ^ 54)) :
    decodeSlot diag slot w = if w.toNat / 2 ^ 54 = 0 then .error .illegalField
      else match decodeBody w.toNat with | some r => .ok r | none => .error .illegalField := by
  obtain ⟨k, hk, hd⟩ := decodeSlot_legal (slot := slot) hw hl
  rw [homes_of_some hk] at h
  rw [hd, if_pos ((Home.mem_slots k (Home.lt_of_mem_slots h)).mp h)]

/-- The guard `!p0` is reserved (R53). -/
theorem decodeBody_not_p0 (ho : w.toNat / 2 ^ 54 ≠ 0x2F) (hn : w.getLsbD 53 = true) (hp : field 49 4 w.toNat = 0) : decodeBody w.toNat = none := by
  have hg : (guardOf (bitsOf 54 10 w.toNat) w.toNat).wf = false := by
    have hb : bitOf 53 w.toNat = true := by simpa [bitOf, BitVec.getLsbD] using hn
    have hf : bitsOf 49 4 w.toNat = 0 := hp
    rw [guardOf, if_neg (by rwa [opcode_eq]), hb, hf]
    decide
  unfold decodeBody
  dsimp only
  split
  · rw [hg]; rfl
  · rfl

end

end Sys2Proof


open Sys2Proof Sys2Proof.Machine Sys2Proof.Claims

/-- Settles O55: the checks of `decodeSlot` in their order; the guard `!p0` is not well-formed. -/
theorem decodeFaults : Obligations.DecodeFaults := by
  unfold Obligations.DecodeFaults
  intro diag slot w hw hs o illegal
  refine ⟨decodeSlot_illegal hw, fun hl h => decodeSlot_illegalSlot hw hl hs h, fun hl h => ?_⟩
  have hd := decodeSlot_home hw hl h
  refine ⟨fun h0 => by rw [hd, if_pos h0], fun h0 ho hn hp => ?_, ?_⟩
  · rw [hd, if_neg h0, decodeBody_not_p0 ho hn hp]
  · rw [hd]
    split
    · decide
    · split <;> simp

/-- Settles O53, by evaluation: the words are closed. -/
theorem exampleWords : Obligations.ExampleWords := by
  unfold Obligations.ExampleWords
  decide

/-- Refutes O54: the second part speaks of every slot number, and the home of a vendor diagnostic accepts every number. The word of opcode 0x3C5 decodes
in slot 8, which a bundle does not have (R50). -/
theorem not_decodeOfEncode : ¬ Obligations.DecodeOfEncode := by
  unfold Obligations.DecodeOfEncode
  intro h
  have hd : decodeSlot true 8 0xF140000000000000 = .ok (⟨false, 0⟩, .vendorDiagnostic 5 0 0) := by decide
  obtain ⟨-, -, -, hslot⟩ := h.2 _ _ _ _ _ hd
  exact absurd hslot (by decide)
end

section
/-! ## Control registers (O3) -/

namespace Sys2Proof.Machine

theorem State.taskOf_me (s : State) : s.myTask = s.me.task.bind fun t => s.tasks.get none t := rfl

/-- Without a write to BUDGET the tasks stand as they did. -/
theorem State.tasks_visible_none {s : State} (h : s.me.settle.newBudget = none) : s.visible.tasks = s.tasks := by
  have hb : (s.updMe Ctx.settle).cx s.iss.core s.iss.ctx = s.me.settle := State.cx_updCx s _ _ _
  unfold State.visible State.flushBudget
  rw [hb, h]; rfl

/-- A write to BUDGET reaches the task of the context (R344). -/
theorem State.tasks_visible_some {s : State} {w : Word} {t : Nat} (h : s.me.settle.newBudget = some w) (ht : s.me.task = some t) :
    s.visible.tasks = s.tasks.put none t ((s.tasks.get none t).map fun k => { k with budget := w.toNat }) := by
  have hb : (s.updMe Ctx.settle).cx s.iss.core s.iss.ctx = s.me.settle := State.cx_updCx s _ _ _
  unfold State.visible State.flushBudget
  rw [hb, h]
  dsimp only
  rw [State.cx_updCx, hb]
  dsimp only
  rw [Ctx.settle_task, ht]; rfl

/-- The task of the context keeps its number of sibling (R62). -/
theorem State.sib_visible {s : State} {t : Task} (h : s.myTask = some t) : ∃ k, s.visible.myTask = some k ∧ k.sib = t.sib := by
  rw [State.taskOf_me] at *
  obtain ⟨n, hn, ht⟩ := Option.bind_eq_some_iff.mp h
  have hv : s.visible.me.task = some n := by rw [State.me_visible]; exact (Ctx.settle_task _).trans hn
  rw [hv, Option.bind_some]
  cases hb : s.me.settle.newBudget with
  | none => exact ⟨t, by rw [State.tasks_visible_none hb, ht], rfl⟩
  | some w => exact ⟨{ t with budget := w.toNat }, by rw [State.tasks_visible_some hb hn, SMap.get_put_same, ht]; rfl, rfl⟩

section
variable {s : State} {num a : Nat}

theorem State.ctlRead_opened (s : State) (home : Nat) : (s.opened home).ctlRead num = s.visible.ctlRead num := by
  unfold State.opened
  generalize s.visible = u
  rfl

/-- `ctlr` writes what its step sees (R107). -/
theorem exec_ctlr (d : Nat) (h : s.Issues fun x => [x.sReg d]) :
    exec (.ctlr d num) s = .next (s.done 0 fun t => t.emitS d (s.visible.ctlRead num) 1) := by
  rw [← State.ctlRead_opened s 0]
  exact runSlot_done (o := { names := fun x => [x.sReg d], run := fun s => .ok (s.emitS d (s.ctlRead num) 1) }) _ h rfl (.nil s 0) (.nil s 0) rfl rfl

/-- The fields of STATUS do not overlap (R63). -/
theorem Ctx.status_toNat (x : Ctx) : x.status.toNat = 0x300 + (if x.canreq then 16 else 0) + (if x.diag then 8 else 0) + (if x.flush then 4 else 0) +
    if x.mode then 1 else 0 := by
  unfold Ctx.status
  cases x.canreq <;> cases x.diag <;> cases x.flush <;> cases x.mode <;> decide

theorem ctlw_decode (h : s.iss.opened = false) (hm : s.visible.me.mode = false) (hp : ctlPriv num = true) :
    exec (.ctlw num a) s = .next (s.faulted 0 4 none) :=
  runSlot_decode (o := ctlwOp num a) h (by simp only [ctlwOp]; rw [State.me_opened, hm, hp]; rfl)

/-- `ctlw` passes its decode check. -/
theorem ctlw_decode_none (hp : s.visible.me.mode = true ∨ ctlPriv num = false) : (ctlwOp num a).decode (s.opened 0) = none := by
  simp only [ctlwOp]
  rw [State.me_opened]
  obtain h | h := hp <;> rw [h] <;> simp

section
variable (h : s.Issues fun x => [x.sReg a]) (hp : s.visible.me.mode = true ∨ ctlPriv num = false)
include h hp

theorem ctlw_poison (hv : (s.visible.rs a).poison = true) : exec (.ctlw num a) s = .next (s.faulted 0 0x10 none) :=
  runSlot_fault (o := ctlwOp num a) h (ctlw_decode_none hp) (.nil s 0) (.nil s 0) (by simp only [ctlwOp]; rw [State.rs_opened, hv]; rfl)

theorem ctlw_diag (hv : (s.visible.rs a).poison = false) (hn : num = 0) (hm : s.visible.me.mode = false)
    (hd : (s.visible.rs a).val.getLsbD 3 ≠ s.visible.me.diag) : exec (.ctlw num a) s = .next (s.faulted 0 4 none) :=
  runSlot_fault (o := ctlwOp num a) h (ctlw_decode_none hp) (.nil s 0) (.nil s 0) (by
    simp only [ctlwOp]
    rw [State.rs_opened, State.me_opened, hv, if_neg nofun, if_pos ⟨hn, by rw [hm]; rfl, by simpa using hd⟩])

theorem ctlw_writes (hv : (s.visible.rs a).poison = false) (hd : num = 0 → s.visible.me.mode = true ∨ (s.visible.rs a).val.getLsbD 3 = s.visible.me.diag)
    {f : State → State} (hf : (s.opened 0).ctlWrite num (s.visible.rs a).val = f (s.opened 0)) (hi : (f (s.opened 0)).iss.verdicts = []) :
    exec (.ctlw num a) s = .next (s.done 0 f) :=
  runSlot_done (o := ctlwOp num a) f h (ctlw_decode_none hp) (.nil s 0) (.nil s 0) (by
    simp only [ctlwOp]
    rw [State.rs_opened, State.me_opened, hv, if_neg nofun, if_neg, hf]
    rintro ⟨hn, hm, hx⟩
    obtain h1 | h1 := hd hn <;> simp_all) hi

/-- A register that is read only in the mode discards the write (R62). -/
theorem ctlw_discarded (hv : (s.visible.rs a).poison = false) (hn : num ≠ 0) (hm : ctlMask s.visible.me.mode num = 0) :
    exec (.ctlw num a) s = .next (s.done 0 id) :=
  ctlw_writes h hp hv (absurd · hn) (by
    unfold State.ctlWrite
    rw [if_neg hn, State.me_opened, hm, if_pos rfl]; rfl) rfl

/-- The bits that the mode reaches arrive a step later. -/
theorem ctlw_masked (hv : (s.visible.rs a).poison = false) (hn : num ≠ 0) {m : Word} (hm : ctlMask s.visible.me.mode num = m) (h0 : m ≠ 0) :
    exec (.ctlw num a) s = .next (s.done 0 fun t => t.emit (.ctl num) (.w ((s.visible.rs a).val &&& m)) 1) :=
  ctlw_writes h hp hv (absurd · hn) (by
    unfold State.ctlWrite
    rw [if_neg hn, State.me_opened, hm, if_neg h0]) rfl

end
end

/-- A write to BUDGET waits for its step. -/
theorem Ctx.settle_budget {x : Ctx} {r : Res} {w : Word} (hl : x.inflight = [r]) (hr : r.reg = .ctl 0x13) (hv : r.val = .w w) (hb : x.newBudget = none) :
    x.settle.newBudget = if r.due ≤ x.step then some w else none := by
  have hflags (y : Ctx) (f : FlagBits) : (y.orFlags f).newBudget = y.newBudget := by unfold Ctx.orFlags; split <;> rfl
  unfold Ctx.settle Ctx.land
  dsimp only
  rw [hflags, hl]
  by_cases h : r.due ≤ x.step
  · simp [h, sortRes, insertRes, hr, hv, Ctx.write]
  · simp [h, sortRes, hb]

theorem State.ctlRead_sib {s : State} {t : Task} (h : s.myTask = some t) : s.ctlRead 0x0F = (t.sib.map wordOf).getD (BitVec.allOnes 64) := by
  change s.sibid s.iss.core s.iss.ctx = _
  unfold State.sibid
  rw [show s.taskOf s.iss.core s.iss.ctx = some t from h, Option.bind_some]
  cases t.sib <;> rfl

theorem State.ctlRead_budget {s : State} {t : Task} (h : s.myTask = some t) : s.ctlRead 0x13 = wordOf t.budget := by
  unfold State.ctlRead
  simp only [h]

/-- The control registers that a context reads as they stand (R62). -/
theorem State.ctlRead_of_mem (s : State) {num : Nat} (h : num ∈ [0x01, 0x03, 0x04, 0x05, 0x06, 0x07, 0x08, 0x09, 0x0A, 0x10, 0x11, 0x12, 0x14]) :
    s.ctlRead num = s.me.ctl.get 0 num := by
  simp only [List.mem_cons, List.not_mem_nil, or_false] at h
  obtain rfl | rfl | rfl | rfl | rfl | rfl | rfl | rfl | rfl | rfl | rfl | rfl | rfl := h <;> rfl

theorem ctlPriv_iff (num : Nat) : ctlPriv num = true ↔ num ∈ [0x06, 0x07, 0x08, 0x09, 0x0A, 0x12] := by
  simp only [ctlPriv, Bool.or_eq_true, Bool.and_eq_true, decide_eq_true_eq, beq_iff_eq, List.mem_cons, List.not_mem_nil, or_false]
  omega

end Sys2Proof.Machine

open Sys2Proof Sys2Proof.Machine Sys2Proof.Claims

/-- Settles O3: `ctlr` and `ctlw` by the outcome of their slot, the bits of a write by the mask of the register, and BUDGET by the results that
`settle` lets become visible. -/
theorem controlRegisters : Obligations.ControlRegisters := by
  unfold Obligations.ControlRegisters
  refine ⟨?_, ?_, fun s r w n k hl hr hv hb ht hk => ?_⟩
  · intro s d h reads x
    have key {num : Nat} {w : Word} (hw : s.visible.ctlRead num = w) : reads num w := hw ▸ exec_ctlr d h
    refine ⟨⟨x.status, key rfl, x.status_toNat⟩, key rfl, ?_, ?_, ?_, fun hc => ?_, fun hc hc' => ?_, fun t ht => ?_, fun t ht => ?_, ?_, fun num hnum => ?_⟩
    · exact key (congrArg (fun n => wordOf (n / 36)) (State.now_visible s))
    · exact key (congrArg (fun i : Issue => wordOf i.ctx) (State.iss_visible s))
    · exact key (congrArg (fun i : Issue => wordOf i.core) (State.iss_visible s))
    · have hd : wordOf (s.visible.iss.core / 64) = 0 := by rw [State.iss_visible, Nat.div_eq_of_lt hc]; rfl
      exact key hd
    · have hd : wordOf (s.visible.iss.core / 64) = 1 := by rw [State.iss_visible, Nat.div_eq_of_lt_le (k := 1) (by omega) (by omega)]; rfl
      exact key hd
    · obtain ⟨k, hk, hs⟩ := State.sib_visible ht
      refine key ((State.ctlRead_sib hk).trans ?_)
      rw [hs]
      cases t.sib <;> rfl
    · exact key (State.ctlRead_budget ht)
    · exact key (congrArg wordOf (State.chip_visible s))
    · exact key (s.visible.ctlRead_of_mem hnum)
  · intro s num a x v discarded writes
    refine ⟨fun ho hm hn => ctlw_decode ho hm ((ctlPriv_iff _).mpr hn), fun h hp => ?_⟩
    replace hp : x.mode = true ∨ ctlPriv num = false := by rwa [← ctlPriv_iff, Bool.not_eq_true] at hp
    refine ⟨ctlw_poison h hp, fun hv => ?_⟩
    have hdisc (hm : num ≠ 0 ∧ ctlMask x.mode num = 0) : discarded := ctlw_discarded h hp hv hm.1 hm.2
    have hw {m : Word} (h0 : m ≠ 0) (hm : num ≠ 0 ∧ ctlMask x.mode num = m) : writes (v.val &&& m) := ctlw_masked h hp hv hm.1 hm.2 h0
    have hall (hm : num ≠ 0 ∧ ctlMask x.mode num = BitVec.allOnes 64) : writes v.val := by
      have := hw (by decide) hm
      rwa [BitVec.and_allOnes] at this
    refine ⟨fun hn hm => ctlw_diag h hp hv hn hm, fun hn hd => ?_, fun hn => hdisc ?_, fun hn hm => hdisc ?_, fun hn => hw (by decide) ?_, fun hn => hall ?_,
      fun hm => ⟨fun hn => hw (by decide) ?_, fun hn => hall ?_, fun hn => hw (by decide) ?_, fun hn => hw (by decide) ?_⟩⟩
    · subst hn
      exact ctlw_writes h hp hv (fun _ => hd) (by unfold State.ctlWrite; rw [if_pos rfl]) rfl
    · exact (by decide : ∀ b, ∀ n ∈ [0x02, 0x0B, 0x0C, 0x0D, 0x0E, 0x0F, 0x15], n ≠ 0 ∧ ctlMask b n = 0) _ _ hn
    · exact hm ▸ (by decide : ∀ n ∈ [0x10, 0x13, 0x14], n ≠ 0 ∧ ctlMask false n = 0) _ hn
    · exact (by decide : ∀ b, ∀ n ∈ [0x01, 0x05], n ≠ 0 ∧ ctlMask b n = 0x1F) _ _ hn
    · exact (by decide : ∀ b, ∀ n ∈ [0x03, 0x04, 0x11], n ≠ 0 ∧ ctlMask b n = BitVec.allOnes 64) _ _ hn
    · exact hm ▸ (by decide : ∀ n ∈ [0x06, 0x07], n ≠ 0 ∧ ctlMask true n = 0xFF) _ hn
    · exact hm ▸ (by decide : ∀ n ∈ [0x08, 0x09, 0x10, 0x13, 0x14], n ≠ 0 ∧ ctlMask true n = BitVec.allOnes 64) _ hn
    · exact hm ▸ hn ▸ (by decide : 0x0A ≠ 0 ∧ ctlMask true 0x0A = 1)
    · exact hm ▸ hn ▸ (by decide : 0x12 ≠ 0 ∧ ctlMask true 0x12 = 0x800000000003FFFF)
  · have hs := Ctx.settle_budget hl hr hv hb
    by_cases hd : r.due ≤ s.me.step
    · rw [if_pos hd] at hs
      rw [State.tasks_visible_some hs ht, SMap.get_put_same, hk, if_pos hd]; rfl
    · rw [if_neg hd] at hs
      rw [State.tasks_visible_none hs, hk, if_neg hd]
end

section
/-! ## Traps and returns (O40) -/

namespace Sys2Proof.Machine

open Claims

/-! ### The entry -/

theorem inTrap_eq_false_iff (y : Ctx) : y.inTrap = false ↔ Outside y := by
  unfold Ctx.inTrap Outside
  exact Bool.or_eq_false_iff

theorem inTrap_of_not_outside {y : Ctx} (h : ¬ Outside y) : y.inTrap = true := by
  rw [← inTrap_eq_false_iff, Bool.not_eq_false] at h
  exact h

section
variable {y : Ctx} (h : Outside y)
include h

/-- Outside a trap the results in flight go to the snapshot of KERNEL mode (R89). -/
theorem freeze_of_outside : y.freeze = { y with inflight := [], snap := y.snap ++ frozen y } := by
  unfold Ctx.freeze
  rw [if_neg (by rw [(inTrap_eq_false_iff y).mpr h]; decide)]
  rfl

end

section
variable (x : Ctx) (cause mask : Nat) (bad : Option Word)

/-- The control registers after a trap (R313). -/
def trapCtl (l : SMap Word) (cause mask : Nat) (bad : Option Word) (pc : Nat) : SMap Word :=
  let l := (l.put 0 6 (wordOf cause)).put 0 7 (wordOf mask)
  (match bad with | some b => l.put 0 9 b | none => l).put 0 8 (wordOf pc)

theorem trapCtl_get (l : SMap Word) (pc n : Nat) : (trapCtl l cause mask bad pc).get 0 n =
    if n = 6 then wordOf cause else if n = 7 then wordOf mask else if n = 8 then wordOf pc else if n = 9 then bad.getD (l.get 0 9) else l.get 0 n := by
  unfold trapCtl
  cases bad <;> simp only [SMap.get_put, Option.getD] <;> grind

/-- The trap registers are control registers and the saved fetch sequence. -/
theorem trapRegs_form (a b c d : Nat) :
    x.trapRegs cause mask bad a b c d = { x with ctl := trapCtl x.ctl cause mask bad a, nfq := 3, fq1 := b, fq2 := c, fq3 := d } := by
  unfold Ctx.trapRegs trapCtl
  cases bad <;> simp only [Ctx.ctlPut]

end

/-- The entry, but for where the context then fetches. -/
def entered (y : Ctx) (cause mask : Nat) (bad : Option Word) : Ctx :=
  { y with nfq := 3, fq1 := y.f1, fq2 := y.f2, fq3 := y.f3, ctl := trapCtl y.ctl cause mask bad y.f0, inflight := [],
           snap := y.snap ++ frozen y, dloss := if cause = 0x0D ∧ mask = 0x80 then none else y.dloss }

theorem freeze_trapRegs {y : Ctx} (h : Outside y) (cause mask : Nat) (bad : Option Word) (a b c d : Nat) :
    y.freeze.trapRegs cause mask bad a b c d =
      { y with nfq := 3, fq1 := b, fq2 := c, fq3 := d, ctl := trapCtl y.ctl cause mask bad a, inflight := [], snap := y.snap ++ frozen y } := by
  rw [trapRegs_form, freeze_of_outside h]

theorem trapEntry_of_outside {y : Ctx} (h : Outside y) (stepping : Bool) (cause mask : Nat) (bad : Option Word) :
    y.trapEntry stepping cause mask bad =
      if stepping then { entered y cause mask bad with stepTrap := true } else ({ entered y cause mask bad with mode := true } : Ctx).fetchFrom vector := by
  unfold Ctx.trapEntry entered
  extract_lets x z
  have hx : x = y.freeze.trapRegs cause mask bad y.f0 y.f1 y.f2 y.f3 := by simp only [x, freeze_of_outside h]
  have hz : z = entered y cause mask bad := by
    unfold entered
    by_cases hc : cause = 0x0D ∧ mask = 0x80
    · simp only [z, hx, if_pos hc, freeze_trapRegs h]
      rw [if_pos (by simpa using hc)]
    · simp only [z, hx, if_neg hc, freeze_trapRegs h]
      rw [if_neg (by simpa using hc)]
  rw [hz]
  rfl

/-- Where a context outside a trap lands that `step` does not run (R313). -/
theorem trapEntry_trapped {y : Ctx} (h : Outside y) (cause mask : Nat) (bad : Option Word) :
    Trapped y (({ y with resv := none } : Ctx).trapEntry false cause mask bad) cause mask bad := by
  rw [trapEntry_of_outside (y := { y with resv := none }) h]
  exact ⟨⟨rfl, rfl, rfl, rfl, rfl, rfl, rfl, rfl, rfl, trapCtl_get cause mask bad y.ctl y.f0⟩, rfl⟩

/-- What a context outside a trap keeps under `step` (R332). -/
theorem trapEntry_stepping {y : Ctx} (h : Outside y) (cause mask : Nat) (bad : Option Word) :
    let z := ({ y with resv := none } : Ctx).trapEntry true cause mask bad
    z.stepTrap = true ∧ z.mode = false ∧ z.f0 = y.f0 ∧ z.f1 = y.f1 ∧ z.f2 = y.f2 ∧ z.f3 = y.f3 ∧
      TrapRegs y (({ z with mode := true } : Ctx).fetchFrom 0x3C000) cause mask bad := by
  rw [trapEntry_of_outside (y := { y with resv := none }) h]
  exact ⟨rfl, h.1, rfl, rfl, rfl, rfl, rfl, rfl, rfl, rfl, rfl, rfl, rfl, rfl, rfl, trapCtl_get cause mask bad y.ctl y.f0⟩

/-! ### Taking a trap -/

section
variable (s : State) (c x cause mask : Nat) (bad : Option Word)

/-- A trap outside a trap changes the cores alone. -/
theorem State.trap_cores (h : Outside (s.cx c x)) : ∃ k, s.trap c x cause mask bad = { s with cores := k } := by
  obtain ⟨k, hk⟩ := State.beforeTrap s c x
  have ht : (((s.returnResv c x).disarm c x).cx c x).inTrap = false := by
    rw [State.disarm_cx, State.returnResv_cx, if_pos ⟨rfl, rfl⟩]
    exact (inTrap_eq_false_iff _).mpr h
  unfold State.trap
  dsimp only
  rw [ht, if_neg nofun, hk, State.updCx_frame]
  exact ⟨_, rfl⟩

theorem State.tasks_trap (h : Outside (s.cx c x)) : (s.trap c x cause mask bad).tasks = s.tasks := by
  obtain ⟨k, hk⟩ := s.trap_cores c x cause mask bad h
  rw [hk]

theorem State.escs_trap (h : Outside (s.cx c x)) : (s.trap c x cause mask bad).escs = s.escs := by
  obtain ⟨k, hk⟩ := s.trap_cores c x cause mask bad h
  rw [hk]

/-- The escalation of a double trap (R319, R320). -/
theorem State.trap_escs (h : ¬ Outside (s.cx c x)) : (s.trap c x cause mask bad).escs =
    s.escs ++ [⟨"double trap", c, x, (s.cx c x).mode, (s.cx c x).hdl, cause, mask, (s.cx c x).f0, 0⟩] ∧
    (s.trap c x cause mask bad).msix1 = s.msix1 + 1 := by
  have hb : ((s.returnResv c x).disarm c x).cx c x = { s.cx c x with resv := none } := by
    rw [State.disarm_cx, State.returnResv_cx, if_pos ⟨rfl, rfl⟩]
  have ht : ({ s.cx c x with resv := none } : Ctx).inTrap = true := inTrap_of_not_outside h
  obtain ⟨k, hk⟩ := State.beforeTrap s c x
  unfold State.trap
  dsimp only
  rw [hb, ht, if_pos rfl]
  unfold State.doubleTrap State.escCtx
  rw [State.escs_flushBudget, State.msix1_flushBudget, hb, hk]
  exact ⟨rfl, rfl⟩

end

/-- The cores of two states agree but for contexts of core `c`. -/
def AgreeBut (c : Nat) (s t : State) : Prop := (∀ d, d ≠ c → t.core d = s.core d) ∧ ∃ l, t.core c = { s.core c with ctx := l }

theorem AgreeBut.refl (c : Nat) (s : State) : AgreeBut c s s := ⟨fun _ _ => rfl, _, rfl⟩

theorem AgreeBut.trans {c : Nat} {s t u : State} (h : AgreeBut c s t) (k : AgreeBut c t u) : AgreeBut c s u := by
  obtain ⟨hd, l, hl⟩ := h
  obtain ⟨kd, m, hm⟩ := k
  exact ⟨fun d h => (kd d h).trans (hd d h), m, by rw [hm, hl]⟩

theorem agreeBut_updCx (s : State) (c x : Nat) (f : Ctx → Ctx) : AgreeBut c s (s.updCx c x f) :=
  ⟨fun _ h => State.core_updCore_ne _ _ h, _, State.core_updCore ..⟩

theorem agreeBut_flushBudget (s : State) (c x : Nat) : AgreeBut c s (s.flushBudget c x) := by
  unfold State.flushBudget
  split
  · exact .refl c s
  next w h =>
    have hu := agreeBut_updCx s c x fun y => { y with newBudget := none }
    dsimp only
    split
    · exact hu
    · exact hu

theorem agreeBut_doubleTrap (s : State) (c x cause mask : Nat) : AgreeBut c s (s.doubleTrap c x cause mask) := by
  unfold State.doubleTrap
  dsimp only
  generalize hu : s.escCtx c x "double trap" cause mask (s.cx c x).f0 = u
  have h : AgreeBut c s u := hu ▸ .refl c s
  exact (h.trans (agreeBut_updCx u c x _)).trans (agreeBut_flushBudget _ c x)

theorem agreeBut_trap (s : State) (c x cause mask : Nat) (bad : Option Word) :
    AgreeBut c ((s.returnResv c x).disarm c x) (s.trap c x cause mask bad) := by
  unfold State.trap
  dsimp only
  split
  · exact agreeBut_doubleTrap _ c x cause mask
  · exact agreeBut_updCx _ c x _

/-- The semaphores of a core after a reserved decrement has returned (R239). -/
def Core.returned (k : Core) : Option (Nat × Nat) → Core
  | none => k
  | some (n, v) => k.semAdd n v

theorem Core.returned_armed (k : Core) (r : Option (Nat × Nat)) : (k.returned r).armed = k.armed := by
  cases r <;> rfl

theorem returnResv_core (s : State) (c x : Nat) : (∀ d, d ≠ c → (s.returnResv c x).core d = s.core d) ∧
    ∃ l, (s.returnResv c x).core c = { (s.core c).returned (s.cx c x).resv with ctx := l } := by
  unfold State.returnResv
  cases (s.cx c x).resv with
  | none => exact AgreeBut.refl c s
  | some r =>
    obtain ⟨hd, l, hl⟩ := agreeBut_updCx (s.updCore c fun k => k.semAdd r.1 r.2) c x fun y => { y with resv := none }
    exact ⟨fun d h => (hd d h).trans (State.core_updCore_ne _ _ h), l, by rw [hl, State.core_updCore]; rfl⟩

section
variable (s : State) (c x cause mask : Nat) (bad : Option Word)

/-- Of its core a trap changes contexts, the semaphore whose reserved decrement returns, and the armed waits. -/
theorem State.trap_core : (∀ d, d ≠ c → (s.trap c x cause mask bad).core d = s.core d) ∧
    ∃ l, (s.trap c x cause mask bad).core c =
      { (s.core c).returned (s.cx c x).resv with ctx := l, armed := (s.core c).armed.filter fun a => a.que || decide (a.who ≠ x) } := by
  obtain ⟨hd, l, hl⟩ := agreeBut_trap s c x cause mask bad
  obtain ⟨kd, m, hm⟩ := returnResv_core s c x
  refine ⟨fun d h => ((hd d h).trans (State.core_updCore_ne _ _ h)).trans (kd d h), l, ?_⟩
  rw [hl, State.disarm, State.core_updCore, hm, ← Core.returned_armed (s.core c) (s.cx c x).resv]

theorem State.trap_returned : Returned s (s.trap c x cause mask bad) c x := by
  obtain ⟨-, l, hl⟩ := State.trap_core s c x cause mask bad
  intro n
  unfold semOf
  rw [hl]
  cases (s.cx c x).resv with
  | none => rfl
  | some r =>
    obtain ⟨m, v⟩ := r
    refine (SMap.get_put 0 (s.core c).sems m n (min ((s.core c).sem m + v) (2 ^ 32 - 1))).trans ?_
    dsimp only
    by_cases h : n = m
    · rw [if_pos h, if_pos h, h]; rfl
    · rw [if_neg h, if_neg h]

theorem State.mem_armed_trap (a : Armed) : a ∈ ((s.trap c x cause mask bad).core c).armed ↔ a ∈ (s.core c).armed ∧ (a.que = true ∨ a.who ≠ x) := by
  obtain ⟨-, l, hl⟩ := State.trap_core s c x cause mask bad
  rw [hl, List.mem_filter, Bool.or_eq_true, decide_eq_true_eq]

end

/-! ### The double trap -/

theorem write_resv_comm (y : Ctx) (r : RegId) (v : RVal) (p : Bool) (q : Option (Nat × Nat)) :
    ({ y with resv := q } : Ctx).write r v p = { y.write r v p with resv := q } := by
  unfold Ctx.write
  split <;> (try split) <;> (try split) <;> (try split) <;> rfl

/-- The results that land do not read the reserved decrement. -/
theorem land_resv_comm (y : Ctx) (l : List Res) (q : Option (Nat × Nat)) : ({ y with resv := q } : Ctx).land l = { y.land l with resv := q } := by
  have hw (l : List Res) (y : Ctx) : l.foldl (fun x r => x.write r.reg r.val r.poison) { y with resv := q } =
      { l.foldl (fun x r => x.write r.reg r.val r.poison) y with resv := q } := by
    induction l generalizing y with
    | nil => rfl
    | cons a r ih => rw [List.foldl_cons, List.foldl_cons, write_resv_comm, ih]
  unfold Ctx.land Ctx.orFlags
  dsimp only
  rw [hw]
  split <;> rfl

theorem State.trap_trapped (s : State) (c x cause mask : Nat) (bad : Option Word) (h : ¬ Outside (s.cx c x)) :
    (s.trap c x cause mask bad).cx c x =
      { (s.cx c x).land (s.cx c x).inflight with inflight := [], st := .trapped, esc := some (true, cause), resv := none, newBudget := none } := by
  rw [State.trap_double _ _ _ _ _ _ (inTrap_of_not_outside h)]
  unfold Ctx.landAll
  rw [land_resv_comm]

/-- **Taking a trap outside a trap**, where `step` runs no bundle. -/
theorem State.trap_entered (s : State) (c x cause mask : Nat) (bad : Option Word) (h : Outside (s.cx c x)) (hs : s.iss.stepping = false) :
    Trapped (s.cx c x) ((s.trap c x cause mask bad).cx c x) cause mask bad := by
  rw [State.trap_entry _ _ _ _ _ _ ((inTrap_eq_false_iff _).mpr h), hs]
  exact trapEntry_trapped h cause mask bad

@[simp] theorem State.mem_trap (s : State) (c x cause mask : Nat) (bad : Option Word) : (s.trap c x cause mask bad).mem = s.mem := by
  obtain ⟨k, e, m, t, h⟩ := s.trap_frame c x cause mask bad
  rw [h]

theorem State.accs_trap (s : State) (c x cause mask : Nat) (bad : Option Word) : (s.trap c x cause mask bad).accs = s.accs := by
  obtain ⟨k, e, m, t, h⟩ := s.trap_frame c x cause mask bad
  rw [h]

@[simp] theorem State.iss_trap (s : State) (c x cause mask : Nat) (bad : Option Word) : (s.trap c x cause mask bad).iss = s.iss := by
  obtain ⟨k, e, m, t, h⟩ := s.trap_frame c x cause mask bad
  rw [h]

/-! ### A bundle that faults or is held -/

section
variable {s : State}

@[simp] theorem State.mode_visible (s : State) : s.visible.me.mode = s.me.mode := by rw [State.me_visible]; exact Ctx.settle_mode _

@[simp] theorem State.hdl_visible (s : State) : s.visible.me.hdl = s.me.hdl := by rw [State.me_visible]; exact Ctx.settle_hdl _

theorem outside_visible : Outside s.visible.me ↔ Outside s.me := by
  unfold Outside
  rw [State.mode_visible, State.hdl_visible]

theorem State.me_trap (u : State) (cause mask : Nat) (bad : Option Word) (h : Outside u.me) (hs : u.iss.stepping = false) :
    Trapped u.me (u.trap u.iss.core u.iss.ctx cause mask bad).me cause mask bad := by
  unfold State.me
  rw [State.iss_trap]
  exact u.trap_entered _ _ cause mask bad h hs

@[simp] theorem State.closed_core (s : State) : s.closed.iss.core = s.iss.core := rfl

@[simp] theorem State.closed_ctx (s : State) : s.closed.iss.ctx = s.iss.ctx := rfl

@[simp] theorem State.closed_stepping (s : State) : s.closed.iss.stepping = s.iss.stepping := rfl

@[simp] theorem State.closed_opened_flag (s : State) : s.closed.iss.opened = false := rfl

theorem State.faulted_trapped (h : Outside s.me) (hs : s.iss.stepping = false) (home cause : Nat) (bad : Option Word) :
    (s.faulted home cause bad).mem = s.mem ∧ (s.faulted home cause bad).iss.opened = false ∧
      Trapped s.visible.me (s.faulted home cause bad).me cause (2 ^ home) bad := by
  have h := State.me_trap s.visible.closed cause (2 ^ home) bad (by rwa [State.me_closed, outside_visible])
    (by rwa [State.closed_stepping, State.iss_visible])
  rw [State.me_closed, State.closed_core, State.closed_ctx, State.iss_visible] at h
  unfold State.faulted
  rw [State.mem_trap, State.iss_trap, State.mem_closed, State.mem_visible, State.closed_opened_flag]
  exact ⟨rfl, rfl, h⟩

/-- The hold of R316 is no block: the results in flight come one cycle nearer. -/
theorem State.blocked_pipe (s : State) : (s.blocked [.pipe]).me = s.visible.me.holdCycle := by
  unfold State.blocked State.block
  rw [if_pos (by decide), State.me_updMe, State.me_closed]

/-- Arming a wait on a semaphore leaves the contexts. -/
theorem Core.ctx_arm (k : Core) (x cycle : Nat) (ws : List Wait) : (k.arm x cycle ws).ctx = k.ctx := by
  unfold Core.arm
  induction ws generalizing k with
  | nil => rfl
  | cons w r ih =>
    rw [List.foldl_cons, ih]
    cases w with
    | sem n thr dec => dsimp only; split <;> rfl
    | _ => rfl

theorem onlyPipe_eq_false {ws : List Wait} (h : .pipe ∉ ws) (hn : ws ≠ []) : onlyPipe ws = false := by
  obtain ⟨w, r, rfl⟩ := List.exists_cons_of_ne_nil hn
  rw [List.mem_cons, not_or] at h
  simp [onlyPipe, Ne.symm h.1]

theorem State.blocked_me (h : Outside s.me) {ws : List Wait} (hp : .pipe ∉ ws) (hn : ws ≠ []) :
    (s.blocked ws).me = { s.visible.me with inflight := [], snap := s.visible.me.snap ++ frozen s.visible.me, st := .blocked, waits := ws } := by
  have harm (u : State) : (u.updMyCore fun k => k.arm u.iss.ctx u.cycle ws).me = u.me :=
    State.cx_updCore_same u u.iss.core _ (fun k => k.ctx_arm _ _ ws) _ _
  unfold State.blocked State.block
  rw [onlyPipe_eq_false hp hn, if_neg nofun, State.me_updMe, harm, State.me_closed, freeze_of_outside (outside_visible.mpr h)]

theorem State.mem_block (s : State) (ws : List Wait) : (s.block ws).mem = s.mem := congrArg Memories.mem (State.memories_block s ws)

theorem State.mem_blocked (s : State) (ws : List Wait) : (s.blocked ws).mem = s.mem := by
  rw [State.blocked, State.mem_block, State.mem_closed, State.mem_visible]

end

/-! ### What follows a commit -/

/-- A bundle that only asks for something after its commit. -/
theorem State.done_runAll {s : State} {home : Nat} (f : State → State) (l : List After)
    (hf : f (s.opened home) = { s.opened home with iss := { (s.opened home).iss with after := l } }) :
    s.done home f = (s.afterResults []).runAll s.visible.me l := by
  have hl (y : Ctx) : y.launch [] = y := by unfold Ctx.launch; rw [List.append_nil]
  unfold State.done
  rw [hf]
  unfold State.commit State.afterResults
  simp only [hl]
  have hcy := s.cycle_visible
  unfold State.opened
  rw [← hcy]
  generalize s.visible = u
  rfl

theorem Ctx.advance_eq (s : State) (y : Ctx) : (y.launch []).advance none s.cycle = advanced s y := by
  have hp : (if y.inTrap = true then y.pstep else y.pstep + 1) = if y.mode = true ∨ y.hdl = true then y.pstep else y.pstep + 1 := by
    unfold Ctx.inTrap
    simp only [Bool.or_eq_true]
  unfold advanced Ctx.advance
  rw [← hp, show y.launch [] = y by unfold Ctx.launch; rw [List.append_nil]]

@[simp] theorem State.cores_countBundle (s : State) (x0 : Ctx) : (s.countBundle x0).cores = s.cores := by
  unfold State.countBundle
  split
  · split <;> rfl
  · rfl

theorem State.countBundle_form (s : State) (x0 : Ctx) : s.countBundle x0 = { s with tasks := (s.countBundle x0).tasks } := by
  unfold State.countBundle
  split
  · split <;> rfl
  · rfl

@[simp] theorem State.mem_countBundle (s : State) (x0 : Ctx) : (s.countBundle x0).mem = s.mem := by rw [State.countBundle_form]
@[simp] theorem State.iss_countBundle (s : State) (x0 : Ctx) : (s.countBundle x0).iss = s.iss := by rw [State.countBundle_form]
@[simp] theorem State.escs_countBundle (s : State) (x0 : Ctx) : (s.countBundle x0).escs = s.escs := by rw [State.countBundle_form]
@[simp] theorem State.msix1_countBundle (s : State) (x0 : Ctx) : (s.countBundle x0).msix1 = s.msix1 := by rw [State.countBundle_form]
@[simp] theorem State.me_countBundle (s : State) (x0 : Ctx) : (s.countBundle x0).me = s.me := by rw [State.countBundle_form]; rfl

section
variable (s : State) (rs : List Res)

@[simp] theorem State.mem_afterResults : (s.afterResults rs).mem = s.mem := by
  rw [State.afterResults, State.mem_countBundle, State.mem_updMe, State.mem_closed, State.mem_visible]

@[simp] theorem State.escs_afterResults : (s.afterResults rs).escs = s.escs := by
  rw [State.afterResults, State.escs_countBundle, State.escs_updMe, State.escs_closed, State.escs_visible]

@[simp] theorem State.msix1_afterResults : (s.afterResults rs).msix1 = s.msix1 := by
  rw [State.afterResults, State.msix1_countBundle, State.msix1_updMe, State.msix1_closed, State.msix1_visible]

@[simp] theorem State.iss_afterResults : (s.afterResults rs).iss = s.visible.closed.iss := by
  rw [State.afterResults, State.iss_countBundle, State.iss_updMe]

/-- After the commit of a bundle that changes nothing else the context has advanced by one step (R76, R86). -/
theorem State.me_afterResults : (s.afterResults []).me = advanced s s.visible.me := by
  unfold State.afterResults
  rw [State.me_countBundle, State.me_updMe, State.me_closed, Ctx.advance_eq]

end

theorem State.done_id (s : State) (home : Nat) : s.done home id = (s.afterResults []).runAll s.visible.me [] :=
  State.done_runAll id [] (by unfold State.opened; generalize s.visible = u; rfl)

theorem State.done_afterCommit (s : State) (home : Nat) (a : After) :
    s.done home (fun t => t.afterCommit a) = (s.afterResults []).runAll s.visible.me [a] :=
  State.done_runAll _ [a] (by unfold State.opened; generalize s.visible = u; rfl)

@[simp] theorem State.verdicts_afterCommit (s : State) (a : After) : (s.afterCommit a).iss.verdicts = s.iss.verdicts := rfl

/-- A bundle of one word that asks for `a` after its commit. -/
theorem runSlot_afterCommit {s : State} {o : SlotOp} {home : Nat} {a : After} (h : s.Issues o.names) (hd : o.decode (s.opened home) = none)
    (hs : s.Clear home (o.scores (s.opened home))) (hw : s.Clear home (o.waits (s.opened home)))
    (hr : o.run (s.opened home) = .ok ((s.opened home).afterCommit a)) :
    runSlot home o s = .next ((s.afterResults []).runAll s.visible.me [a]) := by
  rw [← State.done_afterCommit s home a]
  exact runSlot_done _ h hd hs hw hr (by rw [State.verdicts_afterCommit, State.opened_verdicts])

section
variable {s : State} {o : SlotOp} {cause code : Nat} (h : s.Issues o.names) (hd : o.decode (s.opened 7) = none)
  (hs : s.Clear 7 (o.scores (s.opened 7))) (hw : s.Clear 7 (o.waits (s.opened 7))) (hr : o.run (s.opened 7) = softTrap cause code (s.opened 7))
include h hd hs hw hr

/-- Outside a trap a bundle with a commit-then-trap cause commits and then traps (R318, R319). -/
theorem runSlot_softTrap (ho : Outside s.me) :
    runSlot 7 o s = .next ((s.afterResults []).runAll s.visible.me [.trap cause (some (wordOf code))]) := by
  have hm : (s.opened 7).me.inTrap = false := by rw [State.me_opened, inTrap_eq_false_iff, outside_visible]; exact ho
  exact runSlot_afterCommit h hd hs hw (hr.trans (by unfold softTrap; rw [hm, if_neg nofun]))

/-- In a trap it does not commit. -/
theorem runSlot_softTrap_inTrap (ho : ¬ Outside s.me) : runSlot 7 o s = .next (s.faulted 7 cause (some (wordOf code))) := by
  have hm : (s.opened 7).me.inTrap = true := by rw [State.me_opened]; exact inTrap_of_not_outside (outside_visible.not.mpr ho)
  exact runSlot_fault h hd hs hw (hr.trans (by unfold softTrap; rw [hm, if_pos rfl]))

end

section
variable {s : State} (h : s.Issues fun _ => [])
include h

theorem exec_syscall_outside (ho : Outside s.me) (code : Nat) :
    exec (.syscall code) s = .next ((s.afterResults []).runAll s.visible.me [.trap 0x40 (some (wordOf code))]) :=
  runSlot_softTrap (o := { run := softTrap 0x40 code }) h rfl (.nil s 7) (.nil s 7) (by dsimp only) ho

theorem exec_syscall_inTrap (ho : ¬ Outside s.me) (code : Nat) : exec (.syscall code) s = .next (s.faulted 7 0x40 (some (wordOf code))) :=
  runSlot_softTrap_inTrap (o := { run := softTrap 0x40 code }) h rfl (.nil s 7) (.nil s 7) (by dsimp only) ho

theorem exec_brk_outside (ho : Outside s.me) (code : Nat) :
    exec (.brk code) s = .next ((s.afterResults []).runAll s.visible.me [.trap 0x1A (some (wordOf code))]) :=
  runSlot_softTrap (o := { run := softTrap 0x1A code }) h rfl (.nil s 7) (.nil s 7) (by dsimp only) ho

theorem exec_brk_inTrap (ho : ¬ Outside s.me) (code : Nat) : exec (.brk code) s = .next (s.faulted 7 0x1A (some (wordOf code))) :=
  runSlot_softTrap_inTrap (o := { run := softTrap 0x1A code }) h rfl (.nil s 7) (.nil s 7) (by dsimp only) ho

theorem exec_nop_alone : exec .nop s = .next ((s.afterResults []).runAll s.visible.me []) := by
  rw [← State.done_id s 0]
  exact runSlot_done (o := { run := fun s => .ok s }) id h rfl (.nil s 0) (.nil s 0) rfl (State.opened_verdicts s 0)

theorem exec_trap (code : Nat) : exec (.trap code) s = .next ((s.afterResults []).runAll s.visible.me [.escalate code]) :=
  runSlot_afterCommit (o := { run := fun s => .ok (s.afterCommit (.escalate code)) }) h rfl (.nil s 7) (.nil s 7) rfl

end

/-! ### `trap`, `syscall`, `brk`, and STEP -/

theorem outside_advanced {s : State} {y : Ctx} : Outside (advanced s y) ↔ Outside y := Iff.rfl

theorem outside_afterResults {s : State} : Outside (s.afterResults []).me ↔ Outside s.me := by
  rw [State.me_afterResults, outside_advanced, outside_visible]

/-- After its commit a bundle takes the trap that it asked for. -/
theorem runAfter_trap (u : State) (ho : Outside u.me) (hs : u.iss.stepping = false) (cause : Nat) (bad : Option Word) :
    let t := u.runAfter (.trap cause bad)
    t.mem = u.mem ∧ t.escs = u.escs ∧ Trapped u.me t.me cause (if cause = 0x19 then 0 else 0x80) bad := by
  have ht := u.me_trap cause (if cause = 0x19 then 0 else 0x80) bad ho hs
  obtain ⟨k, hk⟩ := u.trap_cores u.iss.core u.iss.ctx cause (if cause = 0x19 then 0 else 0x80) bad ho
  rw [hk] at ht
  unfold State.runAfter
  dsimp only
  rw [hk]
  exact ⟨rfl, rfl, ht⟩

theorem afterResults_trap {s : State} (ho : Outside s.me) (hs : s.iss.stepping = false) (bad : Option Word) {cause mask : Nat}
    (hm : (if cause = 0x19 then 0 else 0x80) = mask) {t : State} (ht : (s.afterResults []).runAfter (.trap cause bad) = t) :
    t.mem = s.mem ∧ t.escs = s.escs ∧ Trapped (advanced s s.visible.me) t.me cause mask bad := by
  have h := runAfter_trap (s.afterResults []) (outside_afterResults.mpr ho)
    (by rw [State.iss_afterResults, State.closed_stepping, State.iss_visible, hs]) cause bad
  rwa [State.mem_afterResults, State.escs_afterResults, State.me_afterResults, hm, ht] at h

theorem stepFollows_trap (x0 : Ctx) (cause : Nat) (bad : Option Word) : stepFollows x0 [.trap cause bad] = false := by
  simp [stepFollows]

theorem runAll_trap (u : State) (x0 : Ctx) (cause : Nat) (bad : Option Word) : u.runAll x0 [.trap cause bad] = u.runAfter (.trap cause bad) := by
  unfold State.runAll
  dsimp only
  rw [stepFollows_trap, if_neg nofun]; rfl

/-- STEP follows a bundle of KERNEL mode with SSTEP.EN (R333). -/
def Steps (x0 : Ctx) : Prop := Outside x0 ∧ (x0.ctl.get 0 0x0A).getLsbD 0 = true

theorem sstep_iff (x0 : Ctx) : (x0.sstep && !x0.inTrap) = true ↔ Steps x0 := by
  rw [Bool.and_eq_true, Bool.not_eq_true', inTrap_eq_false_iff, and_comm]
  rfl

theorem stepFollows_nil_iff (x0 : Ctx) : stepFollows x0 [] = true ↔ Steps x0 := by
  rw [← sstep_iff]
  unfold stepFollows
  rw [List.all_nil, Bool.and_true]

theorem stepFollows_escalate_iff (x0 : Ctx) (c : Nat) : stepFollows x0 [.escalate c] = true ↔ Steps x0 := by
  rw [← sstep_iff]
  unfold stepFollows
  rw [List.all_cons, List.all_nil, Bool.and_true, Bool.and_true]

theorem runAll_step (u : State) {x0 : Ctx} (h : Steps x0) : u.runAll x0 [] = u.runAfter (.trap 0x19 none) := by
  unfold State.runAll
  dsimp only
  rw [if_pos ((stepFollows_nil_iff x0).mpr h)]; rfl

/-- `trap` (R321): the context is TRAPPED, its results in flight are frozen, and the escalation names it. -/
theorem runAfter_escalate (u : State) (code : Nat) :
    u.runAfter (.escalate code) =
      (u.escCtx u.iss.core u.iss.ctx "trap" code 0 u.me.f0).updMe fun y => { y.freeze with st := .trapped, esc := some (false, code) } := rfl

theorem runAll_escalate (u : State) (x0 : Ctx) (code : Nat) :
    (¬ Steps x0 → u.runAll x0 [.escalate code] = u.runAfter (.escalate code)) ∧
    (Steps x0 → u.runAll x0 [.escalate code] = (u.runAfter (.escalate code)).updMe Ctx.stepBehind) := by
  unfold State.runAll
  dsimp only
  rw [← stepFollows_escalate_iff x0 code]
  exact ⟨fun h => by rw [if_neg h]; rfl, fun h => by rw [if_pos h]; rfl⟩

theorem State.stepTrap_visible (s : State) : s.visible.me.stepTrap = s.me.stepTrap := by
  obtain ⟨z, hz⟩ := s.me.land_frame (s.me.inflight.filter fun r => decide (r.due ≤ s.me.step))
  rw [State.me_visible]
  unfold Ctx.settle
  rw [hz]

@[simp] theorem advanced_mode (s : State) (y : Ctx) : (advanced s y).mode = y.mode := rfl
@[simp] theorem advanced_hdl (s : State) (y : Ctx) : (advanced s y).hdl = y.hdl := rfl
@[simp] theorem advanced_f0 (s : State) (y : Ctx) : (advanced s y).f0 = y.f1 := rfl
@[simp] theorem advanced_f1 (s : State) (y : Ctx) : (advanced s y).f1 = y.f2 := rfl
@[simp] theorem advanced_f2 (s : State) (y : Ctx) : (advanced s y).f2 = y.f3 := rfl
@[simp] theorem advanced_s (s : State) (y : Ctx) : (advanced s y).s = y.s := rfl
@[simp] theorem advanced_snap (s : State) (y : Ctx) : (advanced s y).snap = y.snap := rfl
@[simp] theorem advanced_ctl (s : State) (y : Ctx) : (advanced s y).ctl = y.ctl := rfl
@[simp] theorem advanced_stepTrap (s : State) (y : Ctx) : (advanced s y).stepTrap = y.stepTrap := rfl

/-! ### `trap` -/

/-- The freeze of the pipeline changes no other field. -/
theorem freeze_form (y : Ctx) : y.freeze = { y with inflight := [], snap := y.freeze.snap, snapT := y.freeze.snapT } := by
  unfold Ctx.freeze
  cases y.inTrap <;> rfl

/-- The context after `trap` (R321). -/
def Ctx.escalated (y : Ctx) (code : Nat) : Ctx := { y.freeze with st := .trapped, esc := some (false, code) }

theorem escalated_form (y : Ctx) (code : Nat) : y.escalated code =
    { y with inflight := [], snap := y.freeze.snap, snapT := y.freeze.snapT, st := .trapped, esc := some (false, code) } := by
  unfold Ctx.escalated
  rw [freeze_form]

/-- STEP behind `trap` writes the frame and waits (R314). -/
theorem stepBehind_form (y : Ctx) :
    y.stepBehind = { y with ctl := trapCtl y.ctl 0x19 0 none y.f0, nfq := 3, fq1 := y.f1, fq2 := y.f2, fq3 := y.f3, stepTrap := true } := by
  unfold Ctx.stepBehind
  rw [trapRegs_form]

/-- What `trap` leaves of a context, whether STEP waits behind it or not. -/
theorem escalated_fields {y z : Ctx} {code : Nat} (h : z = y.escalated code ∨ z = (y.escalated code).stepBehind) :
    z.st = .trapped ∧ z.esc = some (false, code) ∧ z.inflight = [] ∧ z.mode = y.mode ∧ z.hdl = y.hdl ∧ z.s = y.s ∧ z.f0 = y.f0 ∧ z.f1 = y.f1 ∧ z.f2 = y.f2 ∧
      (Outside y → z.snap = y.snap ++ frozen y) := by
  have hs (ho : Outside y) : y.freeze.snap = y.snap ++ frozen y := by rw [freeze_of_outside ho]
  obtain rfl | rfl := h
  · rw [escalated_form]
    exact ⟨rfl, rfl, rfl, rfl, rfl, rfl, rfl, rfl, rfl, hs⟩
  · rw [stepBehind_form, escalated_form]
    exact ⟨rfl, rfl, rfl, rfl, rfl, rfl, rfl, rfl, rfl, hs⟩

theorem escalated_ctl (y : Ctx) (code : Nat) : (y.escalated code).ctl = y.ctl ∧ (y.escalated code).stepTrap = y.stepTrap := by
  rw [escalated_form]
  exact ⟨rfl, rfl⟩

theorem stepBehind_ctl (y : Ctx) (code : Nat) : (y.escalated code).stepBehind.stepTrap = true ∧
    ∀ n, (y.escalated code).stepBehind.ctl.get 0 n = if n = 6 then 0x19 else if n = 7 then 0 else if n = 8 then wordOf y.f0 else y.ctl.get 0 n := by
  rw [stepBehind_form, escalated_form]
  refine ⟨rfl, fun n => (trapCtl_get 0x19 0 none y.ctl y.f0 n).trans ?_⟩
  simp only [Option.getD_none]
  grind [wordOf]

theorem runAfter_escalate_form (u : State) (code : Nat) :
    (u.runAfter (.escalate code)).me = u.me.escalated code ∧ (u.runAfter (.escalate code)).mem = u.mem ∧
    (u.runAfter (.escalate code)).escs = u.escs ++ [⟨"trap", u.iss.core, u.iss.ctx, u.me.mode, u.me.hdl, code, 0, u.me.f0, 0⟩] ∧
    (u.runAfter (.escalate code)).msix1 = u.msix1 + 1 := by
  rw [runAfter_escalate]
  exact ⟨State.me_updMe .., rfl, rfl, rfl⟩

/-- What `trap` leaves: the escalation, and the context TRAPPED, with STEP behind it under SSTEP.EN. -/
theorem exec_trap_next {s : State} (h : s.Issues fun _ => []) (code : Nat) : ∃ t, exec (.trap code) s = .next t ∧ t.mem = s.mem ∧
    t.escs = s.escs ++ [⟨"trap", s.iss.core, s.iss.ctx, s.me.mode, s.me.hdl, code, 0, s.visible.me.f1, 0⟩] ∧ t.msix1 = s.msix1 + 1 ∧
    (¬ Steps s.visible.me → t.me = (advanced s s.visible.me).escalated code) ∧
    (Steps s.visible.me → t.me = ((advanced s s.visible.me).escalated code).stepBehind) := by
  obtain ⟨hme, hmem, hesc, hmsi⟩ := runAfter_escalate_form (s.afterResults []) code
  obtain ⟨hno, hyes⟩ := runAll_escalate (s.afterResults []) s.visible.me code
  rw [State.me_afterResults] at hme hesc
  rw [State.iss_afterResults, State.closed_core, State.closed_ctx, State.iss_visible, State.escs_afterResults] at hesc
  rw [State.mem_afterResults] at hmem
  rw [State.msix1_afterResults] at hmsi
  have hesc' : ((s.afterResults []).runAfter (.escalate code)).escs =
      s.escs ++ [⟨"trap", s.iss.core, s.iss.ctx, s.me.mode, s.me.hdl, code, 0, s.visible.me.f1, 0⟩] := by
    rw [hesc, advanced_mode, advanced_hdl, advanced_f0, State.mode_visible, State.hdl_visible]
  refine ⟨_, exec_trap h code, ?_⟩
  by_cases hs : Steps s.visible.me
  · rw [hyes hs, State.mem_updMe, State.escs_updMe, State.msix1_updMe, State.me_updMe, hme]
    exact ⟨hmem, hesc', hmsi, fun hn => absurd hs hn, fun _ => rfl⟩
  · rw [hno hs]
    exact ⟨hmem, hesc', hmsi, fun _ => hme, fun hn => absurd hn hs⟩

/-! ### Returns -/

theorem stepFollows_inTrap {x0 : Ctx} (h : ¬ Outside x0) (l : List After) : stepFollows x0 l = false := by
  unfold stepFollows
  rw [inTrap_of_not_outside h, Bool.not_true, Bool.and_false, Bool.false_and]

/-- A return of a context in a trap changes that context alone. -/
theorem runAll_return {s : State} (h : ¬ Outside s.me) {a : After} {f : Ctx → Ctx} (ha : ∀ u : State, u.runAfter a = u.updMe f) :
    (s.afterResults []).runAll s.visible.me [a] = (s.afterResults []).updMe f := by
  unfold State.runAll
  dsimp only
  rw [stepFollows_inTrap (outside_visible.not.mpr h), if_neg nofun, List.foldl_cons, List.foldl_nil, ha]

theorem afterResults_updMe (s : State) (f : Ctx → Ctx) : ((s.afterResults []).updMe f).mem = s.mem ∧ ((s.afterResults []).updMe f).escs = s.escs ∧
    ((s.afterResults []).updMe f).me = f (advanced s s.visible.me) := by
  rw [State.mem_updMe, State.escs_updMe, State.me_updMe, State.mem_afterResults, State.escs_afterResults, State.me_afterResults]
  exact ⟨rfl, rfl, rfl⟩

section
variable {s : State}

theorem opened_cx (home : Nat) : (s.opened home).cx s.iss.core s.iss.ctx = s.visible.me := by
  rw [← State.me_opened s home]
  unfold State.me
  rw [State.opened_core, State.opened_ctx]

/-- The hold of R316. -/
theorem holds_pipe (home : Nat) : (s.opened home).holds s.iss.core s.iss.ctx .pipe = !s.visible.me.inflight.isEmpty := by
  unfold State.holds
  dsimp only
  rw [opened_cx]

theorem clear_pipe (home : Nat) (h : s.visible.me.inflight = []) : s.Clear home [.pipe] := by
  intro w hw
  rw [List.mem_singleton.mp hw, holds_pipe, h]; rfl

theorem filter_pipe (home : Nat) (h : s.visible.me.inflight ≠ []) :
    [Wait.pipe].filter ((s.opened home).holds s.iss.core s.iss.ctx) = [.pipe] := by
  have hp : (s.opened home).holds s.iss.core s.iss.ctx .pipe = true := by
    rw [holds_pipe]; simpa using h
  rw [List.filter_cons_of_pos hp]; rfl

theorem aloneDecode_opened (home : Nat) : aloneDecode (s.opened home) = none := rfl

end

/-- A return from RUNTIME mode (R316, R317). -/
def returnOp (run : State → Except (Nat × Option Word) State) : SlotOp := { decode := returnDecode, waits := fun _ => [.pipe], run := run }

theorem exec_rte (s : State) : exec .rte s = runSlot 7 (returnOp fun s => .ok (s.afterCommit .rte)) s := rfl

theorem exec_upcall (s : State) : exec .upcall s =
    runSlot 7 (returnOp fun s => if (s.me.ctlGet 0x12).getLsbD 63 then .ok (s.afterCommit .upcall) else .error (3, none)) s := rfl

section
variable {s : State} {run : State → Except (Nat × Option Word) State}

theorem returnDecode_opened (s : State) (home : Nat) : returnDecode (s.opened home) = if s.me.mode = true then none else some 4 := by
  unfold returnDecode
  rw [aloneDecode_opened]
  dsimp only
  unfold runtimeOnly
  rw [State.me_opened, State.mode_visible]
  cases s.me.mode <;> rfl

theorem runSlot_return_kernel (h : s.Issues fun _ => []) (hm : s.me.mode = false) : runSlot 7 (returnOp run) s = .next (s.faulted 7 4 none) :=
  runSlot_decode h.alone (by unfold returnOp; dsimp only; rw [returnDecode_opened, hm]; rfl)

section
variable (h : s.Issues fun _ => []) (hm : s.me.mode = true)
include h hm

theorem runSlot_return_held (hp : s.visible.me.inflight ≠ []) : runSlot 7 (returnOp run) s = .next (s.blocked [.pipe]) :=
  runSlot_block (o := returnOp run) h (by unfold returnOp; dsimp only; rw [returnDecode_opened, hm]; rfl) (.nil s 7) (filter_pipe 7 hp)

theorem runSlot_return_fault (hp : s.visible.me.inflight = []) {c : Nat} (hr : run (s.opened 7) = .error (c, none)) :
    runSlot 7 (returnOp run) s = .next (s.faulted 7 c none) :=
  runSlot_fault (o := returnOp run) h (by unfold returnOp; dsimp only; rw [returnDecode_opened, hm]; rfl) (.nil s 7) (clear_pipe 7 hp) hr

theorem runSlot_return (hp : s.visible.me.inflight = []) {a : After} (hr : run (s.opened 7) = .ok ((s.opened 7).afterCommit a)) {f : Ctx → Ctx}
    (ha : ∀ u : State, u.runAfter a = u.updMe f) :
    ∃ t, runSlot 7 (returnOp run) s = .next t ∧ t.mem = s.mem ∧ t.escs = s.escs ∧ t.me = f (advanced s s.visible.me) := by
  have ho : ¬ Outside s.me := fun ho => by rw [ho.1] at hm; nomatch hm
  rw [runSlot_afterCommit (o := returnOp run) h (by unfold returnOp; dsimp only; rw [returnDecode_opened, hm]; rfl) (.nil s 7) (clear_pipe 7 hp) hr,
    runAll_return ho ha]
  exact ⟨_, rfl, afterResults_updMe s f⟩

end

theorem runSlot_opened_decode {o : SlotOp} {home c : Nat} (h : s.iss.opened = true) (hd : o.decode s = some c) :
    runSlot home o s = .next (s.verdict (.decode c)) := by
  rw [runSlot_opened h]
  unfold slotStep
  rw [hd]

theorem aloneDecode_of_ne (h : s.iss.words ≠ 1) : aloneDecode s = some 3 := if_pos h

/-! ### The handler's return -/

theorem handlerReturn_decode (s : State) (home : Nat) : handlerReturnOp.decode (s.opened home) = none := by
  unfold handlerReturnOp
  dsimp only
  rw [aloneDecode_opened, ite_self]

section
variable (h : s.Issues fun _ => [])
include h

omit h in
theorem handlerReturn_waits (hd : s.me.hdl = true) (home : Nat) : handlerReturnOp.waits (s.opened home) = [.pipe] := by
  unfold handlerReturnOp waitsIf
  dsimp only
  rw [State.me_opened, State.hdl_visible, hd, if_pos rfl]

theorem handlerReturn_held (hd : s.me.hdl = true) (hp : s.visible.me.inflight ≠ []) : exec .handlerReturn s = .next (s.blocked [.pipe]) :=
  runSlot_block (o := handlerReturnOp) h (handlerReturn_decode s 7) (.nil s 7) (by rw [handlerReturn_waits hd]; exact filter_pipe 7 hp)

theorem handlerReturn_done (hd : s.me.hdl = true) (hp : s.visible.me.inflight = []) : ∃ t, exec .handlerReturn s = .next t ∧ t.mem = s.mem ∧
    t.escs = s.escs ∧ t.me = (advanced s s.visible.me).handlerReturn := by
  have hr : handlerReturnOp.run (s.opened 7) = .ok ((s.opened 7).afterCommit .handlerReturn) := by
    unfold handlerReturnOp
    dsimp only
    rw [State.me_opened, State.hdl_visible, hd, if_pos rfl]
  have ho : ¬ Outside s.me := fun ho => by rw [ho.2] at hd; nomatch hd
  have hx : exec .handlerReturn s = _ := runSlot_afterCommit (o := handlerReturnOp) h (handlerReturn_decode s 7) (.nil s 7)
    (by rw [handlerReturn_waits hd]; exact clear_pipe 7 hp) hr
  rw [hx, runAll_return ho (f := Ctx.handlerReturn) fun _ => rfl]
  exact ⟨_, rfl, afterResults_updMe s _⟩

omit h in
/-- Outside the handler the word is `syscall 0xFFFF`. -/
theorem handlerReturn_run (hd : s.me.hdl = false) : handlerReturnOp.waits (s.opened 7) = [] ∧
    handlerReturnOp.run (s.opened 7) = softTrap 0x40 0xFFFF (s.opened 7) := by
  unfold handlerReturnOp waitsIf
  dsimp only
  rw [State.me_opened, State.hdl_visible, hd, if_neg nofun, if_neg nofun]
  exact ⟨rfl, rfl⟩

theorem handlerReturn_outside (ho : Outside s.me) :
    exec .handlerReturn s = .next ((s.afterResults []).runAll s.visible.me [.trap 0x40 (some (wordOf 0xFFFF))]) := by
  obtain ⟨hw, hr⟩ := handlerReturn_run ho.2
  exact runSlot_softTrap (o := handlerReturnOp) h (handlerReturn_decode s 7) (.nil s 7) (hw ▸ .nil s 7) hr ho

theorem handlerReturn_runtime (hd : s.me.hdl = false) (hm : s.me.mode = true) : exec .handlerReturn s = .next (s.faulted 7 0x40 (some 0xFFFF)) := by
  obtain ⟨hw, hr⟩ := handlerReturn_run hd
  exact runSlot_softTrap_inTrap (o := handlerReturnOp) h (handlerReturn_decode s 7) (.nil s 7) (hw ▸ .nil s 7) hr
    fun ho => by rw [ho.1] at hm; nomatch hm

end
end

/-! ### What a return leaves -/

/-- `z` is `y` but for the fetch sequence and the control registers. -/
def SameBut (y z : Ctx) : Prop := z = { y with f0 := z.f0, f1 := z.f1, f2 := z.f2, f3 := z.f3, ctl := z.ctl }

theorem rte_sameBut (y : Ctx) : SameBut { y with mode := false } y.rte := rfl

theorem rte_ctl (y : Ctx) : y.rte.ctl = y.ctl := rfl

theorem rte_resumes (y : Ctx) : Resumes y.rte (y.ctl.get 0 8).toNat y.nfq y.fq1 y.fq2 y.fq3 := ⟨rfl, rfl, rfl, rfl⟩

theorem upcall_sameBut (y : Ctx) : SameBut { y with
    mode := false, hdl := true,
    frame := ⟨(y.ctl.get 0 6).toNat, (y.ctl.get 0 7).toNat, (y.ctl.get 0 8).toNat, y.ctl.get 0 9, y.nfq, y.fq1, y.fq2, y.fq3⟩ } y.upcall := rfl

theorem upcall_ctl (y : Ctx) : y.upcall.ctl = y.ctl := rfl

theorem upcall_resumes (y : Ctx) : Resumes y.upcall (field 0 18 (y.ctl.get 0 0x12).toNat) 0 0 0 0 := by
  have h : (y.ctl.get 0 0x12).toNat % 2 ^ 18 = field 0 18 (y.ctl.get 0 0x12).toNat := by
    rw [field, Nat.pow_zero, Nat.div_one]
  exact ⟨h, rfl, rfl, rfl⟩

/-- The control registers after the handler's return (R318). -/
def returnCtl (l : SMap Word) (f : Frame) : SMap Word :=
  (((l.put 0 6 (wordOf f.cause)).put 0 7 (wordOf f.mask)).put 0 8 (wordOf f.pc)).put 0 9 f.bad

theorem returnCtl_get (l : SMap Word) (f : Frame) (n : Nat) : (returnCtl l f).get 0 n =
    if n = 6 then wordOf f.cause else if n = 7 then wordOf f.mask else if n = 8 then wordOf f.pc else if n = 9 then f.bad else l.get 0 n := by
  unfold returnCtl
  simp only [SMap.get_put]
  grind

theorem handlerReturn_sameBut (y : Ctx) : SameBut { y with
    hdl := false, nfq := y.frame.nfq, fq1 := y.frame.fq1, fq2 := y.frame.fq2, fq3 := y.frame.fq3 } y.handlerReturn := by
  unfold SameBut Ctx.handlerReturn Ctx.resume
  simp only [Ctx.ctlPut]

theorem handlerReturn_ctl (y : Ctx) : y.handlerReturn.ctl = returnCtl y.ctl y.frame := by
  unfold Ctx.handlerReturn Ctx.resume returnCtl
  simp only [Ctx.ctlPut]

theorem handlerReturn_resumes {y : Ctx} (h : y.frame.pc < 2 ^ 64) :
    Resumes y.handlerReturn y.frame.pc y.frame.nfq y.frame.fq1 y.frame.fq2 y.frame.fq3 := by
  obtain ⟨-, -, -, -, -, -, h0⟩ := y.handlerReturn_frame
  exact ⟨h0.trans (Nat.mod_eq_of_lt h), rfl, rfl, rfl⟩

section
variable (s : State) (y : Ctx)

/-- The handler's return once its bundle has committed. -/
theorem advanced_handlerReturn (h : y.frame.pc < 2 ^ 64) :
    SameBut { advanced s y with hdl := false, nfq := y.frame.nfq, fq1 := y.frame.fq1, fq2 := y.frame.fq2, fq3 := y.frame.fq3 } (advanced s y).handlerReturn ∧
    Resumes (advanced s y).handlerReturn y.frame.pc y.frame.nfq y.frame.fq1 y.frame.fq2 y.frame.fq3 ∧
    ∀ n, (advanced s y).handlerReturn.ctl.get 0 n = if n = 6 then wordOf y.frame.cause else if n = 7 then wordOf y.frame.mask
      else if n = 8 then wordOf y.frame.pc else if n = 9 then y.frame.bad else y.ctl.get 0 n := by
  have hs := handlerReturn_sameBut (advanced s y)
  have hr := handlerReturn_resumes (y := advanced s y) h
  refine ⟨hs, hr, fun n => ?_⟩
  rw [handlerReturn_ctl]
  exact returnCtl_get y.ctl y.frame n

theorem advanced_rte : SameBut { advanced s y with mode := false } (advanced s y).rte ∧ (advanced s y).rte.ctl = y.ctl ∧
    Resumes (advanced s y).rte (y.ctl.get 0 8).toNat y.nfq y.fq1 y.fq2 y.fq3 :=
  ⟨rte_sameBut (advanced s y), rte_ctl (advanced s y), rte_resumes (advanced s y)⟩

theorem advanced_upcall : (advanced s y).upcall.ctl = y.ctl ∧ SameBut { advanced s y with
      mode := false, hdl := true,
      frame := ⟨(y.ctl.get 0 6).toNat, (y.ctl.get 0 7).toNat, (y.ctl.get 0 8).toNat, y.ctl.get 0 9, y.nfq, y.fq1, y.fq2, y.fq3⟩ } (advanced s y).upcall ∧
    Resumes (advanced s y).upcall (field 0 18 (y.ctl.get 0 0x12).toNat) 0 0 0 0 :=
  ⟨upcall_ctl (advanced s y), upcall_sameBut (advanced s y), upcall_resumes (advanced s y)⟩

end

end Sys2Proof.Machine

open Sys2Proof Sys2Proof.Machine Sys2Proof.Claims

/-- Settles O40: an entry changes the context alone but for what returns and is disarmed; `syscall`, `brk`, `trap` and the returns ask for what follows
their commit, and each of these says what it leaves of the context. -/
theorem traps : Obligations.Traps := by
  unfold Obligations.Traps
  refine ⟨⟨fun s c x cause mask bad => ?_, fun s home cause bad ws ho hs => ?_⟩, fun s code h hs => ?_, fun s h => ?_, fun s ho hw => ?_⟩
  · intro y t z
    refine ⟨s.mem_trap c x cause mask bad, s.accs_trap c x cause mask bad, s.tasks_trap c x cause mask bad,
      fun n hn => s.trap_other c x cause mask bad (.inr hn), (s.trap_core c x cause mask bad).1, s.trap_returned c x cause mask bad,
      s.mem_armed_trap c x cause mask bad, fun ho => ⟨s.escs_trap c x cause mask bad ho, s.trap_entered c x cause mask bad ho, fun hs => ?_⟩,
      fun ho => ⟨s.trap_trapped c x cause mask bad ho, s.trap_escs c x cause mask bad ho⟩⟩
    · have hz : z = _ := s.trap_entry c x cause mask bad ((inTrap_eq_false_iff _).mpr ho)
      rw [hz, hs]
      exact trapEntry_stepping ho cause mask bad
  · dsimp only
    refine ⟨State.faulted_trapped ho hs home cause bad, fun hw => ?_, fun hp hn => ⟨s.mem_blocked ws, State.blocked_me ho hp hn⟩⟩
    subst hw
    exact s.blocked_pipe
  · have soft {i : Instr} {cause : Nat} {b : Option Word} (hx : exec i s = .next ((s.afterResults []).runAll s.visible.me [.trap cause b])) (hc : cause ≠ 0x19)
        (ho : Outside s.me) : ∃ t, exec i s = .next t ∧ t.mem = s.mem ∧ t.escs = s.escs ∧ Trapped (advanced s s.visible.me) t.me cause 0x80 b := by
      exact ⟨_, by rw [hx, runAll_trap], afterResults_trap ho hs b (if_neg hc) rfl⟩
    dsimp only
    refine ⟨fun ho => ⟨soft (exec_syscall_outside h ho code) (by decide) ho, soft (exec_brk_outside h ho code) (by decide) ho,
        soft (handlerReturn_outside h ho) (by decide) ho, fun he => ?_⟩,
      fun ho => ⟨exec_syscall_inTrap h ho code, exec_brk_inTrap h ho code⟩, handlerReturn_runtime h, ?_⟩
    · have hstep : Steps s.visible.me := ⟨outside_visible.mpr ho, he⟩
      exact ⟨_, by rw [exec_nop_alone h, runAll_step _ hstep], afterResults_trap ho hs none (if_pos rfl) rfl⟩
    · obtain ⟨t, hx, hmem, hesc, hmsi, hno, hyes⟩ := exec_trap_next h code
      have hfollow : (Outside s.me ∧ (s.visible.me.ctl.get 0 0x0A).getLsbD 0 = true) ↔ Steps s.visible.me := and_congr_left' outside_visible.symm
      have hz : t.me = (advanced s s.visible.me).escalated code ∨ t.me = ((advanced s s.visible.me).escalated code).stepBehind := by
        by_cases hst : Steps s.visible.me
        · exact .inr (hyes hst)
        · exact .inl (hno hst)
      obtain ⟨hst, hes, hin, hmo, hhd, hsr, hf0, hf1, hf2, hsn⟩ := escalated_fields hz
      rw [advanced_mode, State.mode_visible] at hmo
      rw [advanced_hdl, State.hdl_visible] at hhd
      rw [advanced_s] at hsr
      rw [advanced_f0] at hf0
      rw [advanced_f1] at hf1
      rw [advanced_f2] at hf2
      rw [outside_advanced, outside_visible, advanced_snap] at hsn
      refine ⟨t, hx, hmem, hst, hes, hin, hmo, hhd, hsr, hf0, hf1, hf2, ⟨fun hn => ?_, fun hf => ?_⟩, hsn, hesc, hmsi⟩
      · have hc := escalated_ctl (advanced s s.visible.me) code
        rwa [← hno (hfollow.not.mp hn), advanced_ctl, advanced_stepTrap, State.stepTrap_visible] at hc
      · have hc := stepBehind_ctl (advanced s s.visible.me) code
        rwa [← hyes (hfollow.mp hf), advanced_ctl, advanced_f0] at hc
  · dsimp only
    refine ⟨handlerReturn_held h, fun hd hp hpc => ?_, fun hm => ⟨runSlot_return_kernel h hm, runSlot_return_kernel h hm⟩,
      fun hm hp => ⟨runSlot_return_held h hm hp, runSlot_return_held h hm hp⟩, fun hm hp => ⟨?_, fun hb => ?_, fun hb => ?_⟩⟩
    · obtain ⟨t, hx, hmem, hesc, hme⟩ := handlerReturn_done h hd hp
      refine ⟨t, hx, hmem, hesc, ?_⟩
      rw [hme]
      revert hpc
      generalize s.visible.me = v
      exact advanced_handlerReturn s v
    · obtain ⟨t, hx, hmem, hesc, hme⟩ := runSlot_return (run := fun s => .ok (s.afterCommit .rte)) h hm hp rfl (f := Ctx.rte) fun _ => rfl
      refine ⟨t, (exec_rte s).trans hx, hmem, hesc, ?_⟩
      rw [hme]
      generalize s.visible.me = v
      exact advanced_rte s v
    · exact runSlot_return_fault h hm hp (by rw [State.me_opened]; exact if_neg (by rw [Ctx.ctlGet, hb]; nofun))
    · obtain ⟨t, hx, hmem, hesc, hme⟩ := runSlot_return (run := fun s => if (s.me.ctlGet 0x12).getLsbD 63 then .ok (s.afterCommit .upcall) else .error (3, none))
        h hm hp (a := .upcall) (by rw [State.me_opened]; exact if_pos hb) (f := Ctx.upcall) fun _ => rfl
      refine ⟨t, (exec_upcall s).trans hx, hmem, hesc, ?_⟩
      rw [hme]
      generalize s.visible.me = v
      exact advanced_upcall s v
  · have hd : returnDecode s = some 3 := by unfold returnDecode; rw [aloneDecode_of_ne hw]
    refine ⟨fun i hi => ?_, fun hh => runSlot_opened_decode (o := handlerReturnOp) ho ?_⟩
    · simp only [List.mem_cons, List.not_mem_nil, or_false] at hi
      obtain rfl | rfl := hi
      · exact runSlot_opened_decode (o := returnOp _) ho hd
      · exact runSlot_opened_decode (o := returnOp _) ho hd
    · unfold handlerReturnOp
      dsimp only
      rw [hh, if_pos rfl, aloneDecode_of_ne hw]
end

section
/-! ## Revocation and migration (O26) -/

namespace Sys2Proof.Machine

open Claims

/-! ### `tlbinv` and `pgmig` -/

/-- The revocation that `tlbinv` starts. -/
def tlbinvStart (mode : Nat) (dev : Bool) (p : RegId) (va : Word) (space : Nat) (t : State) : State :=
  ({ t with ids := t.ids + 1,
            revokes := t.revokes ++ [{ id := t.ids, core := t.iss.core, ctx := t.iss.ctx, step := t.me.step, mode := mode, va := va, space := space, dev := dev,
                                       pd := some p }] } : State).mark [p]

/-- The migration that `pgmig` starts. -/
def pgmigStart (r : RegId) (va : Word) (dst : Nat) (xroot : Word) (t : State) : State :=
  ({ t with ids := t.ids + 1,
            migs := t.migs ++ [{ id := t.ids, core := t.iss.core, ctx := t.iss.ctx, step := t.me.step, va := va, dst := dst, reg := some r,
                                 xroot := xroot }] } : State).mark [r]

theorem tlbinvOp_decode (s : State) (pd a b mode : Nat) (dev : Bool) : (tlbinvOp pd a b mode dev).decode (s.opened 6) =
    if s.me.mode = true then none else some 4 := by
  unfold tlbinvOp
  dsimp only
  rw [State.me_opened, State.mode_visible]
  cases s.me.mode <;> rfl

theorem pgmigOp_decode (s : State) (a b : Nat) : (pgmigOp a b).decode (s.opened 6) = if s.me.mode = true then none else some 4 := by
  unfold pgmigOp
  dsimp only
  rw [State.me_opened, State.mode_visible]
  cases s.me.mode <;> rfl

theorem tlbinvOp_run (s : State) (pd a b mode : Nat) (dev : Bool) : (tlbinvOp pd a b mode dev).run (s.opened 6) =
    if ((s.visible.rs a).poison || (s.visible.rs b).poison) = true then poisonFault
    else .ok (tlbinvStart mode dev (s.visible.me.pReg pd) (s.visible.rs a).val (field 0 12 (s.visible.rs b).val.toNat) (s.opened 6)) := by
  rw [← State.rs_opened s 6 a, ← State.rs_opened s 6 b, ← State.me_opened s 6]
  generalize s.opened 6 = u
  rfl

theorem agreeBut_visible (s : State) : AgreeBut s.iss.core s s.visible := by
  unfold State.visible State.updMe
  exact (agreeBut_updCx s _ _ _).trans (agreeBut_flushBudget _ _ _)

@[simp] theorem State.myCore_openBundle (s : State) (n w : Nat) (g : Guard) : (s.openBundle n w g).myCore = s.myCore := rfl

/-- The results that a bundle sees leave the translation registers. -/
theorem State.xroot_opened (s : State) (home : Nat) : (s.opened home).myCore.xroot = s.myCore.xroot := by
  obtain ⟨-, l, hl⟩ := agreeBut_visible s
  rw [State.opened, State.myCore_openBundle]
  unfold State.myCore
  rw [State.iss_visible, hl]

theorem pgmigOp_run (s : State) (a b : Nat) : (pgmigOp a b).run (s.opened 6) =
    if ((s.visible.rs a).poison || (s.visible.rs b).poison) = true then poisonFault
    else if bitsOf 48 16 (s.visible.rs b).val.toNat ≠ 0 then .error (3, none)
    else .ok (pgmigStart (s.visible.me.sReg b) (s.visible.rs a).val (s.visible.rs b).val.toNat (s.myCore.xroot.get 0 s.iss.ctx) (s.opened 6)) := by
  rw [← State.xroot_opened s 6, ← State.opened_ctx s 6, ← State.rs_opened s 6 a, ← State.rs_opened s 6 b, ← State.me_opened s 6]
  generalize s.opened 6 = u
  rfl

theorem exec_tlbinv {s : State} {pd a b mode : Nat} {dev : Bool} (h : s.Issues fun x => [x.pReg pd, x.sReg a, x.sReg b]) :
    (s.me.mode = false → exec (.tlbinv pd a b mode dev) s = .next (s.faulted 6 4 none)) ∧
    (s.me.mode = true → ((s.visible.rs a).poison = true ∨ (s.visible.rs b).poison = true) →
      exec (.tlbinv pd a b mode dev) s = .next (s.faulted 6 0x10 none)) ∧
    (s.me.mode = true → (s.visible.rs a).poison = false → (s.visible.rs b).poison = false → exec (.tlbinv pd a b mode dev) s =
      .next (s.done 6 (tlbinvStart mode dev (s.visible.me.pReg pd) (s.visible.rs a).val (field 0 12 (s.visible.rs b).val.toNat)))) := by
  have hd := tlbinvOp_decode s pd a b mode dev
  have hr := tlbinvOp_run s pd a b mode dev
  refine ⟨fun hm => ?_, fun hm hp => ?_, fun hm ha hb => ?_⟩
  · exact runSlot_decode (o := tlbinvOp pd a b mode dev) h.alone (by rw [hd, hm]; rfl)
  · exact runSlot_fault (o := tlbinvOp pd a b mode dev) h (by rw [hd, if_pos hm]) (.nil s 6) (.nil s 6) (by rw [hr, if_pos (by simpa using hp)]; rfl)
  · exact runSlot_done (o := tlbinvOp pd a b mode dev) _ h (by rw [hd, if_pos hm]) (.nil s 6) (.nil s 6) (by rw [hr, ha, hb]; rfl)
      (State.opened_verdicts s 6)

theorem exec_pgmig {s : State} {a b : Nat} (h : s.Issues fun x => [x.sReg a, x.sReg b]) :
    (s.me.mode = false → exec (.pgmig a b) s = .next (s.faulted 6 4 none)) ∧
    (s.me.mode = true → ((s.visible.rs a).poison = true ∨ (s.visible.rs b).poison = true) → exec (.pgmig a b) s = .next (s.faulted 6 0x10 none)) ∧
    (s.me.mode = true → (s.visible.rs a).poison = false → (s.visible.rs b).poison = false → 2 ^ 48 ≤ (s.visible.rs b).val.toNat →
      exec (.pgmig a b) s = .next (s.faulted 6 3 none)) ∧
    (s.me.mode = true → (s.visible.rs a).poison = false → (s.visible.rs b).poison = false → (s.visible.rs b).val.toNat < 2 ^ 48 → exec (.pgmig a b) s =
      .next (s.done 6 (pgmigStart (s.visible.me.sReg b) (s.visible.rs a).val (s.visible.rs b).val.toNat (s.myCore.xroot.get 0 s.iss.ctx)))) := by
  have hd := pgmigOp_decode s a b
  have hr := pgmigOp_run s a b
  have hlt := (s.visible.rs b).val.isLt
  refine ⟨fun hm => ?_, fun hm hp => ?_, fun hm ha hb hw => ?_, fun hm ha hb hw => ?_⟩
  · exact runSlot_decode (o := pgmigOp a b) h.alone (by rw [hd, hm]; rfl)
  · exact runSlot_fault (o := pgmigOp a b) h (by rw [hd, if_pos hm]) (.nil s 6) (.nil s 6) (by rw [hr, if_pos (by simpa using hp)]; rfl)
  · have hw' : bitsOf 48 16 (s.visible.rs b).val.toNat ≠ 0 := by unfold bitsOf; omega
    exact runSlot_fault (o := pgmigOp a b) h (by rw [hd, if_pos hm]) (.nil s 6) (.nil s 6) (by rw [hr, ha, hb, if_neg nofun, if_pos hw'])
  · have hw' : ¬ bitsOf 48 16 (s.visible.rs b).val.toNat ≠ 0 := by unfold bitsOf; omega
    exact runSlot_done (o := pgmigOp a b) _ h (by rw [hd, if_pos hm]) (.nil s 6) (.nil s 6) (by rw [hr, ha, hb, if_neg nofun, if_neg hw'])
      (State.opened_verdicts s 6)

/-! ### The clear of a revocation -/

/-- A map whose values change by their key, where each change keeps the default. -/
theorem get_mapByKey {α : Type} {d : α} {f : Nat → α → α} (hd : ∀ k, f k d = d) (m : SMap α) (k : Nat) :
    SMap.get d (m.map fun e => (e.1, f e.1 e.2)) k = f k (SMap.get d m k) := by
  induction m with
  | nil => exact (hd k).symm
  | cons e r ih =>
    rw [List.map_cons, SMap.get_cons, SMap.get_cons]
    dsimp only
    split
    next h => rw [h]
    next => exact ih

section
variable {r : Revoke}

theorem Revoke.selects_iff (h : r.mode ≤ 2) (space : Nat) (vpage : Word) (size frame : Nat) :
    r.selects space vpage size frame = true ↔ Selects r space vpage size := by
  unfold Revoke.selects Selects
  have hm : r.mode = 0 ∨ r.mode = 1 ∨ r.mode = 2 := by omega
  obtain hm | hm | hm := hm <;> rw [hm]
  · exact (Bool.and_eq_true ..).to_iff.trans (and_congr decide_eq_true_iff decide_eq_true_iff)
  · exact decide_eq_true_iff
  · exact iff_of_true rfl trivial

/-- The handle is revoked where the revocation selects it (R223). -/
theorem revoked_revokeBy (h : r.mode ≤ 2) (hd : Handle) : Revoked r hd (hd.revokeBy r) := by
  have hs := Revoke.selects_iff h hd.space hd.vpage hd.size hd.frame
  unfold Revoked Handle.revokeBy Revoke.handle
  rw [← hs, ← Bool.and_eq_true]
  exact ⟨fun hv => if_pos hv, fun hv => if_neg hv⟩

theorem revokeBy_default (r : Revoke) : ({} : Handle).revokeBy r = {} := rfl

theorem Ctx.revokeBy_default (r : Revoke) : ({} : Ctx).revokeBy r = {} := rfl

theorem Core.revokeBy_default (r : Revoke) : ({} : Core).revokeBy r = {} := by
  unfold Core.revokeBy
  dsimp only
  split <;> rfl

/-- The handles of a context after the clear. -/
theorem Ctx.get_revokeBy (y : Ctx) (r : Revoke) (n : Nat) : (y.revokeBy r).h.get {} n = (y.h.get {} n).revokeBy r :=
  SMap.get_mapValues_of_default (f := fun h : Handle => h.revokeBy r) (Sys2Proof.Machine.revokeBy_default r) y.h n

theorem Core.ctx_revokeBy (k : Core) (r : Revoke) (x : Nat) : (k.revokeBy r).ctx.get {} x = (k.ctx.get {} x).revokeBy r :=
  SMap.get_mapValues_of_default (f := fun y : Ctx => y.revokeBy r) (Ctx.revokeBy_default r) k.ctx x

/-- The TLB entries that the clear leaves (R221). -/
theorem mem_filter_goes (h : r.mode ≤ 2) (l : List TlbEntry) (q : TlbEntry) :
    q ∈ (if r.mode = 3 then l else l.filter fun e => !e.goes r) ↔ q ∈ l ∧ ¬ Selects r q.space (wordOf (q.vpn * pageOf q.size)) q.size := by
  rw [if_neg (by omega), List.mem_filter, ← Revoke.selects_iff h _ _ _ (leafFrame q.leaf.toNat), Bool.not_eq_true', Bool.not_eq_true]
  rfl

end

/-- The clear leaves a core out of scope, and takes one in scope through `Core.revokeBy`. -/
theorem State.core_clearHandles (s : State) (r : Revoke) (c : Nat) :
    (s.clearHandles r).core c = if r.reaches c = true then (s.core c).revokeBy r else s.core c :=
  get_mapByKey (d := ({} : Core)) (f := fun c k => if r.reaches c = true then k.revokeBy r else k)
    (fun k => by split; exacts [Core.revokeBy_default r, rfl]) s.cores c

/-- The TLBs and the handles of a core in scope after the clear (R221, R223). -/
theorem State.clearHandles_in_scope {s : State} {r : Revoke} (hm : r.mode ≤ 2) {c : Nat} (hc : r.reaches c = true) :
    (∀ q, q ∈ ((s.clearHandles r).core c).tlb1 ↔ q ∈ (s.core c).tlb1 ∧ ¬ Selects r q.space (wordOf (q.vpn * pageOf q.size)) q.size) ∧
    (∀ q, q ∈ ((s.clearHandles r).core c).tlb2 ↔ q ∈ (s.core c).tlb2 ∧ ¬ Selects r q.space (wordOf (q.vpn * pageOf q.size)) q.size) ∧
    ∀ x n, Revoked r ((s.cx c x).h.get {} n) (((s.clearHandles r).cx c x).h.get {} n) := by
  unfold State.cx
  rw [State.core_clearHandles, if_pos hc]
  refine ⟨mem_filter_goes hm (s.core c).tlb1, mem_filter_goes hm (s.core c).tlb2, fun x n => ?_⟩
  rw [Core.ctx_revokeBy, Ctx.get_revokeBy]
  exact revoked_revokeBy hm _

theorem State.clearHandles_cleared {s : State} {r : Revoke} {q : Revoke} (hq : q ∈ (s.clearHandles r).revokes) (hid : q.id = r.id) : q.cleared = true := by
  unfold State.clearHandles at hq
  obtain ⟨p, -, rfl⟩ := List.mem_map.mp hq
  by_cases h : p.id = r.id
  · rw [if_pos h]
  · rw [if_neg h] at hid
    exact absurd hid h

section
variable {s : State} {id : Nat} {r : Revoke} (hf : s.revokes.find? (fun v => decide (v.id = id)) = some r)
include hf

theorem find_revoke_id : r.id = id := by
  have := List.find?_some hf
  exact of_decide_eq_true this

theorem exec_revocationComplete : exec (.revocationComplete id) s = .next (if !r.cleared || s.revokeDone r then s.stepRevoke r else s) := by
  have h : exec (.revocationComplete id) s = execRevocationComplete id s := rfl
  rw [h, execRevocationComplete, hf]
  rfl

theorem exec_revocation_clear (hc : r.cleared = false) : exec (.revocationComplete id) s = .next (s.clearHandles r) := by
  rw [exec_revocationComplete hf, hc]
  unfold State.stepRevoke
  rw [hc]
  rfl

/-- A revocation that still waits for an access does nothing (R223). -/
theorem exec_revocation_waits (hc : r.cleared = true) (ha : ∃ a ∈ s.accs, a.id ∈ r.accs) : exec (.revocationComplete id) s = .next s := by
  have hd : s.revokeDone r = false := by
    have : (s.accs.any fun a => r.accs.contains a.id) = true := by simpa using ha
    unfold State.revokeDone
    rw [this, Bool.not_true, Bool.and_false]; rfl
  rw [exec_revocationComplete hf, hc, hd]
  rfl

theorem exec_revocation_done (hc : r.cleared = true) (ha : ∀ a ∈ s.accs, a.id ∉ r.accs) (hq : r.cmds = []) (hl : r.calls = []) (hm : r.mig = none)
    {p : RegId} (hp : r.pd = some p) : exec (.revocationComplete id) s =
      .next (({ s with revokes := s.revokes.filter fun q => decide (q.id ≠ id) } : State).addLand r.core r.ctx r.step p (.val (.b true))) := by
  have hd : s.revokeDone r = true := by
    have : (s.accs.any fun a => r.accs.contains a.id) = false := by simpa using ha
    unfold State.revokeDone
    rw [this, hc, hq, hl]
    simp
  rw [exec_revocationComplete hf, hc, hd]
  unfold State.stepRevoke State.landIf
  rw [hc, hm, hp, find_revoke_id hf]
  rfl

end

/-! ### The walk of a migration -/

theorem bitsOf_eq_field (lo n w : Nat) : bitsOf lo n w = field lo n w := rfl

theorem readNat_eq_entryAt (s : State) (a : Nat) : readNat s.mem a 8 = Claims.entryAt s a := readNat_eq_number s.mem a 8

theorem tierOf_frame (e : Nat) : tierOf (field 13 35 e * 2 ^ 13) = field 46 2 e := by
  unfold tierOf bitsOf field
  omega

theorem tierOf_eq_field (a : Nat) : tierOf a = field 46 2 a := rfl

theorem canonical_iff (va : Word) : canonical va = true ↔ isCanonical va.toNat := by
  have h : va.toNat / 2 ^ 52 = field 52 12 va.toNat := by
    have := va.isLt
    unfold field
    omega
  unfold canonical isCanonical
  dsimp only
  rw [h, Bool.or_eq_true, beq_iff_eq, beq_iff_eq]

section
variable {s : State} {va xroot : Word}

/-- A walk that cannot begin fails (R206, R209, R212). -/
theorem walkStep_of_not_rootOk (h : ¬ RootOk s va xroot) : s.walkStep va xroot none = .fail none := by
  have hr : (!canonical va || !xroot.getLsbD 0 || decide (2 ≤ tierOf (bitsOf 13 35 xroot.toNat * 2 ^ 13)) ||
      s.badRange (bitsOf 13 35 xroot.toNat * 2 ^ 13) 8192 false) = true := by
    by_contra hn
    rw [Bool.not_eq_true] at hn
    simp only [Bool.or_eq_false_iff, Bool.not_eq_false', decide_eq_false_iff_not, Nat.not_le, canonical_iff] at hn
    obtain ⟨⟨⟨hc, hv⟩, ht⟩, hb⟩ := hn
    exact h ⟨hc, hv, ht, hb⟩
  unfold State.walkStep
  exact if_pos hr

/-- A walk reads the entry of its level (R209). -/
theorem walkStep_of_readsAt {next : Option (Nat × Nat)} {lvl t : Nat} (h : ReadsAt s va xroot next lvl t) :
    s.walkStep va xroot next = s.walkEntry va.toNat (field 52 12 xroot.toNat) lvl t := by
  obtain ⟨-, rfl | ⟨rfl, ⟨hc, hv, ht, hb⟩, rfl, rfl⟩⟩ := h
  · rfl
  · have hr : (!canonical va || !xroot.getLsbD 0 || decide (2 ≤ tierOf (bitsOf 13 35 xroot.toNat * 2 ^ 13)) ||
        s.badRange (bitsOf 13 35 xroot.toNat * 2 ^ 13) 8192 false) = false := by
      simp only [Bool.or_eq_false_iff, Bool.not_eq_false', decide_eq_false_iff_not, Nat.not_le, canonical_iff]
      exact ⟨⟨⟨hc, hv⟩, ht⟩, hb⟩
    unfold State.walkStep
    exact if_neg (by rw [hr]; nofun)

end

/-- What a walk refuses of a pointer (R207, R209). -/
def badPointer (s : State) (lvl e : Nat) : Prop :=
  bitsOf 48 16 e ≠ 0 ∨ bitsOf 2 11 e ≠ 0 ∨ lvl = 0 ∨ 2 ≤ tierOf (bitsOf 13 35 e * 2 ^ 13) ∨ s.badRange (bitsOf 13 35 e * 2 ^ 13) 8192 false = true

theorem goodPointer_iff (s : State) (lvl e : Nat) : GoodPointer s lvl e ↔ e.testBit 0 = true ∧ e.testBit 1 = false ∧ ¬ badPointer s lvl e := by
  unfold GoodPointer badPointer
  rw [bitsOf_eq_field 13, tierOf_frame, bitsOf_eq_field, bitsOf_eq_field]
  simp only [not_or, ne_eq, not_not, Nat.not_le, Bool.not_eq_true, Nat.pos_iff_ne_zero]
  rw [show (2 : Nat) ^ 13 = 8192 from rfl]
  tauto

/-- What a walk refuses of a leaf (R208, R209). -/
def badLeafAt (s : State) (lvl sp e : Nat) : Prop := bitsOf 4 3 e ≠ 0 ∨ s.badLeaf e lvl sp = true

theorem goodLeaf_iff (s : State) {lvl : Nat} (hl : lvl ≤ 3) (sp e : Nat) :
    GoodLeaf s lvl sp e ↔ e.testBit 0 = true ∧ e.testBit 1 = true ∧ ¬ badLeafAt s lvl sp e := by
  have hpeer : ((leafPeer e != (tierOf (leafFrame e) == 2)) = false) ↔ (e.testBit 50 = true ↔ field 46 2 e = 2) := by
    unfold leafPeer leafFrame
    rw [bitsOf_eq_field, tierOf_frame]
    unfold bitOf
    cases e.testBit 50 <;> simp
  unfold GoodLeaf badLeafAt State.badLeaf
  simp only [not_or, ne_eq, not_not, Bool.not_eq_true, Bool.or_eq_false_iff, decide_eq_false_iff_not, Nat.not_le, hpeer]
  have h3 : lvl < 3 ↔ ¬ lvl = 3 := by omega
  rw [h3]
  unfold leafSize leafSpace leafCa leafFrame leafLost
  simp only [bitsOf_eq_field]
  unfold pageBytes pageOf bitOf
  tauto

section
variable {s : State} {va sp lvl t : Nat} {e : Nat}

theorem walkEntry_poisoned (h : s.poisoned (t + 8 * field (13 + 10 * lvl) 10 va) 8 = true) :
    s.walkEntry va sp lvl t = .fail (some (t + 8 * field (13 + 10 * lvl) 10 va)) := if_pos h

theorem walkEntry_eq (h : s.poisoned (t + 8 * field (13 + 10 * lvl) 10 va) 8 = false)
    (he : Claims.entryAt s (t + 8 * field (13 + 10 * lvl) 10 va) = e) : s.walkEntry va sp lvl t =
      if e.testBit 0 = false then .fail none
      else if e.testBit 1 = false then if bitsOf 48 16 e ≠ 0 ∨ bitsOf 2 11 e ≠ 0 ∨ lvl = 0 ∨ 2 ≤ tierOf (bitsOf 13 35 e * 2 ^ 13) ∨
        s.badRange (bitsOf 13 35 e * 2 ^ 13) 8192 false = true then .fail none else .down (lvl - 1) (field 13 35 e * 2 ^ 13)
      else if bitsOf 4 3 e ≠ 0 ∨ s.badLeaf e lvl sp = true then .fail none
      else if e.testBit 7 = true then .busy (t + 8 * field (13 + 10 * lvl) 10 va)
      else .leaf e (t + 8 * field (13 + 10 * lvl) 10 va) := by
  unfold State.walkEntry
  dsimp only
  rw [bitsOf_eq_field (13 + 10 * lvl), if_neg (by rw [h]; nofun), readNat_eq_entryAt, he]
  unfold bitOf
  simp only [Bool.not_eq_true']
  rfl

variable (h : s.poisoned (t + 8 * field (13 + 10 * lvl) 10 va) 8 = false) (he : Claims.entryAt s (t + 8 * field (13 + 10 * lvl) 10 va) = e)
include h he

theorem walkEntry_pointer (hg : GoodPointer s lvl e) : s.walkEntry va sp lvl t = .down (lvl - 1) (field 13 35 e * 2 ^ 13) := by
  obtain ⟨h0, h1, hb⟩ := (goodPointer_iff s lvl e).mp hg
  unfold badPointer at hb
  rw [walkEntry_eq h he, if_neg (by rw [h0]; nofun), if_pos h1, if_neg hb]

theorem walkEntry_leaf (hl : lvl ≤ 3) (hg : GoodLeaf s lvl sp e) : s.walkEntry va sp lvl t =
    if e.testBit 7 = true then .busy (t + 8 * field (13 + 10 * lvl) 10 va) else .leaf e (t + 8 * field (13 + 10 * lvl) 10 va) := by
  obtain ⟨h0, h1, hb⟩ := (goodLeaf_iff s hl sp e).mp hg
  unfold badLeafAt at hb
  rw [walkEntry_eq h he, if_neg (by rw [h0]; nofun), if_neg (by rw [h1]; nofun), if_neg hb]

theorem walkEntry_fail (hl : lvl ≤ 3) (hg : ¬ GoodLeaf s lvl sp e) (hp : ¬ GoodPointer s lvl e) : s.walkEntry va sp lvl t = .fail none := by
  rw [goodLeaf_iff s hl] at hg
  rw [goodPointer_iff] at hp
  rw [walkEntry_eq h he]
  by_cases h0 : e.testBit 0 = false
  · rw [if_pos h0]
  rw [Bool.not_eq_false] at h0
  rw [if_neg (by rw [h0]; nofun)]
  by_cases h1 : e.testBit 1 = false
  · rw [if_pos h1, if_pos (by by_contra hn; exact hp ⟨h0, h1, hn⟩)]
  · rw [Bool.not_eq_false] at h1
    rw [if_neg (by rw [h1]; nofun), if_pos (by by_contra hn; exact hg ⟨h0, h1, hn⟩)]

end

/-! ### The destination of a move -/

theorem anyQuarter_iff (a n : Nat) (f : Nat → Nat → Bool) : anyQuarter a n f = true ↔
    tierOf a = 0 ∧ ∃ i < n / 2 ^ 27 + 2, (a / 2 ^ 27 + i) * 2 ^ 27 < a + n ∧ f (bitsOf 4 7 (a / 2 ^ 27 + i)) (bitsOf 0 4 (a / 2 ^ 27 + i)) = true := by
  unfold anyQuarter
  simp only [Bool.and_eq_true, beq_iff_eq, List.any_eq_true, List.mem_range, decide_eq_true_eq]

/-- A range meets a condition in the quarter where the condition holds. -/
theorem anyQuarter_iff_exists (a n : Nat) (f : Nat → Nat → Bool) : anyQuarter a n f = true ↔
    ∃ v q, anyQuarter a n (fun a b => decide (a = v ∧ b = q)) = true ∧ f v q = true := by
  simp only [anyQuarter_iff, decide_eq_true_eq]
  constructor
  · rintro ⟨ht, i, hi, hlt, hf⟩
    exact ⟨_, _, ⟨ht, i, hi, hlt, rfl, rfl⟩, hf⟩
  · rintro ⟨v, q, ⟨ht, i, hi, hlt, rfl, rfl⟩, hf⟩
    exact ⟨ht, i, hi, hlt, hf⟩

/-- A range that meets a retired quarter is refused by R22 already. -/
theorem badRange_of_quarterGone {s : State} {a n : Nat} (h : anyQuarter a n s.quarterGone = true) : s.badRange a n false = true := by
  have ht := ((anyQuarter_iff a n _).mp h).1
  unfold State.badRange
  rw [ht, h]
  exact Bool.or_true _

theorem badDest_iff (s : State) (dst n : Nat) : s.badDest dst n = true ↔
    2 ≤ field 46 2 dst ∨ dst % n ≠ 0 ∨ s.badRange dst n false = true ∨
      ∃ v q, anyQuarter dst n (fun a b => decide (a = v ∧ b = q)) = true ∧ (s.core v).hal.get 0 q = 2 := by
  have hq : anyQuarter dst n (fun v q => (s.core v).hal.get 0 q == 2 || s.quarterGone v q) = true ↔
      (∃ v q, anyQuarter dst n (fun a b => decide (a = v ∧ b = q)) = true ∧ (s.core v).hal.get 0 q = 2) ∨ anyQuarter dst n s.quarterGone = true := by
    rw [anyQuarter_iff_exists, anyQuarter_iff_exists dst n s.quarterGone, ← exists_or]
    simp only [Bool.or_eq_true, beq_iff_eq, and_or_left, exists_or]
  rw [← tierOf_eq_field]
  unfold State.badDest
  simp only [Bool.or_eq_true, decide_eq_true_eq, hq, ne_eq]
  constructor
  · rintro (((h | h) | h) | h | h)
    exacts [.inl h, .inr (.inl h), .inr (.inr (.inl h)), .inr (.inr (.inr h)), .inr (.inr (.inl (badRange_of_quarterGone h)))]
  · rintro (h | h | h | h)
    exacts [.inl (.inl (.inl h)), .inl (.inl (.inr h)), .inl (.inr h), .inr (.inl h)]

/-! ### What the walk of a migration leaves -/

/-- A migration ends: it is gone, and its status lands in its register. -/
def EndsMig (s t : State) (m : Mig) (status : Nat) : Prop :=
  t.migs = s.migs.filter (fun v => decide (v.id ≠ m.id)) ∧
    ∀ r, m.reg = some r → ∃ l ∈ t.lands, l.core = m.core ∧ l.ctx = m.ctx ∧ l.step = m.step ∧ l.reg = r ∧ l.val = .val (.w (wordOf status))

theorem endsMig_endMig {s t : State} (h : t.migs = s.migs) (m : Mig) (status : Nat) : EndsMig s (t.endMig m status) m status := by
  unfold EndsMig State.endMig State.landIf
  cases m.reg with
  | none => exact ⟨by rw [← h], nofun⟩
  | some r =>
    refine ⟨by rw [← h]; rfl, fun r' h' => ?_⟩
    obtain rfl := Option.some.inj h'
    exact ⟨_, List.mem_append_right _ (List.mem_singleton_self _), rfl, rfl, rfl, rfl, rfl⟩

theorem State.migs_watchOne (s : State) (o : Nat) (sp : Bool) (lo hi kind : Nat) (ag : Agent) (n : Nat) : (s.watchOne o sp lo hi kind ag n).migs = s.migs := by
  have hg (u : State) (w : Watch) : (u.guidon o w).migs = u.migs := by
    unfold State.guidon
    dsimp only
    exact (State.migs_sendMsg ..).trans (foldl_leaves State.migs _ (fun _ _ => State.migs_sendMsg ..) _ _)
  unfold State.watchOne
  dsimp only
  split
  · rfl
  split
  · exact (hg _ _).trans rfl
  split <;> rfl

theorem State.migs_watchPhys (s : State) (a n kind : Nat) (ag : Agent) : (s.watchPhys a n kind ag).migs = s.migs :=
  State.watchPhys_keeps (fun t => t.migs = s.migs) s a n kind ag (fun _ _ _ _ _ ht => (State.migs_watchOne ..).trans ht) rfl

theorem State.migs_pokeBytes (s : State) (a : Nat) (l : List Byte) : (s.pokeBytes a l).migs = s.migs := by
  unfold State.pokeBytes
  refine foldl_keeps (fun t : State => t.migs = s.migs) _ (fun t i h => ?_) _ _ rfl
  dsimp only
  split <;> exact h

theorem State.migs_putEntry (s : State) (m : Mig) (a e : Nat) : (s.putEntry m a e).migs = s.migs :=
  (State.migs_watchPhys ..).trans (State.migs_pokeBytes ..)

theorem State.mem_putEntry (s : State) (m : Mig) (a e : Nat) : (s.putEntry m a e).mem = writeMasked s.mem a ((leBytes 8 e).map some) :=
  (State.mem_watchPhys ..).trans (pokeBytes_mem ..)

/-- Outside its eight bytes the write of an entry leaves memory. -/
theorem get_putEntry_out (s : State) (m : Mig) (a e : Nat) {b : Nat} (h : b < a ∨ a + 8 ≤ b) : (s.putEntry m a e).mem.get 0 b = s.mem.get 0 b := by
  rw [State.mem_putEntry]
  exact get_writeMasked_out _ _ _ (by rwa [List.length_map, leBytes_length])

theorem leBytes_get {n e i : Nat} (h : i < n) : (leBytes n e)[i]'(by rwa [leBytes_length]) = BitVec.ofNat 8 (e / 256 ^ i) := by
  induction n generalizing e i with
  | zero => omega
  | succ n ih =>
    cases i with
    | zero => simp [leBytes]
    | succ i =>
      simp only [leBytes, List.getElem_cons_succ]
      rw [ih (by omega), Nat.div_div_eq_div_mul, ← Nat.pow_succ']

theorem number_leBytes {n e : Nat} {f : Nat → Byte} (h : e < 256 ^ n) (hf : ∀ i < n, f i = BitVec.ofNat 8 (e / 256 ^ i)) : number n f = e := by
  induction n generalizing e f with
  | zero => simp at h; subst h; rfl
  | succ n ih =>
    have he : e / 256 < 256 ^ n := by rw [Nat.div_lt_iff_lt_mul (by decide), ← Nat.pow_succ]; exact h
    rw [number_succ, ih he fun i hi => by rw [hf _ (by omega), Nat.div_div_eq_div_mul, ← Nat.pow_succ'], hf 0 (by omega), BitVec.toNat_ofNat]
    omega

/-- The entry reads as it is written (R222). -/
theorem entryAt_putEntry (s : State) (m : Mig) (a : Nat) {e : Nat} (h : e < 2 ^ 64) : Claims.entryAt (s.putEntry m a e) a = e := by
  refine number_leBytes (n := 8) h fun i hi => ?_
  rw [State.mem_putEntry, get_writeMasked_in _ _ _ (by rwa [List.length_map, leBytes_length]), List.getElem_map]
  exact leBytes_get hi

theorem entryAt_lt (s : State) (a : Nat) : Claims.entryAt s a < 2 ^ 64 := by
  have hn (n : Nat) (f : Nat → Byte) : number n f < 256 ^ n := by
    induction n generalizing f with
    | zero => exact Nat.one_pos
    | succ n ih =>
      have h0 := (f 0).isLt
      have := ih fun i => f (i + 1)
      rw [number_succ, Nat.pow_succ']
      omega
  exact hn 8 _

/-! ### A step of the walk of a migration -/

theorem entryAt_congr {s t : State} (h : t.mem = s.mem) (a : Nat) : Claims.entryAt t a = Claims.entryAt s a := by
  unfold Claims.entryAt
  rw [h]

section
variable {s : State} {m : Mig}

theorem find_mig_id {id : Nat} (hf : s.migs.find? (fun v => decide (v.id = id)) = some m) : m.id = id := by
  have := List.find?_some hf
  exact of_decide_eq_true this

theorem exec_walkComplete_mig (hf : s.migs.find? (fun v => decide (v.id = m.id)) = some m) (hs : m.stage = 0) (hw : ∀ w ∈ s.walks, w.id ≠ m.id)
    (hr : s.running = true) (hb : m.cur.busy = none) : exec (.walkComplete m.id) s = .next (s.walkMig m) := by
  have hn : s.walks.find? (fun w => decide (w.id = m.id)) = none := List.find?_eq_none.mpr fun w h => by simpa using hw w h
  have h : exec (.walkComplete m.id) s = execWalkComplete m.id s := rfl
  rw [h, execWalkComplete, hn, hf]
  dsimp only
  rw [runEvent, hr, hs, hb]
  rfl

theorem walkMig_fail {p : Option Nat} (h : s.walkStep m.va m.xroot m.cur.next = .fail p) : EndsMig s (s.walkMig m) m 1 := by
  have hp (u : State) : (u.reportWalk m.core m.ctx 8 p).migs = u.migs := by
    unfold State.reportWalk
    cases p <;> rfl
  unfold State.walkMig
  rw [h]
  exact endsMig_endMig (hp s) m 1

/-- The cursor of a migration moves, and nothing else. -/
def moveCursor (s : State) (m : Mig) (c : Cursor) : State := { s with migs := s.migs.map fun v => if v.id = m.id then { v with cur := c } else v }

theorem walkMig_down {lvl t : Nat} (h : s.walkStep m.va m.xroot m.cur.next = .down lvl t) : s.walkMig m = moveCursor s m { next := some (lvl, t) } := by
  unfold State.walkMig
  rw [h]
  rfl

theorem walkMig_busy {a : Nat} (h : s.walkStep m.va m.xroot m.cur.next = .busy a) : s.walkMig m = moveCursor s m { busy := some a } := by
  unfold State.walkMig
  rw [h]
  rfl

/-- The source of a move is lost (R222, R228). -/
def lostSource (s : State) (e : Nat) : Bool := leafLost e || anyQuarter (leafFrame e) (pageBytes (leafSize e)) s.quarterLost

/-- BUSY is set, and the page's revocation starts (R222). -/
def startMove (s : State) (m : Mig) (e a : Nat) : State :=
  ((s.putEntry m a (e + 2 ^ 7)).updMig m.id fun g => { g with stage := 1, leafAt := a, src := leafFrame e, size := leafSize e }).startRevoke
    { id := 0, core := m.core, ctx := m.ctx, step := m.step, mode := 0, va := m.va, space := leafSpace e, dev := true, mig := some m.id }

theorem walkMig_leaf {e a : Nat} (h : s.walkStep m.va m.xroot m.cur.next = .leaf e a) : s.walkMig m =
    if e.testBit 48 = false then s.endMig m 2
    else if s.badDest m.dst (pageOf (field 2 2 e)) = true then s.endMig m 3
    else if lostSource s e = true then s.endMig m 4
    else startMove s m e a := by
  unfold State.walkMig
  rw [h]
  dsimp only
  rw [show leafMig e = e.testBit 48 from rfl]
  simp only [Bool.not_eq_true']
  rfl

theorem startMove_entry {e a : Nat} (he : e < 2 ^ 64) (hb : e.testBit 7 = false) : Claims.entryAt (startMove s m e a) a = e + 2 ^ 7 := by
  have hlt : e + 2 ^ 7 < 2 ^ 64 := by
    have h7 : e / 2 ^ 7 % 2 = 0 := by simpa [Nat.testBit_eq_decide_div_mod_eq] using hb
    omega
  exact (entryAt_congr (s := s.putEntry m a (e + 2 ^ 7)) rfl a).trans (entryAt_putEntry s m a hlt)

theorem startMove_mem {e a b : Nat} (h : b < a ∨ a + 8 ≤ b) : (startMove s m e a).mem.get 0 b = s.mem.get 0 b := get_putEntry_out s m a (e + 2 ^ 7) h

theorem startMove_migs {e a : Nat} {g : Mig} (hg : g ∈ (startMove s m e a).migs) (hid : g.id = m.id) :
    g.stage = 1 ∧ g.src = leafFrame e ∧ g.size = leafSize e ∧ g.leafAt = a := by
  obtain ⟨v, -, rfl⟩ := List.mem_map.mp hg
  by_cases h : v.id = m.id
  · rw [if_pos h]
    exact ⟨rfl, rfl, rfl, rfl⟩
  · rw [if_neg h] at hid
    exact absurd hid h

theorem startMove_revokes (e a : Nat) : ∃ r ∈ (startMove s m e a).revokes, r.mig = some m.id ∧ r.mode = 0 ∧ r.va = m.va ∧ r.space = leafSpace e ∧
    r.dev = true ∧ r.cleared = false :=
  ⟨_, List.mem_append_right _ (List.mem_singleton_self _), rfl, rfl, rfl, rfl, rfl, rfl⟩

/-! ### A step of a move -/

theorem exec_pgmigMove (hf : s.migs.find? (fun v => decide (v.id = m.id)) = some m) : exec (.pgmigMove m.id) s =
    .next (if s.running = true ∧ m.stage = 2 ∧ s.routeStalled m.src = false then s.moveMig m else s) := by
  have h : exec (.pgmigMove m.id) s = execPgmigMove m.id s := rfl
  rw [h, execPgmigMove, hf]
  dsimp only
  unfold runEvent
  congr 2
  simp [and_assoc]

end

/-! ### The new leaf of a move -/

/-- The number with another value in a field. -/
def setField (lo n v e : Nat) : Nat := e - field lo n e * 2 ^ lo + v % 2 ^ n * 2 ^ lo

theorem split_field (lo n e : Nat) : e = 2 ^ lo * (2 ^ n * (e / 2 ^ (lo + n)) + field lo n e) + e % 2 ^ lo := by
  unfold field
  rw [Nat.pow_add, ← Nat.div_div_eq_div_mul, Nat.div_add_mod, Nat.div_add_mod]

theorem setField_eq (lo n v e : Nat) : setField lo n v e = 2 ^ lo * (2 ^ n * (e / 2 ^ (lo + n)) + v % 2 ^ n) + e % 2 ^ lo := by
  unfold setField
  have h := split_field lo n e
  rw [Nat.mul_add] at h ⊢
  rw [Nat.mul_comm (field lo n e), Nat.mul_comm (v % 2 ^ n)]
  generalize 2 ^ lo * (2 ^ n * (e / 2 ^ (lo + n))) = A at *
  generalize 2 ^ lo * field lo n e = B at *
  generalize 2 ^ lo * (v % 2 ^ n) = C at *
  omega

/-- The bits of the field are those of the new value, and the others stay. -/
theorem testBit_setField (lo n v e k : Nat) : (setField lo n v e).testBit k = if lo ≤ k ∧ k < lo + n then v.testBit (k - lo) else e.testBit k := by
  rw [setField_eq, Nat.testBit_two_pow_mul_add _ (Nat.mod_lt _ (Nat.two_pow_pos lo))]
  by_cases h1 : k < lo
  · rw [if_pos h1, if_neg (by omega), Nat.testBit_mod_two_pow, decide_eq_true h1, Bool.true_and]
  · rw [if_neg h1, Nat.testBit_two_pow_mul_add _ (Nat.mod_lt _ (Nat.two_pow_pos n))]
    by_cases h2 : k - lo < n
    · rw [if_pos h2, if_pos (by omega), Nat.testBit_mod_two_pow, decide_eq_true h2, Bool.true_and]
    · rw [if_neg h2, if_neg (by omega), Nat.testBit_div_two_pow]
      congr 1
      omega

theorem field_setField (lo n v e : Nat) : field lo n (setField lo n v e) = v % 2 ^ n := by
  refine Nat.eq_of_testBit_eq fun i => ?_
  unfold field
  rw [Nat.testBit_mod_two_pow, Nat.testBit_div_two_pow, testBit_setField, Nat.testBit_mod_two_pow]
  by_cases h : i < n
  · rw [if_pos (by omega), Nat.add_sub_cancel]
  · rw [decide_eq_false h, Bool.false_and, Bool.false_and]

/-- A leaf with BUSY clear. -/
def unbusy (e : Nat) : Nat := if leafBusy e then e - 2 ^ 7 else e

theorem unbusy_eq (e : Nat) : unbusy e = setField 7 1 0 e := by
  have hb : leafBusy e = decide (e / 2 ^ 7 % 2 = 1) := Nat.testBit_eq_decide_div_mod_eq
  unfold unbusy setField field
  rw [hb]
  by_cases h : e / 2 ^ 7 % 2 = 1
  · rw [if_pos (decide_eq_true h)]; omega
  · rw [if_neg (by simpa using h)]; omega

/-- The leaf that a move writes at its end (R222). -/
def movedLeaf (e dst : Nat) : Nat :=
  unbusy e - bitsOf 13 35 (unbusy e) * 2 ^ 13 - bitsOf 50 1 (unbusy e) * 2 ^ 50 + bitsOf 13 35 dst * 2 ^ 13

theorem movedLeaf_eq (e dst : Nat) : movedLeaf e dst = setField 13 35 (field 13 35 dst) (setField 50 1 0 (unbusy e)) := by
  unfold movedLeaf setField bitsOf field
  generalize unbusy e = u
  omega

theorem movedLeaf_bits (e dst k : Nat) : (movedLeaf e dst).testBit k =
    if 13 ≤ k ∧ k < 48 then (field 13 35 dst).testBit (k - 13) else if k = 50 ∨ k = 7 then false else e.testBit k := by
  rw [movedLeaf_eq, testBit_setField]
  by_cases h : 13 ≤ k ∧ k < 48
  · rw [if_pos h, if_pos h]
  · rw [if_neg h, if_neg h, testBit_setField, unbusy_eq, testBit_setField]
    by_cases h50 : k = 50
    · rw [if_pos (by omega), if_pos (.inl h50), Nat.zero_testBit]
    · rw [if_neg (by omega)]
      by_cases h7 : k = 7
      · rw [if_pos (by omega), if_pos (.inr h7), Nat.zero_testBit]
      · rw [if_neg (by omega), if_neg (by omega)]

theorem setField_lt {lo n v e : Nat} (h : e < 2 ^ 64) (hn : lo + n ≤ 64) : setField lo n v e < 2 ^ 64 := by
  refine Nat.lt_pow_two_of_testBit _ fun i hi => ?_
  rw [testBit_setField, if_neg (by omega)]
  exact Nat.testBit_lt_two_pow (Nat.lt_of_lt_of_le h (Nat.pow_le_pow_right (by decide) hi))

/-! ### The steps of a move -/

theorem State.mem_endMig (s : State) (m : Mig) (status : Nat) : (s.endMig m status).mem = s.mem := congrArg Memories.mem (State.memories_endMig s m status)

/-- A migration ends with a last write of its leaf. -/
def endWith (s : State) (m : Mig) (e status : Nat) : State := (s.putEntry m m.leafAt e).endMig m status

theorem endsMig_endWith (s : State) (m : Mig) (e status : Nat) : EndsMig s (endWith s m e status) m status :=
  endsMig_endMig (s.migs_putEntry m m.leafAt e) m status

theorem endWith_out (s : State) (m : Mig) (e status : Nat) {b : Nat} (h : b < m.leafAt ∨ m.leafAt + 8 ≤ b) :
    (endWith s m e status).mem.get 0 b = s.mem.get 0 b := by
  unfold endWith
  rw [State.mem_endMig, get_putEntry_out s m m.leafAt e h]

theorem endWith_entry (s : State) (m : Mig) {e : Nat} (status : Nat) (h : e < 2 ^ 64) : Claims.entryAt (endWith s m e status) m.leafAt = e :=
  (entryAt_congr (State.mem_endMig _ m status) m.leafAt).trans (entryAt_putEntry s m m.leafAt h)

/-- A step ends a migration with a status, and writes nothing but the leaf. -/
def EndsWriting (s : State) (m : Mig) (i : Instr) (status : Nat) (P : Nat → Prop) : Prop :=
  (∃ t, exec i s = .next t ∧ EndsMig s t m status) ∧ ∀ t, exec i s = .next t →
    (∀ b, (b < m.leafAt ∨ m.leafAt + 8 ≤ b) → t.mem.get 0 b = s.mem.get 0 b) ∧ P (Claims.entryAt t m.leafAt)

theorem endsWriting_endWith {s : State} {m : Mig} {i : Instr} {e status : Nat} {P : Nat → Prop} (hx : exec i s = .next (endWith s m e status))
    (he : e < 2 ^ 64) (hP : P e) : EndsWriting s m i status P := by
  refine ⟨⟨_, hx, endsMig_endWith s m e status⟩, fun t ht => ?_⟩
  obtain rfl := Host.Outcome.next.inj (hx.symm.trans ht)
  exact ⟨fun b hb => endWith_out s m e status hb, (endWith_entry s m status he).symm ▸ hP⟩

section
variable {s : State} {m : Mig}

theorem lostSource_iff (e : Nat) : lostSource s e = true ↔
    e.testBit 51 = true ∨ anyQuarter (field 13 35 e * 2 ^ 13) (pageOf (field 2 2 e)) s.quarterLost = true := (Bool.or_eq_true ..).to_iff

/-- A leaf without MIG may not move (R222). -/
theorem walkMig_notMigratable {e a : Nat} (h : s.walkStep m.va m.xroot m.cur.next = .leaf e a) (h48 : e.testBit 48 = false) :
    EndsMig s (s.walkMig m) m 2 := by
  rw [walkMig_leaf h, if_pos h48]
  exact endsMig_endMig rfl m 2

theorem walkMig_badDest {e a : Nat} (h : s.walkStep m.va m.xroot m.cur.next = .leaf e a) (h48 : e.testBit 48 = true)
    (hd : s.badDest m.dst (pageOf (field 2 2 e)) = true) : EndsMig s (s.walkMig m) m 3 := by
  rw [walkMig_leaf h, if_neg (ne_false_of_eq_true h48), if_pos hd]
  exact endsMig_endMig rfl m 3

theorem walkMig_lostSource {e a : Nat} (h : s.walkStep m.va m.xroot m.cur.next = .leaf e a) (h48 : e.testBit 48 = true)
    (hd : ¬ s.badDest m.dst (pageOf (field 2 2 e)) = true) (hl : lostSource s e = true) : EndsMig s (s.walkMig m) m 4 := by
  rw [walkMig_leaf h, if_neg (ne_false_of_eq_true h48), if_neg hd, if_pos hl]
  exact endsMig_endMig rfl m 4

theorem walkMig_startMove {e a : Nat} (h : s.walkStep m.va m.xroot m.cur.next = .leaf e a) (h48 : e.testBit 48 = true)
    (hd : ¬ s.badDest m.dst (pageOf (field 2 2 e)) = true) (hl : ¬ lostSource s e = true) : s.walkMig m = startMove s m e a := by
  rw [walkMig_leaf h, if_neg (ne_false_of_eq_true h48), if_neg hd, if_neg hl]

theorem unbusy_lt {e : Nat} (h : e < 2 ^ 64) : unbusy e < 2 ^ 64 := by
  rw [unbusy_eq]
  exact setField_lt h (by decide)

theorem movedLeaf_lt {e : Nat} (h : e < 2 ^ 64) (dst : Nat) : movedLeaf e dst < 2 ^ 64 := by
  rw [movedLeaf_eq]
  exact setField_lt (setField_lt (unbusy_lt h) (by decide)) (by decide)

theorem testBit_unbusy (e k : Nat) : (unbusy e).testBit k = (decide (k ≠ 7) && e.testBit k) := by
  rw [unbusy_eq, testBit_setField]
  by_cases h : k = 7
  · rw [if_pos (by omega), decide_eq_false (not_not.mpr h), Nat.zero_testBit]; rfl
  · rw [if_neg (by omega), decide_eq_true h]; rfl

theorem frame_movedLeaf (e dst : Nat) : field 13 35 (movedLeaf e dst) = field 13 35 dst := by
  rw [movedLeaf_eq, field_setField]
  exact Nat.mod_mod _ _

theorem sourceLost_iff : s.sourceLost m = true ↔ anyQuarter m.src (pageOf m.size) s.quarterLost = true ∨ s.routeLost m.src = true :=
  (Bool.or_eq_true ..).to_iff

theorem moveMig_eq : s.moveMig m =
    if s.sourceLost m = true then endWith s m (unbusy (Claims.entryAt s m.leafAt)) 4
    else if 64 * m.line < pageOf m.size then s.moveLine m
    else endWith s m (movedLeaf (Claims.entryAt s m.leafAt) m.dst) (if m.po then 5 else 0) := by
  unfold State.moveMig
  dsimp only
  rw [readNat_eq_entryAt]
  rfl

/-- A move whose source is lost clears BUSY and ends LINK_DOWN (R222, R228). -/
theorem moveMig_sourceLost {i : Instr} (hx : exec i s = .next (s.moveMig m)) (h : s.sourceLost m = true) :
    EndsWriting s m i 4 fun e => ∀ k < 64, e.testBit k = (decide (k ≠ 7) && (Claims.entryAt s m.leafAt).testBit k) := by
  rw [moveMig_eq, if_pos h] at hx
  exact endsWriting_endWith hx (unbusy_lt (entryAt_lt s _)) fun k _ => testBit_unbusy _ k

/-- A move that has copied its last line writes the new frame (R222). -/
theorem moveMig_last {i : Instr} (hx : exec i s = .next (s.moveMig m)) (h : ¬ s.sourceLost m = true) (hl : pageOf m.size ≤ 64 * m.line) :
    EndsWriting s m i (if m.po then 5 else 0) fun e => e.testBit 7 = false ∧ e.testBit 50 = false ∧ field 13 35 e = field 13 35 m.dst ∧
      ∀ k < 64, k ≠ 7 → k ≠ 50 → (k < 13 ∨ 48 ≤ k) → e.testBit k = (Claims.entryAt s m.leafAt).testBit k := by
  rw [moveMig_eq, if_neg h, if_neg (by omega)] at hx
  refine endsWriting_endWith hx (movedLeaf_lt (entryAt_lt s _) m.dst) ⟨movedLeaf_bits _ _ 7, movedLeaf_bits _ _ 50, frame_movedLeaf _ _, fun k _ h7 h50 hk => ?_⟩
  rw [movedLeaf_bits, if_neg (by omega), if_neg (by omega)]

theorem State.memories_moveSource (a : Nat) (i : LinkItem) (ag : Agent) :
    ((if tierOf a = 2 then s.sendPeer (chipOf a) i else s).watchPhys a 64 1 ag).memories = s.memories := by
  rw [State.memories_watchPhys]
  split
  · exact State.memories_sendPeer ..
  · rfl

theorem State.migs_sendPeer (s : State) (chip : Nat) (i : LinkItem) : (s.sendPeer chip i).migs = s.migs := by
  unfold State.sendPeer State.sendParcel
  split
  · split <;> rfl
  · rfl

theorem State.migs_moveSource (a : Nat) (i : LinkItem) (ag : Agent) :
    ((if tierOf a = 2 then s.sendPeer (chipOf a) i else s).watchPhys a 64 1 ag).migs = s.migs := by
  rw [State.migs_watchPhys]
  split
  · exact State.migs_sendPeer ..
  · rfl

/-- An aligned line is poisoned as a whole (R173). -/
theorem poisoned_line {a : Nat} (h : a % 64 = 0) : s.poisoned a 64 = s.poison.get false (a / 64) := by
  have h0 : a / 64 * 64 < a + 64 := by omega
  have h1 : ¬ (a / 64 + 1) * 64 < a + 64 := by omega
  have h2 : ¬ (a / 64 + 2) * 64 < a + 64 := by omega
  have hr : List.range (64 / 64 + 2) = [0, 1, 2] := rfl
  unfold State.poisoned
  rw [hr]
  simp only [List.any_cons, List.any_nil, Nat.add_zero, h0, h1, h2, decide_true, decide_false, Bool.true_and, Bool.false_and, Bool.or_false]

/-- The line that a move has reached, at its source and at its destination. -/
def srcLine (m : Mig) : Nat := m.src + 64 * m.line
def dstLine (m : Mig) : Nat := m.dst + 64 * m.line

theorem moveLine_memories (s : State) (m : Mig) : (s.moveLine m).mem = writeMasked s.mem (dstLine m) ((readBytes s.mem (srcLine m) 64).map some) ∧
    (s.moveLine m).poison = s.poison.put false (dstLine m / 64) (s.poisoned (srcLine m) 64) := by
  have hsrc := State.memories_moveSource (s := s) (srcLine m) (.read s.chip (peerLocal (srcLine m)) 64) (.pgmig m.core m.ctx)
  unfold State.moveLine State.peek
  dsimp only
  rw [show m.src + 64 * m.line = srcLine m from rfl, show m.dst + 64 * m.line = dstLine m from rfl]
  generalize (if tierOf (srcLine m) = 2 then _ else s : State).watchPhys (srcLine m) 64 1 (.pgmig m.core m.ctx) = u at *
  have hmem : u.mem = s.mem := congrArg Memories.mem hsrc
  have hpo : u.poison = s.poison := congrArg Memories.poison hsrc
  have hX (X : State) (a : Nat) (ag : Agent) (f : Mig → Mig) : ((X.watchPhys a 64 2 ag).updMig m.id f).mem = X.mem ∧
      ((X.watchPhys a 64 2 ag).updMig m.id f).poison = X.poison :=
    ⟨congrArg Memories.mem (State.memories_watchPhys X a 64 2 ag), congrArg Memories.poison (State.memories_watchPhys X a 64 2 ag)⟩
  rw [(hX ..).1, (hX ..).2, ← hmem, ← hpo]
  exact ⟨rfl, rfl⟩

theorem moveLine_migs (s : State) (m : Mig) : (s.moveLine m).migs =
    s.migs.map fun g => if g.id = m.id then { g with line := g.line + 1, po := g.po || s.poisoned (srcLine m) 64 } else g := by
  have hsrc := State.migs_moveSource (s := s) (srcLine m) (.read s.chip (peerLocal (srcLine m)) 64) (.pgmig m.core m.ctx)
  unfold State.moveLine State.peek
  dsimp only
  rw [show m.src + 64 * m.line = srcLine m from rfl, show m.dst + 64 * m.line = dstLine m from rfl]
  generalize (if tierOf (srcLine m) = 2 then _ else s : State).watchPhys (srcLine m) 64 1 (.pgmig m.core m.ctx) = u at *
  have hX (X : State) (a : Nat) (ag : Agent) (f : Mig → Mig) :
      ((X.watchPhys a 64 2 ag).updMig m.id f).migs = X.migs.map fun g => if g.id = m.id then f g else g := by
    unfold State.updMig
    rw [State.migs_watchPhys]
  exact (hX ..).trans (congrArg (List.map _) hsrc)

/-- The bytes of the line, and its poison (R222, R447). -/
theorem moveLine_bytes (s : State) (m : Mig) :
    (∀ b, (b < dstLine m ∨ dstLine m + 64 ≤ b) → (s.moveLine m).mem.get 0 b = s.mem.get 0 b) ∧
    ∀ i < 64, (s.moveLine m).mem.get 0 (dstLine m + i) = s.mem.get 0 (srcLine m + i) := by
  have hl : ((readBytes s.mem (srcLine m) 64).map some).length = 64 := by unfold readBytes; simp
  rw [(moveLine_memories s m).1]
  refine ⟨fun b h => get_writeMasked_out _ _ _ (by rwa [hl]), fun i hi => ?_⟩
  rw [get_writeMasked_in _ _ _ (by rwa [hl])]
  simp [readBytes]

theorem moveLine_poison (s : State) {m : Mig} (h : srcLine m % 64 = 0) (l : Nat) : (s.moveLine m).poison.get false l =
    s.poison.get false (if l = dstLine m / 64 then srcLine m / 64 else l) := by
  rw [(moveLine_memories s m).2, SMap.get_put, poisoned_line h]
  split <;> rfl

end

end Sys2Proof.Machine

open Sys2Proof Sys2Proof.Machine Sys2Proof.Claims

/-- Settles O26: the slot outcomes of `tlbinv` and `pgmig`; the clear by what it does to one core; a step of the walk by the entry that it reads; a step of
the move by the fields of the leaf and the bytes of the line that it writes. -/
theorem revocationAndMigration : Obligations.RevocationAndMigration := by
  unfold Obligations.RevocationAndMigration
  refine ⟨⟨fun s pd a b mode dev h => exec_tlbinv h, fun s a b h => exec_pgmig h,
    fun s id r hf hm => ⟨fun hc => ?_, fun hc ha => ?_, fun hc ha hq hl hg p hp => ?_⟩⟩, fun s id m hf => ?_⟩
  · refine ⟨_, exec_revocation_clear hf hc, rfl, fun q hq hid => State.clearHandles_cleared hq (hid.trans (find_revoke_id hf).symm),
      fun c => ⟨fun ⟨hd, hne⟩ => ?_, fun hin => ?_⟩⟩
    · rw [State.core_clearHandles, if_neg (by simp [Revoke.reaches, hd, hne])]
    · exact State.clearHandles_in_scope hm (by simpa [Revoke.reaches] using hin)
  · exact exec_revocation_waits hf hc ha
  · exact ⟨_, exec_revocation_done hf hc ha hq hl hg hp, rfl, rfl, rfl, _, List.mem_append_right _ (List.mem_singleton_self _), rfl, rfl, rfl, rfl, rfl⟩
  · obtain rfl := find_mig_id hf
    dsimp only
    refine ⟨fun hs hw hr hb => ?_, fun h => ?_, fun hs hr hst => ?_⟩
    · have hx := exec_walkComplete_mig hf hs hw hr hb
      refine ⟨fun hn hroot => ⟨_, hx, walkMig_fail (hn ▸ walkStep_of_not_rootOk hroot)⟩, fun lvl t hat => ?_⟩
      have hstep := walkStep_of_readsAt hat
      refine ⟨fun hp => ⟨_, hx, walkMig_fail (hstep.trans (walkEntry_poisoned hp))⟩,
        fun hp hl hg => ⟨_, hx, walkMig_fail (hstep.trans (walkEntry_fail hp rfl hat.1 hl hg))⟩,
        fun hp hg => hx.trans (congrArg _ (walkMig_down (hstep.trans (walkEntry_pointer hp rfl hg)))), fun hp hg => ?_⟩
      have hleaf : s.walkStep m.va m.xroot m.cur.next = if (Claims.entryAt s (slotOf m.va lvl t)).testBit 7 = true then .busy (slotOf m.va lvl t)
          else .leaf (Claims.entryAt s (slotOf m.va lvl t)) (slotOf m.va lvl t) := hstep.trans (walkEntry_leaf hp rfl hat.1 hg)
      have hready (h7) := hleaf.trans (if_neg (ne_true_of_eq_false h7))
      refine ⟨fun h7 => hx.trans (congrArg _ (walkMig_busy (hleaf.trans (if_pos h7)))), fun h7 h48 => ⟨_, hx, walkMig_notMigratable (hready h7) h48⟩,
        fun h7 h48 hd => ⟨_, hx, walkMig_badDest (hready h7) h48 ((badDest_iff ..).mpr hd)⟩,
        fun h7 h48 hd hl => ⟨_, hx, walkMig_lostSource (hready h7) h48 ((badDest_iff ..).not.mpr hd) ((lostSource_iff _).mpr hl)⟩,
        fun h7 h48 hd hl => ?_⟩
      have hw := walkMig_startMove (hready h7) h48 ((badDest_iff ..).not.mpr hd) ((lostSource_iff _).not.mpr hl)
      exact ⟨_, hx.trans (congrArg _ hw), startMove_entry (entryAt_lt s _) h7, fun b hb => startMove_mem hb, fun g hg hid => startMove_migs hg hid,
        startMove_revokes _ _⟩
    · rw [exec_pgmigMove hf, if_neg]
      rintro ⟨-, h1, h2⟩
      obtain h | h := h
      · exact h h1
      · rw [h] at h2; nomatch h2
    · have hx : exec (.pgmigMove m.id) s = .next (s.moveMig m) := by rw [exec_pgmigMove hf, if_pos ⟨hr, hs, hst⟩]
      refine ⟨fun hg => moveMig_sourceLost hx (sourceLost_iff.mpr hg), fun hg hlt hsrc hdst => ?_, fun hg hle => moveMig_last hx (sourceLost_iff.not.mpr hg) hle⟩
      rw [moveMig_eq, if_neg (sourceLost_iff.not.mpr hg), if_pos hlt] at hx
      have hline : srcLine m % 64 = 0 := by unfold srcLine; omega
      obtain ⟨hout, hin⟩ := moveLine_bytes s m
      exact ⟨_, hx, hout, hin, moveLine_poison s hline, poisoned_line (s := s) hline ▸ moveLine_migs s m⟩
end

section
/-! ## Fields of a slot word (R52, R56, R57) -/

namespace Sys2Proof

/-! ### Packing and unpacking -/

theorem unpack_pack (l : List (Nat × Nat)) : unpack (l.map Prod.fst) (pack l) = l.map fun e => e.2 % 2 ^ e.1 := by
  induction l with
  | nil => rfl
  | cons e l ih =>
    have hp := Nat.two_pow_pos e.1
    simp [unpack, pack, Nat.add_mul_div_left _ _ hp, Nat.div_eq_of_lt (Nat.mod_lt e.2 hp), ih]

theorem pack_zip_unpack (ws : List Nat) (w : Nat) : pack (ws.zip (unpack ws w)) = w % 2 ^ ws.sum := by
  induction ws generalizing w with
  | nil => simp [unpack, pack, Nat.mod_one]
  | cons n ws ih => simp [unpack, pack, ih, Nat.pow_add, Nat.mod_mul]

theorem unpack_append (a b : List Nat) (w : Nat) : unpack (a ++ b) w = unpack a w ++ unpack b (w / 2 ^ a.sum) := by
  induction a generalizing w with
  | nil => simp [unpack]
  | cons n a ih => simp [unpack, ih, Nat.pow_add, Nat.div_div_eq_div_mul]

@[simp] theorem unpack_length (ws : List Nat) (w : Nat) : (unpack ws w).length = ws.length := by
  induction ws generalizing w with
  | nil => rfl
  | cons n ws ih => simp [unpack, ih]

theorem pack_lt (l : List (Nat × Nat)) : pack l < 2 ^ (l.map Prod.fst).sum := by
  induction l with
  | nil => simp [pack]
  | cons e l ih =>
    have hm := Nat.mod_lt e.2 (Nat.two_pow_pos e.1)
    simp only [pack, List.map_cons, List.sum_cons, Nat.pow_add]
    calc e.2 % 2 ^ e.1 + 2 ^ e.1 * pack l < 2 ^ e.1 * (pack l + 1) := by rw [Nat.mul_succ]; omega
      _ ≤ 2 ^ e.1 * 2 ^ (l.map Prod.fst).sum := Nat.mul_le_mul_left _ ih

/-! ### Signed fields (R73) -/

theorem fieldOf_lt (n : Nat) (i : Int) : fieldOf n i < 2 ^ n := by
  have hp : (0 : Int) < (2 ^ n : Nat) := mod_cast Nat.two_pow_pos n
  have h1 := Int.emod_nonneg i hp.ne'
  have h2 := Int.emod_lt_of_pos i hp
  unfold fieldOf
  omega

theorem sextNat_mod (n w : Nat) : sextNat n (w % 2 ^ n) = sextNat n w := by simp [sextNat]

theorem fieldOf_sextNat (n w : Nat) : fieldOf n (sextNat n w) = w % 2 ^ n := by
  have hc : ((w % 2 ^ n : Nat) : Int) % ((2 ^ n : Nat) : Int) = (w % 2 ^ n : Nat) := mod_cast Nat.mod_mod w (2 ^ n)
  unfold fieldOf sextNat
  split
  · rw [hc, Int.toNat_natCast]
  · rw [Int.sub_emod_right, hc, Int.toNat_natCast]

theorem sextNat_fieldOf {n : Nat} {i : Int} (hn : 0 < n) (h : fitsS n i = true) : sextNat n (fieldOf n i) = i := by
  obtain ⟨m, rfl⟩ : ∃ m, n = m + 1 := ⟨n - 1, by omega⟩
  simp only [fitsS, Nat.add_sub_cancel, Bool.and_eq_true, decide_eq_true_eq] at h
  obtain ⟨hlo, hhi⟩ := h
  have hp : (2 ^ (m + 1) : Nat) = 2 * 2 ^ m := by rw [Nat.pow_succ, Nat.mul_comm]
  rw [sextNat, Nat.mod_eq_of_lt (fieldOf_lt _ _), fieldOf, Nat.add_sub_cancel, hp]
  have hc : ((2 ^ m : Nat) : Int) = (2 : Int) ^ m := by norm_cast
  rw [← hc] at hlo hhi
  generalize (2 ^ m : Nat) = p at *
  by_cases h0 : 0 ≤ i
  · rw [Int.emod_eq_of_lt h0 (by omega)]
    split <;> omega
  · have he : i % ((2 * p : Nat) : Int) = i + (2 * p : Nat) := by
      rw [← Int.add_emod_right, Int.emod_eq_of_lt (by omega) (by omega)]
    rw [he]
    split <;> omega

@[simp] theorem sextNat_fieldOf_mod {n : Nat} {i : Int} (h : fitsS n i = true) (hn : 0 < n) : sextNat n (fieldOf n i % 2 ^ n) = i := by
  rw [sextNat_mod, sextNat_fieldOf hn h]

/-! ### Coded fields (R57) -/

@[simp] theorem boolNat_beq_one (b : Bool) : (boolNat b == 1) = b := by cases b <;> rfl

theorem boolNat_lt (b : Bool) : boolNat b < 2 ^ 1 := by cases b <;> decide

theorem boolNat_bitOf (i w : Nat) : boolNat (bitOf i w) = w / 2 ^ i % 2 := by
  rw [bitOf, Nat.testBit_eq_decide_div_mod_eq]
  rcases Nat.mod_two_eq_zero_or_one (w / 2 ^ i) with h | h <;> rw [h] <;> rfl

theorem boolNat_eq_of_lt {n : Nat} (h : n < 2) : boolNat (n == 1) = n := by interval_cases n <;> rfl

@[simp] theorem tyOf_tyCode (x : Ty) : tyOf (tyCode x) = some x := by cases x <;> rfl

theorem tyCode_lt (x : Ty) : tyCode x < 2 ^ 4 := by cases x <;> decide

theorem tyOf_eq_some {n : Nat} {x : Ty} : tyOf n = some x ↔ n = tyCode x := by
  refine ⟨fun h => ?_, fun h => h ▸ tyOf_tyCode x⟩
  unfold tyOf at h
  split at h <;> cases h <;> rfl

@[simp] theorem mdOf_mdCode (x : Rnd) : mdOf (mdCode x) = some x := by cases x <;> rfl

theorem mdCode_lt (x : Rnd) : mdCode x < 2 ^ 2 := by cases x <;> decide

theorem mdOf_eq_some {n : Nat} {x : Rnd} : mdOf n = some x ↔ n = mdCode x := by
  refine ⟨fun h => ?_, fun h => h ▸ mdOf_mdCode x⟩
  unfold mdOf at h
  split at h <;> cases h <;> rfl

@[simp] theorem ccOf_ccCode (x : CC) : ccOf (ccCode x) = some x := by cases x <;> rfl

theorem ccCode_lt (x : CC) : ccCode x < 2 ^ 4 := by cases x <;> decide

theorem ccOf_eq_some {n : Nat} {x : CC} : ccOf n = some x ↔ n = ccCode x := by
  refine ⟨fun h => ?_, fun h => h ▸ ccOf_ccCode x⟩
  unfold ccOf at h
  split at h <;> cases h <;> rfl

@[simp] theorem hintOf_hintCode (x : Hint) : hintOf (hintCode x) = some x := by cases x <;> rfl

theorem hintCode_lt (x : Hint) : hintCode x < 2 ^ 2 := by cases x <;> decide

theorem hintOf_eq_some {n : Nat} {x : Hint} : hintOf n = some x ↔ n = hintCode x := by
  refine ⟨fun h => ?_, fun h => h ▸ hintOf_hintCode x⟩
  unfold hintOf at h
  split at h <;> cases h <;> rfl

@[simp] theorem ordOf_ordCode (x : MemOrd) : ordOf (ordCode x) = some x := by cases x <;> rfl

theorem ordCode_lt (x : MemOrd) : ordCode x < 2 ^ 2 := by cases x <;> decide

theorem ordOf_eq_some {n : Nat} {x : MemOrd} : ordOf n = some x ↔ n = ordCode x := by
  refine ⟨fun h => ?_, fun h => h ▸ ordOf_ordCode x⟩
  unfold ordOf at h
  split at h <;> cases h <;> rfl

@[simp] theorem scOf_scCode (x : Scope) : scOf (scCode x) = some x := by cases x <;> rfl

theorem scCode_lt (x : Scope) : scCode x < 2 ^ 3 := by cases x <;> decide

theorem scOf_eq_some {n : Nat} {x : Scope} : scOf n = some x ↔ n = scCode x := by
  refine ⟨fun h => ?_, fun h => h ▸ scOf_scCode x⟩
  unfold scOf at h
  split at h <;> cases h <;> rfl

@[simp] theorem shufOf_shufCode (x : Shuf) : shufOf (shufCode x) = some x := by cases x <;> rfl

theorem shufCode_lt (x : Shuf) : shufCode x < 2 ^ 8 := by cases x <;> decide

theorem shufOf_eq_some {n : Nat} {x : Shuf} : shufOf n = some x ↔ n = shufCode x := by
  refine ⟨fun h => ?_, fun h => h ▸ shufOf_shufCode x⟩
  unfold shufOf at h
  split at h <;> cases h <;> rfl

@[simp] theorem redOf_redCode (x : RedOp) : redOf (redCode x) = some x := by cases x <;> rfl

theorem redCode_lt (x : RedOp) : redCode x < 2 ^ 8 := by cases x <;> decide

theorem redOf_eq_some {n : Nat} {x : RedOp} : redOf n = some x ↔ n = redCode x := by
  refine ⟨fun h => ?_, fun h => h ▸ redOf_redCode x⟩
  unfold redOf at h
  split at h <;> cases h <;> rfl

@[simp] theorem blkOf_blkCode (x : BlkW) : blkOf (blkCode x) = some x := by cases x <;> rfl

theorem blkCode_lt (x : BlkW) : blkCode x < 2 ^ 2 := by cases x <;> decide

theorem blkOf_eq_some {n : Nat} {x : BlkW} : blkOf n = some x ↔ n = blkCode x := by
  refine ⟨fun h => ?_, fun h => h ▸ blkOf_blkCode x⟩
  unfold blkOf at h
  split at h <;> cases h <;> rfl

@[simp] theorem szOf_szCode {n : Nat} (h : isSz n = true) : szOf (szCode n) = some n := by
  simp only [isSz, Bool.or_eq_true, beq_iff_eq] at h
  obtain ((rfl | rfl) | rfl) | rfl := h <;> rfl

theorem szCode_lt (n : Nat) : szCode n < 2 ^ 3 := by
  unfold szCode
  split <;> decide

theorem szOf_eq_some {n k : Nat} : szOf n = some k ↔ n = szCode k ∧ isSz k = true := by
  refine ⟨fun h => ?_, fun h => h.1 ▸ szOf_szCode h.2⟩
  unfold szOf at h
  split at h <;> cases h <;> exact ⟨rfl, rfl⟩

/-! ### The layout of an opcode's word (R56) -/

/-- The widths of the fields of an opcode's word, and the instruction that they stand for before the range checks. -/
def formatOf (opc : Nat) : List Nat × (List Nat → Option Instr) :=
  if opc ≤ 0x23 then (aluW, fun l => decodeAlu opc (aluF l))
  else if opc ≤ 0x2E then (immW, fun l => decodeImm opc (immF l))
  else if opc = 0x2F then (limW, fun l => some (.lim (l.getD 1 0) (sextNat 48 (l.getD 0 0))))
  else if opc ≤ 0x46 then (braW, fun l => decodeBra opc (braF l))
  else if opc ≤ 0xAA then (aluW, fun l => decodeVec opc (aluF l))
  else if opc ≤ 0x10A then (tilW, fun l => decodeTil opc (tilF l))
  else if opc ≤ 0x184 then (memW, fun l => decodeMem opc (memF l))
  else if opc ≤ 0x18F then (amoW, fun l => decodeAmo opc (amoF l))
  else if opc = 0x1C7 then (calW, decodeCal)
  else if opc ≤ 0x1D1 then (engW, fun l => decodeEng opc (engF l))
  else if opc ≤ 0x211 then (synW, fun l => decodeSynA opc (synF l))
  else if opc ≤ 0x221 then (synW, fun l => decodeSynB opc (synF l))
  else ([43, 6] ++ hdrW, fun l => some (.vendorDiagnostic (opc - 0x3C0) (l.getD 1 0) (l.getD 0 0)))

theorem candidate_eq (opc w : Nat) : candidate opc w = (formatOf opc).2 (unpack (formatOf opc).1 w) := by
  unfold candidate formatOf
  simp only [apply_ite fun F : List Nat × (List Nat → Option Instr) => F.2 (unpack F.1 w)]
  rfl

/-- The fields fill the word. -/
theorem formatOf_sum (opc : Nat) : (formatOf opc).1.sum = 64 := by
  unfold formatOf
  simp only [apply_ite fun F : List Nat × (List Nat → Option Instr) => F.1.sum, aluW, immW, limW, braW, tilW, memW, amoW, calW, engW, synW, hdrW]
  simp

/-- Every format but LIM ends in the header of R52. -/
theorem bitsOf_pack_encHdr {fs : List (Nat × Nat)} (hs : (fs.map Prod.fst).sum = 49) (g : Guard) {opc : Nat} (hg : g.pred < 16) (ho : opc < 2 ^ 10) :
    bitsOf 54 10 (pack (fs ++ encHdr g opc)) = opc ∧ bitOf 53 (pack (fs ++ encHdr g opc)) = g.neg ∧ bitsOf 49 4 (pack (fs ++ encHdr g opc)) = g.pred := by
  have h := Laws.Opcode.pack_append fs (encHdr g opc)
  rw [hs] at h
  generalize pack (fs ++ encHdr g opc) = w at h ⊢
  have hp : pack (encHdr g opc) = g.pred + 16 * (boolNat g.neg + 2 * opc) := by
    have := boolNat_lt g.neg
    simp only [encHdr, pack]
    omega
  have hn := boolNat_lt g.neg
  have hb : boolNat g.neg = 1 ↔ g.neg = true := by cases g.neg <;> decide
  rw [hp] at h
  refine ⟨?_, ?_, ?_⟩
  · unfold bitsOf; omega
  · rw [bitOf, Nat.testBit_eq_decide_div_mod_eq, ← Bool.coe_iff_coe, decide_eq_true_eq, ← hb]
    omega
  · unfold bitsOf; omega

theorem pack_encHdr_lt {fs : List (Nat × Nat)} (hs : (fs.map Prod.fst).sum = 49) (g : Guard) (opc : Nat) : pack (fs ++ encHdr g opc) < 2 ^ 64 := by
  have h := pack_lt (fs ++ encHdr g opc)
  simpa [hs, encHdr] using h

/-- Every value fits its field. -/
def InFields (l : List (Nat × Nat)) : Prop := ∀ e ∈ l, e.2 < 2 ^ e.1

theorem inFields_nil : InFields [] ↔ True := by simp [InFields]

theorem inFields_cons (n v : Nat) (l : List (Nat × Nat)) : InFields ((n, v) :: l) ↔ v < 2 ^ n ∧ InFields l := by simp [InFields]

/-- The word of a well-formed instruction under a guard decodes to both. -/
theorem decodeBody_pack {g : Guard} {i : Instr} {fs : List (Nat × Nat)} {opc : Nat} {F : List Nat → Option Instr} (hg : g.wf = true) (hi : i.wf = true)
    (hf : formatOf opc = (fs.map Prod.fst ++ hdrW, F)) (ho : opc ≠ 0x2F ∧ opc < 2 ^ 10) (hb : InFields fs)
    (hd : F (fs.map Prod.snd ++ [g.pred, boolNat g.neg, opc]) = some i) : decodeBody (BitVec.ofNat 64 (pack (fs ++ encHdr g opc))).toNat = some (g, i) := by
  have hs : (fs.map Prod.fst).sum = 49 := by
    have h := formatOf_sum opc
    rw [hf, List.sum_append] at h
    simpa [hdrW] using h
  have hp : g.pred < 2 ^ 4 := by
    simp only [Guard.wf, isP, Bool.and_eq_true, decide_eq_true_eq] at hg
    exact hg.1
  obtain ⟨h1, h2, h3⟩ := bitsOf_pack_encHdr hs g hp ho.2
  have hc : candidate opc (pack (fs ++ encHdr g opc)) = some i := by
    have he : (fs.map Prod.fst ++ hdrW) = (fs ++ encHdr g opc).map Prod.fst := by rw [List.map_append]; rfl
    rw [candidate_eq, hf, ← hd]
    dsimp only
    rw [he, unpack_pack, List.map_append]
    simp only [encHdr, List.map_cons, List.map_nil, Nat.mod_eq_of_lt hp, Nat.mod_eq_of_lt (boolNat_lt _), Nat.mod_eq_of_lt ho.2]
    exact congrArg (fun l => F (l ++ _)) (List.map_congr_left fun e he => Nat.mod_eq_of_lt (hb e he))
  rw [BitVec.toNat_ofNat, Nat.mod_eq_of_lt (pack_encHdr_lt hs g opc)]
  unfold decodeBody guardOf
  simp only [h1, h2, h3, hc, if_neg ho.1, hg, hi, Bool.and_self, if_true]

/-- A word is its fields, its guard and its opcode. -/
theorem pack_unpack {ws : List Nat} {w : Nat} (hs : ws.sum = 49) (hw : w < 2 ^ 64) (ho : bitsOf 54 10 w ≠ 0x2F) :
    pack (ws.zip (unpack ws w) ++ encHdr (guardOf (bitsOf 54 10 w) w) (bitsOf 54 10 w)) = w := by
  have hh : encHdr (guardOf (bitsOf 54 10 w) w) (bitsOf 54 10 w) = hdrW.zip (unpack hdrW (w / 2 ^ 49)) := by
    have hb : boolNat (bitOf 53 w) = w / 2 ^ 49 / 2 ^ 4 % 2 ^ 1 := by
      rw [boolNat_bitOf, Nat.div_div_eq_div_mul]
      rfl
    rw [guardOf, if_neg ho, encHdr, hb]
    simp only [hdrW, unpack, bitsOf, List.zip_cons_cons, List.zip_nil_right, Nat.div_div_eq_div_mul, ← Nat.pow_add]
  have hz : ws.zip (unpack ws w) ++ hdrW.zip (unpack hdrW (w / 2 ^ 49)) = (ws ++ hdrW).zip (unpack (ws ++ hdrW) w) := by
    rw [unpack_append, hs, List.zip_append (by simp)]
  have h64 : (ws ++ hdrW).sum = 64 := by rw [List.sum_append, hs]; rfl
  rw [hh, hz, pack_zip_unpack, h64, Nat.mod_eq_of_lt hw]

end Sys2Proof
end

section
/-! ## The word of an instruction decodes to it (O54) -/

namespace Sys2Proof

/-! ### The fields of each format (R56) -/

def AluF.fields (f : AluF) : List (Nat × Nat) :=
  [(8, f.aux), (4, f.cc), (4, f.ty2), (2, f.md), (4, f.ty), (3, f.k), (6, f.c), (6, f.b), (6, f.a), (6, f.d)]

def ImmF.fields (f : ImmF) : List (Nat × Nat) :=
  [(33, f.imm), (4, f.cc), (6, f.a), (6, f.d)]

def BraF.fields (f : BraF) : List (Nat × Nat) :=
  [(16, f.off), (26, f.rsv), (1, f.av), (6, f.a)]

def TilF.fields (f : TilF) : List (Nat × Nat) :=
  [(11, f.rsv), (16, f.imm), (1, f.va), (2, f.md), (4, f.ty), (6, f.b), (6, f.a), (3, f.t)]

def MemF.fields (f : MemF) : List (Nat × Nat) :=
  [(22, f.disp), (3, f.k), (2, f.ord), (2, f.hint), (3, f.sz), (6, f.a), (4, f.h), (1, f.sp), (6, f.d)]

def AmoF.fields (f : AmoF) : List (Nat × Nat) :=
  [(9, f.disp), (4, f.ty), (6, f.c), (6, f.b), (2, f.ord), (2, f.hint), (3, f.sz), (6, f.a), (4, f.h), (1, f.sp), (6, f.d)]

def EngF.fields (f : EngF) : List (Nat × Nat) :=
  [(26, f.imm), (3, f.q), (4, f.pd), (6, f.b), (6, f.a), (4, f.h)]

def SynF.fields (f : SynF) : List (Nat × Nat) :=
  [(9, f.rsv), (1, f.dec), (2, f.ord), (3, f.sc), (4, f.pd), (6, f.a), (16, f.imm), (8, f.n)]

theorem decodeBody_encAlu {g : Guard} {i : Instr} {f : AluF} {opc : Nat} {D : Nat → AluF → Option Instr} (hg : g.wf = true) (hi : i.wf = true)
    (hf : formatOf opc = (aluW, fun l => D opc (aluF l))) (ho : opc ≠ 0x2F ∧ opc < 2 ^ 10) (hb : InFields f.fields) (hd : D opc f = some i) :
    decodeBody (BitVec.ofNat 64 (encAlu g opc f)).toNat = some (g, i) := decodeBody_pack (fs := f.fields) hg hi hf ho hb hd

theorem decodeBody_encImm {g : Guard} {i : Instr} {f : ImmF} {opc : Nat} (hg : g.wf = true) (hi : i.wf = true)
    (hf : formatOf opc = (immW, fun l => decodeImm opc (immF l))) (ho : opc ≠ 0x2F ∧ opc < 2 ^ 10) (hb : InFields f.fields) (hd : decodeImm opc f = some i) :
    decodeBody (BitVec.ofNat 64 (encImm g opc f)).toNat = some (g, i) := decodeBody_pack (fs := f.fields) hg hi hf ho hb hd

theorem decodeBody_encBra {g : Guard} {i : Instr} {f : BraF} {opc : Nat} (hg : g.wf = true) (hi : i.wf = true)
    (hf : formatOf opc = (braW, fun l => decodeBra opc (braF l))) (ho : opc ≠ 0x2F ∧ opc < 2 ^ 10) (hb : InFields f.fields) (hd : decodeBra opc f = some i) :
    decodeBody (BitVec.ofNat 64 (encBra g opc f)).toNat = some (g, i) := decodeBody_pack (fs := f.fields) hg hi hf ho hb hd

theorem decodeBody_encTil {g : Guard} {i : Instr} {f : TilF} {opc : Nat} (hg : g.wf = true) (hi : i.wf = true)
    (hf : formatOf opc = (tilW, fun l => decodeTil opc (tilF l))) (ho : opc ≠ 0x2F ∧ opc < 2 ^ 10) (hb : InFields f.fields) (hd : decodeTil opc f = some i) :
    decodeBody (BitVec.ofNat 64 (encTil g opc f)).toNat = some (g, i) := decodeBody_pack (fs := f.fields) hg hi hf ho hb hd

theorem decodeBody_encMem {g : Guard} {i : Instr} {f : MemF} {opc : Nat} (hg : g.wf = true) (hi : i.wf = true)
    (hf : formatOf opc = (memW, fun l => decodeMem opc (memF l))) (ho : opc ≠ 0x2F ∧ opc < 2 ^ 10) (hb : InFields f.fields) (hd : decodeMem opc f = some i) :
    decodeBody (BitVec.ofNat 64 (encMem g opc f)).toNat = some (g, i) := decodeBody_pack (fs := f.fields) hg hi hf ho hb hd

theorem decodeBody_encAmo {g : Guard} {i : Instr} {f : AmoF} {opc : Nat} (hg : g.wf = true) (hi : i.wf = true)
    (hf : formatOf opc = (amoW, fun l => decodeAmo opc (amoF l))) (ho : opc ≠ 0x2F ∧ opc < 2 ^ 10) (hb : InFields f.fields) (hd : decodeAmo opc f = some i) :
    decodeBody (BitVec.ofNat 64 (encAmo g opc f)).toNat = some (g, i) := decodeBody_pack (fs := f.fields) hg hi hf ho hb hd

theorem decodeBody_encEng {g : Guard} {i : Instr} {f : EngF} {opc : Nat} (hg : g.wf = true) (hi : i.wf = true)
    (hf : formatOf opc = (engW, fun l => decodeEng opc (engF l))) (ho : opc ≠ 0x2F ∧ opc < 2 ^ 10) (hb : InFields f.fields) (hd : decodeEng opc f = some i) :
    decodeBody (BitVec.ofNat 64 (encEng g opc f)).toNat = some (g, i) := decodeBody_pack (fs := f.fields) hg hi hf ho hb hd

theorem decodeBody_encSyn {g : Guard} {i : Instr} {f : SynF} {opc : Nat} {D : Nat → SynF → Option Instr} (hg : g.wf = true) (hi : i.wf = true)
    (hf : formatOf opc = (synW, fun l => D opc (synF l))) (ho : opc ≠ 0x2F ∧ opc < 2 ^ 10) (hb : InFields f.fields) (hd : D opc f = some i) :
    decodeBody (BitVec.ofNat 64 (encSyn g opc f)).toNat = some (g, i) := decodeBody_pack (fs := f.fields) hg hi hf ho hb hd

/-! ### The slots in turn -/

theorem decodeBody_of_encS {g : Guard} {i : Instr} {n : Nat} (hg : g.wf = true) (hi : i.wf = true) (hl : ∀ d m, i ≠ .lim d m) (h : encS g i = some n) :
    decodeBody (BitVec.ofNat 64 n).toNat = some (g, i) := by
  have hw := hi
  unfold encS at h
  split at h <;> simp only [Option.some.injEq, reduceCtorEq] at h <;> subst h <;>
    simp only [Instr.wf, dab, ppp, isS, isP, Bool.and_eq_true, decide_eq_true_eq] at hw
  iterate 35
    · refine decodeBody_encAlu hg hi rfl (by decide) ?_ ?_
      · simp only [AluF.fields, inFields_cons, inFields_nil, a3, ccCode_lt, true_and, and_true]
        omega
      · unfold decodeAlu
        simp [alu3, alu2, only, a3, Nat.sub_add_cancel, hw]
  iterate 9
    · refine decodeBody_encImm hg hi rfl (by decide) ?_ ?_
      · simp only [ImmF.fields, inFields_cons, inFields_nil, ccCode_lt, fieldOf_lt, true_and, and_true]
        omega
      · unfold decodeImm
        simp [only, sextNat_fieldOf, hw]
  · exact absurd rfl (hl _ _)
  iterate 2
    · refine decodeBody_encImm hg hi rfl (by decide) ?_ ?_
      · simp only [ctlNum, decide_eq_true_eq] at hw
        simp only [ImmF.fields, inFields_cons, inFields_nil, and_true]
        omega
      · rfl
  iterate 7
    · refine decodeBody_encBra hg hi rfl (by decide) ?_ ?_
      · simp only [BraF.fields, inFields_cons, inFields_nil, fieldOf_lt, boolNat_lt, true_and, and_true]
        omega
      · unfold decodeBra
        simp [only, sextNat_fieldOf, hw]

@[simp] theorem mdCode_rne : mdCode .rne = 0 := rfl
@[simp] theorem tyCode_f32 : tyCode .f32 = 0 := rfl

theorem Ty.lanes_le (t : Ty) : t.lanes ≤ 256 := by cases t <;> decide

theorem Ty.blockParts_le (t : Ty) : blockParts t.bits ≤ 8 := by cases t <;> decide

theorem decodeBody_of_encV {g : Guard} {i : Instr} {n : Nat} (hg : g.wf = true) (hi : i.wf = true) (h : encV g i = some n) :
    decodeBody (BitVec.ofNat 64 n).toNat = some (g, i) := by
  have hw := hi
  unfold encV at h
  split at h <;> simp only [Option.some.injEq, reduceCtorEq] at h <;> subst h <;>
    simp only [Instr.wf, vabk, isS, isV, isK, Bool.and_eq_true, decide_eq_true_eq] at hw
  all_goals
    refine decodeBody_encAlu hg hi rfl (by decide) ?_ ?_
    · simp only [AluF.fields, inFields_cons, inFields_nil, a3, vA, ccCode_lt, tyCode_lt, mdCode_lt, shufCode_lt, redCode_lt, mdCode_rne, tyCode_f32,
        true_and, and_true]
      grind [Ty.lanes_le, Ty.blockParts_le]
    · unfold decodeVec
      simp [vF3, vF4, vI3, vI2, vMask, only, a3, vA]

theorem decodeBody_of_encM {g : Guard} {i : Instr} {n : Nat} (hg : g.wf = true) (hi : i.wf = true) (h : encM g i = some n) :
    decodeBody (BitVec.ofNat 64 n).toNat = some (g, i) := by
  have hw := hi
  unfold encM at h
  split at h <;> simp only [Option.some.injEq, reduceCtorEq] at h <;> subst h <;>
    simp only [Instr.wf, isS, isV, Bool.and_eq_true, decide_eq_true_eq] at hw
  all_goals
    refine decodeBody_encTil hg hi rfl (by decide) ?_ ?_
    · simp only [TilF.fields, inFields_cons, inFields_nil, tyCode_lt, mdCode_lt, boolNat_lt, fieldOf_lt, true_and, and_true]
      grind [boolNat_lt]
    · unfold decodeTil
      simp (disch := omega) [only, Nat.mod_eq_of_lt, Nat.div_eq_of_lt, Nat.add_mul_div_left] <;> grind [boolNat_lt, sextNat_fieldOf]

theorem BlkW.blockParts_le (w : BlkW) : blockParts w.bits ≤ 8 := by cases w <;> decide

/-- The sizes of an atomic have codes (R183). -/
theorem szOf_szCode_word {n : Nat} (h : n = 4 ∨ n = 8) : szOf (szCode n) = some n := by
  obtain rfl | rfl := h <;> rfl

theorem szOf_szCode_float {t : Ty} (h : t.isF = true) : szOf (szCode (t.bits / 8)) = some (t.bits / 8) := by
  cases t <;> simp only [Ty.isF, Bool.false_eq_true] at h <;> rfl

theorem float_bits {t : Ty} (h : t.isF = true) : t.bits / 8 * 8 = t.bits := by
  cases t <;> simp only [Ty.isF, Bool.false_eq_true] at h <;> rfl

theorem decodeBody_of_encLT {g : Guard} {i : Instr} {n : Nat} (hg : g.wf = true) (hi : i.wf = true) (h : encLT g i = some n) :
    decodeBody (BitVec.ofNat 64 n).toNat = some (g, i) := by
  have hw := hi
  unfold encLT at h
  split at h <;> simp only [Option.some.injEq, reduceCtorEq] at h <;> subst h <;>
    simp only [Instr.wf, Addr.wf, isS, isV, isK, isH, Bool.and_eq_true, Bool.or_eq_true, beq_iff_eq, decide_eq_true_eq] at hw
  iterate 15
    · refine decodeBody_encMem hg hi rfl (by decide) ?_ ?_
      · simp only [MemF.fields, inFields_cons, inFields_nil, memA, szCode_lt, hintCode_lt, ordCode_lt, blkCode_lt, boolNat_lt, fieldOf_lt, true_and, and_true]
        grind [BlkW.blockParts_le]
      · unfold decodeMem
        simp [memSO, memS, memV, memB, memX, decodeRoinv, decodeSend, MemF.addr, memA, only, sextNat_fieldOf, hw] <;> grind
  all_goals
    refine decodeBody_encAmo hg hi rfl (by decide) ?_ ?_
    · simp only [AmoF.fields, inFields_cons, inFields_nil, amoA, szCode_lt, hintCode_lt, ordCode_lt, tyCode_lt, boolNat_lt, fieldOf_lt, true_and, and_true]
      grind
    · unfold decodeAmo
      simp [amo2, decodeFadd, AmoF.addr, amoA, only, sextNat_fieldOf, szOf_szCode_word, szOf_szCode_float, float_bits, hw]

theorem decodeBody_of_encE {g : Guard} {i : Instr} {n : Nat} (hg : g.wf = true) (hi : i.wf = true) (h : encE g i = some n) :
    decodeBody (BitVec.ofNat 64 n).toNat = some (g, i) := by
  have hw := hi
  unfold encE at h
  split at h <;> simp only [Option.some.injEq, reduceCtorEq] at h <;> subst h <;>
    simp only [Instr.wf, isS, isP, isH, Bool.and_eq_true, decide_eq_true_eq] at hw
  case h_8 =>
    refine decodeBody_pack (fs := [(3, 0), (2, _), (1, _), (4, _), (4, _), (8, _), (12, _), (6, _), (4, _), (5, _)]) hg hi rfl (by decide) ?_ ?_
    · simp only [inFields_cons, inFields_nil, boolNat_lt, true_and, and_true]
      grind
    · simp [decodeCal, only]
  all_goals
    refine decodeBody_encEng hg hi rfl (by decide) ?_ ?_
    · simp only [EngF.fields, inFields_cons, inFields_nil, and_true]
      grind [boolNat_lt]
    · unfold decodeEng
      simp (disch := omega) [decodeXbcol, only, Nat.mod_eq_of_lt, Nat.div_eq_of_lt, Nat.add_mul_div_left] <;> grind [boolNat_lt]

theorem formatOf_vendor {opc : Nat} (h : 0x3C0 ≤ opc) :
    formatOf opc = ([43, 6] ++ hdrW, fun l => some (.vendorDiagnostic (opc - 0x3C0) (l.getD 1 0) (l.getD 0 0))) := by
  unfold formatOf
  repeat rw [if_neg (by omega)]

theorem decodeBody_vendor {g : Guard} {o d r : Nat} (hg : g.wf = true) (hi : (Instr.vendorDiagnostic o d r).wf = true) :
    decodeBody (BitVec.ofNat 64 (pack ([(43, r), (6, d)] ++ encHdr g (0x3C0 + o)))).toNat =
      some (g, .vendorDiagnostic o d r) := by
  have hw := hi
  simp only [Instr.wf, isS, Bool.and_eq_true, decide_eq_true_eq] at hw
  refine decodeBody_pack hg hi (formatOf_vendor (by omega)) (by omega) ?_ ?_
  · simp only [inFields_cons, inFields_nil, and_true]
    omega
  · simp

theorem decodeBody_of_encY {g : Guard} {i : Instr} {n : Nat} (hg : g.wf = true) (hi : i.wf = true) (hh : i ≠ .handlerReturn) (h : encY g i = some n) :
    decodeBody (BitVec.ofNat 64 n).toNat = some (g, i) := by
  have hw := hi
  unfold encY at h
  split at h <;> simp only [Option.some.injEq, reduceCtorEq] at h <;> subst h <;>
    simp only [Instr.wf, isS, isP, domSel, breadSel, Bool.and_eq_true, Bool.or_eq_true, decide_eq_true_eq] at hw
  iterate 18
    · refine decodeBody_encSyn (D := decodeSynA) hg hi rfl (by decide) ?_ ?_
      · simp only [SynF.fields, inFields_cons, inFields_nil, ordCode_lt, scCode_lt, boolNat_lt, true_and, and_true]
        grind [boolNat_lt]
      · unfold decodeSynA
        simp (disch := omega) [only, Nat.mod_eq_of_lt, Nat.div_eq_of_lt]
  iterate 4
    · refine decodeBody_encSyn (D := decodeSynB) hg hi rfl (by decide) ?_ ?_
      · simp only [SynF.fields, inFields_cons, inFields_nil, ordCode_lt, true_and, and_true]
        grind [boolNat_lt]
      · unfold decodeSynB
        simp (disch := omega) [only, Nat.mod_eq_of_lt] <;> grind [boolNat_lt]
  · exact absurd rfl hh
  iterate 11
    · refine decodeBody_encSyn (D := decodeSynB) hg hi rfl (by decide) ?_ ?_
      · simp only [SynF.fields, inFields_cons, inFields_nil, and_true]
        grind [boolNat_lt]
      · unfold decodeSynB
        simp (disch := omega) [only, Nat.mod_eq_of_lt, Nat.div_eq_of_lt, Nat.add_mul_div_left] <;> grind [boolNat_lt]
  · exact decodeBody_vendor hg hi

theorem decodeBody_of_unpack_limW {n d : Nat} {m : Int} (hi : (Instr.lim d m).wf = true) (ho : bitsOf 54 10 n = 0x2F)
    (hu : unpack limW n = [fieldOf 48 m % 2 ^ 48, d % 2 ^ 6, 0x2F]) : decodeBody n = some (⟨false, 0⟩, .lim d m) := by
  have hw := hi
  simp only [Instr.wf, isS, Bool.and_eq_true, decide_eq_true_eq] at hw
  have hc : candidate 0x2F n = some (.lim d m) := by
    rw [candidate_eq]
    change some (Instr.lim ((unpack limW n).getD 1 0) (sextNat 48 ((unpack limW n).getD 0 0))) = _
    rw [hu]
    simp only [List.getD_cons_succ, List.getD_cons_zero, sextNat_fieldOf_mod hw.2 (by decide), Nat.mod_eq_of_lt (show d < 2 ^ 6 from hw.1)]
  have hg : guardOf 0x2F n = ⟨false, 0⟩ := if_pos rfl
  unfold decodeBody
  simp only [ho, hc, hi, hg, Guard.wf, isP]
  rfl

theorem decodeBody_lim {d : Nat} {m : Int} (hi : (Instr.lim d m).wf = true) :
    decodeBody (BitVec.ofNat 64 (pack [(48, fieldOf 48 m), (6, d), (10, 0x02F)])).toNat = some (⟨false, 0⟩, .lim d m) := by
  have hlt : pack [(48, fieldOf 48 m), (6, d), (10, 0x02F)] < 2 ^ 64 := pack_lt _
  rw [BitVec.toNat_ofNat, Nat.mod_eq_of_lt hlt]
  refine decodeBody_of_unpack_limW hi ?_ (unpack_pack [(48, fieldOf 48 m), (6, d), (10, 0x02F)])
  simp only [bitsOf, pack]
  omega

/-- The words of the instructions stand slot by slot in the encoder. -/
theorem word_of_encode {g : Guard} {i : Instr} {w : Word} (h0 : i ≠ .nop) (h : encode g i = some w) :
    ∃ n, w = BitVec.ofNat 64 n ∧
      (encS g i = some n ∨ encV g i = some n ∨ encM g i = some n ∨ encLT g i = some n ∨ encE g i = some n ∨ encY g i = some n) := by
  unfold encode at h
  split at h
  · exact absurd rfl h0
  · split at h <;> simp_all <;> exact ⟨_, h.symm, by simp⟩

/-- The guard that the word of an instruction carries: `lim` and `nop` have none (R54, R104). -/
def Instr.carries (i : Instr) (g : Guard) : Guard := match i with | .nop | .lim .. => ⟨false, 0⟩ | _ => g

theorem Instr.carries_eq {i : Instr} (g : Guard) (h0 : i ≠ .nop) (hl : ∀ d m, i ≠ .lim d m) : i.carries g = g := by
  unfold Instr.carries
  split
  · exact absurd rfl h0
  · exact absurd rfl (hl _ _)
  · rfl

/-- The word of a well-formed instruction decodes to it and to the guard that it carries. -/
theorem decodeBody_of_encode {g : Guard} {i : Instr} {w : Word} (hg : g.wf = true) (hi : i.wf = true) (h0 : i ≠ .nop) (hh : i ≠ .handlerReturn)
    (h : encode g i = some w) : decodeBody w.toNat = some (i.carries g, i) := by
  by_cases hl : ∃ d m, i = .lim d m
  · obtain ⟨d, m, rfl⟩ := hl
    have he : encode g (.lim d m) = some (BitVec.ofNat 64 (pack [(48, fieldOf 48 m), (6, d), (10, 0x02F)])) := rfl
    rw [← Option.some.inj (he.symm.trans h)]
    exact decodeBody_lim hi
  · have hl (d : Nat) (m : Int) : i ≠ .lim d m := fun e => hl ⟨d, m, e⟩
    rw [Instr.carries_eq g h0 hl]
    obtain ⟨n, rfl, h | h | h | h | h | h⟩ := word_of_encode h0 h
    · exact decodeBody_of_encS hg hi hl h
    · exact decodeBody_of_encV hg hi h
    · exact decodeBody_of_encM hg hi h
    · exact decodeBody_of_encLT hg hi h
    · exact decodeBody_of_encE hg hi h
    · exact decodeBody_of_encY hg hi hh h

end Sys2Proof
end

section
/-! ## The word that decodes to an instruction is its word (O54) -/

namespace Sys2Proof

open Machine

theorem fieldOf_sextNat_pack (n w : Nat) (l : List (Nat × Nat)) : pack ((n, fieldOf n (sextNat n w)) :: l) = pack ((n, w) :: l) := by
  simp only [pack, fieldOf_sextNat, Nat.mod_mod]

/-- The fields of a form that the decoder requires to be zero are. -/
theorem yields_only_zeros (r : List Nat) (o : Option Instr) (P : Instr → Prop) : Yields (only r o) P ↔ ((∀ n ∈ r, n = 0) → Yields o P) := by
  rw [yields_only]
  simp

theorem yields_encode_decodeAlu (g : Guard) (opc : Nat) (f : AluF) :
    Yields (decodeAlu opc f) fun i => encode g i = some (BitVec.ofNat 64 (encAlu g opc f)) := by
  obtain ⟨d, a, b, c, k, ty, md, ty2, cc, aux⟩ := f
  unfold decodeAlu
  split <;> simp only [alu3, alu2, yields_only_zeros, yields_map, yields_some, yields_none, List.forall_mem_cons, ccOf_eq_some, and_imp]
  all_goals
    intros
    subst_vars
    rfl

theorem yields_encode_decodeImm (g : Guard) (opc : Nat) (f : ImmF) :
    Yields (decodeImm opc f) fun i => encode g i = some (BitVec.ofNat 64 (encImm g opc f)) := by
  obtain ⟨d, a, cc, imm⟩ := f
  unfold decodeImm
  split <;> simp only [yields_only_zeros, yields_map, yields_some, yields_none, List.forall_mem_cons, ccOf_eq_some, and_imp]
  all_goals
    intros
    subst_vars
    simp only [encode, encS, encImm, List.cons_append, fieldOf_sextNat_pack]

theorem yields_encode_decodeBra (g : Guard) (opc : Nat) {f : BraF} (hf : f.av < 2) :
    Yields (decodeBra opc f) fun i => encode g i = some (BitVec.ofNat 64 (encBra g opc f)) := by
  obtain ⟨a, av, rsv, off⟩ := f
  unfold decodeBra
  split <;> simp only [yields_only_zeros, yields_some, yields_none, List.forall_mem_cons, and_imp]
  all_goals
    intros
    subst_vars
    simp only [encode, encS, encBra, List.cons_append, fieldOf_sextNat_pack, boolNat_eq_of_lt hf]

theorem yields_encode_decodeVec (g : Guard) (opc : Nat) (f : AluF) :
    Yields (decodeVec opc f) fun i => encode g i = some (BitVec.ofNat 64 (encAlu g opc f)) := by
  obtain ⟨d, a, b, c, k, ty, md, ty2, cc, aux⟩ := f
  unfold decodeVec
  split <;> simp only [vF3, vF4, vI3, vI2, vMask, yields_only_zeros, yields_bind, yields_map, yields_some, yields_none,
    List.forall_mem_cons, tyOf_eq_some, mdOf_eq_some, ccOf_eq_some, shufOf_eq_some, redOf_eq_some, and_imp]
  all_goals
    intros
    subst_vars
    rfl

theorem boolNat_mod_two (n : Nat) : boolNat (n % 2 == 1) = n % 2 := boolNat_eq_of_lt (Nat.mod_lt _ (by decide))

theorem yields_encode_decodeTil (g : Guard) (opc : Nat) {f : TilF} (hv : f.va < 2) :
    Yields (decodeTil opc f) fun i => encode g i = some (BitVec.ofNat 64 (encTil g opc f)) := by
  obtain ⟨t, a, b, ty, md, va, imm, rsv⟩ := f
  unfold decodeTil
  split <;> simp only [yields_only_zeros, yields_bind, yields_map, yields_some, yields_none, List.forall_mem_cons, tyOf_eq_some, mdOf_eq_some, and_imp]
  all_goals
    intros
    subst_vars
    simp only [encode, encS, encV, encM, encTil, List.cons_append, List.nil_append, pack, fieldOf_sextNat, Nat.mod_mod, boolNat_eq_of_lt hv, boolNat_mod_two] <;>
      grind

theorem yields_encode_decodeMem (g : Guard) (opc : Nat) {f : MemF} (hs : f.sp < 2) :
    Yields (decodeMem opc f) fun i => encode g i = some (BitVec.ofNat 64 (encMem g opc f)) := by
  obtain ⟨d, sp, h, a, sz, hint, ord, k, disp⟩ := f
  unfold decodeMem
  split <;> simp only [memSO, memS, memV, memB, memX, decodeRoinv, decodeSend, yields_ite, yields_only_zeros, yields_bind, yields_map, yields_some, yields_none,
    List.forall_mem_cons, szOf_eq_some, hintOf_eq_some, ordOf_eq_some, blkOf_eq_some, and_imp, implies_true, and_true]
  all_goals
    intros
    subst_vars
    simp only [encode, encS, encV, encM, encLT, encMem, memA, MemF.addr, List.cons_append, fieldOf_sextNat_pack, boolNat_eq_of_lt hs] <;> grind

theorem yields_encode_decodeAmo (g : Guard) (opc : Nat) {f : AmoF} (hs : f.sp < 2) :
    Yields (decodeAmo opc f) fun i => encode g i = some (BitVec.ofNat 64 (encAmo g opc f)) := by
  obtain ⟨d, sp, h, a, sz, hint, ord, b, c, ty, disp⟩ := f
  unfold decodeAmo
  split <;> simp only [amo2, decodeFadd, yields_ite_none, yields_only_zeros, yields_bind, yields_map, yields_some, yields_none, List.forall_mem_cons,
    szOf_eq_some, hintOf_eq_some, ordOf_eq_some, tyOf_eq_some, and_imp]
  all_goals
    intros
    subst_vars
    simp only [encode, encS, encV, encM, encLT, encAmo, amoA, AmoF.addr, List.cons_append, fieldOf_sextNat_pack, boolNat_eq_of_lt hs] <;> grind

theorem yields_encode_decodeXbcol (g : Guard) (f : EngF) :
    Yields (decodeXbcol f) fun i => encode g i = some (BitVec.ofNat 64 (encEng g 0x1D0 f)) := by
  obtain ⟨h, a, b, pd, q, imm⟩ := f
  unfold decodeXbcol
  rw [yields_only_zeros]
  split <;> simp only [yields_only_zeros, yields_some, List.forall_mem_cons, and_imp]
  all_goals
    intros
    subst_vars
    simp only [encode, encS, encV, encM, encLT, encE]
    grind

theorem yields_encode_decodeEng (g : Guard) (opc : Nat) (f : EngF) :
    Yields (decodeEng opc f) fun i => encode g i = some (BitVec.ofNat 64 (encEng g opc f)) := by
  have hx := yields_encode_decodeXbcol g f
  unfold decodeEng
  obtain ⟨h, a, b, pd, q, imm⟩ := f
  split <;> simp only [yields_only_zeros, yields_some, yields_none, List.forall_mem_cons, and_imp, hx]
  all_goals
    intros
    subst_vars
    simp only [encode, encS, encV, encM, encLT, encE, boolNat_mod_two] <;> grind

theorem yields_encode_decodeSynA (g : Guard) (opc : Nat) {f : SynF} (hd : f.dec < 2) :
    Yields (decodeSynA opc f) fun i => encode g i = some (BitVec.ofNat 64 (encSyn g opc f)) := by
  obtain ⟨n, imm, a, pd, sc, ord, dec, rsv⟩ := f
  unfold decodeSynA
  split <;> simp only [yields_only_zeros, yields_map, yields_some, yields_none, List.forall_mem_cons, ordOf_eq_some, scOf_eq_some, and_imp]
  all_goals
    intros
    subst_vars
    simp only [encode, encS, encV, encM, encLT, encE, encY, boolNat_eq_of_lt hd] <;> grind

theorem yields_encode_decodeSynB (g : Guard) (opc : Nat) (f : SynF) :
    Yields (decodeSynB opc f) fun i => encode g i = some (BitVec.ofNat 64 (encSyn g opc f)) := by
  obtain ⟨n, imm, a, pd, sc, ord, dec, rsv⟩ := f
  unfold decodeSynB
  split <;> simp only [yields_only_zeros, yields_map, yields_some, yields_none, List.forall_mem_cons, ordOf_eq_some, and_imp]
  all_goals
    intros
    subst_vars
    simp only [encode, encS, encV, encM, encLT, encE, encY, boolNat_mod_two] <;> grind

theorem yields_encode_decodeCal (g : Guard) (w : Nat) :
    Yields (decodeCal (unpack calW w)) fun i => encode g i = some (BitVec.ofNat 64 (pack ((calW.take 10).zip (unpack (calW.take 10) w) ++ encHdr g 0x1C7))) := by
  have hz : (calW.take 10).zip (unpack (calW.take 10) w) = (3, (unpack calW w).getD 0 0) :: _ := rfl
  have hr : boolNat ((unpack calW w).getD 2 0 == 1) = (unpack calW w).getD 2 0 := boolNat_eq_of_lt (Nat.mod_lt _ (by decide))
  unfold decodeCal
  simp only [yields_only_zeros, yields_some, List.forall_mem_cons, and_imp]
  intro h0 _
  rw [hz, h0]
  simp only [encode, encS, encV, encM, encLT, encE, hr]
  rfl

theorem encode_lim (g : Guard) {w : Nat} (hw : w < 2 ^ 64) (ho : bitsOf 54 10 w = 0x2F) :
    encode g (.lim ((unpack limW w).getD 1 0) (sextNat 48 ((unpack limW w).getD 0 0))) = some (BitVec.ofNat 64 w) := by
  have h := pack_zip_unpack limW w
  rw [Nat.mod_eq_of_lt (show w < 2 ^ limW.sum from hw)] at h
  have hz : limW.zip (unpack limW w) = [(48, (unpack limW w).getD 0 0), (6, (unpack limW w).getD 1 0), (10, bitsOf 54 10 w)] := by
    simp [limW, unpack, bitsOf, Nat.div_div_eq_div_mul]
  rw [hz, ho] at h
  simp only [encode, encS, fieldOf_sextNat_pack, h]

theorem encode_vendor (g : Guard) {w : Nat} (ho : 0x3C0 ≤ bitsOf 54 10 w) :
    encode g (.vendorDiagnostic (bitsOf 54 10 w - 0x3C0) (bitsOf 43 6 w) (w % 2 ^ 43)) =
      some (BitVec.ofNat 64 (pack ([43, 6].zip (unpack [43, 6] w) ++ encHdr g (bitsOf 54 10 w)))) := by
  simp only [encode, encS, encV, encM, encLT, encE, encY, Nat.add_sub_cancel' ho]
  rfl

theorem yields_encode_of_eq {o : Option Instr} {g : Guard} {n w : Nat} (hy : Yields o fun i => encode g i = some (BitVec.ofNat 64 n)) (h : n = w) :
    Yields o fun i => encode g i = some (BitVec.ofNat 64 w) := h ▸ hy

/-- What an assigned opcode's word stands for is encoded by that word. -/
theorem yields_encode_candidate {w : Nat} (hw : w < 2 ^ 64) (hh : (homeOf (bitsOf 54 10 w)).isSome = true) :
    Yields (candidate (bitsOf 54 10 w) w) fun i => encode (guardOf (bitsOf 54 10 w) w) i = some (BitVec.ofNat 64 w) := by
  have hp (ws : List Nat) (hs : ws.sum = 49) (ho : bitsOf 54 10 w ≠ 0x2F) := pack_unpack hs hw ho
  have hl (g : Guard) (ho : bitsOf 54 10 w = 0x2F) := encode_lim g hw ho
  have hv (g : Guard) (ho : 0x3C0 ≤ bitsOf 54 10 w) := encode_vendor g ho
  generalize guardOf (bitsOf 54 10 w) w = g at hp
  generalize bitsOf 54 10 w = opc at *
  unfold candidate
  refine (yields_ite ..).mpr ⟨fun _ => ?_, fun _ => ?_⟩
  · exact yields_encode_of_eq (yields_encode_decodeAlu g opc _) (hp (aluW.take 10) rfl (by omega))
  refine (yields_ite ..).mpr ⟨fun _ => ?_, fun _ => ?_⟩
  · exact yields_encode_of_eq (yields_encode_decodeImm g opc _) (hp (immW.take 4) rfl (by omega))
  refine (yields_ite ..).mpr ⟨fun ho => ?_, fun _ => ?_⟩
  · exact (yields_some ..).mpr (hl g ho)
  refine (yields_ite ..).mpr ⟨fun _ => ?_, fun _ => ?_⟩
  · exact yields_encode_of_eq (yields_encode_decodeBra g opc (Nat.mod_lt _ (by decide))) (hp (braW.take 4) rfl (by omega))
  refine (yields_ite ..).mpr ⟨fun _ => ?_, fun _ => ?_⟩
  · exact yields_encode_of_eq (yields_encode_decodeVec g opc _) (hp (aluW.take 10) rfl (by omega))
  refine (yields_ite ..).mpr ⟨fun _ => ?_, fun _ => ?_⟩
  · exact yields_encode_of_eq (yields_encode_decodeTil g opc (Nat.mod_lt _ (by decide))) (hp (tilW.take 8) rfl (by omega))
  refine (yields_ite ..).mpr ⟨fun _ => ?_, fun _ => ?_⟩
  · exact yields_encode_of_eq (yields_encode_decodeMem g opc (Nat.mod_lt _ (by decide))) (hp (memW.take 9) rfl (by omega))
  refine (yields_ite ..).mpr ⟨fun _ => ?_, fun _ => ?_⟩
  · exact yields_encode_of_eq (yields_encode_decodeAmo g opc (Nat.mod_lt _ (by decide))) (hp (amoW.take 11) rfl (by omega))
  refine (yields_ite ..).mpr ⟨fun ho => ?_, fun _ => ?_⟩
  · subst ho
    exact yields_encode_of_eq (yields_encode_decodeCal g w) (hp (calW.take 10) rfl (by omega))
  refine (yields_ite ..).mpr ⟨fun _ => ?_, fun _ => ?_⟩
  · exact yields_encode_of_eq (yields_encode_decodeEng g opc _) (hp (engW.take 6) rfl (by omega))
  refine (yields_ite ..).mpr ⟨fun _ => ?_, fun _ => ?_⟩
  · exact yields_encode_of_eq (yields_encode_decodeSynA g opc (Nat.mod_lt _ (by decide))) (hp (synW.take 8) rfl (by omega))
  refine (yields_ite ..).mpr ⟨fun _ => ?_, fun _ => ?_⟩
  · exact yields_encode_of_eq (yields_encode_decodeSynB g opc _) (hp (synW.take 8) rfl (by omega))
  · have ho : 0x3C0 ≤ opc := by grind [homeOf]
    refine (yields_some ..).mpr ?_
    rw [hv g ho, hp [43, 6] rfl (by omega)]

end Sys2Proof
end

section
/-! ## Decoding and encoding agree in the slots of a bundle (O54) -/

namespace Sys2Proof

open Machine Claims

section
variable {w : Word} {g : Guard} {i : Instr}

/-- What a word decodes to is its candidate, well-formed under a well-formed guard. -/
theorem decodeBody_eq_some {n : Nat} (h : decodeBody n = some (g, i)) :
    candidate (bitsOf 54 10 n) n = some i ∧ g = guardOf (bitsOf 54 10 n) n ∧ g.wf = true ∧ i.wf = true := by
  unfold decodeBody at h
  dsimp only at h
  split at h
  next j hj =>
    split at h
    next hw =>
      obtain ⟨rfl, rfl⟩ := Prod.mk.inj (Option.some.inj h)
      obtain ⟨hg, hi⟩ := Bool.and_eq_true_iff.mp hw
      exact ⟨hj, rfl, hg, hi⟩
    next => nomatch h
  next => nomatch h

/-- A vendor diagnostic is all that the opcodes from 0x3C0 give. -/
theorem candidate_vendor {opc n : Nat} (h : 0x3C0 ≤ opc) (hc : candidate opc n = some i) : ∃ d r, i = .vendorDiagnostic (opc - 0x3C0) d r := by
  rw [candidate_eq, formatOf_vendor h] at hc
  exact ⟨_, _, (Option.some.inj hc).symm⟩

/-- A word that stands for an instruction has an opcode, and a legal one where diagnostics are. -/
theorem opcode_of_decodeBody {diag : Bool} (hd : diag = false → ∀ o d r, i ≠ .vendorDiagnostic o d r) (hh : homes (w.toNat / 2 ^ 54) ≠ [])
    (h : decodeBody w.toNat = some (g, i)) : w.toNat / 2 ^ 54 ≠ 0 ∧ ¬ Illegal diag (w.toNat / 2 ^ 54) := by
  obtain ⟨hc, -⟩ := decodeBody_eq_some h
  rw [opcode_eq] at hc
  refine ⟨fun h0 => ?_, ?_⟩
  · rw [h0] at hc
    nomatch hc
  · rintro (h | ⟨ho, hf⟩ | h)
    · exact hh h
    · obtain ⟨d, r, rfl⟩ := candidate_vendor ho hc
      exact hd hf _ _ _ rfl
    · rw [h] at hc
      nomatch hc

theorem Instr.carries_cases (i : Instr) (g : Guard) : i.carries g = g ∨ (i.carries g = ⟨false, 0⟩ ∧ (i = .nop ∨ ∃ d m, i = .lim d m)) := by
  unfold Instr.carries
  split
  · exact .inr ⟨rfl, .inl rfl⟩
  · exact .inr ⟨rfl, .inr ⟨_, _, rfl⟩⟩
  · exact .inl rfl

/-- The first part of O54: the word of an instruction decodes to it in each slot that is its home. -/
theorem decodeSlot_of_encode {diag : Bool} {slot : Nat} (hg : g.wf = true) (hi : i.wf = true) (h : encode g i = some w) (hh : i ≠ .handlerReturn)
    (hd : diag = false → ∀ o d r, i ≠ .vendorDiagnostic o d r) (hs : slot ∈ homes (w.toNat / 2 ^ 54)) : decodeSlot diag slot w = .ok (i.carries g, i) := by
  by_cases h0 : i = .nop
  · subst h0
    obtain rfl : (0 : Word) = w := Option.some.inj h
    exact decodeSlot_zero diag slot
  · have hb := decodeBody_of_encode hg hi h0 hh h
    obtain ⟨ho, hl⟩ := opcode_of_decodeBody hd (List.ne_nil_of_mem hs) hb
    have hw : w ≠ 0 := by rintro rfl; exact ho rfl
    rw [decodeSlot_home hw hl hs, if_neg ho, hb]

/-- The second part of O54, in the slots that a bundle has (R50): a word that decodes is the word of what it decodes to. -/
theorem encode_of_decodeSlot {diag : Bool} {slot : Nat} (hs : slot < 8) (h : decodeSlot diag slot w = .ok (g, i)) :
    g.wf = true ∧ i.wf = true ∧ encode g i = some w ∧ (w = 0 ∨ slot ∈ homes (w.toNat / 2 ^ 54)) := by
  by_cases hw : w = 0
  · subst hw
    obtain ⟨rfl, rfl⟩ := Prod.mk.inj (Except.ok.inj ((decodeSlot_zero diag slot).symm.trans h))
    exact ⟨rfl, rfl, rfl, .inl rfl⟩
  · have hl : ¬ Illegal diag (w.toNat / 2 ^ 54) := fun hl => nomatch (decodeSlot_illegal hw hl).symm.trans h
    obtain ⟨k, hk, hd⟩ := decodeSlot_legal (slot := slot) hw hl
    rw [hd] at h
    obtain ⟨ha, h⟩ := (ite_eq_iff.mp h).resolve_right fun h => nomatch h.2
    obtain ⟨-, h⟩ := (ite_eq_iff.mp h).resolve_left fun h => nomatch h.2
    split at h
    next r hr =>
      obtain rfl := Except.ok.inj h
      obtain ⟨hc, rfl, hg, hi⟩ := decodeBody_eq_some hr
      have he := yields_encode_candidate w.isLt (by rw [opcode_eq, hk]; rfl) i hc
      rw [BitVec.ofNat_toNat, BitVec.setWidth_eq] at he
      exact ⟨hg, hi, he, .inr (homes_of_some hk ▸ (Home.mem_slots k hs).mpr ha)⟩
    next => nomatch h

end

end Sys2Proof

open Sys2Proof Sys2Proof.Claims

/-- What holds of O54, whose second part fails past the last slot (`not_decodeOfEncode`): its statement with the slot of that part below 8. -/
theorem decodeOfEncode_in_bundle :
    (∀ (g : Guard) (i : Instr) (w : Word) (diag : Bool) (slot : Nat), g.wf = true → i.wf = true → encode g i = some w →
      i ≠ .handlerReturn → (diag = false → ∀ o d r, i ≠ .vendorDiagnostic o d r) → slot ∈ homes (w.toNat / 2 ^ 54) →
        ∃ h, decodeSlot diag slot w = .ok (h, i) ∧ (h = g ∨ (h = ⟨false, 0⟩ ∧ (i = .nop ∨ ∃ d m, i = .lim d m)))) ∧
    ∀ (diag : Bool) (slot : Nat) (w : Word) (g : Guard) (i : Instr), slot < 8 → decodeSlot diag slot w = .ok (g, i) →
      g.wf = true ∧ i.wf = true ∧ encode g i = some w ∧ (w = 0 ∨ slot ∈ homes (w.toNat / 2 ^ 54)) :=
  ⟨fun g i _ _ _ hg hi h hh hd hs => ⟨_, decodeSlot_of_encode hg hi h hh hd hs, i.carries_cases g⟩, fun _ _ _ _ _ => encode_of_decodeSlot⟩
end

section
/-! ## Results at issue and at their step (O44) -/

namespace Sys2Proof.Machine

open Claims

/-! ### A bundle that only puts results in flight -/

/-- The results of a bundle of one word, from the registers, values, latencies, poison bits and flags that `emit` takes (R80, R81). -/
def Ctx.issued (y : Ctx) (slot : Nat) (rs : List (RegId × RVal × Nat × Bool × FlagBits)) : List Res :=
  rs.map fun r => ⟨r.1, r.2.1, r.2.2.2.1, r.2.2.2.2, y.step + r.2.2.1, slot, y.step, y.pstep⟩

theorem Ctx.issued_cons (y : Ctx) (slot : Nat) (r : RegId × RVal × Nat × Bool × FlagBits) (rs : List (RegId × RVal × Nat × Bool × FlagBits)) :
    y.issued slot (r :: rs) = y.issued slot [r] ++ y.issued slot rs := rfl

/-- A list of results is emitted one after the other. -/
def State.emitAll (u : State) (rs : List (RegId × RVal × Nat × Bool × FlagBits)) : State :=
  rs.foldl (fun u r => u.emit r.1 r.2.1 r.2.2.1 r.2.2.2.1 r.2.2.2.2) u

/-- What is emitted goes in flight behind what is there, and changes neither the step nor the slot that later results carry. -/
theorem State.emitAll_launched (u : State) (rs : List (RegId × RVal × Nat × Bool × FlagBits)) (l : List Res) :
    (u.updMe fun x => x.launch l).emitAll rs = u.updMe fun x => x.launch (l ++ u.me.issued u.iss.slot rs) := by
  induction rs generalizing l with
  | nil =>
    rw [show u.me.issued u.iss.slot [] = [] from rfl, List.append_nil]
    rfl
  | cons r rs ih =>
    have hr : (u.updMe fun x => x.launch l).emit r.1 r.2.1 r.2.2.1 r.2.2.2.1 r.2.2.2.2 = u.updMe fun x => x.launch (l ++ u.me.issued u.iss.slot [r]) := by
      unfold State.emit
      rw [State.updMe_updMe]
      unfold Ctx.launch
      simp only [List.append_assoc]
      rfl
    have hcons (w : State) : w.emitAll (r :: rs) = (w.emit r.1 r.2.1 r.2.2.1 r.2.2.2.1 r.2.2.2.2).emitAll rs := rfl
    rw [hcons, hr, ih, List.append_assoc, ← Ctx.issued_cons]

theorem State.emitAll_cons (u : State) (r : RegId × RVal × Nat × Bool × FlagBits) (rs : List (RegId × RVal × Nat × Bool × FlagBits)) :
    u.emitAll (r :: rs) = u.updMe fun x => x.launch (u.me.issued u.iss.slot (r :: rs)) :=
  State.emitAll_launched u rs (u.me.issued u.iss.slot [r])

/-- The bundle commits with its results in flight (R76, R86). -/
theorem State.done_emitAll {s : State} (home : Nat) (rs : List (RegId × RVal × Nat × Bool × FlagBits)) (hs : s.NoStep) :
    s.done home (fun u => u.emitAll rs) = s.afterResults (s.visible.me.issued home rs) := by
  cases rs with
  | nil =>
    have hid : (fun u : State => u.emitAll []) = id := rfl
    have hnil : s.visible.me.issued home [] = [] := by rw [Ctx.issued, List.map_nil]
    rw [hid, hnil, State.done_id]
    unfold State.runAll
    dsimp only
    rw [State.stepFollows_nil hs, if_neg nofun, List.foldl_nil]
  | cons r rs =>
    have hf := State.emitAll_cons (s.opened home) r rs
    rw [State.me_opened, State.opened_slot] at hf
    exact State.done_results (f := fun u => u.emitAll (r :: rs)) _ hf hs

theorem State.visible_form (s : State) : ∃ k t, s.visible = { s with cores := k, tasks := t } := ⟨_, _, State.flushBudget_form ..⟩

section
variable (s : State) (rs : List Res)

theorem State.afterResults_form : ∃ k t i, s.afterResults rs = { s with cores := k, tasks := t, iss := i } := by
  obtain ⟨k, t, h⟩ := s.visible_form
  unfold State.afterResults
  rw [State.countBundle_form]
  generalize (State.countBundle _ _).tasks = t'
  rw [h]
  exact ⟨_, _, _, rfl⟩

theorem agreeBut_afterResults : AgreeBut s.iss.core s (s.afterResults rs) := by
  have hv := agreeBut_visible s
  have hi := s.iss_visible
  unfold State.afterResults
  generalize s.visible = u at hv hi
  rw [← hi] at hv ⊢
  have hu := agreeBut_updCx u.closed u.iss.core u.iss.ctx fun y => (y.launch rs).advance none s.cycle
  unfold AgreeBut State.core
  rw [State.cores_countBundle]
  exact hv.trans hu

/-- The bundle changes its own context only. -/
theorem State.cx_afterResults_ne {n : Nat} (h : n ≠ s.iss.ctx) : (s.afterResults rs).cx s.iss.core n = s.cx s.iss.core n := by
  have hv : s.visible.cx s.iss.core n = s.cx s.iss.core n := (State.cx_flushBudget_ne _ (.inr h)).trans (State.cx_updCx_ne _ _ (.inr h))
  have hi := s.iss_visible
  rw [← hv]
  unfold State.afterResults
  generalize s.visible = u at hi
  rw [← hi] at h ⊢
  have hu := State.cx_updCx_ne u.closed (c := u.iss.core) (c' := u.iss.core) (fun y => (y.launch rs).advance none s.cycle) (.inr h)
  unfold State.cx State.core at hu ⊢
  rw [State.cores_countBundle]
  exact hu

/-- The context has advanced by one step, with the results in flight (R76, R86). -/
theorem State.me_afterResults_inflight :
    (s.afterResults rs).me = { advanced s s.visible.me with inflight := s.visible.me.inflight ++ rs } := by
  rw [← Ctx.advance_eq]
  unfold State.afterResults
  rw [State.me_countBundle, State.me_updMe, State.me_closed]
  generalize s.visible.me = y
  rfl

end

section
variable {s : State} {n : Nat}

/-- The task of the context counts a bundle that commits in KERNEL mode (R378). -/
theorem State.tasks_countBundle {x0 : Ctx} {k : Task} (hn : x0.task = some n) (hk : s.tasks.get none n = some k) :
    (s.countBundle x0).tasks.get none n = some { k with cw0 := if x0.mode then k.cw0 else min (k.cw0 + 1) (2 ^ 64 - 1) } := by
  unfold State.countBundle
  rw [hn]
  dsimp only
  cases x0.mode with
  | true => exact hk
  | false => exact (SMap.get_put_same ..).trans (by rw [hk]; rfl)

theorem State.tasks_countBundle_ne {x0 : Ctx} (hn : x0.task ≠ some n) : (s.countBundle x0).tasks.get none n = s.tasks.get none n := by
  unfold State.countBundle
  split
  next t ht =>
    split
    · rfl
    · exact SMap.get_put_ne _ _ _ fun h => hn (h ▸ ht)
  next => rfl

/-- Without a task a budget that becomes visible reaches nothing. -/
theorem State.tasks_visible_of_taskless (ht : s.me.task = none) : s.visible.tasks = s.tasks := by
  have hb : (s.updMe Ctx.settle).cx s.iss.core s.iss.ctx = s.me.settle := State.cx_updCx s _ _ _
  unfold State.visible State.flushBudget
  rw [hb]
  split
  next => rfl
  next =>
    dsimp only
    rw [State.cx_updCx, hb]
    dsimp only
    rw [Ctx.settle_task, ht]
    dsimp only
    rw [State.tasks_updCx, State.tasks_updMe]

/-- A budget that becomes visible reaches the task of the context alone. -/
theorem State.tasks_visible_ne (hn : s.visible.me.task ≠ some n) : s.visible.tasks.get none n = s.tasks.get none n := by
  have ht : s.visible.me.task = s.me.task := by simp only [State.me_visible, Ctx.settle_task]
  rw [ht] at hn
  cases hm : s.me.task with
  | none => rw [State.tasks_visible_of_taskless hm]
  | some m =>
    cases hb : s.me.settle.newBudget with
    | none => rw [State.tasks_visible_none hb]
    | some w =>
      rw [State.tasks_visible_some hb hm]
      exact SMap.get_put_ne _ _ _ fun h => hn (h ▸ hm)

theorem State.tasks_afterResults_eq (s : State) (l : List Res) : (s.afterResults l).tasks = (s.visible.countBundle s.visible.me).tasks := by
  unfold State.afterResults
  generalize s.visible = u
  generalize u.me = y
  unfold State.countBundle
  cases y.task with
  | none => rfl
  | some t => cases y.mode <;> rfl

/-- The work of the task counts the bundle (R378). -/
theorem State.tasks_afterResults {k : Task} (l : List Res) (hn : s.visible.me.task = some n) (hk : s.visible.tasks.get none n = some k) :
    (s.afterResults l).tasks.get none n = some { k with cw0 := if s.me.mode then k.cw0 else min (k.cw0 + 1) (2 ^ 64 - 1) } := by
  rw [State.tasks_afterResults_eq, State.tasks_countBundle hn hk, s.mode_visible]

theorem State.tasks_afterResults_ne (l : List Res) (hn : s.visible.me.task ≠ some n) : (s.afterResults l).tasks.get none n = s.tasks.get none n := by
  rw [State.tasks_afterResults_eq, State.tasks_countBundle_ne hn, State.tasks_visible_ne hn]

end

/-! ### The order of the results that are due (R83) -/

theorem Res.before_total (a b : Res) : a.before b = true ∨ b.before a = true := by
  simp only [Res.before, Bool.or_eq_true, Bool.and_eq_true, decide_eq_true_eq, beq_iff_eq]
  omega

theorem Res.before_trans {a b c : Res} (h : a.before b = true) (k : b.before c = true) : a.before c = true := by
  simp only [Res.before, Bool.or_eq_true, Bool.and_eq_true, decide_eq_true_eq, beq_iff_eq] at *
  omega

theorem insertRes_eq (a : Res) (l : List Res) : insertRes a l = l.orderedInsert (fun a b => a.before b = true) a := by
  induction l with
  | nil => rfl
  | cons b r ih => rw [List.orderedInsert_cons, insertRes, ih]

theorem sortRes_eq (l : List Res) : sortRes l = l.insertionSort fun a b => a.before b = true := by
  unfold sortRes
  rw [funext₂ insertRes_eq]
  rfl

theorem mem_sortRes {r : Res} {l : List Res} : r ∈ sortRes l ↔ r ∈ l := by
  rw [sortRes_eq, List.mem_insertionSort]

theorem pairwise_sortRes (l : List Res) : (sortRes l).Pairwise fun a b => a.before b = true := by
  rw [sortRes_eq]
  have : Std.Total fun a b : Res => a.before b = true := ⟨Res.before_total⟩
  have : IsTrans Res fun a b => a.before b = true := ⟨fun _ _ _ => Res.before_trans⟩
  exact List.pairwise_insertionSort _ l

/-- The result that wins its register comes after every other one for it (R83). -/
def Res.Wins (r : Res) (l : List Res) : Prop :=
  ∀ q ∈ l, q.reg = r.reg → q ≠ r → q.due < r.due ∨ (q.due = r.due ∧ (q.slot < r.slot ∨ (q.slot = r.slot ∧ q.seq < r.seq)))

/-- In their order, what follows the winner goes to other registers. -/
theorem Res.Wins.follows {r q : Res} {l : List Res} (h : r.Wins l) (hq : q ∈ l) (hb : r.before q = true) : q = r ∨ q.reg ≠ r.reg := by
  by_contra hc
  obtain ⟨hne, hreg⟩ := not_or.mp hc
  have hlt := h q hq (not_not.mp hreg) hne
  simp only [Res.before, Bool.or_eq_true, Bool.and_eq_true, decide_eq_true_eq, beq_iff_eq] at hb
  omega

/-! ### What a register holds -/

/-- Two contexts hold the same in a register; to BUDGET belongs the write that waits for its task (R108, R344). -/
def Ctx.SameAt (x y : Ctx) : RegId → Prop
  | .s n => x.s.get {} n = y.s.get {} n
  | .sR n => x.sR.get {} n = y.sR.get {} n
  | .p n => x.p.get false n = y.p.get false n
  | .pR n => x.pR.get false n = y.pR.get false n
  | .v n => x.v.get {} n = y.v.get {} n
  | .k n => x.k.get (BitVec.allOnes 256) n = y.k.get (BitVec.allOnes 256) n
  | .h n => x.h.get {} n = y.h.get {} n
  | .ctl n => x.ctl.get 0 n = y.ctl.get 0 n ∧ (n = 0x13 → x.newBudget = y.newBudget)

section
variable {x y z : Ctx} {q r : RegId}

theorem Ctx.SameAt.refl (x : Ctx) (q : RegId) : x.SameAt x q := by
  cases q with
  | ctl n => exact ⟨rfl, fun _ => rfl⟩
  | _ => rfl

theorem Ctx.SameAt.trans (h : x.SameAt y q) (k : y.SameAt z q) : x.SameAt z q := by
  cases q with
  | ctl n => exact ⟨h.1.trans k.1, fun e => (h.2 e).trans (k.2 e)⟩
  | _ => exact Eq.trans h k

/-- A write to a control register leaves the other registers. -/
theorem Ctx.ctlPut_sameAt {n : Nat} (w : Word) (h : q ≠ .ctl n) : (x.ctlPut n w).SameAt x q := by
  cases q with
  | ctl m => exact ⟨SMap.get_put_ne _ _ _ fun e => h (e ▸ rfl), fun _ => rfl⟩
  | _ => rfl

/-- A write to a control register, FLUSH, DIAG, NFQ and BUDGET included, leaves the other registers. -/
theorem Ctx.write_ctl_sameAt {n : Nat} (v : RVal) (po : Bool) (h : q ≠ .ctl n) : (x.write (.ctl n) v po).SameAt x q := by
  cases v with
  | w w =>
    have hput : (x.ctlPut n w).SameAt x q := Ctx.ctlPut_sameAt w h
    unfold Ctx.write
    dsimp only
    split
    next =>
      have hx : x.SameAt x q := .refl x q
      cases q <;> exact hx
    split
    next h8 => subst h8; cases q <;> exact hput
    split
    next h13 =>
      cases q with
      | ctl m => exact ⟨rfl, fun hm => absurd (congrArg RegId.ctl (hm.trans h13.symm)) h⟩
      | _ => rfl
    next => exact hput
  | _ => exact .refl x q

/-- A write leaves the other registers: a register of another file is in another field, and in its own file `put` leaves the other numbers. -/
theorem Ctx.write_sameAt_ne (v : RVal) (po : Bool) (h : q ≠ r) : (x.write r v po).SameAt x q := by
  by_cases hc : ∃ n, r = .ctl n
  · obtain ⟨n, rfl⟩ := hc
    exact Ctx.write_ctl_sameAt v po h
  unfold Ctx.write
  split
  case h_8 => exact absurd ⟨_, rfl⟩ hc
  case h_9 => exact .refl x q
  case h_1 | h_3 | h_6 =>
    split
    · exact .refl x q
    · cases q <;> simp_all [Ctx.SameAt]
  all_goals cases q <;> simp_all [Ctx.SameAt]

end

/-- A register holds the value that was written to it, with its poison bit; s0, p0 and k0 take none (R61), a value of BUDGET waits for its
task, and STATUS reads otherwise. -/
def Ctx.Took (x : Ctx) (po : Bool) : RegId → RVal → Prop
  | .s n, .w w => n ≠ 0 → x.s.get {} n = ⟨w, po⟩
  | .sR n, .w w => x.sR.get {} n = ⟨w, po⟩
  | .p n, .b b => n ≠ 0 → x.p.get false n = b
  | .pR n, .b b => x.pR.get false n = b
  | .v n, .v w => x.v.get {} n = ⟨w, po⟩
  | .k n, .k w => n ≠ 0 → x.k.get (BitVec.allOnes 256) n = w
  | .h n, .h h => x.h.get {} n = h
  | .ctl n, .w w => (n ≠ 0 → n ≠ 0x13 → x.ctl.get 0 n = w) ∧ (n = 0x13 → x.newBudget = some w)
  | _, _ => True

theorem Ctx.write_took (x : Ctx) (r : RegId) (v : RVal) (po : Bool) : (x.write r v po).Took po r v := by
  unfold Ctx.write
  split
  all_goals grind [Ctx.Took, Ctx.ctlPut, SMap.get_put]

theorem Ctx.SameAt.took {x y : Ctx} {r : RegId} {v : RVal} {po : Bool} (h : x.SameAt y r) (k : y.Took po r v) : x.Took po r v := by
  unfold Ctx.Took at *
  split
  all_goals grind [Ctx.SameAt]

/-! ### The results that are due become visible (R81, R83) -/

/-- The results of a context that are due at its step. -/
def Ctx.dues (x : Ctx) : List Res := x.inflight.filter fun r => decide (r.due ≤ x.step)

theorem Ctx.mem_dues {x : Ctx} {r : Res} : r ∈ x.dues ↔ r ∈ x.inflight ∧ r.due ≤ x.step := by
  rw [Ctx.dues, List.mem_filter, decide_eq_true_eq]

/-- The registers of a context after a list of results has reached them, in the order of the list. -/
def Ctx.writes (x : Ctx) (l : List Res) : Ctx := l.foldl (fun x r => x.write r.reg r.val r.poison) x

theorem Ctx.land_eq (x : Ctx) (l : List Res) : x.land l = (x.writes (sortRes l)).orFlags (l.foldl (fun f r => f ||| r.flags) 0) := rfl

section
variable {x : Ctx} {q : RegId} {r : Res} {l : List Res}

theorem Ctx.writes_sameAt (h : ∀ r ∈ l, r.reg ≠ q) : (x.writes l).SameAt x q :=
  List.foldlRecOn l _ (motive := fun y : Ctx => y.SameAt x q) (.refl x q) fun _ hy r hr => (Ctx.write_sameAt_ne _ _ (h r hr).symm).trans hy

/-- After its winner nothing else changes a register. -/
theorem Ctx.writes_took (hr : r ∈ l) (hw : r.Wins l) : (x.writes (sortRes l)).Took r.poison r.reg r.val := by
  obtain ⟨l₁, l₂, hl⟩ := List.append_of_mem (mem_sortRes.mpr hr)
  have hafter (q : Res) (hq : q ∈ l₂) : q = r ∨ q.reg ≠ r.reg := by
    have hp := pairwise_sortRes l
    rw [hl, List.pairwise_append, List.pairwise_cons] at hp
    obtain ⟨-, ⟨hb, -⟩, -⟩ := hp
    exact hw.follows (mem_sortRes.mp (by simp [hl, hq])) (hb q hq)
  unfold Ctx.writes
  rw [hl, List.foldl_append, List.foldl_cons]
  refine List.foldlRecOn l₂ _ (motive := fun y : Ctx => y.Took r.poison r.reg r.val) (Ctx.write_took ..) fun y hy q hq => ?_
  obtain rfl | hne := hafter q hq
  · exact Ctx.write_took ..
  · exact (Ctx.write_sameAt_ne _ _ hne.symm).took hy

theorem Ctx.orFlags_sameAt (f : FlagBits) (h : q ≠ .ctl 1) : (x.orFlags f).SameAt x q := by
  unfold Ctx.orFlags
  split
  · exact .refl x q
  · exact Ctx.ctlPut_sameAt _ h

/-- What becomes visible reaches the registers but for FLAGS in the order of R83. -/
theorem Ctx.settle_sameAt_writes (h : q ≠ .ctl 1) : x.settle.SameAt (x.writes (sortRes x.dues)) q := by
  have hl : (x.land x.dues).SameAt (x.writes (sortRes x.dues)) q := by
    rw [Ctx.land_eq]
    exact Ctx.orFlags_sameAt _ h
  cases q <;> exact hl

/-- A register for which no result is due keeps what it holds. -/
theorem Ctx.settle_sameAt (h : q ≠ .ctl 1) (hd : ∀ r ∈ x.dues, r.reg ≠ q) : x.settle.SameAt x q :=
  (Ctx.settle_sameAt_writes h).trans (Ctx.writes_sameAt fun r hr => hd r (mem_sortRes.mp hr))

/-- A register takes the winner of the results that are due for it (R83). -/
theorem Ctx.settle_took (h : r.reg ≠ .ctl 1) (hr : r ∈ x.dues) (hw : r.Wins x.dues) : x.settle.Took r.poison r.reg r.val :=
  (Ctx.settle_sameAt_writes h).took (Ctx.writes_took hr hw)

/-! ### FLAGS (R64) -/

theorem getLsbD_foldl_flags (l : List Res) (f : FlagBits) (b : Nat) :
    (l.foldl (fun f r => f ||| r.flags) f).getLsbD b = true ↔ f.getLsbD b = true ∨ ∃ r ∈ l, r.flags.getLsbD b = true := by
  induction l generalizing f with
  | nil => simp
  | cons r l ih => rw [List.foldl_cons, ih, BitVec.getLsbD_or, Bool.or_eq_true, List.exists_mem_cons_iff, or_assoc]

theorem Ctx.getLsbD_orFlags (x : Ctx) (f : FlagBits) {b : Nat} (hb : b < 5) :
    ((x.orFlags f).ctl.get 0 1).getLsbD b = true ↔ (x.ctl.get 0 1).getLsbD b = true ∨ f.getLsbD b = true := by
  unfold Ctx.orFlags
  split
  next h => simp [h]
  next =>
    have hw : (f.zeroExtend 64).getLsbD b = f.getLsbD b := by rw [BitVec.getLsbD_setWidth, decide_eq_true (by omega), Bool.true_and]
    simp only [Ctx.ctlPut, Ctx.ctlGet, SMap.get_put_same, BitVec.getLsbD_or, Bool.or_eq_true, hw]

/-- FLAGS takes the flags of all results that become visible. -/
theorem Ctx.getLsbD_settle_flags (hd : ∀ r ∈ x.dues, r.reg ≠ .ctl 1) {b : Nat} (hb : b < 5) :
    (x.settle.ctl.get 0 1).getLsbD b = true ↔ (x.ctl.get 0 1).getLsbD b = true ∨ ∃ r ∈ x.dues, r.flags.getLsbD b = true := by
  obtain ⟨hw, -⟩ := Ctx.writes_sameAt (x := x) (q := .ctl 1) fun r hr => hd r (mem_sortRes.mp hr)
  change ((x.land x.dues).ctl.get 0 1).getLsbD b = true ↔ _
  rw [Ctx.land_eq, Ctx.getLsbD_orFlags _ _ hb, hw, getLsbD_foldl_flags]
  simp

end

end Sys2Proof.Machine

open Sys2Proof Sys2Proof.Machine Sys2Proof.Claims

/-- Settles O44: the bundle comes to the state `afterResults`, whose frame is known, and what `settle` lets become visible is followed register by
register, where the winner of R83 is written last. -/
theorem resultsAtIssue : Obligations.ResultsAtIssue := by
  unfold Obligations.ResultsAtIssue
  refine ⟨fun s home rs hs => ?_, fun x => ?_⟩
  · intro v t
    have ht : t = s.afterResults (v.issued home rs) := State.done_emitAll home rs hs
    have hv : v = s.visible.me := rfl
    clear_value t v
    subst ht
    obtain ⟨hcore, c, hc⟩ := agreeBut_afterResults s (v.issued home rs)
    obtain ⟨k, u, i, hu⟩ := s.afterResults_form (v.issued home rs)
    refine ⟨by rw [hu], by rw [hu], by rw [hu], by rw [hu], by rw [hu], by rw [hu], by rw [hu], hcore, fun n hn => s.cx_afterResults_ne _ hn,
      by rw [hc], ?_, fun n k hn hk => ?_, fun n hn => ?_⟩
    · rw [State.me_afterResults_inflight, ← hv, Ctx.issued]
    · rw [s.tasks_afterResults _ (hv ▸ hn) hk]
    · rw [s.tasks_afterResults_ne _ (hv ▸ hn)]
  · have hkeep {q : RegId} (hq : q ≠ .ctl 1) (h : ∀ r, r ∈ x.inflight ∧ r.due ≤ x.step → r.reg ≠ q) : x.settle.SameAt x q :=
      Ctx.settle_sameAt hq fun r hr => h r (Ctx.mem_dues.mp hr)
    refine ⟨?_, x.settle_step, x.settle_pend, x.settle_f0, fun n => hkeep nofun, fun n => hkeep nofun, fun n => hkeep nofun, fun n => hkeep nofun,
      fun r hr => ?_, fun h b hb => ?_⟩
    · rw [Ctx.settle_inflight]
      exact List.filter_congr fun r _ => by rw [← decide_not, decide_eq_decide, Nat.not_le]
    · obtain ⟨hr, hw⟩ := hr
      have htook {q : RegId} {v : RVal} (hq : r.reg = q) (hv : r.val = v) (h1 : q ≠ .ctl 1) : x.settle.Took r.poison q v := by
        subst hq hv
        exact Ctx.settle_took h1 (Ctx.mem_dues.mpr hr) fun q hq => hw q (Ctx.mem_dues.mp hq)
      exact ⟨fun n w h0 hq hv => htook hq hv nofun h0, fun n b h0 hq hv => htook hq hv nofun h0, fun n w hq hv => htook hq hv nofun,
        fun n w h0 hq hv => htook hq hv nofun h0, fun n h hq hv => htook hq hv nofun,
        fun n w h0 h1 h13 hq hv => (htook hq hv fun e => h1 (RegId.ctl.inj e)).1 h0 h13, fun w hq hv => (htook hq hv nofun).2 rfl,
        fun n w hq hv => htook hq hv nofun, fun n b hq hv => htook hq hv nofun⟩
    · simpa only [Ctx.mem_dues] using Ctx.getLsbD_settle_flags (fun r hr => h r (Ctx.mem_dues.mp hr)) hb
end

section
/-! ## Words as numbers (R97 to R99) -/

namespace Sys2Proof.Machine

theorem eq_wordOf {a : Word} {n : Nat} (h : a.toNat = n % 2 ^ 64) : a = wordOf n := BitVec.eq_of_toNat_eq (h.trans (BitVec.toNat_ofNat n 64).symm)

theorem wordOf_toNat (a : Word) : wordOf a.toNat = a := (BitVec.ofNat_toNat 64 a).trans (BitVec.setWidth_eq a)

theorem wordOfInt_toInt (a : Word) : wordOfInt a.toInt = a := BitVec.ofInt_toInt

section
variable (a b : Word)

/-! ### Sums, differences and products -/

theorem add_eq_wordOf : a + b = wordOf (a.toNat + b.toNat) := eq_wordOf (BitVec.toNat_add a b)

theorem mul_eq_wordOf : a * b = wordOf (a.toNat * b.toNat) := eq_wordOf (BitVec.toNat_mul a b)

theorem sub_eq_wordOfInt : a - b = wordOfInt (a.toInt - b.toInt) :=
  BitVec.eq_of_toInt_eq (by rw [BitVec.toInt_sub, wordOfInt, BitVec.toInt_ofInt])

theorem add_wordOfInt (i : Int) : a + wordOfInt i = wordOfInt (a.toInt + i) := by
  unfold wordOfInt
  rw [BitVec.ofInt_add, BitVec.ofInt_toInt]

theorem udiv_eq_wordOf : a / b = wordOf (a.toNat / b.toNat) := by rw [← BitVec.toNat_udiv, wordOf_toNat]

theorem umod_eq_wordOf : a % b = wordOf (a.toNat % b.toNat) := by rw [← BitVec.toNat_umod, wordOf_toNat]

/-! ### Bits, shifts and the rotation -/

theorem and_eq_wordOf : a &&& b = wordOf (a.toNat &&& b.toNat) := by rw [← BitVec.toNat_and, wordOf_toNat]

theorem or_eq_wordOf : a ||| b = wordOf (a.toNat ||| b.toNat) := by rw [← BitVec.toNat_or, wordOf_toNat]

theorem xor_eq_wordOf : a ^^^ b = wordOf (a.toNat ^^^ b.toNat) := by rw [← BitVec.toNat_xor, wordOf_toNat]

theorem and_not_eq_wordOf : a &&& ~~~b = wordOf (a.toNat &&& (2 ^ 64 - 1 - b.toNat)) := by rw [and_eq_wordOf, BitVec.toNat_not]

theorem shiftLeft_eq_wordOf (n : Nat) : a <<< n = wordOf (a.toNat * 2 ^ n) := eq_wordOf (by rw [BitVec.toNat_shiftLeft, Nat.shiftLeft_eq])

theorem ushiftRight_eq_wordOf (n : Nat) : a >>> n = wordOf (a.toNat / 2 ^ n) := by
  rw [← Nat.shiftRight_eq_div_pow, ← BitVec.toNat_ushiftRight, wordOf_toNat]

theorem sshiftRight_eq_wordOfInt (n : Nat) : a.sshiftRight n = wordOfInt (a.toInt.fdiv (2 ^ n)) := by
  rw [← wordOfInt_toInt (a.sshiftRight n), BitVec.toInt_sshiftRight, Int.shiftRight_eq_div_pow, Int.fdiv_eq_ediv_of_nonneg _ (by positivity)]
  norm_cast

/-- The bits that a rotation moves up and those that it brings round do not overlap. -/
theorem rotateLeft_eq_wordOf {n : Nat} (hn : n < 64) : a.rotateLeft n = wordOf (a.toNat * 2 ^ n + a.toNat / 2 ^ (64 - n)) := by
  have hp : 2 ^ 64 = 2 ^ n * 2 ^ (64 - n) := by rw [← Nat.pow_add, Nat.add_sub_cancel' hn.le]
  have hlow : a.toNat / 2 ^ (64 - n) < 2 ^ n := Nat.div_lt_of_lt_mul (by rw [Nat.mul_comm, ← hp]; exact a.isLt)
  have hsum : a.toNat * 2 ^ n % 2 ^ 64 + a.toNat / 2 ^ (64 - n) = (a.rotateLeft n).toNat := by
    rw [BitVec.toNat_rotateLeft, Nat.mod_eq_of_lt hn, Nat.shiftLeft_eq, Nat.shiftRight_eq_div_pow, hp, Nat.mul_comm a.toNat, Nat.mul_mod_mul_left,
      Nat.two_pow_add_eq_or_of_lt hlow]
  refine eq_wordOf ?_
  rw [← Nat.mod_eq_of_lt (a.rotateLeft n).isLt, ← hsum, Nat.mod_add_mod]

end

/-! ### Counts -/

/-- The zeros above the leading one of a number below 2^n. -/
theorem length_takeWhile_leading {x n : Nat} (h : x < 2 ^ n) :
    ((List.range n).reverse.takeWhile fun i => !x.testBit i).length = if x = 0 then n else n - 1 - x.log2 := by
  induction n with
  | zero => simp
  | succ n ih =>
    rw [List.range_succ, List.reverse_append, List.reverse_singleton, List.singleton_append, List.takeWhile_cons]
    by_cases hx : x < 2 ^ n
    · rw [Nat.testBit_lt_two_pow hx, Bool.not_false, if_pos rfl, List.length_cons, ih hx]
      split
      · rfl
      next h0 =>
        have := (Nat.log2_lt h0).mpr hx
        omega
    · have h0 : x ≠ 0 := by have := Nat.two_pow_pos n; omega
      have hlog : n ≤ x.log2 := (Nat.le_log2 h0).mpr (by omega)
      rw [Nat.testBit_of_two_pow_le_and_two_pow_add_one_gt (by omega) h, Bool.not_true, if_neg nofun, if_neg h0, List.length_nil]
      omega

theorem clz64_eq (a : Word) : clz64 a = ((List.range 64).reverse.takeWhile fun i => !a.getLsbD i).length := by
  have h0 : a = 0 ↔ a.toNat = 0 := BitVec.toNat_inj.symm
  simp only [clz64, h0]
  exact (length_takeWhile_leading a.isLt).symm

/-- The first index that satisfies `p` ends the run that does not. -/
theorem find?_range'_getD (p : Nat → Bool) (k n : Nat) :
    ((List.range' k n).find? p).getD (k + n) = k + ((List.range' k n).takeWhile fun i => !p i).length := by
  induction n generalizing k with
  | zero => rfl
  | succ n ih =>
    have hk := ih (k + 1)
    rw [Nat.succ_add_eq_add_succ] at hk
    rw [List.range'_succ, List.find?_cons, List.takeWhile_cons]
    cases hp : p k with
    | true => rfl
    | false =>
      rw [Bool.not_false, if_pos rfl, List.length_cons]
      exact hk.trans (by omega)

theorem ctz64_eq (a : Word) : ctz64 a = ((List.range 64).takeWhile fun i => !a.getLsbD i).length := by
  have h := find?_range'_getD (a.getLsbD ·) 0 64
  rwa [Nat.zero_add, Nat.zero_add, ← List.range_eq_range'] at h

theorem popc64_eq (a : Word) : popc64 a = (List.range 64).countP fun i => a.getLsbD i := List.countP_eq_length_filter.symm

/-! ### Fields -/

/-- The bits of a word with a field replaced. -/
theorem getLsbD_insField (a : Word) (v : Nat) {lo n i : Nat} (hi : i < 64) :
    (insField a lo n v).getLsbD i = if lo ≤ i ∧ i < lo + n then v.testBit (i - lo) else a.getLsbD i := by
  simp only [insField, BitVec.getLsbD_or, BitVec.getLsbD_and, BitVec.getLsbD_not, BitVec.getLsbD_shiftLeft, BitVec.getLsbD_ofNat,
    Nat.testBit_two_pow_sub_one, Nat.testBit_mod_two_pow, hi, decide_true, Bool.true_and]
  by_cases hlo : i < lo
  · rw [if_neg (by omega)]
    simp [hlo]
  · by_cases hn : i - lo < n
    · rw [if_pos (by omega)]
      simp [hlo, hn, show i - lo < 64 by omega]
    · rw [if_neg (by omega)]
      simp [hlo, hn]

/-- A field replaced leaves the fields above and below it (R99). -/
theorem insField_eq_wordOf (a : Word) (v : Nat) {lo n : Nat} :
    insField a lo n v = wordOf (a.toNat / 2 ^ (lo + n) * 2 ^ (lo + n) + v % 2 ^ n * 2 ^ lo + a.toNat % 2 ^ lo) := by
  have hsum : a.toNat / 2 ^ (lo + n) * 2 ^ (lo + n) + v % 2 ^ n * 2 ^ lo + a.toNat % 2 ^ lo =
      2 ^ lo * (2 ^ n * (a.toNat / 2 ^ (lo + n)) + v % 2 ^ n) + a.toNat % 2 ^ lo := by
    rw [Nat.pow_add]; ring
  refine BitVec.eq_of_getLsbD_eq fun i hi => ?_
  rw [getLsbD_insField a v hi, hsum, wordOf, BitVec.getLsbD_ofNat, Nat.testBit_two_pow_mul_add _ (Nat.mod_lt _ (Nat.two_pow_pos lo)),
    Nat.testBit_two_pow_mul_add _ (Nat.mod_lt _ (Nat.two_pow_pos n)), Nat.testBit_mod_two_pow, Nat.testBit_mod_two_pow, Nat.testBit_div_two_pow,
    BitVec.getLsbD, decide_eq_true hi, Bool.true_and]
  by_cases hlo : i < lo
  · rw [if_neg (by omega), if_pos hlo, decide_eq_true hlo, Bool.true_and]
  · rw [if_neg hlo]
    by_cases hn : i < lo + n
    · rw [if_pos (by omega), if_pos (by omega), decide_eq_true (by omega), Bool.true_and]
    · rw [if_neg (by omega), if_neg (by omega), show i - lo - n + (lo + n) = i by omega]

theorem sextNat_toNat (a : Word) {n : Nat} (hn : 1 ≤ n) : sextNat n a.toNat = (a.truncate n).toInt := by
  have hp : 2 ^ n = 2 * 2 ^ (n - 1) := by rw [← Nat.pow_succ', Nat.succ_eq_add_one, Nat.sub_add_cancel hn]
  rw [BitVec.toInt_eq_toNat_cond, BitVec.toNat_setWidth, sextNat]
  by_cases h : a.toNat % 2 ^ n < 2 ^ (n - 1)
  · rw [if_pos h, if_pos (by omega)]
  · rw [if_neg h, if_neg (by omega)]

theorem wordOfInt_sextNat (a : Word) {n : Nat} (hn : 1 ≤ n) : wordOfInt (sextNat n a.toNat) = (a.truncate n).signExtend 64 := by
  rw [sextNat_toNat a hn]; rfl

/-! ### Minimum and maximum -/

section
variable (a b : Word)

theorem ite_slt_min : (if a.slt b then a else b) = if a.toInt ≤ b.toInt then a else b := by
  rw [BitVec.slt_eq_decide]
  grind [BitVec.toInt_inj]

theorem ite_slt_max : (if a.slt b then b else a) = if a.toInt ≤ b.toInt then b else a := by
  rw [BitVec.slt_eq_decide]
  grind [BitVec.toInt_inj]

theorem ite_ult_min : (if a.ult b then a else b) = if a.toNat ≤ b.toNat then a else b := by
  rw [BitVec.ult_eq_decide]
  grind [BitVec.toNat_inj]

theorem ite_ult_max : (if a.ult b then b else a) = if a.toNat ≤ b.toNat then b else a := by
  rw [BitVec.ult_eq_decide]
  grind [BitVec.toNat_inj]

/-! ### The divider, the answer hash and the KV slot -/

theorem eq_intMin_iff : a = BitVec.intMin 64 ↔ a.toInt = -2 ^ 63 := by
  rw [← BitVec.toInt_inj]; rfl

theorem eq_allOnes_iff : b = BitVec.allOnes 64 ↔ b.toInt = -1 := by
  rw [← BitVec.toInt_inj]; rfl

theorem divS_eq : divS a b =
    (if b = 0 then BitVec.allOnes 64 else if a.toInt = -2 ^ 63 ∧ b.toInt = -1 then a else wordOfInt (a.toInt.tdiv b.toInt),
     if b = 0 ∨ (a.toInt = -2 ^ 63 ∧ b.toInt = -1) then isat else 0) := by
  unfold divS
  simp only [eq_intMin_iff, eq_allOnes_iff]
  by_cases h0 : b = 0
  · simp only [h0, if_true, true_or]
  · by_cases h1 : a.toInt = -2 ^ 63 ∧ b.toInt = -1
    · rw [if_neg h0, if_neg h0, if_pos h1, if_pos h1, if_pos (.inr h1)]
    · rw [if_neg h0, if_neg h0, if_neg h1, if_neg h1, if_neg (not_or.mpr ⟨h0, h1⟩), wordOfInt]

theorem divU_eq : divU a b = (if b = 0 then BitVec.allOnes 64 else wordOf (a.toNat / b.toNat), if b = 0 then isat else 0) := by
  rw [divU, udiv_eq_wordOf]
  split <;> rfl

theorem remS_eq : remS a b = (if b = 0 then a else wordOfInt (a.toInt.tmod b.toInt), if b = 0 then isat else 0) := by
  rw [remS]
  split <;> rfl

theorem remU_eq : remU a b = (if b = 0 then a else wordOf (a.toNat % b.toNat), if b = 0 then isat else 0) := by
  rw [remU, umod_eq_wordOf]
  split <;> rfl

theorem hashMix_eq : hashMix a b =
    let m := (a.toNat ^^^ b.toNat) * 0xA24BAED4963EE407 % 2 ^ 64
    wordOf (m * 2 ^ 29 % 2 ^ 64 + m / 2 ^ 35 + 0x9FB21C651E98DF25) := by
  have hm : ((a ^^^ b) * 0xA24BAED4963EE407).toNat = (a.toNat ^^^ b.toNat) * 0xA24BAED4963EE407 % 2 ^ 64 := by
    rw [BitVec.toNat_mul, BitVec.toNat_xor]; rfl
  have hc : (0x9FB21C651E98DF25 : Word).toNat = 0x9FB21C651E98DF25 := rfl
  dsimp only
  rw [hashMix, rotateLeft_eq_wordOf _ (by decide), hm]
  refine eq_wordOf ?_
  rw [BitVec.toNat_add, wordOf, BitVec.toNat_ofNat, hc]
  omega

/-- The slot word and the flag of a position of a KV map, whose generation saturates (R106). -/
theorem kvSlot_eq : kvSlot a b =
    let sink := b.toNat % 2 ^ 32
    let win := b.toNat / 2 ^ 32
    (if a.toNat < sink then wordOf (2 ^ 63 + a.toNat)
     else if win = 0 then BitVec.allOnes 64
     else wordOf (min ((a.toNat - sink) / win) (2 ^ 31 - 1) * 2 ^ 32 + (a.toNat - sink) % win),
     if sink ≤ a.toNat ∧ (win = 0 ∨ 2 ^ 31 - 1 < (a.toNat - sink) / win) then isat else 0) := by
  unfold kvSlot
  extract_lets sink win p gen slot
  by_cases hp : p < sink
  · rw [if_pos hp, if_pos hp, if_neg fun h => absurd h.1 (Nat.not_le.mpr hp), wordOf]
  rw [if_neg hp, if_neg hp]
  by_cases hw : win = 0
  · rw [if_pos hw, if_pos hw, if_pos ⟨Nat.not_lt.mp hp, .inl hw⟩]
  rw [if_neg hw, if_neg hw]
  by_cases hg : 2 ^ 31 - 1 < gen
  · rw [if_pos hg, if_pos ⟨Nat.not_lt.mp hp, .inr hg⟩, Nat.min_eq_right hg.le, wordOf]
  · rw [if_neg hg, if_neg fun h => h.2.elim hw hg, Nat.min_eq_left (Nat.not_lt.mp hg), wordOf]

end

end Sys2Proof.Machine
end

section
/-! ## Scalar arithmetic (O1) -/

namespace Sys2Proof.Machine

open Claims

section
variable {s : State} {d a b lat : Nat}

theorem aluF_issues (h : s.Issues fun x => [x.sReg d, x.sReg a, x.sReg b]) (f : Word → Word → Word × FlagBits) :
    aluF lat d a b f s = .next (s.done 0 fun t =>
      let po := (s.visible.rs a).poison || (s.visible.rs b).poison
      let r := f (s.visible.rs a).val (s.visible.rs b).val
      t.emitS d r.1 lat po (if po then 0 else r.2)) :=
  runSlot_done (o := aluOp lat d a b f) _ h rfl (.nil s 0) (.nil s 0) (by simp only [aluOp, State.rs_opened]) rfl

theorem alu1_issues (h : s.Issues fun x => [x.sReg d, x.sReg a]) (f : Word → Word) :
    alu1 lat d a f s = .next (s.done 0 fun t => t.emitS d (f (s.visible.rs a).val) lat (s.visible.rs a).poison) :=
  runSlot_done (o := aluOp1 lat d a f) _ h rfl (.nil s 0) (.nil s 0) (by simp only [aluOp1, State.rs_opened]) rfl

end

section
variable {i : Nat → Nat → Nat → Instr} {lat : Nat}

/-- An instruction with two scalar sources and flags, by the function that it computes. -/
theorem scalar2Flags_of_aluF {f : Word → Word → Word × FlagBits} {v : Word → Word → Word} {g : Word → Word → FlagBits}
    (hf : ∀ a b, f a b = (v a b, g a b)) (hi : ∀ d a b s, exec (i d a b) s = aluF lat d a b f s := by intros; rfl) : Scalar2Flags i lat v g := by
  intro s d a b h
  rw [hi, aluF_issues h, hf]

/-- Without flags. -/
theorem scalar2_of_alu {f v : Word → Word → Word} (hf : ∀ a b, f a b = v a b)
    (hi : ∀ d a b s, exec (i d a b) s = alu lat d a b f s := by intros; rfl) : Scalar2 i lat v := by
  intro s d a b h
  have ha : alu lat d a b f s = aluF lat d a b (fun u w => (f u w, 0)) s := rfl
  simp only [hi, ha, aluF_issues h, hf, ite_self]

end

/-- An instruction with one scalar source, by the function that it computes. -/
theorem scalar1_of_alu1 {i : Nat → Nat → Instr} {f v : Word → Word} (hf : ∀ a, f a = v a)
    (hi : ∀ d a s, exec (i d a) s = alu1 1 d a f s := by intros; rfl) : Scalar1 i v := by
  intro s d a h
  rw [hi, alu1_issues h, hf]

/-- `lih` reads the register that it writes (R104). -/
theorem exec_lih {s : State} {d imm : Nat} (h : s.Issues fun x => [x.sReg d]) (himm : imm < 2 ^ 16) :
    exec (.lih d imm) s = .next (s.done 0 fun t =>
      t.emitS d (wordOf (imm * 2 ^ 48 + (s.visible.rs d).val.toNat % 2 ^ 48)) 1 (s.visible.rs d).poison) := by
  have hd : s.Issues fun x => [x.sReg d, x.sReg d] := h.sub fun x r hr => by simpa using hr
  have hi : exec (.lih d imm) s = alu1 1 d d (fun u => insField u 48 16 imm) s := rfl
  have htop : (s.visible.rs d).val.toNat / 2 ^ (48 + 16) = 0 := Nat.div_eq_of_lt (s.visible.rs d).val.isLt
  rw [hi, alu1_issues hd, insField_eq_wordOf, htop, Nat.mod_eq_of_lt himm, Nat.zero_mul, Nat.zero_add]

theorem exec_lim {s : State} {d : Nat} {imm : Int} (h : s.Issues fun x => [x.sReg d]) :
    exec (.lim d imm) s = .next (s.done 0 fun t => t.emitS d (wordOfInt imm) 1) :=
  runSlot_done (o := { names := fun x => [x.sReg d], run := fun s => .ok (s.emitS d (wordOfInt imm) 1) }) _ h rfl (.nil s 0) (.nil s 0) rfl rfl

end Sys2Proof.Machine

open Sys2Proof Sys2Proof.Machine Sys2Proof.Claims

/-- Settles O1: each instruction is one of the forms `aluF`, `alu` and `alu1` of the function that it computes, and the lemma about that function on
words says it in numbers. -/
theorem scalarArithmetic : Obligations.ScalarArithmetic := by
  unfold Obligations.ScalarArithmetic
  refine ⟨⟨⟨⟨?add, ?sub, ?mul, ?mulh, ?mulhu, ?min, ?max, ?minu, ?maxu⟩, ⟨?and, ?or, ?xor, ?andn, ?shl, ?shr, ?sra, ?rotl⟩⟩,
    ⟨?clz, ?ctz, ?popc, ?bext, ?bins, ?sext, ?addi, ?andi, ?ori, ?xori, ?shli, ?shri, ?srai, ?lih, ?lim⟩⟩,
    ⟨⟨?div, ?divu, ?rem, ?remu⟩, ⟨?hmix, ?kvslot⟩⟩⟩
  case add => exact scalar2_of_alu add_eq_wordOf
  case sub => exact scalar2_of_alu sub_eq_wordOfInt
  case mul => exact scalar2_of_alu mul_eq_wordOf
  case mulh => exact scalar2_of_alu fun a b => congrArg wordOfInt (Int.fdiv_eq_ediv_of_nonneg _ (by decide)).symm
  case mulhu => exact scalar2_of_alu fun _ _ => rfl
  case min => exact scalar2_of_alu ite_slt_min
  case max => exact scalar2_of_alu ite_slt_max
  case minu => exact scalar2_of_alu ite_ult_min
  case maxu => exact scalar2_of_alu ite_ult_max
  case and => exact scalar2_of_alu and_eq_wordOf
  case or => exact scalar2_of_alu or_eq_wordOf
  case xor => exact scalar2_of_alu xor_eq_wordOf
  case andn => exact scalar2_of_alu and_not_eq_wordOf
  case shl => exact scalar2_of_alu fun a _ => shiftLeft_eq_wordOf a _
  case shr => exact scalar2_of_alu fun a _ => ushiftRight_eq_wordOf a _
  case sra => exact scalar2_of_alu fun a _ => sshiftRight_eq_wordOfInt a _
  case rotl => exact scalar2_of_alu fun a _ => rotateLeft_eq_wordOf a (Nat.mod_lt _ (by decide))
  case clz => exact scalar1_of_alu1 fun a => congrArg wordOf (clz64_eq a)
  case ctz => exact scalar1_of_alu1 fun a => congrArg wordOf (ctz64_eq a)
  case popc => exact scalar1_of_alu1 fun a => congrArg wordOf (popc64_eq a)
  case bext => exact fun pos len _ => scalar1_of_alu1 fun a => congrArg wordOf (getField_eq a pos len)
  case bins => exact fun _ _ _ => scalar2_of_alu fun a b => insField_eq_wordOf b a.toNat
  case sext => exact fun _ hw _ => scalar1_of_alu1 fun a => wordOfInt_sextNat a hw
  case addi => exact fun imm => scalar1_of_alu1 fun a => add_wordOfInt a imm
  case andi => exact fun _ => scalar1_of_alu1 fun _ => rfl
  case ori => exact fun _ => scalar1_of_alu1 fun _ => rfl
  case xori => exact fun _ => scalar1_of_alu1 fun _ => rfl
  case shli => exact fun n _ => scalar1_of_alu1 fun a => shiftLeft_eq_wordOf a n
  case shri => exact fun n _ => scalar1_of_alu1 fun a => ushiftRight_eq_wordOf a n
  case srai => exact fun n _ => scalar1_of_alu1 fun a => sshiftRight_eq_wordOfInt a n
  case lih => exact fun _ _ _ himm h => exec_lih h himm
  case lim => exact fun _ _ _ h => exec_lim h
  case div => exact scalar2Flags_of_aluF divS_eq
  case divu => exact scalar2Flags_of_aluF divU_eq
  case rem => exact scalar2Flags_of_aluF remS_eq
  case remu => exact scalar2Flags_of_aluF remU_eq
  case hmix => exact scalar2_of_alu hashMix_eq
  case kvslot => exact scalar2Flags_of_aluF kvSlot_eq
end

section
/-! ## Compares, predicate logic and the select (O2) -/

namespace Sys2Proof.Machine

open Claims

theorem condS_iff (cc : CC) (a b : Word) : condS cc a b = true ↔ truth cc a b := by
  cases cc <;> simp only [condS, truth, beq_iff_eq, bne_iff_ne, BitVec.slt_iff_toInt_lt, BitVec.sle_iff_toInt_le, BitVec.ult_iff_toNat_lt,
    BitVec.ule_iff_toNat_le, reduceCtorEq]

section
variable {s : State} {cc : CC} {d a : Nat} {nm : List Nat} {b : State → SVal} {v : SVal}
  (h : s.Issues fun x => x.pReg d :: x.sReg a :: nm.map x.sReg) (hb : b (s.opened 0) = v)
include h hb

/-- A compare of two clean sources writes the truth of its condition (R100). -/
theorem cmpOp_writes (ha : (s.visible.rs a).poison = false) (hv : v.poison = false) :
    ∃ t, (t = true ↔ truth cc (s.visible.rs a).val v.val) ∧ runSlot 0 (cmpOp cc d a nm b) s = .next (s.done 0 fun k => k.emitP d t) :=
  ⟨condS cc (s.visible.rs a).val v.val, condS_iff .., runSlot_done (o := cmpOp cc d a nm b) _ h rfl (.nil s 0) (.nil s 0)
    (by simp only [cmpOp, State.rs_opened, hb, ha, hv, Bool.or_self, Bool.false_eq_true, if_false]) rfl⟩

/-- A compare consumes poison (R96). -/
theorem cmpOp_poison (hp : (s.visible.rs a).poison = true ∨ v.poison = true) :
    runSlot 0 (cmpOp cc d a nm b) s = .next (s.faulted 0 0x10 none) :=
  runSlot_fault (o := cmpOp cc d a nm b) h rfl (.nil s 0) (.nil s 0)
    (by simp only [cmpOp, State.rs_opened, hb]; rw [if_pos (by rwa [Bool.or_eq_true])]; rfl)

end

/-- An instruction with two predicate sources, by the function that it computes. -/
theorem predicate2_of_predOp {i : Nat → Nat → Nat → Instr} {f v : Bool → Bool → Bool} (hf : ∀ a b, f a b = v a b)
    (hi : ∀ d a b s, exec (i d a b) s = runSlot 0 (predOp d a b f) s := by intros; rfl) : Predicate2 i v := by
  intro s d a b h
  rw [hi, ← hf]
  exact runSlot_done (o := predOp d a b f) _ h rfl (.nil s 0) (.nil s 0) (by simp only [predOp, State.me_opened]) rfl

/-- `sel` writes the value and the poison bit of the source that it selects (R102). -/
theorem exec_sel {s : State} {d c a b n : Nat} (h : s.Issues fun x => [x.sReg d, x.pReg c, x.sReg a, x.sReg b])
    (hn : (if s.visible.me.readP c then s.visible.rs a else s.visible.rs b) = s.visible.rs n) :
    exec (.sel d c a b) s = .next (s.done 0 fun t => t.emitS d (s.visible.rs n).val 1 (s.visible.rs n).poison) :=
  runSlot_done
    (o := { names := fun x => [x.sReg d, x.pReg c, x.sReg a, x.sReg b]
            run := fun s => let r := if s.me.readP c then s.rs a else s.rs b; .ok (s.emitS d r.val 1 r.poison) })
    _ h rfl (.nil s 0) (.nil s 0) (by simp only [State.me_opened, State.rs_opened, hn]) rfl

end Sys2Proof.Machine

open Sys2Proof Sys2Proof.Machine Sys2Proof.Claims

/-- Settles O2: the compares are `cmpOp` with a register or an immediate as second source, the predicate logic is `predOp`. -/
theorem comparesAndSelect : Obligations.ComparesAndSelect := by
  unfold Obligations.ComparesAndSelect
  refine ⟨fun s cc d a b imm _ _ => ⟨?cmp, ?cmpi⟩, ?pand, ?por, ?pxor, ?pandn, ?sel⟩
  case cmp => exact fun h => ⟨cmpOp_writes (nm := [b]) h (State.rs_opened ..), cmpOp_poison (nm := [b]) h (State.rs_opened ..)⟩
  case cmpi =>
    exact fun h => ⟨fun ha => cmpOp_writes (nm := []) (b := fun _ => ⟨wordOfInt imm, false⟩) h rfl ha rfl,
      fun ha => cmpOp_poison (nm := []) (b := fun _ => ⟨wordOfInt imm, false⟩) h rfl (.inl ha)⟩
  case pand => exact predicate2_of_predOp fun _ _ => rfl
  case por => exact predicate2_of_predOp fun _ _ => rfl
  case pxor => exact predicate2_of_predOp fun _ _ => rfl
  case pandn => exact predicate2_of_predOp fun _ _ => rfl
  case sel => exact fun s d c a b h => ⟨fun hc => exec_sel h (if_pos hc), fun hc => exec_sel h (if_neg (ne_true_of_eq_false hc))⟩
end

section
/-! ## Branches and the loop (O4) -/

namespace Sys2Proof.Machine

open Claims

/-! ### What the word of a bundle sees and leaves -/

@[simp] theorem State.f0_opened (s : State) (home : Nat) : (s.opened home).me.f0 = s.me.f0 := by
  simp only [State.me_opened, State.me_visible, Ctx.settle_f0]

@[simp] theorem State.f0_emit (s : State) (r : RegId) (v : RVal) (l : Nat) (p : Bool) (f : FlagBits) : (s.emit r v l p f).me.f0 = s.me.f0 := by
  unfold State.emit
  rw [State.me_updMe]

/-- A taken branch redirects from the address of its bundle (R86, R112). -/
theorem State.take_eq (s : State) (t : Nat) : s.take t = redirect s.me.f0 t s := rfl

@[simp] theorem verdicts_redirect (pc t : Nat) (s : State) : (redirect pc t s).iss.verdicts = s.iss.verdicts := by
  unfold redirect
  split <;> rfl

/-- The link of a call (R109). -/
theorem State.link_opened (s : State) (home : Nat) : (s.opened home).link = (s.opened home).emitS 62 (wordOf (s.me.f0 + 256)) 1 := by
  rw [State.link, State.f0_opened]

theorem relTarget_eq (pc : Nat) (off : Int) : relTarget pc off = (wordOfInt ((pc : Int) + 64 * off)).toNat := by
  rw [relTarget, Int.mul_comm]

/-! ### Indirect branches -/

section
variable {s : State} {names : Ctx → List RegId} {a : Nat} {k : State → Nat → State}

/-- The word of an indirect branch: what it names, the register of its target, and what it does with the target (R109, R110). -/
def indirectOp (names : Ctx → List RegId) (a : Nat) (k : State → Nat → State) : SlotOp where
  names := names
  run s := indirect s a (k s)

/-- An indirect branch consumes poison, then asks for alignment, then goes to its target (R96, R110). -/
theorem exec_indirect {i : Instr} {f : Nat → State → State} (h : s.Issues names) (hi : exec i s = runSlot 0 (indirectOp names a k) s)
    (hk : ∀ t, k (s.opened 0) t = f t (s.opened 0)) (hv : ∀ t, (f t (s.opened 0)).iss.verdicts = []) :
    let v := s.visible.rs a
    ((v.poison = true → exec i s = .next (s.faulted 0 0x10 none)) ∧
      (v.poison = false → v.val.toNat % 64 ≠ 0 → exec i s = .next (s.faulted 0 5 (some v.val)))) ∧
    (v.poison = false ∧ v.val.toNat % 64 = 0 → exec i s = .next (s.done 0 (f v.val.toNat))) := by
  intro v
  have hr : (indirectOp names a k).run (s.opened 0) =
      if v.poison then poisonFault else if v.val.toNat % 64 ≠ 0 then .error (5, some v.val) else .ok (k (s.opened 0) v.val.toNat) := by
    simp only [indirectOp, indirect, State.rs_opened, v]
  rw [hi]
  refine ⟨⟨fun hp => ?_, fun hp ha => ?_⟩, fun ⟨hp, ha⟩ => ?_⟩
  · exact runSlot_fault h rfl (.nil s 0) (.nil s 0) (by rw [hr, if_pos hp, poisonFault])
  · exact runSlot_fault h rfl (.nil s 0) (.nil s 0) (by rw [hr, if_neg (ne_true_of_eq_false hp), if_pos ha])
  · exact runSlot_done _ h rfl (.nil s 0) (.nil s 0) (by rw [hr, if_neg (ne_true_of_eq_false hp), if_neg (not_not.mpr ha), hk]) (hv _)

end

/-! ### Branches to an offset and `chk` -/

section
variable {s : State} {off : Int}

theorem exec_br (h : s.Issues fun _ => []) :
    exec (.br off) s = .next (s.done 0 (redirect s.me.f0 (wordOfInt ((s.me.f0 : Int) + 64 * off)).toNat)) :=
  runSlot_done (o := { run := fun s => .ok (s.take (relTarget s.me.f0 off)) }) _ h rfl (.nil s 0) (.nil s 0)
    (by dsimp only; rw [State.take_eq, State.f0_opened, relTarget_eq]) (verdicts_redirect ..)

theorem exec_call (h : s.Issues fun x => [x.sReg 62]) :
    exec (.call off) s = .next (s.done 0 fun t =>
      redirect s.me.f0 (wordOfInt ((s.me.f0 : Int) + 64 * off)).toNat (t.emitS 62 (wordOf (s.me.f0 + 256)) 1)) :=
  runSlot_done (o := { names := fun x => [x.sReg 62], run := fun s => .ok (s.link.take (relTarget s.me.f0 off)) }) _ h rfl (.nil s 0) (.nil s 0)
    (by dsimp only; rw [State.link_opened, State.take_eq, State.emitS, State.f0_emit, State.f0_opened, relTarget_eq]) (verdicts_redirect ..)

/-- `chk` branches on a poison bit (R111). -/
theorem exec_chk {av : Bool} {a : Nat} {po : Bool} (h : s.Issues fun x => [if av then x.vReg a else x.sReg a])
    (hp : (if av then (s.visible.me.readV a).poison else (s.visible.rs a).poison) = po) :
    exec (.chk av a off) s =
      .next (s.done 0 (if po then redirect s.me.f0 (wordOfInt ((s.me.f0 : Int) + 64 * off)).toNat else id)) := by
  have ho : (if av then ((s.opened 0).me.readV a).poison else ((s.opened 0).rs a).poison) = po := by rw [State.me_opened, State.rs_opened, hp]
  refine runSlot_done (o := { names := fun x => [if av then x.vReg a else x.sReg a], run := _ }) _ h rfl (.nil s 0) (.nil s 0) ?_ ?_
  · dsimp only
    rw [ho]
    cases po with
    | true => rw [if_pos rfl, if_pos rfl, State.take_eq, State.f0_opened, relTarget_eq]
    | false => rw [if_neg nofun, if_neg nofun, id]
  · cases po with
    | true => exact verdicts_redirect ..
    | false => rfl

end

/-! ### `loop` -/

/-- The results of `loop`: the new LC, EC and RRB, and p8 under the new RRB (R87). -/
def loopResults (rrb lc ec : Nat) (p8 : Bool) (t : State) : State :=
  (((t.emit (.ctl 3) (.w (wordOf lc)) 4).emit (.ctl 4) (.w (wordOf ec)) 4).emit (.ctl 5) (.w (wordOf rrb)) 4).emit (.p (8 + (40 - rrb) % 8)) (.b p8) 4

@[simp] theorem verdicts_loopResults (rrb lc ec : Nat) (p8 : Bool) (t : State) : (loopResults rrb lc ec p8 t).iss.verdicts = t.iss.verdicts := by
  simp only [loopResults, State.iss_emit]

/-- p8 under an RRB (R60). -/
theorem physP_8 {rrb : Nat} (h : rrb < 32) : physP rrb 8 = 8 + (40 - rrb) % 8 := by
  rw [physP, if_neg (by decide), Nat.mod_eq_of_lt h]

section
variable {s : State} {off : Int} {lc ec : Nat} {p8 taken : Bool}

theorem State.loop_opened (hr : loopStep (s.visible.me.ctl.get 0 3).toNat (s.visible.me.ctl.get 0 4).toNat = (lc, ec, p8, taken)) :
    let results := loopResults (((s.visible.me.ctl.get 0 5).toNat + 1) % 32) lc ec p8 (s.opened 0)
    (s.opened 0).loop off = if taken then redirect s.me.f0 (wordOfInt ((s.me.f0 : Int) + 64 * off)).toNat results else results := by
  have hrrb : (s.visible.me.rrb + 1) % 32 = ((s.visible.me.ctl.get 0 5).toNat + 1) % 32 := Nat.mod_add_mod ..
  have hp8 := physP_8 (Nat.mod_lt ((s.visible.me.ctl.get 0 5).toNat + 1) (show 0 < 32 by decide))
  unfold State.loop Ctx.ctlGet
  dsimp only
  rw [State.take_eq, State.f0_emit, State.f0_emit, State.f0_emit, State.f0_emit, State.f0_opened, relTarget_eq, State.me_opened, hr, hrrb, hp8]
  rfl

theorem exec_loop {f : State → State} (h : s.Issues fun _ => []) (hf : (s.opened 0).loop off = f (s.opened 0))
    (hv : (f (s.opened 0)).iss.verdicts = []) : exec (.loop off) s = .next (s.done 0 f) :=
  runSlot_done (o := { run := fun s => .ok (s.loop off) }) f h rfl (.nil s 0) (.nil s 0) (congrArg Except.ok hf) hv

end

/-! ### The fetch sequence and the cancellation point -/

/-- After a commit that nothing follows, the context is a step further; a commit-kind cancellation point stops it before its next bundle where a
request is pending outside a trap (R76, R86, R373). -/
theorem State.me_commit {u : State} {x : Ctx} (ha : u.iss.after = []) (hx : stepFollows x [] = false) :
    (u.commit x).me =
      if u.iss.canpt && x.canreq && !x.inTrap && !u.iss.stepping then (u.me.advance u.iss.target u.cycle).stopSoon
      else u.me.advance u.iss.target u.cycle := by
  have hall (w : State) : w.runAll x [] = w := by rw [State.runAll, hx, if_neg nofun, List.foldl_nil]
  unfold State.commit
  rw [ha, hall]
  split
  · rw [State.me_updMe, State.me_countBundle, State.me_updMe, State.me_closed]
  · rw [State.me_countBundle, State.me_updMe, State.me_closed]

section
variable (pc t : Nat) (u : State)

theorem redirect_eq : redirect pc t u = { u with iss := { u.iss with target := some t, canpt := decide (t ≤ pc) || u.iss.canpt } } := by
  unfold redirect
  by_cases h : t ≤ pc
  · rw [if_pos h, decide_eq_true h, Bool.true_or, State.branchTo, State.cancelPoint]
  · rw [if_neg h, decide_eq_false h, Bool.false_or, State.branchTo]

theorem redirect_me : (redirect pc t u).me = u.me := by rw [redirect_eq]; exact State.me_iss u _ rfl rfl

theorem redirect_cycle : (redirect pc t u).cycle = u.cycle := by rw [redirect_eq]

theorem redirect_after : (redirect pc t u).iss.after = u.iss.after := by rw [redirect_eq]

theorem redirect_stepping : (redirect pc t u).iss.stepping = u.iss.stepping := by rw [redirect_eq]

theorem redirect_target : (redirect pc t u).iss.target = some t := by rw [redirect_eq]

theorem redirect_canpt : (redirect pc t u).iss.canpt = (decide (t ≤ pc) || u.iss.canpt) := by rw [redirect_eq]

end

theorem State.cycle_opened (s : State) (home : Nat) : (s.opened home).cycle = s.cycle := by
  rw [State.opened, State.cycle_openBundle, State.cycle_visible]

theorem State.stepping_opened (s : State) (home : Nat) : (s.opened home).iss.stepping = s.iss.stepping := by
  unfold State.opened State.openBundle
  dsimp only
  rw [State.iss_visible]

theorem State.canreq_visible (s : State) : s.visible.me.canreq = s.me.canreq := by
  simp only [State.me_visible, Ctx.settle_canreq]

theorem Ctx.Frame.stopNext {x y : Ctx} (h : x.Frame y) : y.stopNext = x.stopNext := by obtain ⟨_, rfl⟩ := h; rfl

theorem Ctx.settle_stopNext (x : Ctx) : x.settle.stopNext = x.stopNext := (x.land_frame _).stopNext

theorem State.stopNext_visible (s : State) : s.visible.me.stopNext = s.me.stopNext := by
  simp only [State.me_visible, Ctx.settle_stopNext]

section
variable {s : State} (hs : s.NoStep) (home : Nat)
include hs

/-- A bundle without effect moves the fetch sequence on (R76, R86). -/
theorem State.me_done_id : (s.done home id).me = s.visible.me.advance none s.cycle := by
  have hc := State.me_commit (u := s.opened home) (x := s.visible.me) rfl (State.stepFollows_nil hs)
  have ht : (s.opened home).iss.target = none := rfl
  rw [State.done, id, hc, if_neg nofun, State.me_opened, ht, State.cycle_opened]

/-- The context after a taken branch (R86, R112). -/
theorem State.me_done_redirect (t : Nat) : (s.done home (redirect s.me.f0 t)).me =
    if decide (t ≤ s.me.f0) && s.me.canreq && !s.visible.me.inTrap && !s.iss.stepping then (s.visible.me.advance (some t) s.cycle).stopSoon
    else s.visible.me.advance (some t) s.cycle := by
  have ha : (redirect s.me.f0 t (s.opened home)).iss.after = [] := redirect_after ..
  have hp : (s.opened home).iss.canpt = false := rfl
  rw [State.done, State.me_commit ha (State.stepFollows_nil hs), redirect_me, redirect_cycle, redirect_stepping, redirect_target, redirect_canpt, hp,
    Bool.or_false, State.me_opened, State.stepping_opened, State.cycle_opened, State.canreq_visible]

end

/-- The bundles that a context issues from here on: one step further, and the fourth is `t` (R86). -/
def Ctx.MovedOn (x y : Ctx) (t : Nat) : Prop := y.step = x.step + 1 ∧ y.f0 = x.f1 ∧ y.f1 = x.f2 ∧ y.f2 = x.f3 ∧ y.f3 = t

theorem Ctx.movedOn_visible {s : State} {y : Ctx} {t : Nat} : s.visible.me.MovedOn y t ↔ s.me.MovedOn y t := by
  rw [State.me_visible]
  unfold Ctx.MovedOn
  simp only [Ctx.settle_step, Ctx.settle_f1, Ctx.settle_f2, Ctx.settle_f3]

theorem Ctx.movedOn_advance (x : Ctx) (target : Option Nat) (cycle : Nat) :
    x.MovedOn (x.advance target cycle) (target.getD ((x.f3 + 64) % 2 ^ 64)) := by
  cases target <;> exact ⟨rfl, rfl, rfl, rfl, rfl⟩

theorem Ctx.movedOn_stopSoon {x y : Ctx} {t : Nat} : x.MovedOn y.stopSoon t ↔ x.MovedOn y t := Iff.rfl

theorem Ctx.movedOn_done_id {s : State} (hs : s.NoStep) (home : Nat) : s.me.MovedOn (s.done home id).me ((s.me.f3 + 64) % 2 ^ 64) := by
  have hm := s.visible.me.movedOn_advance none s.cycle
  have hf : s.visible.me.f3 = s.me.f3 := by simp only [State.me_visible, Ctx.settle_f3]
  rw [Option.getD_none, hf, Ctx.movedOn_visible] at hm
  rwa [State.me_done_id hs]

theorem Ctx.movedOn_done_redirect {s : State} (hs : s.NoStep) (home t : Nat) : s.me.MovedOn (s.done home (redirect s.me.f0 t)).me t := by
  have hm := s.visible.me.movedOn_advance (some t) s.cycle
  rw [Option.getD_some, Ctx.movedOn_visible] at hm
  rw [State.me_done_redirect hs]
  split
  · exact Ctx.movedOn_stopSoon.mpr hm
  · exact hm

theorem Ctx.stopNext_advance (x : Ctx) (target : Option Nat) (cycle : Nat) : (x.advance target cycle).stopNext = x.stopNext := rfl

theorem Ctx.stopNext_stopSoon (x : Ctx) : x.stopSoon.stopNext = true := rfl

theorem stopNext_done_redirect {s : State} (hs : s.NoStep) (home t : Nat) (h0 : s.me.stopNext = false) :
    (s.done home (redirect s.me.f0 t)).me.stopNext = true ↔
      t ≤ s.me.f0 ∧ s.me.canreq = true ∧ s.me.mode = false ∧ s.me.hdl = false ∧ s.iss.stepping = false := by
  have hadv : (s.visible.me.advance (some t) s.cycle).stopNext = false := by rw [Ctx.stopNext_advance, State.stopNext_visible, h0]
  have hcond : (decide (t ≤ s.me.f0) && s.me.canreq && !s.visible.me.inTrap && !s.iss.stepping) = true ↔
      t ≤ s.me.f0 ∧ s.me.canreq = true ∧ s.me.mode = false ∧ s.me.hdl = false ∧ s.iss.stepping = false := by
    rw [Ctx.inTrap, State.mode_visible, State.hdl_visible]
    simp only [Bool.and_eq_true, decide_eq_true_eq, Bool.not_eq_true', Bool.or_eq_false_iff, and_assoc]
  rw [State.me_done_redirect hs, ← hcond]
  split
  next h => exact iff_of_true (Ctx.stopNext_stopSoon _) h
  next h => exact iff_of_false (by rw [hadv]; exact nofun) h

end Sys2Proof.Machine

open Sys2Proof Sys2Proof.Machine Sys2Proof.Claims

/-- Settles O4: each branch by what its slot does to the bundle, `loop` by the three cases of its counts, and the fetch sequence by the commit. -/
theorem branchesAndLoop : Obligations.BranchesAndLoop := by
  unfold Obligations.BranchesAndLoop
  refine ⟨fun s a off => ?_, fun s off h => ?_, ⟨fun s h => ?_, fun s home hs _ => ?_⟩, fun s t hs h0 => stopNext_done_redirect hs 0 t h0⟩
  · intro pc rel bad good linked
    have hjump (t : Nat) : (s.opened 0).take t = redirect pc t (s.opened 0) := by rw [State.take_eq, State.f0_opened]
    have hlinked (t : Nat) : (s.opened 0).link.take t = redirect pc t (linked (s.opened 0)) := by
      rw [State.take_eq, State.link_opened, State.emitS, State.f0_emit, State.f0_opened, ← State.emitS]
    refine ⟨exec_br, fun h => ?_, exec_call, fun h => ?_, fun h => ?_, fun h => exec_chk (av := false) h rfl, fun h => exec_chk (av := true) h rfl⟩
    · exact exec_indirect (k := State.take) (f := redirect pc) h rfl hjump fun _ => verdicts_redirect ..
    · exact exec_indirect (k := fun t => t.link.take) (f := fun t u => redirect pc t (linked u)) h rfl hlinked fun _ => verdicts_redirect ..
    · exact exec_indirect (k := State.take) (f := redirect pc) h rfl hjump fun _ => verdicts_redirect ..
  · intro x lc ec rrb rel closes
    refine ⟨fun hl => exec_loop h ?_ ?_, fun hl he => exec_loop h ?_ ?_, fun hl he => exec_loop h ?_ ?_⟩
    · exact (State.loop_opened (if_pos hl)).trans (if_pos rfl)
    · exact (verdicts_redirect ..).trans (verdicts_loopResults ..)
    · exact (State.loop_opened ((if_neg (Nat.not_lt.mpr hl)).trans (if_pos he))).trans (if_pos rfl)
    · exact (verdicts_redirect ..).trans (verdicts_loopResults ..)
    · exact (State.loop_opened ((if_neg (Nat.not_lt.mpr hl)).trans (if_neg (Nat.not_lt.mpr he.le)))).trans (if_neg nofun)
    · exact verdicts_loopResults ..
  · rw [State.done_id]; exact exec_nop_alone h
  · exact ⟨Ctx.movedOn_done_id hs home, Ctx.movedOn_done_redirect hs home⟩
end
